-- ==== Sys2Proof/Word.lean ====
section
/-! DEFINITION. The word types of the CRS-Y6 model and nothing else. -/

namespace Sys2Proof

/-- A byte. -/
abbrev Byte := BitVec 8

/-- A 32-bit register word (00_scope, 13 R383). -/
abbrev Word := BitVec 32

/-- The 32 bytes of one host burst (11 R323). -/
abbrev Burst := BitVec 256

/-- A packed tile address (R9), sixteen bits. -/
abbrev TileAddr := BitVec 16

end Sys2Proof
end

