-- ==== Sys2Proof/Syntax.lean ====
section
/-! DEFINITION. The commands of the CRS-Y6 block: one constructor of `Instr` per row of spec/opcode_table.json, in the
table's order, with the operands each row needs. The table gives the rows no bits; the operands follow the rules
of the spec's chapters. A timed event of the part (an end of a sequence, a window boundary) is a command too. -/

namespace Sys2Proof

/-- What a protected read found: nothing, a corrected error, or an uncorrectable one (R74, R310, R455). The physical
upset is outside the part, so a command that reads protected storage carries what its check finds.
(DESIGN CHOICE: log entry 61.) -/
inductive Ecc where
  | ok | corrected | uncorrectable
  deriving DecidableEq, Repr

/-- One write command of a host port: 32 bytes (BL16) or 64 bytes (BL32) from `addr`, bit i of `mask` set where byte i
is written unmasked (R323, R332, R335). (DESIGN CHOICE: log entry 72.) -/
structure HostWrite where
  /-- false HP0, true HP1 -/
  port : Bool
  addr : BitVec 32
  data : BitVec 512
  mask : BitVec 64
  bl32 : Bool
  deriving DecidableEq, Repr

/-- An operand, and what the checks of the words found that the command reads by it (R74, R253). -/
structure Checked (α : Type) (ε : Type := Ecc) where
  val : α
  check : ε
  deriving DecidableEq, Repr

/-- The fields every tile instruction has beside its OPERANDS (R86), and what the checks find: of the instruction's fetch
and of the context slot it issues from, and of the word it takes from QIN as a source (R74, R103); RCV and ZUNPACK, which are
about that word, carry its finding as an operand of their own. -/
structure Hdr where
  pred : BitVec 2
  csel : BitVec 3
  dec : Bool
  qinEn : Bool
  qin : BitVec 4
  out : BitVec 3
  fetch : Ecc
  qecc : Ecc
  deriving DecidableEq, Repr

/-- A header with what the check of the word of QIN found, of an instruction that carries it as an operand. -/
def Hdr.found (h : Hdr) (ecc : Ecc) : Hdr := { h with qecc := ecc }

/-- The OPERANDS of CVT other than FUNC (R212). -/
structure CvtOps where
  vs : BitVec 4
  vd : BitVec 4
  sreg : BitVec 6
  pos : BitVec 6
  side : Bool
  row : Bool
  k : BitVec 3
  fmt : BitVec 3
  sf : Bool
  deriving DecidableEq, Repr

/-- The OPERANDS of COP (R233). -/
structure CopOps where
  op : BitVec 3
  mode : BitVec 3
  cnt : BitVec 6
  part : BitVec 2
  ack : Bool
  rc : BitVec 3
  deriving DecidableEq, Repr

/-- What the check of a read of the context store finds for a slot (R253): its CRC-32C or its entry's CHECKSUM does not match in
HBM, or its line in the near-cache or in the directory cache holds an error that SECDED corrects or does not. -/
inductive CtxErr where
  | mismatch | nearCorrected | nearLost | dirCorrected | dirLost
  deriving DecidableEq, Repr

/-- Such a finding with its slot. (DESIGN CHOICE: log entry 61.) -/
structure CtxFinding where
  slot : BitVec 15
  err : CtxErr
  deriving DecidableEq, Repr

/-- Lane width of a vector ALU instruction (R69). -/
inductive LaneW where
  | w8 | w16 | w32
  deriving DecidableEq, Repr

/-- A stream descriptor (R297) with the RATE its client declares when it arms (R301). -/
structure Desc where
  src : BitVec 64
  dst : BitVec 64
  length : BitVec 32
  pieces : BitVec 16
  dflags : BitVec 16
  srcStride : BitVec 32
  dstStride : BitVec 32
  rate : BitVec 16
  deriving DecidableEq, Repr

/-- A command ready for a channel (R300): its transfer stream, the first byte it moves of the stream's active descriptor and
how many, whether it writes into the HBM, for how many engine cycles it has been ready, and the bytes its client drained from
(read) or put into (write) the glide buffer since the last command. (DESIGN CHOICE: log entry 61.) -/
structure Ready where
  ts : BitVec 6
  off : BitVec 40
  bytes : BitVec 12
  toHbm : Bool
  age : BitVec 16
  moved : BitVec 32
  deriving DecidableEq, Repr

/-- The commands. -/
inductive Instr where
  | resetNAssert
  | resetNRelease (prof : BitVec 2) (failing : List TileAddr)
  | softReset (viaObject : Bool) (key : Word)
  | softResetStart (prof : BitVec 2)
  | supervisoryTimerExpiry
  | faultResetTimer
  | deviceFaultDrainEnd
  | refclkLost
  | pllLockLost (pll : BitVec 4)
  | oscillatorTrim (err : BitVec 16)
  | sensorReading (temps : List (BitVec 16)) (volts : List (BitVec 16))
  | thermalEvaluation
  | liftRequest (clock : BitVec 8)
  | reqLow (d : BitVec 8) (v : Bool)
  | powerEntryComplete (d : BitVec 8)
  | powerExitComplete (d : BitVec 8) (lost : BitVec 32)
  | inrushWave
  | signatureIdleTimeout
  | blockReloadComplete (ue : Bool)
  | portReset (port : Bool) (level : Bool)
  | portInitReady (port : Bool)
  | hostRead (port : Bool) (addr : BitVec 32) (bl32 : Bool) (ue : Bool)
  | modeRegisterWrite (port : Bool) (mr : BitVec 7) (v : Byte)
  | modeRegisterRead (port : Bool) (mr : BitVec 7)
  | trainingCommand (port : Bool) (kind : BitVec 3)
  | zqCalibration (port : Bool)
  | refresh (port : Bool) (kind : BitVec 2)
  | powerDownEntry (port : Bool)
  | powerDownExit (port : Bool)
  | selfRefreshEntry (port : Bool) (withPd : Bool)
  | selfRefreshExit (port : Bool)
  | fspChange (port : Bool) (fsp : BitVec 2)
  | ingressWrite (w : HostWrite)
  | doorbell (w : HostWrite)
  | imageWindowWrite (w : HostWrite)
  | journalWindowWrite (w : HostWrite)
  | discardedWrite (w : HostWrite)
  | registerWrite (w : HostWrite)
  | snapTake (block : BitVec 5)
  | snapComplete (block : BitVec 5)
  | indAddrWrite (block : BitVec 5) (alias4 : BitVec 2) (v : Word)
  | indDataWrite (block : BitVec 5) (v : Word)
  | indDataRead (block : BitVec 5)
  | indAccessComplete (block : Checked (BitVec 5))
  | mbxSubmit (v : Word)
  | udpDatagram (ip : BitVec 32) (port : BitVec 16) (bytes : List Byte)
  | uhledRead
  | uhledWrite
  | uhledInfo
  | segmentTimeout
  | verify
  | verificationEnd
  | commit
  | placingEnd
  | loadingEnd (ue : Bool)
  | release
  | releaseEnd
  | discard
  | flushWait
  | slotStart (ue : Bool)
  | maxWaitExpiry (stream : BitVec 10) (slot : Bool)
  | rowGroupSend (ecc : Ecc)
  | nop (t : TileAddr) (h : Hdr)
  | wait (t : TileAddr) (h : Hdr)
  | jmp (t : TileAddr) (h : Hdr) (target : BitVec 13)
  | tokr (t : TileAddr) (h : Hdr) (base : BitVec 13) (mul : BitVec 8)
  | tokw (t : TileAddr) (h : Hdr) (kind : BitVec 3) (arg : BitVec 3)
  | ctx (t : TileAddr) (h : Hdr) (variant : Bool)
  | endOp (t : TileAddr) (h : Hdr)
  | ldw (t : TileAddr) (h : Hdr) (bank : Bool) (word : BitVec 13) (ecc : Ecc)
  | mma (t : TileAddr) (h : Hdr) (vreg : BitVec 4) (off : BitVec 2) (bank : Bool) (k : BitVec 3) (fmt : BitVec 3) (diag zero : Bool)
  | acc (t : TileAddr) (h : Hdr) (k : BitVec 3) (vd : BitVec 4) (bias : BitVec 4)
  | vectorAdd (t : TileAddr) (h : Hdr) (lw : LaneW) (vd va vb : BitVec 4)
  | vectorSub (t : TileAddr) (h : Hdr) (lw : LaneW) (vd va vb : BitVec 4)
  | vectorMul (t : TileAddr) (h : Hdr) (lw : LaneW) (vd va vb : BitVec 4)
  | vectorMax (t : TileAddr) (h : Hdr) (lw : LaneW) (vd va vb : BitVec 4)
  | vectorMin (t : TileAddr) (h : Hdr) (lw : LaneW) (vd va vb : BitVec 4)
  | relu (t : TileAddr) (h : Hdr) (lw : LaneW) (vd va : BitVec 4)
  | shuf (t : TileAddr) (h : Hdr) (lw : LaneW) (vd va vb : BitVec 4)
  | vectorCmp (t : TileAddr) (h : Hdr) (lw : LaneW) (vd va vb : BitVec 4)
  | vectorSel (t : TileAddr) (h : Hdr) (lw : LaneW) (vd va vb vc : BitVec 4)
  | zpack (t : TileAddr) (h : Hdr) (word : BitVec 13) (n : Checked (BitVec 12))
  | zunpack (t : TileAddr) (h : Hdr) (word : BitVec 13) (n : BitVec 12) (ecc : Ecc)
  | scalarAdd (t : TileAddr) (h : Hdr) (sd sa sb : BitVec 6)
  | scalarSub (t : TileAddr) (h : Hdr) (sd sa sb : BitVec 6)
  | scalarMul (t : TileAddr) (h : Hdr) (sd sa sb : BitVec 6)
  | scalarAnd (t : TileAddr) (h : Hdr) (sd sa sb : BitVec 6)
  | scalarOr (t : TileAddr) (h : Hdr) (sd sa sb : BitVec 6)
  | scalarXor (t : TileAddr) (h : Hdr) (sd sa sb : BitVec 6)
  | scalarShl (t : TileAddr) (h : Hdr) (sd sa sb : BitVec 6)
  | scalarShr (t : TileAddr) (h : Hdr) (sd sa sb : BitVec 6)
  | scalarCmp (t : TileAddr) (h : Hdr) (sd sa sb : BitVec 6)
  | scalarSel (t : TileAddr) (h : Hdr) (sd sa sb sc : BitVec 6)
  | scalarMin (t : TileAddr) (h : Hdr) (sd sa sb : BitVec 6)
  | scalarMax (t : TileAddr) (h : Hdr) (sd sa sb : BitVec 6)
  | ldv (t : TileAddr) (h : Hdr) (vd : BitVec 4) (word : BitVec 13) (ecc : Ecc)
  | stv (t : TileAddr) (h : Hdr) (vs : BitVec 4) (word : BitVec 13)
  | lds (t : TileAddr) (h : Hdr) (sd : BitVec 6) (word : BitVec 13) (hi : Bool) (ecc : Ecc)
  | sts (t : TileAddr) (h : Hdr) (ss : BitVec 6) (word : BitVec 13) (hi : Bool)
  | rcv (t : TileAddr) (h : Hdr) (reg : BitVec 6) (ecc : Ecc)
  | snd (t : TileAddr) (h : Hdr) (reg : BitVec 6) (kind : BitVec 3) (packed : Bool)
  | cop (t : TileAddr) (h : Hdr) (c : CopOps)
  | scan (t : TileAddr) (h : Hdr) (c : CvtOps)
  | seal (t : TileAddr) (h : Hdr) (c : CvtOps)
  | encode (t : TileAddr) (h : Hdr) (c : CvtOps)
  | decode (t : TileAddr) (h : Hdr) (c : CvtOps)
  | xsl (t : TileAddr) (h : Hdr) (c : CvtOps)
  | wsl (t : TileAddr) (h : Hdr) (c : CvtOps)
  | carry (t : TileAddr) (h : Hdr) (c : CvtOps)
  | ruleFire (t : Checked TileAddr)
  | takeCtxEnd (t : TileAddr) (q : BitVec 4)
  | linkWordArrival (t : TileAddr) (net : BitVec 2) (wire : BitVec 4) (syn : Checked Byte)
  | creditReturn (t : TileAddr) (lane : BitVec 3)
  | frameAbort (t : TileAddr)
  | queueFlush (t : TileAddr) (q : BitVec 4)
  | flushAll
  | start
  | drainComplete
  | scanIn
  | scanInComplete
  | resume
  | tileScrubAccess (t : TileAddr) (ecc : Ecc) (held : Bool)
  | tileNoResponseTimeout (t : TileAddr)
  | tileFault (t : TileAddr) (cause : BitVec 3)
  | remapScanOutDone (ue : Bool)
  | remapScanInDone (ue : Bool)
  | stallFault (stage : BitVec 9)
  | unitNoProgress (unit : BitVec 5)
  | append (stream : BitVec 10) (found : List CtxFinding)
  | gather (stream : BitVec 10) (found : List CtxFinding)
  | attend (stream : BitVec 10) (found : List CtxFinding)
  | stake (stream : Checked (BitVec 10) (List CtxFinding))
  | unstake (stream : Checked (BitVec 10) (List CtxFinding))
  | evict (stream : Checked (BitVec 10) (List CtxFinding))
  | streamClear (stream : BitVec 10)
  | clearAll
  | storeClearComplete
  | boxDecode (words ecc : Ecc)
  | suppression (ecc : Ecc)
  | cropAndResize (words ecc : Ecc)
  | trackAssociation (words : Ecc) (bad : List (BitVec 9)) (ecc : Ecc)
  | recordWrite (ue : Bool)
  | armDescriptor (ts : BitVec 6) (d : Desc)
  | descriptorComplete (ts : BitVec 6)
  | hbmCommand (ch : BitVec 6) (ready : List Ready) (ecc : Ecc)
  | jraBaseWrite (alias4 : BitVec 2) (v : Word)
  | hbmScrubRow (word : BitVec 6) (ecc : Ecc)
  | hbmRefresh (hot : BitVec 4)
  | phyRecalibration (ch : BitVec 6)
  | forcedRecalibration (ch : BitVec 6)
  | windowBoundary
  | numEvaluation
  | syncInEdge
  | leaseRenew (epoch : Word)
  | leaseLapse
  | pairEnable (role : BitVec 2)
  | journalAck (v : Word)
  | journalApply (v : Word)
  | journalEntryApply
  | resync
  | resyncWalkStep
  | save
  | saveDeferredStart
  | saveComplete (failed : Bool)
  | defaults
  | erase
  | eraseComplete (failed : Bool)
  | imageDigestWrite (p : BitVec 2) (digest : BitVec 512)
  | fwUpdate (offset : BitVec 32) (last : Bool) (bytes : List Byte)
  | fwUpdateVerifyEnd
  | activate
  | eraseInactive
  | fwMinVersionWrite (v : Word)
  | publicKeyWrite (k : BitVec 3) (key : BitVec 512)
  | revoke (k : BitVec 3)
  | sign
  | signingComplete
  | captureArm
  | captureDisarm
  | captureTrigger
  | captureScanEnd
  | captureRelease
  | flashLogWrite
  | i3cSetdasa (addr : BitVec 7)
  | i3cPrivateRead
  | i3cPrivateWrite (bytes : List Byte)
  | extest
  | idcode
  | samplePreload (pins : BitVec 341)
  | clamp
  | highz
  | bypass (code : Byte)
  | testLogicReset
  | defaultsComplete
  | linkUp
  | linkDown
  | linkLocalAddressTaken (ip : BitVec 32)
  | arpRequest (ip : BitVec 32)
  | icmpEchoRequest (ip : BitVec 32) (bytes : List Byte)
  | lossOfPower
  | powerOn
  | tckEdge (rising tms tdi : Bool) (pins : BitVec 341)
  deriving DecidableEq, Repr

end Sys2Proof
end

