-- ==== Sys2Proof/Decode.lean ====
section
/-! DEFINITION. The commands that a word spells by the table's bits. No row of spec/opcode_table.json gives bits: a command is
no word of the hardware, so no word spells one. -/

namespace Sys2Proof

/-- The command that `nbits` bits with value `w` spell: none, for every word. (DESIGN CHOICE: log entry 4.) -/
def decodeTableWord (_nbits _w : Nat) : Option Instr := none

end Sys2Proof
end

