-- ==== Sys2Proof/Config.lean ====
section
/-! DEFINITION. What an implementation or a single part fixes, and the free values. Every constant here is opaque: no
proof can see its value, so a theorem about the model holds for every value it could have. -/

namespace Sys2Proof.Config

/-- SERIAL, per part (R362). (DESIGN CHOICE: log entry 7.) -/
opaque serial : BitVec 128
/-- MAC_ADDRESS, per part (R362). (DESIGN CHOICE: log entry 7.) -/
opaque mac : BitVec 48
/-- Silicon revision, per part (R400). (DESIGN CHOICE: log entry 7.) -/
opaque siliconRev : BitVec 8
/-- Package revision, per part (R400). (DESIGN CHOICE: log entry 7.) -/
opaque packageRev : BitVec 8
/-- The manufacturer code assigned to Brodden (R327). (DESIGN CHOICE: log entry 7.) -/
opaque mfr : BitVec 8
/-- The JEP106 code assigned to Brodden (R516). (DESIGN CHOICE: log entry 7.) -/
opaque jep106 : BitVec 11
/-- The part's fused VID code (R507). (DESIGN CHOICE: log entry 7.) -/
opaque fusedVid : BitVec 8
/-- DEVICE_PUBLIC_KEY, per part (R445). (DESIGN CHOICE: log entry 7.) -/
opaque devicePk : BitVec 512
/-- The identity certificate, per part (R445). (DESIGN CHOICE: log entry 7.) -/
opaque identityCert : List Byte
/-- Keys of slots 0 and 1 of the factory record (R442). (DESIGN CHOICE: log entry 7.) -/
opaque factoryKey : Bool → BitVec 512
/-- The firmware banks as the part is delivered: false A, true B (R438). (DESIGN CHOICE: log entry 7.) -/
opaque shippedBank : Bool → List Byte
/-- SHAKE256 with 512 bits of output (R440). (DESIGN CHOICE: log entry 5.) -/
opaque shake256 : List Byte → BitVec 512
/-- Does the SLH-DSA-SHAKE-256s signature of a message verify under a public key (R440)? (DESIGN CHOICE: log entry 5.) -/
opaque slhVerify : BitVec 512 → List Byte → List Byte → Bool
/-- The signature the device identity key gives a message, 29,792 bytes (R445). (DESIGN CHOICE: log entry 5.) -/
opaque deviceSign : List Byte → List Byte
/-- The trim code after a measured error: the spec gives the goal of a trim and no figure (R406).
(DESIGN CHOICE: log entry 7.) -/
opaque trimCode : BitVec 16 → BitVec 16 → BitVec 16
/-- A mode register's JESD209-5C reset value; 4 and 8 also carry what R327 names without a code.
(DESIGN CHOICE: log entry 65.) -/
opaque modeReset : BitVec 7 → Byte
/-- The data rates a port may run at, in MT/s (R324). -/
def portRates : List (BitVec 16) := [3200#16, 4267#16, 5500#16, 6400#16, 7500#16, 8533#16]
/-- Which of them a port runs at: the host's clock is outside the part. (DESIGN CHOICE: log entry 7.) -/
opaque portRateIx : Bool → Fin 6
/-- The data rate of a port in MT/s as measured from its CK (R324, R350). -/
def portRate (p : Bool) : BitVec 16 := portRates.getD (portRateIx p).val 0#16
/-- Where an edge wire of a block, or a wire of a spare, leads: the tile beyond it and the input wire it arrives on, by
packed tile and direction (0 N, 1 E, 2 S, 3 W); none where no tile lies there. The spec gives the grid of the 64 active
positions of a block (R8) and leaves the other wires to the part (R84, R122, R129). (DESIGN CHOICE: log entry 8.) -/
opaque edgeTile : TileAddr → BitVec 2 → Option (TileAddr × BitVec 2)
/-- The depth of the queue in which a circuit into an engine-domain unit (by block number) terminates: R83 names no
figure for a unit. (DESIGN CHOICE: log entry 75.) -/
opaque unitDepth : BitVec 5 → BitVec 7
/-- The engine-domain unit, by block number, that an edge wire leads to, if any (R18, R84). (DESIGN CHOICE: log entry 8.) -/
opaque edgeUnit : TileAddr → BitVec 2 → Option (BitVec 5)
/-- The route entry the placement engine writes: map digest, tile, variant, network, wire (R119, R122). The image
carries no circuits, so the routes are the engine's own. (DESIGN CHOICE: log entry 8.) -/
opaque route : BitVec 512 → TileAddr → Bool → BitVec 2 → BitVec 3 → BitVec 16
/-- The depth D_img that the image gives a queue, by image digest, stage, logical tile and queue; the image layout gives it no
place (R127). (DESIGN CHOICE: log entry 8.) -/
opaque imageDepth : BitVec 512 → BitVec 9 → BitVec 10 → BitVec 4 → BitVec 7
/-- The queues that are read together with a queue of a tile in one instruction or one rule, itself among them, each with the
latency of its path from their nearest common fork: map digest, tile, queue (R127). (DESIGN CHOICE: log entry 8.) -/
opaque joinPaths : BitVec 512 → TileAddr → BitVec 4 → List (BitVec 4 × BitVec 16)
/-- The vector queue space of a tile: its first place of 32 bytes and its places, by map digest (R102). The image layout gives
it no place. (DESIGN CHOICE: log entry 8.) -/
opaque queueSpace : BitVec 512 → TileAddr → BitVec 11 × BitVec 11
/-- Which of the ends that R129 gives a spare a wire of it leads to, and the input wire there: R129 names the ends and not the
ports. (DESIGN CHOICE: log entry 8.) -/
opaque sparePort : TileAddr → BitVec 2 → BitVec 2 × BitVec 2
/-- The first wires, on the vector network, of the circuits on which admission sends to stage 0, by map digest: packed tile
and wire (R119). (DESIGN CHOICE: log entry 8.) -/
opaque inputWires : BitVec 512 → List (TileAddr × BitVec 3)
/-- The first wire of the circuit on which an engine-domain unit (by block number) sends to the fabric, by map digest and
network: packed tile and wire (R119, R235, R277). (DESIGN CHOICE: log entry 8.) -/
opaque unitWire : BitVec 512 → BitVec 5 → BitVec 2 → TileAddr × BitVec 3
/-- Does the engine find a route for every circuit, given the image digest and the positions taken (R122 step 4)?
(DESIGN CHOICE: log entry 8.) -/
opaque routable : BitVec 512 → List (List TileAddr) → Bool
/-- Does a cycle of circuits inside a stage lack its declared bound (R124)? The layout gives no place for the bound.
(DESIGN CHOICE: log entry 18.) -/
opaque loopBad : BitVec 512 → Option (BitVec 9)
/-- Operand fields to which the spec gives no place in OPERANDS (R86, R87), as far as they decide whether a slot's own next
instruction can issue: ACC's row, ZUNPACK's chunks, the SRAM word of a load, a store or a row, and whether SND takes the
packed row. (DESIGN CHOICE: log entry 4.) -/
opaque accRow : BitVec 44 → BitVec 3
opaque rowChunks : BitVec 44 → BitVec 12
opaque sramWord : BitVec 44 → BitVec 13
opaque sndPacked : BitVec 44 → Bool
/-- The words of a frame in the order of R148, from those of the several circuits on which a stage sends them to a unit, by image
digest and stage: the division of a stage's outputs among its tiles is the schedule's (R165). (DESIGN CHOICE: log entry 61.) -/
opaque mergeRows : BitVec 512 → BitVec 9 → List (List (BitVec 256)) → List (BitVec 256)
/-- ACCs that one frame takes on a tile of a convolution, and the output row and the first of the 8 output positions at which
each stands, by map digest, tile, variant and number: the division of a stage's outputs among its tiles is the schedule's (R165).
(DESIGN CHOICE: log entry 87.) -/
opaque accCount : BitVec 512 → TileAddr → Bool → BitVec 32
opaque accPlace : BitVec 512 → TileAddr → Bool → BitVec 32 → BitVec 12 × BitVec 12
/-- The row number of the first row group of a frame on a queue of a tile in a fused group, whose stripe or halo begins inside
the map (R181 to R188): map digest, tile and queue. (DESIGN CHOICE: log entry 87.) -/
opaque firstRow : BitVec 512 → TileAddr → BitVec 4 → BitVec 12
/-- exp lies within one unit in the last place of FP32 and is a fixed function of the hardware revision: does it take the upper
one of the two FP32 values about the exact result (R245)? (DESIGN CHOICE: log entry 5.) -/
opaque expUp : BitVec 32 → Bool
/-- The same for the logistic function (R266). (DESIGN CHOICE: log entry 5.) -/
opaque sigmaUp : BitVec 32 → Bool
/-- Is a zero FP32 result negative, given the two operands it came from? The spec gives no sign (R208).
(DESIGN CHOICE: log entry 11.) -/
opaque zeroNeg : BitVec 32 → BitVec 32 → Bool
/-- A scalar shift right whose operand or amount leaves its kind or result unstated (R87). (DESIGN CHOICE: log entry 22.) -/
opaque shrOpen : BitVec 32 → BitVec 32 → BitVec 32
/-- A scalar shift left by 32 or more (R87). (DESIGN CHOICE: log entry 22.) -/
opaque shlOpen : BitVec 32 → BitVec 32 → BitVec 32
/-- Scalar MIN and MAX of operands whose signed and unsigned orders differ: is the first the smaller (R87)?
(DESIGN CHOICE: log entry 22.) -/
opaque lessOpen : BitVec 32 → BitVec 32 → Bool
/-- The result of scalar CMP (R87). (DESIGN CHOICE: log entry 22.) -/
opaque cmpOpen : BitVec 32 → BitVec 32 → BitVec 32
/-- Does scalar SEL take its first source (R87)? (DESIGN CHOICE: log entry 22.) -/
opaque selOpen : BitVec 32 → Bool
/-- The result of SHUF (R87). (DESIGN CHOICE: log entry 22.) -/
opaque shufOpen : BitVec 2 → BitVec 256 → BitVec 256 → BitVec 256
/-- The result of vector ADD, SUB, MUL, MAX, MIN, RELU, CMP and SEL (by number 0 to 7) in lanes whose format the spec
does not give, and of CMP and SEL in every lane width (R87). (DESIGN CHOICE: log entry 22.) -/
opaque vecOpen : BitVec 3 → BitVec 2 → BitVec 256 → BitVec 256 → BitVec 256 → BitVec 256
/-- A result the spec leaves open, numbered by the model's counter. (DESIGN CHOICE: log entry 59.) -/
opaque freeWord : Nat → BitVec 256
/-- The value, in units of 2^-149, that a 32-bit word with the exponent field all ones has as an FP32 operand. The Y6
produces no such word (R208) and the spec gives no value for one that software loads. (DESIGN CHOICE: log entry 16.) -/
opaque nonfinite : BitVec 32 → Int
/-- The bytes of a pitch map whose SHAKE256 digest PITCH_DIGEST shows: image digest, frame rate, firmware version and
positions (R120). The spec names the content of a map and not its byte layout (R119). (DESIGN CHOICE: log entry 8.) -/
opaque pitchBytes : BitVec 512 → Nat → BitVec 32 → List (List TileAddr) → List Byte

/-- Byte of the 4 KiB register part of a capture record (R487), from the tile's registers: R113 names what it holds and
gives no layout. (DESIGN CHOICE: log entry 63.) -/
opaque captureRegs : List Nat → Nat → Byte
/-- Milliseconds of a start: stage 7 after RESET_N (R430 gives a typical and a greatest time).
(DESIGN CHOICE: log entry 53.) -/
opaque bootMs : Nat → BitVec 8

/-- BUF of a transfer stream's client buffer in bytes (R301). The spec gives two of them, in an example only.
(DESIGN CHOICE: log entry 49.) -/
opaque bufBytes : BitVec 6 → BitVec 32

end Sys2Proof.Config
end

