-- ==== Sys2Proof/Machine/Table.lean ====
section
/-! DEFINITION. Sparse tables in one canonical form: a list of key and value pairs with strictly rising keys and no
entry equal to the default, which is what an unlisted key reads as. Register words, memories and every other
large array of the part are held in this form. -/

namespace Sys2Proof.Machine

/-- A sparse table from Nat keys. -/
abbrev Tbl (α : Type) := List (Nat × α)

/-- The value at key `k`; `d` where nothing is listed. (DESIGN CHOICE: log entry 25.) -/
def tget {α : Type} (d : α) : Tbl α → Nat → α
  | [], _ => d
  | (k, v) :: t, i => if i < k then d else if i = k then v else tget d t i

/-- Write `v` at key `i`, keeping the canonical form: writing the default removes the entry. What follows a removed entry is
kept where its key is above, as it always is in the canonical form, so that reading back what was written holds of any list. -/
def tset {α : Type} [DecidableEq α] (d : α) : Tbl α → Nat → α → Tbl α
  | [], i, v => if v = d then [] else [(i, v)]
  | (k, w) :: t, i, v =>
    if i < k then (if v = d then (k, w) :: t else (i, v) :: (k, w) :: t)
    else if i = k then (if v = d then t.filter (fun p => i < p.1) else (k, v) :: t)
    else (k, w) :: tset d t i v

/-- Every key of the table is above `b`. -/
def tabove {α : Type} (b : Nat) : Tbl α → Bool
  | [] => true
  | (k, _) :: _ => b < k

/-- The canonical form: strictly rising keys and no entry equal to the default. -/
def twf {α : Type} [DecidableEq α] (d : α) : Tbl α → Bool
  | [] => true
  | (k, v) :: t => (v ≠ d) && tabove k t && twf d t

/-- Change the value at key `i` by `f`. -/
def tmod {α : Type} [DecidableEq α] (d : α) (t : Tbl α) (i : Nat) (f : α → α) : Tbl α :=
  tset d t i (f (tget d t i))

/-- Change every listed value by `f`, keeping the canonical form. -/
def tmap {α : Type} [DecidableEq α] (d : α) (f : Nat → α → α) (t : Tbl α) : Tbl α :=
  (t.map (fun p => (p.1, f p.1 p.2))).filter (fun p => p.2 ≠ d)

/-- Write the values of a function at the keys 0 to n - 1. -/
def tfill {α : Type} [DecidableEq α] (d : α) (n : Nat) (f : Nat → α) (t : Tbl α) : Tbl α :=
  (List.range n).foldl (fun m k => tset d m k (f k)) t

/-- Remove every entry whose key lies in `[lo, hi)`. -/
def tclear {α : Type} (t : Tbl α) (lo hi : Nat) : Tbl α :=
  t.filter (fun p => p.1 < lo || hi ≤ p.1)

/-- A byte memory: unlisted addresses read zero. -/
abbrev Memory := Tbl Byte

/-- One byte of a memory. (DESIGN CHOICE: log entry 25.) -/
def Memory.read (m : Memory) (a : Nat) : Byte := tget 0#8 m a

/-- Write one byte. -/
def Memory.write (m : Memory) (a : Nat) (v : Byte) : Memory := tset 0#8 m a v

/-- The canonical form of a memory. -/
def Memory.wf (m : Memory) : Bool := twf 0#8 m

/-- The `n` bytes from `a` upward. -/
def Memory.bytes (m : Memory) (a : Nat) : Nat → List Byte
  | 0 => []
  | n + 1 => Memory.read m a :: Memory.bytes m (a + 1) n

/-- Write a list of bytes from `a` upward. -/
def Memory.putBytes (m : Memory) (a : Nat) : List Byte → Memory
  | [] => m
  | b :: bs => Memory.putBytes (Memory.write m a b) (a + 1) bs

/-- The little-endian number of `n` bytes at `a`. -/
def Memory.num (m : Memory) (a n : Nat) : Nat :=
  (Memory.bytes m a n).foldr (fun b acc => b.toNat + 256 * acc) 0

/-- Write the low `n` bytes of `v` at `a`, least significant first. -/
def Memory.putNum (m : Memory) (a : Nat) : Nat → Nat → Memory
  | 0, _ => m
  | n + 1, v => Memory.putNum (Memory.write m a (BitVec.ofNat 8 v)) (a + 1) n (v / 256)

/-- Read byte-wise from a memory region as a table clear: every byte of `[lo, hi)` becomes zero. -/
def Memory.clear (m : Memory) (lo hi : Nat) : Memory := tclear m lo hi

end Sys2Proof.Machine
end

