-- ==== Sys2Proof/Machine/Bits.lean ====
section
/-! DEFINITION. Field, byte and checksum helpers shared by every unit of the part. -/

namespace Sys2Proof.Machine

/-- Bits `hi` down to `lo` of `w`, as a number. -/
def fld {n : Nat} (w : BitVec n) (hi lo : Nat) : Nat := (w.toNat / 2 ^ lo) % 2 ^ (hi + 1 - lo)

/-- `w` with bits `hi` down to `lo` replaced by the low bits of `v`. -/
def setFld (w : Word) (hi lo : Nat) (v : Nat) : Word :=
  let m : Word := BitVec.ofNat 32 ((2 ^ (hi + 1 - lo) - 1) * 2 ^ lo)
  (w &&& ~~~m) ||| (BitVec.ofNat 32 (v % 2 ^ (hi + 1 - lo) * 2 ^ lo))

/-- Bit `i` of `w`. -/
def bit {n : Nat} (w : BitVec n) (i : Nat) : Bool := w.getLsbD i

/-- One bit as a word. -/
def bmask (i : Nat) : Word := BitVec.ofNat 32 (2 ^ i)

/-- A Bool as a number. -/
def b2n (b : Bool) : Nat := if b then 1 else 0

/-- Byte `i` of a bit vector, counted from its least significant end. -/
def byteOf {n : Nat} (w : BitVec n) (i : Nat) : Byte := BitVec.ofNat 8 (w.toNat / 2 ^ (8 * i))

/-- The first `n` bytes of `v`, least significant first. -/
def leBytes : Nat → Nat → List Byte
  | 0, _ => []
  | n + 1, v => BitVec.ofNat 8 v :: leBytes n (v / 256)

/-- The little-endian number that a list of bytes spells. -/
def leNum (bs : List Byte) : Nat := bs.foldr (fun b acc => b.toNat + 256 * acc) 0

/-- A burst from 32 bytes. -/
def burstOf (bs : List Byte) : Burst := BitVec.ofNat 256 (leNum bs)

/-- Exactly `n` bytes: cut, or padded with zeros. -/
def padTo (n : Nat) (bs : List Byte) : List Byte := bs.take n ++ List.replicate (n - bs.length) 0#8

/-- One bit step of a reflected CRC-32 with polynomial 0x82F63B78 (Castagnoli). (PRESUMED: log entry 6.) -/
def crc32cBit : Nat → Nat → Nat
  | 0, c => c
  | n + 1, c => crc32cBit n (if c % 2 = 1 then (c / 2) ^^^ 0x82F63B78 else c / 2)

/-- CRC-32C of a byte string. PRESUMED: the spec names CRC-32C without its parameters; the Castagnoli polynomial,
reflected, start and final exclusive-or of all ones are taken from the family of that name (log entry 6). -/
def crc32c (bs : List Byte) : Word :=
  BitVec.ofNat 32 ((bs.foldl (fun c b => crc32cBit 8 (c ^^^ b.toNat)) 0xFFFFFFFF) ^^^ 0xFFFFFFFF)

/-- One bit step of the CRC-16 with polynomial 0x1021. -/
def crc16Bit : Nat → Nat → Nat
  | 0, c => c
  | n + 1, c => crc16Bit n (if 0x8000 ≤ c then ((2 * c) ^^^ 0x1021) % 65536 else 2 * c % 65536)

/-- The CRC-16 of R225: polynomial 0x1021, start value 0xFFFF. -/
def crc16 (bs : List Byte) : BitVec 16 :=
  BitVec.ofNat 16 (bs.foldl (fun c b => crc16Bit 8 (c ^^^ (b.toNat * 256))) 0xFFFF)

/-- Increase a 32-bit count, stopping at all ones. -/
def satInc (w : Word) : Word := if w = 0xFFFFFFFF#32 then w else w + 1#32

/-- The numbers 0 to n - 1. -/
def upto (n : Nat) : List Nat := List.range n

/-- The unsigned number as a two's complement Int of `n` bits. -/
def sInt (n v : Nat) : Int := if v % 2 ^ n < 2 ^ (n - 1) then (v % 2 ^ n : Nat) else ((v % 2 ^ n : Nat) : Int) - (2 ^ n : Nat)

/-- The low `n` bits of an Int. -/
def ofInt (n : Nat) (v : Int) : BitVec n := BitVec.ofInt n v

/-- Insert into a list kept in an order. -/
def insertBy {α : Type} (le : α → α → Bool) (x : α) : List α → List α
  | [] => [x]
  | y :: ys => if le x y then x :: y :: ys else y :: insertBy le x ys

/-- Sort by an order; equal elements keep theirs. -/
def sortBy {α : Type} (le : α → α → Bool) : List α → List α
  | [] => []
  | x :: xs => insertBy le x (sortBy le xs)

end Sys2Proof.Machine
end

