-- ==== Sys2Proof/Machine/RegMap.lean ====
section
/-! DEFINITION. The registers of the window by name (R381, R382 and each chapter's register table), which of their bits a
host write may change and how (R384 to R390), and which of them are counters (R391, R393). An address is the port
address of the value word. -/

namespace Sys2Proof.Machine
namespace Reg

abbrev devCtl : Nat := 0x0
abbrev devStat : Nat := 0x10
abbrev devCfgignCnt : Nat := 0x20
abbrev devId : Nat := 0x30
abbrev devFwVersion : Nat := 0x40
abbrev devSerial0 : Nat := 0x50
abbrev devSerial1 : Nat := 0x60
abbrev devSerial2 : Nat := 0x70
abbrev devSerial3 : Nat := 0x80
abbrev devResetCause : Nat := 0x90
abbrev devTimeLo : Nat := 0xA0
abbrev devTimeHi : Nat := 0xB0
abbrev devReset : Nat := 0xC0
abbrev devAlert : Nat := 0xD0
abbrev devAlertMask : Nat := 0xE0
abbrev devProf : Nat := 0xF0
abbrev devScratch0 : Nat := 0x100
abbrev devScratch1 : Nat := 0x110
abbrev devBlockEn : Nat := 0x120
abbrev devCfgignSum : Nat := 0x130
abbrev admCtl : Nat := 0x10000
abbrev admStat : Nat := 0x10010
abbrev admCfgignCnt : Nat := 0x10020
abbrev admRate : Nat := 0x10030
abbrev admInterval : Nat := 0x10040
abbrev admSlotLen : Nat := 0x10050
abbrev admDoorbell : Nat := 0x10060
abbrev admWaiting : Nat := 0x10070
abbrev admBufFree : Nat := 0x10080
abbrev admRrPtr : Nat := 0x10090
abbrev admMaxWait : Nat := 0x100A0
abbrev admOverrunCnt : Nat := 0x100B0
abbrev admRefusedCnt : Nat := 0x100C0
abbrev admCmdIgnCnt : Nat := 0x100D0
abbrev admImgwDiscCnt : Nat := 0x100E0
abbrev admShortCnt : Nat := 0x100F0
abbrev egrCtl : Nat := 0x20000
abbrev egrStat : Nat := 0x20010
abbrev egrCfgignCnt : Nat := 0x20020
abbrev egrAccepted : Nat := 0x20030
abbrev egrRecOkCnt : Nat := 0x20040
abbrev egrRecRemapCnt : Nat := 0x20050
abbrev egrRecFlushCnt : Nat := 0x20060
abbrev egrRecOverrunCnt : Nat := 0x20070
abbrev egrRecFaultCnt : Nat := 0x20080
abbrev egrUnleasedCnt : Nat := 0x20090
abbrev egrPending : Nat := 0x200A0
abbrev egrUeCnt : Nat := 0x200B0
abbrev plcCtl : Nat := 0x30000
abbrev plcStat : Nat := 0x30010
abbrev plcCfgignCnt : Nat := 0x30020
abbrev plcRejInfo : Nat := 0x30030
abbrev plcRemapCnt : Nat := 0x30040
abbrev plcLastFault : Nat := 0x30050
abbrev plcRemapTime : Nat := 0x30060
abbrev plcRemapMax : Nat := 0x30070
abbrev plcSparesFree : Nat := 0x30080
abbrev plcLostWordCnt : Nat := 0x30090
abbrev plcUnbalCnt : Nat := 0x300A0
abbrev plcSlotLostCnt : Nat := 0x300B0
abbrev fabCtl : Nat := 0x40000
abbrev fabStat : Nat := 0x40010
abbrev fabCfgignCnt : Nat := 0x40020
abbrev fabDrainCtl : Nat := 0x40030
abbrev fabDrainTime : Nat := 0x40040
abbrev fabTagCensus : Nat := 0x40050
abbrev fabTagwRefusedCnt : Nat := 0x40060
abbrev fabFlushWordCnt : Nat := 0x40070
abbrev fabAbortCnt : Nat := 0x40080
abbrev fabEccCorrCnt : Nat := 0x40090
abbrev fabEccUncorrCnt : Nat := 0x400A0
abbrev fabLinkParCnt : Nat := 0x400B0
abbrev fabScanSize : Nat := 0x400C0
abbrev numCtl : Nat := 0x50000
abbrev numStat : Nat := 0x50010
abbrev numCfgignCnt : Nat := 0x50020
abbrev numGuardLim : Nat := 0x50030
abbrev numSatEvtCnt : Nat := 0x50040
abbrev numUflEvtCnt : Nat := 0x50050
abbrev numCarryEvtCnt : Nat := 0x50060
abbrev numNonfinCnt : Nat := 0x50070
abbrev numWindow : Nat := 0x50080
abbrev ctxCtl : Nat := 0x60000
abbrev ctxStat : Nat := 0x60010
abbrev ctxCfgignCnt : Nat := 0x60020
abbrev ctxDirBase : Nat := 0x60030
abbrev ctxOpsCnt : Nat := 0x60040
abbrev ctxAppendCnt : Nat := 0x60050
abbrev ctxEvictCnt : Nat := 0x60060
abbrev ctxRefusedCnt : Nat := 0x60070
abbrev ctxNcHitCnt : Nat := 0x60080
abbrev ctxNcMissCnt : Nat := 0x60090
abbrev ctxDcMissCnt : Nat := 0x600A0
abbrev ctxSlotBadCnt : Nat := 0x600B0
abbrev ctxForcedEvictCnt : Nat := 0x600C0
abbrev ctxEccCorrCnt : Nat := 0x600D0
abbrev ctxContextId : Nat := 0x600E0
abbrev ctxCauBusy : Nat := 0x600F0
abbrev ppuCtl : Nat := 0x70000
abbrev ppuStat : Nat := 0x70010
abbrev ppuCfgignCnt : Nat := 0x70020
abbrev ppuCandCnt : Nat := 0x70030
abbrev ppuCandLimitCnt : Nat := 0x70040
abbrev ppuEmptyBoxCnt : Nat := 0x70050
abbrev ppuDetCnt : Nat := 0x70060
abbrev ppuRefineDropCnt : Nat := 0x70070
abbrev ppuTrackOpenCnt : Nat := 0x70080
abbrev ppuTrackFullCnt : Nat := 0x70090
abbrev cruCtl : Nat := 0x80000
abbrev cruStat : Nat := 0x80010
abbrev cruCfgignCnt : Nat := 0x80020
abbrev cruBoxCnt : Nat := 0x80030
abbrev cruFillCnt : Nat := 0x80040
abbrev stmCtl : Nat := 0x90000
abbrev stmStat : Nat := 0x90010
abbrev stmCfgignCnt : Nat := 0x90020
abbrev stmSpRate : Nat := 0x90030
abbrev stmSpSlack : Nat := 0x90040
abbrev stmSpBurst : Nat := 0x90050
abbrev stmMergeWin : Nat := 0x90060
abbrev stmJraBase : Nat := 0x90070
abbrev stmRearmOvwCnt : Nat := 0x90080
abbrev stmWmCnt : Nat := 0x90090
abbrev stmMergedCnt : Nat := 0x900A0
abbrev stmWdogCnt : Nat := 0x900B0
abbrev stmWdogLast : Nat := 0x900C0
abbrev hbmCtl : Nat := 0xA0000
abbrev hbmStat : Nat := 0xA0010
abbrev hbmCfgignCnt : Nat := 0xA0020
abbrev hbmCeCnt : Nat := 0xA0030
abbrev hbmUeCnt : Nat := 0xA0040
abbrev hbmRetiredCnt : Nat := 0xA0050
abbrev hbmRetireCe : Nat := 0xA0060
abbrev hbmScrubPos : Nat := 0xA0070
abbrev hbmScrubPass : Nat := 0xA0080
abbrev hbmRecalForcedCnt : Nat := 0xA0090
abbrev hptCtl : Nat := 0xB0000
abbrev hptStat : Nat := 0xB0010
abbrev hptCfgignCnt : Nat := 0xB0020
abbrev hptId : Nat := 0xB0030
abbrev hptRate : Nat := 0xB0040
abbrev hptRefCnt0 : Nat := 0xB0050
abbrev hptRefCnt1 : Nat := 0xB0060
abbrev hptSrCnt : Nat := 0xB0070
abbrev hptWdiscCnt : Nat := 0xB0080
abbrev hptPrstCnt : Nat := 0xB0090
abbrev clkCtl : Nat := 0xC0000
abbrev clkStat : Nat := 0xC0010
abbrev clkCfgignCnt : Nat := 0xC0020
abbrev clkThermLim : Nat := 0xC0030
abbrev clkThrottleCnt : Nat := 0xC0040
abbrev clkSectFreq0 : Nat := 0xC0050
abbrev clkSectFreq1 : Nat := 0xC0060
abbrev clkPulseOvfCnt : Nat := 0xC0070
abbrev clkDcqLostCnt : Nat := 0xC0080
abbrev clkLiftHeldCnt : Nat := 0xC0090
abbrev clkRoscTrim : Nat := 0xC00A0
abbrev clkTempMax : Nat := 0xC00B0
abbrev pwrCtl : Nat := 0xD0000
abbrev pwrStat : Nat := 0xD0010
abbrev pwrCfgignCnt : Nat := 0xD0020
abbrev pwrLowMap0 : Nat := 0xD0030
abbrev pwrTransCnt : Nat := 0xD0080
abbrev pwrRefusedCnt : Nat := 0xD0090
abbrev fltCtl : Nat := 0xE0000
abbrev fltStat : Nat := 0xE0010
abbrev fltCfgignCnt : Nat := 0xE0020
abbrev fltLeaseMs : Nat := 0xE0030
abbrev fltEpoch : Nat := 0xE0040
abbrev fltLease : Nat := 0xE0050
abbrev fltLeaseLeft : Nat := 0xE0060
abbrev fltJrnSeqLo : Nat := 0xE0080
abbrev fltJrnSeqHi : Nat := 0xE0090
abbrev fltJrnHead : Nat := 0xE00A0
abbrev fltJrnAck : Nat := 0xE00B0
abbrev fltJrnApply : Nat := 0xE00C0
abbrev fltJrnCmd : Nat := 0xE00D0
abbrev fltDevfault : Nat := 0xE00E0
abbrev fltContainedCnt : Nat := 0xE00F0
abbrev fltLeaseRefusedCnt : Nat := 0xE0100
abbrev fltLapseCnt : Nat := 0xE0110
abbrev fltJrnBreakCnt : Nat := 0xE0120
abbrev fltJrnRefusedCnt : Nat := 0xE0130
abbrev fltTileFaultCnt : Nat := 0xE0140
abbrev telCtl : Nat := 0xF0000
abbrev telStat : Nat := 0xF0010
abbrev telCfgignCnt : Nat := 0xF0020
abbrev telWindow : Nat := 0xF0030
abbrev telWindowNum : Nat := 0xF0040
abbrev telSyncAccCnt : Nat := 0xF0050
abbrev telSyncIgnCnt : Nat := 0xF0060
abbrev telCapCtl : Nat := 0xF0070
abbrev telCapMatchLo : Nat := 0xF0080
abbrev telCapMatchHi : Nat := 0xF0090
abbrev telCapEvent : Nat := 0xF00A0
abbrev telLogCnt : Nat := 0xF00B0
abbrev telLogHeldCnt : Nat := 0xF00C0
abbrev secCtl : Nat := 0x100000
abbrev secStat : Nat := 0x100010
abbrev secCfgignCnt : Nat := 0x100020
abbrev secBoot : Nat := 0x100030
abbrev secBootTime : Nat := 0x100040
abbrev secVerifyCnt : Nat := 0x100050
abbrev secVerifyFailCnt : Nat := 0x100060
abbrev secSignCnt : Nat := 0x100070
abbrev secMgmtRestartCnt : Nat := 0x100080
abbrev secKeys : Nat := 0x100090
abbrev mbxCtl : Nat := 0x110000
abbrev mbxStat : Nat := 0x110010
abbrev mbxCfgignCnt : Nat := 0x110020
abbrev mbxSubmit : Nat := 0x110030
abbrev mbxRspLen : Nat := 0x110040
abbrev mbxReqCnt : Nat := 0x110050
abbrev mbxIgnCnt : Nat := 0x110060
abbrev mbxTime : Nat := 0x110070
abbrev mbxReqData : Nat := 0x111000
abbrev mbxRspData : Nat := 0x113000
end Reg

/-- The counters of a block, each copied by a snapshot into its holding register (R393). The frames accepted without a
record are copied too (R458). -/
def counters (block : Nat) : List Nat :=
  open Reg in
  match block with
  | 0 => [devCfgignCnt]
  | 1 => [admCfgignCnt, admOverrunCnt, admRefusedCnt, admCmdIgnCnt, admImgwDiscCnt, admShortCnt]
  | 2 => [egrCfgignCnt, egrAccepted, egrRecOkCnt, egrRecRemapCnt, egrRecFlushCnt, egrRecOverrunCnt, egrRecFaultCnt, egrUnleasedCnt, egrPending, egrUeCnt]
  | 3 => [plcCfgignCnt, plcRemapCnt, plcLostWordCnt, plcUnbalCnt, plcSlotLostCnt]
  | 4 => [fabCfgignCnt, fabTagwRefusedCnt, fabFlushWordCnt, fabAbortCnt, fabEccCorrCnt, fabEccUncorrCnt, fabLinkParCnt]
  | 5 => [numCfgignCnt, numSatEvtCnt, numUflEvtCnt, numCarryEvtCnt, numNonfinCnt]
  | 6 => [ctxCfgignCnt, ctxOpsCnt, ctxAppendCnt, ctxEvictCnt, ctxRefusedCnt, ctxNcHitCnt, ctxNcMissCnt, ctxDcMissCnt, ctxSlotBadCnt, ctxForcedEvictCnt, ctxEccCorrCnt, ctxCauBusy]
  | 7 => [ppuCfgignCnt, ppuCandCnt, ppuCandLimitCnt, ppuEmptyBoxCnt, ppuDetCnt, ppuRefineDropCnt, ppuTrackOpenCnt, ppuTrackFullCnt]
  | 8 => [cruCfgignCnt, cruBoxCnt, cruFillCnt]
  | 9 => [stmCfgignCnt, stmRearmOvwCnt, stmWmCnt, stmMergedCnt, stmWdogCnt]
  | 10 => [hbmCfgignCnt, hbmCeCnt, hbmUeCnt, hbmRetiredCnt, hbmScrubPass, hbmRecalForcedCnt]
  | 11 => [hptCfgignCnt, hptRefCnt0, hptRefCnt1, hptSrCnt, hptWdiscCnt, hptPrstCnt]
  | 12 => [clkCfgignCnt, clkThrottleCnt, clkPulseOvfCnt, clkDcqLostCnt, clkLiftHeldCnt]
  | 13 => [pwrCfgignCnt, pwrTransCnt, pwrRefusedCnt]
  | 14 => [fltCfgignCnt, fltContainedCnt, fltLeaseRefusedCnt, fltLapseCnt, fltJrnBreakCnt, fltJrnRefusedCnt, fltTileFaultCnt]
  | 15 => [telCfgignCnt, telSyncAccCnt, telSyncIgnCnt, telLogCnt, telLogHeldCnt]
  | 16 => [secCfgignCnt, secVerifyCnt, secVerifyFailCnt, secSignCnt, secMgmtRestartCnt]
  | 17 => [mbxCfgignCnt, mbxReqCnt, mbxIgnCnt]
  | _ => []

/-- How a host write acts on a register (R385): bits written freely, bits that are configuration (R388), bits cleared
through the clear word. Bits in no mask are RO or WO. -/
structure RegDesc where
  rw : Word
  cfg : Word
  sticky : Word
  deriving DecidableEq, Repr

/-- The writable and sticky bits of each register. A register that is not listed ignores every write (R383, R391); a
register whose write starts an action of its own (MBX, FLT_LEASE, the indirect pair, SNAP) is handled by that action. -/
def regTable : List (Nat × RegDesc) :=
  open Reg in
  [ (devCtl, ⟨0x1#32, 0, 0⟩), (devStat, ⟨0, 0, 0x80000000#32⟩), (devAlert, ⟨0, 0, 0x3FF#32⟩),
    (devAlertMask, ⟨0x3FF#32, 0x3FF#32, 0⟩), (devScratch0, ⟨0xFFFFFFFF#32, 0, 0⟩), (devScratch1, ⟨0xFFFFFFFF#32, 0, 0⟩),
    (admCtl, ⟨0x7#32, 0x6#32, 0⟩), (admStat, ⟨0, 0, 0x800000E0#32⟩),
    (admRate, ⟨0xFFFFFFFF#32, 0xFFFFFFFF#32, 0⟩), (admMaxWait, ⟨0xFFFFFFFF#32, 0xFFFFFFFF#32, 0⟩),
    (egrStat, ⟨0, 0, 0x80000006#32⟩),
    (plcCtl, ⟨0x1#32, 0, 0⟩), (plcStat, ⟨0, 0, 0x800000C0#32⟩),
    (fabCtl, ⟨0x2#32, 0x2#32, 0⟩), (fabStat, ⟨0, 0, 0x80000300#32⟩), (fabDrainCtl, ⟨0x1#32, 0, 0⟩) ] ++
  [ (numCtl, ⟨0x3#32, 0x2#32, 0⟩), (numStat, ⟨0, 0, 0x8000001F#32⟩), (numGuardLim, ⟨0xFFFF#32, 0xFFFF#32, 0⟩),
    (ctxCtl, ⟨0x3#32, 0x2#32, 0⟩), (ctxStat, ⟨0, 0, 0x8000001C#32⟩),
    (ppuCtl, ⟨0x3#32, 0x2#32, 0⟩), (ppuStat, ⟨0, 0, 0x80000003#32⟩),
    (cruCtl, ⟨0x1#32, 0, 0⟩), (cruStat, ⟨0, 0, 0x80000000#32⟩),
    (stmCtl, ⟨0x7#32, 0x6#32, 0⟩), (stmStat, ⟨0, 0, 0x8000000E#32⟩), (stmSpRate, ⟨0xFFFFFFFF#32, 0, 0⟩),
    (stmSpSlack, ⟨0xFFFFFFFF#32, 0, 0⟩), (stmSpBurst, ⟨0xFFFFFFFF#32, 0xFFFFFFFF#32, 0⟩),
    (stmMergeWin, ⟨0xFF#32, 0xFF#32, 0⟩) ] ++
  [ (hbmCtl, ⟨0x2#32, 0, 0⟩), (hbmStat, ⟨0, 0, 0x80000018#32⟩), (hbmRetireCe, ⟨0xFF#32, 0, 0⟩),
    (hptStat, ⟨0, 0, 0x800000C0#32⟩),
    (clkStat, ⟨0, 0, 0x8000000E#32⟩), (clkThermLim, ⟨0xFFFF#32, 0, 0⟩),
    (pwrStat, ⟨0, 0, 0x80000008#32⟩),
    (fltCtl, ⟨0x7#32, 0x6#32, 0⟩), (fltStat, ⟨0, 0, 0x800001C0#32⟩), (fltLeaseMs, ⟨0xFFFF#32, 0xFFFF#32, 0⟩),
    (fltJrnAck, ⟨0xFFFFFFFF#32, 0, 0⟩), (fltJrnApply, ⟨0xFFFFFFFF#32, 0, 0⟩),
    (telStat, ⟨0, 0, 0x80000700#32⟩), (telWindow, ⟨0x3FF#32, 0, 0⟩), (telCapCtl, ⟨0xFF3E#32, 0, 0⟩),
    (telCapMatchLo, ⟨0xFFFFFFFF#32, 0, 0⟩), (telCapMatchHi, ⟨0xFFFFFFFF#32, 0, 0⟩), (telCapEvent, ⟨0xFFFF#32, 0, 0⟩),
    (secStat, ⟨0, 0, 0x80000018#32⟩), (mbxStat, ⟨0, 0, 0x80000000#32⟩) ]

/-- The description of a register; all zero where it takes no write. -/
def regDesc (a : Nat) : RegDesc :=
  match regTable.find? (fun p => p.1 == a) with
  | some p => p.2
  | none => ⟨0, 0, 0⟩

/-- The fields of a register with a reserved code, each as its high bit, low bit and the codes it takes (R387). -/
def codedFields (a : Nat) : List (Nat × Nat × Nat × Nat) :=
  open Reg in
  if a = admCtl then [(2, 1, 0, 1)]
  else if a = admRate then [(31, 0, 1, 24576)]
  else if a = stmSpBurst then [(31, 0, 2048, 65536)]
  else if a = hbmRetireCe then [(7, 0, 1, 255)]
  else if a = clkThermLim then [(15, 8, 1, 15), (7, 0, 70, 104)]
  else if a = fltCtl then [(2, 1, 0, 2)]
  else if a = fltLeaseMs then [(15, 0, 1, 10000)]
  else if a = telWindow then [(9, 0, 1, 1000)]
  else if a = telCapCtl then [(5, 4, 0, 1), (3, 1, 0, 3)]
  else []

/-- Put back every field of `new` that would hold a reserved code (R387). -/
def keepReserved (fields : List (Nat × Nat × Nat × Nat)) (old new : Word) : Word :=
  fields.foldl (fun w f =>
    let v := fld w f.1 f.2.1
    if f.2.2.1 ≤ v ∧ v ≤ f.2.2.2 then w else setFld w f.1 f.2.1 (fld old f.1 f.2.1)) new

/-- The word a write of `v` through word `k` asks for: value, set, clear or toggle (R384). -/
def aliasValue (k : Nat) (old v : Word) : Word :=
  match k with
  | 0 => v
  | 1 => old ||| v
  | 2 => old &&& ~~~v
  | _ => old ^^^ v

end Sys2Proof.Machine
end

