-- ==== Sys2Proof/Machine/State.lean ====
section
/-! DEFINITION. The state of the CRS-Y6 block as plain data, the reasons a command can stop, and the state right after
reset. A register of the register window is an entry of `State.regs`, keyed by the port address of its value word
(R381 to R383); everything that is not a register word has a field of its own, grouped by unit. -/

namespace Sys2Proof.Machine

/-- Why a command stops the model. -/
inductive Fault where
  /-- A tile command names a packed address that is no tile (R9, R10). Raised by the tile commands. Safe: no such tile
  exists in the part. -/
  | noSuchTile
  /-- A tile command carries a code that a table of the spec calls reserved (PRED 3, OUT 7, a KIND or a FMT of 5 to 7,
  an odd VREG under DIAG); the number is the rule. The spec gives such an instruction no effect. Raised by the tile
  commands. Safe. -/
  | reserved (rule : Nat)
  /-- A tile command names an SRAM word past the last one, 6,143 (R69). Raised by the tile commands that read or write
  SRAM. Safe: no such word exists. -/
  | noSuchWord
  deriving DecidableEq, Repr, Inhabited

/-- Why a command has no meaning. -/
inductive Refusal where
  /-- The command has no meaning in this model yet. Raised by `exec` only, by name. Safe: nothing is claimed. -/
  | notModelled (mnemonic : String)
  deriving DecidableEq, Repr, Inhabited

/-- The image states of R37. -/
inductive ImageState where
  | empty | writing | verifying | verified | placing | loading | committed | releasing | rejected
  deriving DecidableEq, Repr, Inhabited

/-- What the pins show and hold (18_package R503 to R507). (DESIGN CHOICE: log entry 72.) -/
structure Pins where
  /-- VDD_AON and VDDIO in range (R506) -/
  power : Bool
  /-- time of POWER_ON in device steps -/
  powerAt : Nat
  resetN : Bool
  /-- when RESET_N last went low -/
  lowAt : Nat
  hp0ResetN : Bool
  hp1ResetN : Bool
  /-- VID[7:0] as driven (R507) -/
  vid : Byte
  /-- the thermal addition of 4 codes is in force (R507) -/
  vidHot : Bool
  /-- when VID last changed -/
  vidAt : Nat
  /-- ALERT_N asserted (R401) -/
  alert : Bool
  /-- lines sent on UART0: stage and cause (R433, R405), newest first -/
  uart0 : List (Byte × Byte)
  /-- PS_CK and the other PSRAM pins are driven (R506) -/
  psDriven : Bool
  deriving DecidableEq, Repr, Inhabited

/-- Time and windows (R402, R459, R479). One step is 10 ns. -/
structure Clock where
  /-- steps passed since the model began -/
  now : Nat
  /-- the step at which device time was zero -/
  base : Nat
  /-- device time stopped at this step count (R405) -/
  frozen : Option Nat
  /-- the last rising edge of RESET_N -/
  resetAt : Nat
  /-- the last boundary, or the anchor a of R459 where a pulse has moved it since -/
  anchor : Nat
  /-- the window length in force, in milliseconds -/
  lenMs : Nat
  /-- an edge of SYNC_IN was accepted in this window -/
  synced : Bool
  /-- the boundary of the current window falls at this accepted early edge -/
  early : Option Nat
  deriving DecidableEq, Repr, Inhabited

/-- Faults of the whole device (R437, R456). -/
structure Dev where
  /-- RESET_PENDING: the cause of the soft reset that waits (R403) -/
  pendingReset : Option (BitVec 4)
  /-- the engine clock has stopped (R405, R410) -/
  engineStopped : Bool
  /-- REFCLK itself has failed (R405) -/
  refclkDead : Bool
  /-- the 100BASE-T1 port has lost its PLL (R405) -/
  ethDead : Bool
  /-- when the device fault in force was recorded -/
  faultAt : Option Nat
  /-- a device fault still has frames to end before the sectors stop (R456) -/
  draining : Bool
  /-- start times of the soft resets of R437 -/
  faultResets : List Nat
  /-- time of the last supervisory restart bookkeeping (R434) -/
  superAt : Nat
  deriving DecidableEq, Repr, Inhabited

/-- The image and its states (R37 to R45). -/
structure Img where
  st : ImageState
  /-- IMAGE_RESULT (R41) -/
  result : BitVec 16
  /-- IMAGE_DIGEST (R65) -/
  digest : BitVec 512
  /-- KEY_SLOT of the image last verified (R446) -/
  keySlot : Byte
  /-- the profile digest that the running VERIFY uses (R449) -/
  verifyDigest : BitVec 512
  /-- the image copy of 256 MiB in HBM -/
  copy : Memory
  /-- rows of the copy known to be unreadable (R310) -/
  copyBad : Bool
  /-- IMAGE_COMMANDs held during a re-placement, oldest first (R138) -/
  held : List Byte
  /-- tile faults in this commit so far (R126) -/
  restarts : Nat
  /-- FRAME_RATE in force since the last commit (R35) -/
  rate : Nat
  /-- a soft reset kept the image copy and VERIFY and COMMIT are to follow (R436) -/
  autoCommit : Bool
  deriving DecidableEq, Repr, Inhabited

/-- Slot states of R56. -/
inductive SlotSt where
  | idle | written | waiting | sending
  deriving DecidableEq, Repr, Inhabited

/-- One ingress slot in the reassembly buffer (R51 to R54). -/
structure Slot where
  st : SlotSt
  overrun : Bool
  /-- bursts of frame data by burst number; unlisted reads zero (R54) -/
  data : Tbl Burst
  /-- bytes written, one bit a byte, by burst number -/
  mask : Tbl Word
  /-- the 4 KiB pages the slot holds, by page number -/
  pages : List Nat
  deriving DecidableEq, Repr, Inhabited

def Slot.empty : Slot := ⟨.idle, false, [], [], []⟩

/-- What admission keeps for a stream (R48, R56). -/
structure StreamAdm where
  lastTag : BitVec 64
  accepted : Word
  refused : Word
  /-- OVERRUN of R48 -/
  overruns : Word
  slot0 : Slot
  slot1 : Slot
  deriving DecidableEq, Repr, Inhabited

def StreamAdm.zero : StreamAdm := ⟨0, 0, 0, 0, Slot.empty, Slot.empty⟩

/-- STATUS of a record (R284). -/
inductive Status where
  | ok | remap | flush | overrun | fault
  deriving DecidableEq, Repr, Inhabited

/-- One detection of a frame on its way to the record (R286). -/
structure Det where
  cls : Byte
  dflags : Byte
  score : BitVec 16
  x0 : BitVec 16
  y0 : BitVec 16
  x1 : BitVec 16
  y1 : BitVec 16
  trackId : Word
  slot : Word
  trackState : Byte
  cand : Nat
  deriving DecidableEq, Repr, Inhabited

/-- Where a committed frame is. -/
inductive Phase where
  | waiting     -- in its ingress slot
  | sending     -- admission is sending its row groups
  | fabric      -- every row group sent, on its way through the stages
  | decoded     -- left the box decoder
  | suppressed  -- left suppression
  | cropped     -- left crop-and-resize
  | ended       -- nothing left but its record
  deriving DecidableEq, Repr, Inhabited

/-- A committed frame without a record (R58, R66). -/
structure Frame where
  stream : Nat
  slot : Bool
  tag : BitVec 64
  seq : Word
  tDoorbell : BitVec 64
  tEntry : BitVec 64
  wide : Bool
  phase : Phase
  status : Status
  /-- its admission ordinal, once it has entered stage 0 -/
  ordinal : Option Nat
  /-- engine cycle of its slot start -/
  startedAt : Nat
  /-- when its doorbell was accepted, in steps -/
  acceptedAt : Nat
  /-- the next row group to send -/
  nextGroup : Nat
  /-- the doorbell was accepted while a primary with EN 1 (R462) -/
  asPrimary : Bool
  candLimit : Bool
  trackFull : Bool
  candidates : Word
  tracks : BitVec 16
  dets : List Det
  /-- values of R291 the frame took at the box decoder: score, IoU, association, misses, open -/
  thresholds : List Nat
  /-- the slot an APPEND of the frame wrote with status OK (R283) -/
  appended : Option (BitVec 15)
  /-- boxes the crop unit sent: from detections and from tracks, by number -/
  boxes : List (Bool × Nat)
  deriving DecidableEq, Repr, Inhabited

/-- Admission (R60). -/
structure Adm where
  streams : Tbl StreamAdm
  /-- committed frames without a record, in the order of their doorbells -/
  frames : List Frame
  nextOrdinal : Nat
  /-- engine cycle at which the last slot started (R36) -/
  lastStart : Option Nat
  /-- slots of the last started frame that have begun (R36, R50) -/
  lastSlots : Nat
  /-- the variant of the frame admitted last (R98) -/
  lastVariant : Bool
  deriving DecidableEq, Repr, Inhabited

/-- One word in a queue or on a link (R76 to R78). A control token is a word whose low 8 data bits are the token. `src`
is the model's own mark of the lane that injected it, 8 times the packed tile plus the lane; 0xFFFFF for admission and
the engine-domain units. -/
structure QWord where
  tag : BitVec 2
  kind : BitVec 3
  data : Burst
  src : Nat
  deriving DecidableEq, Repr, Inhabited

/-- One queue of a tile (R102 to R105, R115, R137). -/
structure Queue where
  cfg : Word
  words : List QWord
  /-- place of the head word in the queue's ring of DEPTH words, for a vector queue in SRAM (R102; log entry 74) -/
  rpos : Nat
  /-- tags and reasons of aborts that found the queue full, oldest first (R137) -/
  pend : List (BitVec 2 × BitVec 8)
  /-- ends still to be discarded (R105) -/
  discard : Nat
  /-- ends still to be dropped for abandoned frames (R108) -/
  drop : Nat
  /-- the consuming context has begun a frame whose end it has not taken (R105) -/
  begun : Bool
  wordsIn : Word
  full : Word
  flushed : Word
  high : Word
  heldIn : Word
  heldFull : Word
  heldFlushed : Word
  heldHigh : Word
  deriving DecidableEq, Repr, Inhabited

def Queue.zero : Queue := ⟨0x00040000#32, [], 0, [], 0, 0, false, 0, 0, 0, 0, 0, 0, 0, 0⟩

/-- A group state of the conversion unit (R212). -/
structure GState where
  amax : Word
  first : Word
  allEq : Bool
  count : Nat
  carried : Byte
  predSat : Nat
  predUfl : Nat
  deriving DecidableEq, Repr, Inhabited

def GState.zero : GState := ⟨0, 0, true, 0, 0xFF#8, 0, 0⟩

/-- A scale held by the conversion unit or the array (R210, R212): its code and format, or a constant; for a sealed
scale, whether SEAL has counted its group (R215) and how many of its elements have been encoded. -/
structure Scale where
  code : Byte
  sf : Bool
  konst : Bool
  c : Word
  counted : Bool
  idx : Nat
  deriving DecidableEq, Repr, Inhabited

def Scale.zero : Scale := ⟨0, false, false, 0, false, 0⟩

/-- The pack state of ZPACK or the unpack state of ZUNPACK (R196). -/
structure ZState where
  /-- ZPACK: compressed words still to send -/
  out : List Burst
  /-- ZUNPACK: bitmap words taken -/
  maps : List Burst
  /-- ZUNPACK: data bytes taken -/
  bytes : List Byte
  /-- ZUNPACK: issues in the row so far -/
  issued : Nat
  deriving DecidableEq, Repr, Inhabited

def ZState.zero : ZState := ⟨[], [], [], 0⟩

/-- A covered row in a tile's line buffer (R158): the queue it came from, its frame counted from the fabric's base, its row
number and its words as they came. -/
structure LineRow where
  queue : Nat
  frame : Nat
  y : Nat
  words : List Burst
  deriving DecidableEq, Repr, Inhabited

/-- What a tile of a spatial stage keeps for one variant (R158, R159, R179, R180; log entry 87). -/
structure Work where
  /-- the stage is spatial: the tile keeps a line buffer -/
  lined : Bool
  /-- ACCs of one frame; 0 where the stage issues none -/
  due : Nat
  /-- per queue, the words so far of a covered row that is arriving -/
  parts : Tbl (List Burst)
  /-- per queue, row groups of the frame taken so far -/
  next : Tbl Nat
  /-- the line buffer, oldest row first -/
  rows : List LineRow
  /-- ACCs issued in the frame -/
  accs : Nat
  /-- row groups sent in the frame -/
  sent : Nat
  /-- frames whose last ACC has been issued, counted from the fabric's base -/
  done : Nat
  deriving DecidableEq, Repr, Inhabited

def Work.zero : Work := ⟨false, 0, [], [], [], 0, 0, 0⟩

/-- One tile (R69, R117, R212, R215). -/
structure Tile where
  /-- SRAM as 6,144 words of 64 bits -/
  sram : Tbl (BitVec 64)
  /-- four context slots of 64 words -/
  slots : Tbl Word
  s : Tbl Word
  v : Tbl Burst
  a : Tbl Word
  /-- group registers, in units of 2^-32 (R209) -/
  g : Tbl Int
  c : Tbl (BitVec 16)
  w0 : BitVec 512
  w1 : BitVec 512
  /-- MMAs into row k since its last ZERO (R209) -/
  mmas : Tbl Nat
  /-- cycle of the last MMA into row k (R71) -/
  accAt : Tbl Nat
  /-- cycle of the last LDW into a bank, and of the last MMA naming a bank (R72) -/
  bankAt : Tbl Nat
  /-- the tile's own cycle number -/
  cycle : Nat
  /-- banks that a vector queue write has taken in this cycle, one bit a bank (R73) -/
  qbanks : Byte
  xsc : Tbl Scale
  wsc : Tbl Scale
  osc : Tbl Scale
  isc : Tbl Scale
  /-- output-side group states -/
  og : Tbl GState
  /-- input-side group states -/
  ig : Tbl GState
  z : ZState
  queues : Tbl Queue
  credits : Tbl (BitVec 7)
  steps : Tbl (BitVec 13)
  /-- the running handler: slot, next instruction word and instructions left (R90) -/
  handler : Option (Nat × Nat × Nat)
  rulePtr : BitVec 3
  active : BitVec 2
  retiring : Option (BitVec 2)
  /-- end markers of contexts taken so far: 16 times the tag plus the queue (R96) -/
  delivered : List Nat
  hold : Bool
  held : Bool
  freeze : Bool
  fault : Bool
  /-- a contained error of the tile's own whose frame is still to be abandoned: the slot that met it, the frame counted
  from the fabric's base, and the reason (R74, R109) -/
  aborting : Option (BitVec 2 × Nat × BitVec 8)
  /-- CTX_END words that a retired slot still owes its lanes: 8 times the tag plus the lane (R96) -/
  ctxEnds : List Nat
  /-- per lane, twice the end markers sent since the fabric was last empty, plus one inside a frame (R92, R133) -/
  sent : Tbl Nat
  /-- per queue, end markers taken or discarded since the fabric was last empty (R105, R108) -/
  taken : Tbl Nat
  /-- ISSUE STALL_IN STALL_OUT HAZARD RETIRE WAIT -/
  counts : Tbl Word
  heldCounts : Tbl Word
  converted : BitVec 64
  sat : Word
  ufl : Word
  sqerr : BitVec 64
  trip : Word
  accOvf : Word
  /-- next SRAM access of the scrub (R490) -/
  scrubPos : Nat
  /-- link parity errors in this window on wires the tile drives (R453) -/
  linkErrs : Nat
  /-- line buffers by variant (R158, R180) -/
  work : Tbl Work
  deriving DecidableEq, Repr, Inhabited

/-- A tile before it is loaded: held (R118). (DESIGN CHOICE: log entry 60.) -/
def Tile.zero : Tile :=
  ⟨[], [], [], [], [], [], [], 0, 0, [], [], [], 0, 0, [], [], [], [], [], [], ZState.zero, [], [], [], none, 0, 0, none, [],
   false, true, false, false, none, [], [], [], [], [], 0, 0, 0, 0, 0, 0, 0, 0, []⟩

/-- A word on its way on a link: the wire it arrives at, `64 * packed tile + 16 * network + wire`. Wires 0 to 5 are the
input wires of a switch; 8 to 11 are the crossings from the tile's outputs N, E, S and W into an engine-domain unit. -/
structure LinkWord where
  wire : Nat
  w : QWord
  deriving DecidableEq, Repr, Inhabited

/-- The fabric (R110, R116). -/
structure Fab where
  tiles : Tbl Tile
  /-- words on links, oldest first; those at a wire beyond a sector boundary, or to or from an engine-domain unit, stand
  in its dual-clock queue (R18, R21, R415) -/
  links : List LinkWord
  /-- words that wait with the unit, or admission, that sends them: HOLD is high before them, or they found no room when the
  links landed (R18, R110, R415) -/
  unsent : List LinkWord
  /-- per wire into an engine-domain unit (4 times the packed tile plus the direction, plus 2^17 times the network):
  twice the end markers taken since the fabric was last empty, plus one while the rest of a broken frame is dropped -/
  unitEnds : Tbl Nat
  /-- words that each engine-domain unit has taken or sent, by its block (R309) -/
  unitMoves : Tbl Nat
  /-- credits on their way back: lane and destination queue -/
  creditBack : List (Nat × Nat)
  /-- when the running drain or scan-in began -/
  drainAt : Nat
  /-- the method of the running drain -/
  drainScan : Bool
  /-- a drain for a gating request (R423) -/
  drainGate : Bool
  /-- a scan-in is running -/
  scanning : Bool
  /-- the tiles as the held scan records hold them -/
  scan : Tbl Tile
  /-- a re-placement or scan-out has stopped every tile from issuing -/
  stopped : Bool
  /-- the ordinal of the first frame sent since the fabric was last empty -/
  base : Nat
  deriving DecidableEq, Repr, Inhabited

/-- The watch on a stage or a unit (R307, R309): what it had done when last looked at, and for how many steps since then it has held
a frame with no progress. -/
structure Watch where
  sig : Nat
  steps : Nat
  deriving DecidableEq, Repr, Inhabited

def Watch.zero : Watch := ⟨0, 0⟩

/-- The placement engine (R119, R135). -/
structure Plc where
  /-- per stage, the packed addresses of its logical tiles; empty when no map is in force -/
  pitch : List (List TileAddr)
  /-- digest of the map whose routes and queues the tiles hold -/
  pitchDigest : BitVec 512
  /-- PITCH_DIGEST as object 0x3000:07 shows it (R119) -/
  pitchShown : BitVec 512
  /-- spares in use: spare and the retired active position it carries -/
  cover : List (TileAddr × TileAddr)
  /-- affected stages of the running re-placement -/
  affected : List Nat
  fLo : Nat
  fHi : Nat
  startedAt : Nat
  /-- failed tiles of the running re-placement with the spares taken -/
  failed : List (TileAddr × TileAddr)
  /-- tile faults waiting for the running re-placement to end, each with its cause and when it was detected (R138, R139) -/
  waiting : List (TileAddr × BitVec 3 × Nat)
  /-- the fault was detected in bivouac (R138) -/
  inBivouac : Bool
  /-- frames ended DROPPED_REMAP per stage (R147) -/
  dropped : Tbl Word
  /-- the whole image is placed again after spare exhaustion (R131) -/
  whole : Bool
  /-- the last stall fault of a stage (R309): time plus one -/
  lastStall : Tbl Nat
  /-- the watch by stage, and by 512 plus the block of an engine-domain unit (R307, R309) -/
  watch : Tbl Watch
  /-- the re-placement of a capture release (R488) -/
  capture : Bool
  deriving DecidableEq, Repr, Inhabited

/-- A numeric header as loaded at commit (R201). -/
structure NumHdr where
  cfmt : Nat
  ofmt : Nat
  gsel : Nat
  sfmt : Nat
  fine : Int
  carry : Bool
  act : Nat
  actA : Word
  actB : Word
  bias : Bool
  deriving DecidableEq, Repr, Inhabited

def NumHdr.zero : NumHdr := ⟨0, 0, 0, 0, 0, false, 0, 0, 0, false⟩

/-- Statistics of one stage for the last window (R216, R220). -/
structure StageStat where
  satThresh : Word
  uflThresh : Word
  sat : Word
  ufl : Word
  converted : BitVec 64
  sqerr : BitVec 64
  trip : Word
  accOvf : Word
  mse : Word
  deriving DecidableEq, Repr, Inhabited

def StageStat.zero : StageStat := ⟨0, 0, 0, 0, 0, 0, 0, 0, 0⟩

/-- Numerics (R201, R219). -/
structure Num where
  hdrs : Tbl NumHdr
  stats : Tbl StageStat
  /-- what tiles that left the map within the window in progress had counted, by stage (R216) -/
  part : Tbl StageStat
  /-- the evaluation of R217 is still to come for the window that ended -/
  evalDue : Bool
  deriving DecidableEq, Repr, Inhabited

/-- A staked slot (R239). -/
structure StakeEntry where
  slot : Nat
  seq : Word
  skipped : Bool
  deriving DecidableEq, Repr, Inhabited

/-- A stream's context (R229, R239, R250). -/
structure StreamCtx where
  quota : Nat
  limit : Nat
  /-- stripe list; none stands for the default list 512 s to 512 s + 511 (R141) -/
  stripes : Option (List Nat)
  cursor : Nat
  stake : List StakeEntry
  released : List (Nat × Word)
  /-- newest first, at most 4,096 -/
  recent : List (Nat × Word)
  /-- carry codes that are not 0xFF -/
  carry : Tbl Byte
  nextTrack : Word
  appends : Word
  evicts : Word
  deriving DecidableEq, Repr, Inhabited

/-- A stream's context after reset: the default quota on the default stripes (R141, R229). -/
def StreamCtx.zero : StreamCtx := ⟨32768, 1024, none, 0, [], [], [], [], 1, 0, 0⟩

/-- A request to the context engine as its words arrive (R234). -/
structure CtxReq where
  ordinal : Nat
  stream : Nat
  /-- SEQ, tag and stage-entry time of the request's frame -/
  seq : Word
  frameTag : BitVec 64
  tEntry : BitVec 64
  /-- the context tag of the request's words, which its reply carries -/
  tag : BitVec 2
  header : Word
  words : List Word
  complete : Bool
  /-- once it has run: the words of its reply, each with its network, which follow those of the requests before it (R238) -/
  reply : Option (List (Nat × Burst))
  deriving DecidableEq, Repr, Inhabited

/-- A frame with a request whose end marker the engine still owes on its reply circuits (R238, R255): once the frame's
end has been taken from the request lane, 0 for FRAME_END or the reason of its abort. -/
structure CtxOwed where
  ordinal : Nat
  tag : BitVec 2
  ended : Option Nat
  deriving DecidableEq, Repr, Inhabited

/-- One track table entry (R254). -/
structure Track where
  id : Word
  cls : Byte
  st : Byte
  misses : BitVec 16
  x0 : BitVec 16
  y0 : BitVec 16
  x1 : BitVec 16
  y1 : BitVec 16
  vx : BitVec 16
  vy : BitVec 16
  lastSeq : Word
  slot : Word
  score : BitVec 16
  deriving DecidableEq, Repr, Inhabited

def Track.zero : Track := ⟨0, 0, 0, 0, 0, 0, 0, 0, 0, 0, 0, 0, 0⟩

/-- The context engine (R222). -/
structure Ctx where
  streams : Tbl StreamCtx
  dir : Tbl (BitVec 128)
  /-- slot contents by granule, 1,920 bytes each as written -/
  slots : Tbl (List Byte)
  tracks : Tbl Track
  /-- stripes on the free list -/
  free : List Nat
  reqs : List CtxReq
  owed : List CtxOwed
  /-- near-cache sets: granules, most recently used first -/
  near : Tbl (List Nat)
  /-- directory-cache sets: entries, most recently used first -/
  dcache : Tbl (List Nat)
  deriving DecidableEq, Repr, Inhabited

/-- A candidate of the box decoder (R266). -/
structure Cand where
  cls : Byte
  score : BitVec 16
  clipped : Bool
  x0 : BitVec 16
  y0 : BitVec 16
  x1 : BitVec 16
  y1 : BitVec 16
  idx : Nat
  deriving DecidableEq, Repr, Inhabited

/-- Words of a frame that a post-processing unit has taken on one circuit, oldest first: the unit's block, the stage that sent
them, the frame's ordinal and the circuit's wire into the unit (R265, R275, R278). -/
structure UnitRows where
  unit : Nat
  stage : Nat
  ordinal : Nat
  key : Nat
  words : List Burst
  deriving DecidableEq, Repr, Inhabited

/-- Post-processing and crop-and-resize (R262, R275). -/
structure Ppu where
  /-- candidates of the frame in suppression -/
  cands : List Cand
  /-- override values of R291 in force: score, IoU, association, misses, open -/
  overrides : List Nat
  /-- head words at the box decoder, source maps in the map buffers, and refinement words at the association unit -/
  rows : List UnitRows
  /-- aborts that crop-and-resize passes on in place of frames once those before them have left it: ordinal, tag and reason
  (R262) -/
  cropOwed : List (Nat × BitVec 2 × Nat)
  deriving DecidableEq, Repr, Inhabited

/-- Egress (R340 to R342). -/
structure Egr where
  /-- index entries by 512 s + n -/
  index : Tbl (BitVec 64)
  /-- ring lines by 1024 s + line, 512 bits each -/
  lines : Tbl (BitVec 512)
  /-- write lines that are not 64 -/
  wline : Tbl Nat
  lastSeq : Tbl Word
  records : Tbl Word
  /-- index entries with one damaged copy (R455) -/
  damaged : List Nat
  deriving DecidableEq, Repr, Inhabited

/-- A command of the active descriptor that has issued (R298): into the HBM or from it, the first byte and the number of bytes
of the descriptor, the engine cycle at which its data end, whether they have been delivered, and what a line of the read-ahead
takes then. -/
structure Part where
  toHbm : Bool
  off : Nat
  len : Nat
  ends : Nat
  landed : Bool
  data : List Byte
  deriving DecidableEq, Repr, Inhabited

/-- A transfer stream (R298, R318). -/
structure TStream where
  active : Option Desc
  shadow : Option Desc
  /-- the commands of the active descriptor that have issued, in their order -/
  parts : List Part
  /-- completions told to the client (R297 NOTIFY) -/
  told : Nat
  hi : Bool
  lo : Bool
  occ : Nat
  /-- the levels written; none stands for the default of R304 -/
  wmLo : Option Word
  wmHi : Option Word
  lows : Word
  highs : Word
  rearm : Word
  /-- tokens in 1/256 byte, as they stood when the buckets' gain was `tokensAt` -/
  tokens : Nat
  tokensAt : Nat
  moved : BitVec 64
  deriving DecidableEq, Repr, Inhabited

def TStream.zero : TStream := ⟨none, none, [], 0, false, false, 0, none, none, 0, 0, 0, 0, 0, 0⟩

/-- The stream engine (R298, R305). -/
structure Stm where
  ts : Tbl TStream
  /-- read-ahead lines: 1 + the window line held, 0 for none, and its 2 KiB of data -/
  jra : Tbl (Nat × List Byte)
  /-- what a bucket of TS 16 to 33 has gained since reset, in 1/256 byte (R303) -/
  gain : Nat
  deriving DecidableEq, Repr, Inhabited

/-- One HBM channel (R300, R311, R320). -/
structure Chan where
  ce : Word
  ue : Word
  retired : Word
  /-- spare granules and spare rows used -/
  granules : Nat
  rows : Nat
  moved : BitVec 64
  busy : Word
  busyNow : Word
  recalAt : Nat
  /-- engine cycle at which the last command ended -/
  freeAt : Nat
  ptr : BitVec 6
  /-- corrected errors by row in this pass, at most 256 rows (R311) -/
  errs : List (Nat × Nat)
  deriving DecidableEq, Repr, Inhabited

def Chan.zero : Chan := ⟨0, 0, 0, 0, 0, 0, 0, 0, 0, 0, 0, []⟩

/-- The HBM controllers and what HBM holds beside the store and the image copy (R294, R312). -/
structure Hbm where
  chans : Tbl Chan
  /-- retired rows by row index: 1 + the row that serves it, its own where its stripe was withdrawn -/
  map : Tbl Nat
  /-- the mirror journal region -/
  journal : Memory
  /-- what transfers have put into the stream engine area (R295), by its offset -/
  area : Memory
  /-- stacks in self-refresh -/
  selfRef : BitVec 4
  deriving DecidableEq, Repr, Inhabited

/-- One host port (R322 to R347). -/
structure Port where
  /-- mode registers written, by 128 times the set point plus the number, as 1 + value -/
  mrs : Tbl (BitVec 9)
  fsp : BitVec 2
  /-- training commands by set point -/
  trained : Tbl Nat
  training : Word
  wbursts : BitVec 64
  rbursts : BitVec 64
  /-- accepts initialisation (R329) -/
  open_ : Bool
  /-- when the port reset pin and RESET_N were last both high -/
  highAt : Nat
  pd : Bool
  sr : Bool
  /-- when power-down or self-refresh was left -/
  exitAt : Nat
  /-- the data of the last read, 64 bytes -/
  out : BitVec 512
  zq : Nat
  deriving DecidableEq, Repr, Inhabited

def Port.zero : Port := ⟨[], 0, [], 0, 0, 0, false, 0, false, false, 0, 0, 0⟩

/-- Sectors and sensors (R407 to R410, R426). -/
structure Clk where
  /-- last reading of each temperature sensor, quarter degrees -/
  temps : List (BitVec 16)
  /-- sensors whose last reading was at or above 110 degrees -/
  hot : List Nat
  /-- milliseconds below 2.6 GHz, by sector -/
  below : Tbl Word
  /-- step-downs, by sector -/
  downs : Tbl Word
  /-- sectors stopped by a capture -/
  capture : Byte
  /-- every sector clock stopped by a fault (R410, R456) -/
  stopped : Bool
  /-- lift requests held by a capture -/
  lifts : List (BitVec 8)
  /-- when the sensors were last read, the sectors last evaluated and the oscillator last measured -/
  sensedAt : Nat
  evalAt : Nat
  trimAt : Nat
  deriving DecidableEq, Repr, Inhabited

/-- One power domain (R418 to R428). State codes are those of DSTAT: 0 on, 1 entering, 2 low, 3 exiting, 4 queued. -/
structure Dom where
  st : Nat
  reqLow : Bool
  refusal : Nat
  entries : Word
  lastExit : Word
  at_ : Nat
  deriving DecidableEq, Repr, Inhabited

def Dom.on : Dom := ⟨0, false, 0, 0, 0, 0⟩

/-- Power control (R418). -/
structure Pwr where
  doms : Tbl Dom
  /-- blocks whose lift arrived during their entry (R424) -/
  liftHeld : List Nat
  /-- a gating request is being carried out (R423) -/
  gating : Bool
  /-- a REQ_LOW held until a re-placement ends (R424) -/
  heldReq : List Nat
  /-- when the last wave of R422 closed -/
  waveAt : Option Nat
  /-- used blocks have powered up and are reloading -/
  reloading : Bool
  /-- last end of a signature engine operation (R418) -/
  sigIdleAt : Nat
  deriving DecidableEq, Repr, Inhabited

/-- A live journal entry: its number, first unit and units (R468). -/
structure JEntry where
  seq : Nat
  start : Nat
  units : Nat
  deriving DecidableEq, Repr, Inhabited

/-- The walk of R473. -/
structure Walk where
  stream : Nat
  /-- slots of the stream still to write, increasing SEQ -/
  left : List Nat
  /-- the slots of this stream have been listed -/
  listed : Bool
  deriving DecidableEq, Repr, Inhabited

/-- Leases, journal and mirror (R461 to R473). -/
structure Flt where
  /-- the lease in force ends at this step -/
  leaseEnd : Option Nat
  /-- JSEQ of the next entry to write -/
  nextJ : Nat
  live : List JEntry
  walk : Option Walk
  /-- units of the region the host has written, as first unit and count -/
  written : List (Nat × Nat)
  /-- JSEQ of the last entry applied -/
  lastJ : Nat
  /-- unit of the next entry to apply -/
  nextUnit : Nat
  /-- JSEQ that the host lets the secondary apply, by its low 32 bits; none before a write -/
  applyTo : Option Word
  /-- a RESYNC_BEGIN is clearing the store -/
  clearing : Bool
  deriving DecidableEq, Repr, Inhabited

/-- One log entry (R481). -/
structure LogEntry where
  seq : Word
  boot : Word
  t : BitVec 64
  kind : BitVec 16
  cls : Byte
  args : BitVec 64
  deriving DecidableEq, Repr, Inhabited

/-- One record of the retirement table (R483). -/
structure Retire where
  type : Byte
  cause : Byte
  chan : Byte
  addr : Word
  deriving DecidableEq, Repr, Inhabited

/-- Minimum, maximum and last reading of a sensor over a window (R480). -/
structure Win3 where
  n : Nat
  lo : BitVec 16
  hi : BitVec 16
  last : BitVec 16
  deriving DecidableEq, Repr, Inhabited

def Win3.zero : Win3 := ⟨0, 0, 0, 0⟩

/-- A capture (R486 to R488). -/
structure Capture where
  prev : BitVec 3
  sectors : Byte
  mode : BitVec 2
  trig : BitVec 3
  matchTime : BitVec 64
  event : BitVec 16
  /-- the event of TRIG 3, or the frame of TRIG 2, has been seen since ARM -/
  seen : Bool
  at_ : BitVec 64
  /-- the tiles as captured, by packed address -/
  tiles : Tbl Tile
  /-- the blocks that were gated at the trigger -/
  gated : List Nat
  digest : BitVec 512
  valid : Bool
  /-- the MODE, TRIG and SECTORS of the data held -/
  dSectors : Byte
  dMode : BitVec 2
  dTrig : BitVec 3
  /-- a trigger held until a re-placement ends (R489) -/
  heldTrigger : Bool
  deriving DecidableEq, Repr, Inhabited

/-- Telemetry and logs (R480 to R494). -/
structure Tel where
  temps : Tbl Win3
  volts : Tbl Win3
  tempSum : Tbl Win3
  voltSum : Tbl Win3
  /-- event log in PSRAM, newest first, at most 16,384 -/
  log : List LogEntry
  /-- entries waiting for flash, oldest first -/
  toFlash : List LogEntry
  /-- retirements waiting for flash, oldest first -/
  toRetire : List Retire
  /-- the bucket of R483 and when it last gained -/
  bucket : Nat
  bucketAt : Nat
  /-- retirements in force that flash could not keep (R485) -/
  volatile : List Retire
  seq : Word
  boot : Word
  cap : Capture
  deriving DecidableEq, Repr, Inhabited

/-- Signatures and firmware (R430 to R451). -/
structure Sec where
  nonce : BitVec 256
  attest : Nat
  report : List Byte
  /-- the payload of the report being signed -/
  signing : List Byte
  fwState : Nat
  fwResult : Nat
  running : List Byte
  /-- a verification of a written bank is running -/
  fwVerify : Bool
  deriving DecidableEq, Repr, Inhabited

/-- A profile record (R375). -/
structure PRecord where
  gen : Word
  fw : Word
  digest : BitVec 512
  /-- object key 256 index + sub, type code, value -/
  entries : List (Nat × Nat × BitVec 64)
  deriving DecidableEq, Repr, Inhabited

/-- One record position of a profile (R376). -/
inductive PPos where
  | erased
  | damaged
  | valid (r : PRecord)
  deriving DecidableEq, Repr, Inhabited

/-- A profile: three record positions and how often each was erased (R374). -/
structure Profile where
  p0 : PPos
  p1 : PPos
  p2 : PPos
  e0 : Word
  e1 : Word
  e2 : Word
  deriving DecidableEq, Repr, Inhabited

def Profile.blank : Profile := ⟨.erased, .erased, .erased, 0, 0, 0⟩

/-- The embedded flash beyond the factory record (R438), kept over every reset and loss of power. -/
structure Flash where
  bankA : List Byte
  bankB : List Byte
  /-- keys of owner slots 2 to 5 by slot number -/
  keys : Tbl (BitVec 512)
  /-- key states 0 EMPTY 1 ACTIVE 2 REVOKED of slots 2 to 5, and the revocation of slot 1 -/
  keySt : Tbl Nat
  fwMin : Word
  /-- preferred bank: false A -/
  preferred : Bool
  profiles : Tbl Profile
  retired : List Retire
  /-- flash log, oldest first -/
  log : List LogEntry
  /-- entries ever written to the flash log -/
  logged : Nat
  deriving DecidableEq, Repr, Inhabited

/-- Where a request came from. -/
inductive Src where
  | mailbox
  | udp (ip : BitVec 32) (port : BitVec 16)
  deriving DecidableEq, Repr, Inhabited

/-- A segmented write in progress (R366). -/
structure Seg where
  src : Src
  key : Nat
  bytes : List Byte
  at_ : Nat
  deriving DecidableEq, Repr, Inhabited

/-- The management controller and its dictionary (R353 to R380). -/
structure Dict where
  /-- live values of objects held in management memory, as 1 + value; unlisted objects read their default -/
  objs : Tbl Nat
  /-- complete requests, oldest first -/
  queue : List (Src × List Byte)
  /-- the last reply sent over UDP -/
  udpOut : Option (BitVec 32 × BitVec 16 × List Byte)
  /-- the last frame sent in answer to ARP or ICMP: address and bytes -/
  netOut : Option (BitVec 32 × List Byte)
  seg : Option Seg
  /-- replies of the last WRITE requests over UDP: address, port, TXN, reply; newest first, at most 16 -/
  replies : List (BitVec 32 × BitVec 16 × BitVec 16 × List Byte)
  mbxAt : Nat
  active : BitVec 2
  /-- 0 pins, 1 NEXT_PROFILE -/
  source : Nat
  pins : BitVec 2
  /-- the IMAGE_DIGEST in force for the active profile (R380) -/
  digest : BitVec 512
  pstate : Nat
  presult : Nat
  /-- the record a SAVE is writing and the profile it goes to -/
  saving : Option (BitVec 2 × PRecord)
  /-- a SAVE that waits for its start (R379) -/
  deferred : Bool
  /-- the profile an ERASE is erasing -/
  erasing : BitVec 2
  /-- completion of the last SAVE -/
  savedAt : Option Nat
  /-- entries skipped per profile (R377) -/
  skipped : Tbl Nat
  /-- profile states found at the last reset: 0 EMPTY 1 VALID 2 DAMAGED -/
  pfound : Tbl Nat
  /-- U64 extensions of counters and the holding values they were formed from (R360), by object key -/
  ext : Tbl Nat
  /-- the 100BASE-T1 link is up (R363) -/
  link : Bool
  /-- the link-local address taken under RFC 3927 (R369) -/
  localIp : Option (BitVec 32)
  deriving DecidableEq, Repr, Inhabited

/-- States of the TAP controller, numbered as IEEE 1149.1 lists them. -/
inductive TapSt where
  | reset | idle
  | selDr | capDr | shDr | ex1Dr | pauDr | ex2Dr | updDr
  | selIr | capIr | shIr | ex1Ir | pauIr | ex2Ir | updIr
  deriving DecidableEq, Repr, Inhabited

/-- The TAP (R516 to R518). -/
structure Tap where
  st : TapSt
  ir : Byte
  irShift : Byte
  /-- the data register being shifted, 341 bits at most -/
  dr : BitVec 341
  /-- the boundary register's update latches -/
  boundary : BitVec 341
  tdo : Option Bool
  deriving DecidableEq, Repr, Inhabited

/-- The I3C target (R505). -/
structure I3c where
  addr : Option (BitVec 7)
  out : BitVec 64
  nacked : Bool
  deriving DecidableEq, Repr, Inhabited

/-- The whole state: what the spec gives the part, the queue of commands that wait, and one counter of the model. -/
structure State where
  /-- commands waiting, first in, first out -/
  pending : List Instr
  /-- register words by the port address of the value word; unlisted words read zero -/
  regs : Tbl Word
  /-- holding registers by the port address of the counter (R393) -/
  hold : Tbl Word
  /-- the indirect access in progress of each block: 1 read, 2 write (R397) -/
  ind : Tbl Nat
  pins : Pins
  clock : Clock
  dev : Dev
  img : Img
  adm : Adm
  fab : Fab
  plc : Plc
  num : Num
  ctx : Ctx
  ppu : Ppu
  egr : Egr
  stm : Stm
  hbm : Hbm
  hp0 : Port
  hp1 : Port
  clk : Clk
  pwr : Pwr
  flt : Flt
  tel : Tel
  sec : Sec
  flash : Flash
  dict : Dict
  tap : Tap
  i3c : I3c
  /-- the model's own counter of free values read so far; nothing rests on its value -/
  freeCtr : Nat
  deriving DecidableEq, Repr, Inhabited

/-- The register words that do not read zero after reset, as each chapter's register table gives them. Words that a
read forms from other state (`readReg`) are not listed. -/
def resetRegs : Tbl Word :=
  [ (0x00010, 0x1#32),        -- DEV_STAT: READY
    (0x000E0, 0x1#32),        -- DEV_ALERT_MASK
    (0x10030, 20480#32),      -- ADM_RATE
    (0x40000, 0x2#32),        -- FAB_CTL: SCRUB_EN
    (0x50000, 0x2#32),        -- NUM_CTL: GUARD_EN
    (0x50030, 0x801#32),      -- NUM_GUARD_LIM
    (0x60000, 0x2#32),        -- CTX_CTL: NC_EN
    (0x60030, 0x100000#32),   -- CTX_DIR_BASE
    (0x70000, 0x2#32),        -- PPU_CTL: ASSOC_EN
    (0x90000, 0x6#32),        -- STM_CTL: WDOG_EN, MERGE_EN
    (0x90030, 0x1000FFFF#32), -- STM_SP_RATE
    (0x90040, 2048#32),       -- STM_SP_SLACK
    (0x90050, 4096#32),       -- STM_SP_BURST
    (0x90060, 8#32),          -- STM_MERGE_WIN
    (0xA0000, 0x2#32),        -- HBM_CTL: SCRUB_EN
    (0xA0060, 8#32) ] ++      -- HBM_RETIRE_CE
  [ (0xC0030, 0x564#32),      -- CLK_THERM_LIM: HYST 5, LIM 100
    (0xC0050, 0x1A1A1A1A#32), -- CLK_SECT_FREQ0: 26 each
    (0xC0060, 0x1A1A1A1A#32), -- CLK_SECT_FREQ1
    (0xE0030, 50#32),         -- FLT_LEASE_MS
    (0xF0030, 10#32),         -- TEL_WINDOW
    (0x100030, 0x1#32) ]      -- SEC_BOOT: STAGE 1

/-- The domains that are low after reset: every tile block (R523), the CAU groups, the directory cache,
post-processing and crop-and-resize, whose units are not enabled, the signature engine and the capture (R418).
(DESIGN CHOICE: log entry 60.) -/
def resetDoms : Tbl Dom :=
  (upto 128 ++ [140, 141, 142, 143, 146, 147, 148, 150, 151]).map
    (fun d => (d, { Dom.on with st := 2 }))

/-- Pins with every rail in range and RESET_N low (R506). (DESIGN CHOICE: log entry 2.) -/
def resetPins : Pins := ⟨true, 0, false, 0, true, true, 48, false, 0, false, [], false⟩

def resetCapture : Capture := ⟨0, 0, 0, 0, 0, 0, false, 0, [], [], 0, false, 0, 0, 0, false⟩

/-- The flash of a part as it is delivered: no owner key, no profile, empty logs; its firmware is the part's own. -/
def shippedFlash : Flash :=
  ⟨Config.shippedBank false, Config.shippedBank true, [], [], 0, false, [], [], [], 0⟩

namespace State

/-- The part with RESET_N low and every rail in range: every register at its reset value, memory empty, no command
waiting. The first RESET_N_RELEASE starts it (log entry 2). -/
def reset : State where
  pending := []
  regs := resetRegs
  hold := []
  ind := []
  pins := resetPins
  clock := ⟨0, 0, none, 0, 0, 10, false, none⟩
  dev := ⟨none, false, false, false, none, false, [], 0⟩
  img := ⟨.empty, 0, 0, 0xFF, 0, [], false, [], 0, 20480, false⟩
  adm := ⟨[], [], 0, none, 0, false⟩
  fab := ⟨[], [], [], [], [], [], 0, false, false, false, [], false, 0⟩
  plc := ⟨[], 0, 0, [], [], 0, 0, 0, [], [], false, [], false, [], [], false⟩
  num := ⟨[], [], [], false⟩
  ctx := ⟨[], [], [], [], [], [], [], [], []⟩
  ppu := ⟨[], [0, 0, 0, 0, 0], [], []⟩
  egr := ⟨[], [], [], [], [], []⟩
  stm := ⟨[], [], 0⟩
  hbm := ⟨[], [], [], [], 0⟩
  hp0 := Port.zero
  hp1 := Port.zero
  clk := ⟨List.replicate 64 0, [], [], [], 0, false, [], 0, 0, 0⟩
  pwr := ⟨resetDoms, [], false, [], none, false, 0⟩
  flt := ⟨none, 1, [], none, [], 0, 0, none, false⟩
  tel := ⟨[], [], [], [], [], [], [], 16, 0, [], 0, 0, resetCapture⟩
  sec := ⟨0, 0, [], [], 0, 0, [], false⟩
  flash := shippedFlash
  dict := ⟨[], [], none, none, none, [], 0, 0, 0, 0, 0, 0, 0, none, false, 0, none, [], [], [], false, none⟩
  tap := ⟨.reset, 1, 1, 0, 0, none⟩
  i3c := ⟨none, 0, false⟩
  freeCtr := 0

end State

end Sys2Proof.Machine
end

