-- ==== Sys2Proof/Machine/Ops.lean ====
section
/-! DEFINITION. Shared operations on the state: registers, sticky flags, counters, alerts, device time, the event log, the
conditions under which the part is running, and recording a device fault (R456). -/

namespace Sys2Proof.Machine

/-- The outcome of a command. -/
abbrev Out := Host.Outcome State Fault Refusal

/-! ## Registers -/

/-- The stored word of a register. -/
def State.reg (s : State) (a : Nat) : Word := tget 0#32 s.regs a

/-- Store a register word. -/
def State.setReg (s : State) (a : Nat) (v : Word) : State := { s with regs := tset 0#32 s.regs a v }

/-- Set bits of a register. -/
def State.setBits (s : State) (a : Nat) (m : Word) : State := s.setReg a (s.reg a ||| m)

/-- Clear bits of a register. -/
def State.clrBits (s : State) (a : Nat) (m : Word) : State := s.setReg a (s.reg a &&& ~~~m)

/-- Set or clear one bit of a register. -/
def State.putBit (s : State) (a i : Nat) (b : Bool) : State :=
  if b then s.setBits a (bmask i) else s.clrBits a (bmask i)

/-- One bit of a register. -/
def State.rbit (s : State) (a i : Nat) : Bool := bit (s.reg a) i

/-- Replace a field of a register. -/
def State.putFld (s : State) (a hi lo v : Nat) : State := s.setReg a (setFld (s.reg a) hi lo v)

/-- Add to a counter register, modulo 2^32 (R391). -/
def State.count (s : State) (a : Nat) (n : Nat) : State := s.setReg a (s.reg a + BitVec.ofNat 32 n)

/-- The EN field of a block (R382). (DEDUCED: log entry 55.) -/
def State.blockEn (s : State) (block : Nat) : Bool := s.rbit (block * 0x10000) 0

/-- Record an ignored configuration write of a block (R388): CFGIGN and its counter. -/
def State.cfgIgn (s : State) (block : Nat) : State :=
  (s.setBits (block * 0x10000 + 0x10) 0x80000000#32).count (block * 0x10000 + 0x20) 1

/-! ## Free values -/

/-- The next free value and the state that has read it. (DESIGN CHOICE: log entry 59.) -/
def State.free (s : State) : Burst × State :=
  (Config.freeWord s.freeCtr, { s with freeCtr := s.freeCtr + 1 })

/-! ## Time -/

/-- Device time in nanoseconds (R402): it stops when REFCLK does (R405). -/
def State.devTime (s : State) : BitVec 64 :=
  BitVec.ofNat 64 (10 * ((s.clock.frozen.getD s.clock.now) - s.clock.base))

/-- Engine cycles passed: 1.8 GHz, 18 cycles a step (R404). (DESIGN CHOICE: log entry 9.) -/
def State.engineCycle (s : State) : Nat := 18 * s.clock.now

/-- Steps in a number of microseconds. (DESIGN CHOICE: log entry 9.) -/
def usSteps (n : Nat) : Nat := 100 * n

/-- Steps in a number of milliseconds. (DESIGN CHOICE: log entry 9.) -/
def msSteps (n : Nat) : Nat := 100000 * n

/-- The first step at which engine cycle `c` has passed. (DESIGN CHOICE: log entry 3.) (DESIGN CHOICE: log entry 9.) -/
def cycleStep (c : Nat) : Nat := (c + 17) / 18

/-- The nominal boundary that ends the window in progress (R459). (DESIGN CHOICE: log entry 3.) -/
def State.boundaryAt (s : State) : Nat :=
  s.clock.early.getD (s.clock.anchor + msSteps s.clock.lenMs)

/-! ## Is the part running? -/

/-- Power is up and RESET_N is high. -/
def State.up (s : State) : Bool := s.pins.power && s.pins.resetN

/-- The start-up stage (R430). -/
def State.stage (s : State) : Nat := fld (s.reg Reg.secBoot) 3 0

/-- The engine clock domain runs. -/
def State.engineUp (s : State) : Bool := s.up && !s.dev.engineStopped

/-- DEV_STATE (R400). -/
def State.devState (s : State) : Nat := fld (s.reg Reg.devStat) 3 0

/-- A device fault is in force until reset, also while a soft reset is pending (R454, R456). -/
def State.faulted (s : State) : Bool := s.reg Reg.fltDevfault != 0#32

/-- The firmware runs (R430 stage 5). -/
def State.fwUp (s : State) : Bool := s.up && s.rbit Reg.devStat 4

/-- Answer the new state where the condition holds, and the old one where the event cannot happen (log entry 3).
(DEDUCED: log entry 55.) -/
def onlyIf (c : Bool) (s t : State) : Out := .next (if c then t else s)

/-! ## Alerts and pins -/

/-- ALERT_N as R401 drives it from EN, the causes and the mask. -/
def State.driveAlert (s : State) : State :=
  { s with pins := { s.pins with alert := s.up && s.rbit Reg.devCtl 0 &&
      (s.reg Reg.devAlert &&& s.reg Reg.devAlertMask) != 0#32 } }

/-- Set a cause of DEV_ALERT. -/
def State.alert (s : State) (i : Nat) : State := (s.setBits Reg.devAlert (bmask i)).driveAlert

/-! ## Host errors (R4) -/

/-- What a host error leaves behind: R4 promises nothing. (DESIGN CHOICE: log entry 41.) -/
opaque State.afterError : State → State

/-- The lists of a state are in their one form, and EN of the device block is 0 while the part is held in reset: what stands for
a state of the part at all. -/
def State.wellKept (s : State) : Bool :=
  twf 0#32 s.regs && twf Tile.zero s.fab.tiles && twf StreamAdm.zero s.adm.streams && Memory.wf s.img.copy &&
  Memory.wf s.hbm.journal && Memory.wf s.hbm.area && (s.up || !s.rbit Reg.devCtl 0)

/-- A host error: the result is unpredictable and the part goes on (R4). What a reset leaves as it is (the flash, the TAP, the
levels of the pins) and the model's own clock and queue are untouched, so that a reset brings the part back to a known state.
(DESIGN CHOICE: log entry 41.) (DEDUCED: log entry 58.) -/
def State.unpredictable (s : State) : State :=
  let u := s.afterError
  let v := { u with
    pending := s.pending, pins := s.pins, clock := { u.clock with now := s.clock.now }, flash := s.flash, tap := s.tap
    freeCtr := s.freeCtr }
  if v.wellKept then v.driveAlert else s

/-! ## The logs (R481 to R484) -/

/-- CLASS of an entry kind (R484). (DEDUCED: log entry 68.) -/
def logClass (kind : Nat) : Byte :=
  if kind = 1 ∨ kind = 0xB ∨ kind = 0xC ∨ kind = 0x10 ∨ kind = 0x11 ∨ kind = 0x14 then 0 else 1

/-- Enter an event in the event log and hold it for flash (R482, R483). The armed capture of TRIG 3 sees it (R486). -/
def State.logEvent (s : State) (kind : Nat) (args : BitVec 64) : State :=
  let e : LogEntry := ⟨s.tel.seq + 1#32, s.tel.boot, s.devTime, BitVec.ofNat 16 kind, logClass kind, args⟩
  let cap := if fld (s.reg Reg.telStat) 2 0 = 1 ∧ s.tel.cap.trig = 3#3 ∧ s.tel.cap.event = BitVec.ofNat 16 kind
             then { s.tel.cap with seen := true } else s.tel.cap
  ({ s with tel := { s.tel with
      log := (e :: s.tel.log).take 16384
      toFlash := s.tel.toFlash ++ [e]
      seq := s.tel.seq + 1#32
      cap := cap } }).count Reg.telLogCnt 1

/-- Arguments of a log entry, lowest byte first: value and size in bytes. -/
def logArgs (parts : List (Nat × Nat)) : BitVec 64 :=
  BitVec.ofNat 64 (leNum (parts.foldl (fun bs p => bs ++ leBytes p.2 p.1) []))

/-- The armed capture of TRIG 2 sees a frame send its first row (R486). -/
def State.noteFirstRow (s : State) (ordinal : Nat) : State :=
  if fld (s.reg Reg.telStat) 2 0 = 1 ∧ s.tel.cap.trig = 2#3 ∧ ordinal % 2 ^ 32 = s.tel.cap.matchTime.toNat % 2 ^ 32 then
    { s with tel := { s.tel with cap := { s.tel.cap with seen := true } } }
  else s

/-- The bytes of a log entry with its CRC (R481). -/
def LogEntry.bytes (e : LogEntry) : List Byte :=
  let b := leBytes 4 e.seq.toNat ++ leBytes 4 e.boot.toNat ++ leBytes 8 e.t.toNat ++ leBytes 2 e.kind.toNat ++
    [e.cls, 0] ++ leBytes 8 e.args.toNat
  b ++ leBytes 4 (crc32c b).toNat

/-! ## Faults -/

/-- Count a contained error of a unit and log it (R452): the block that found it and the stream, 0xFFFF for none. -/
def State.contained (s : State) (block stream : Nat) : State :=
  (s.count Reg.fltContainedCnt 1).logEvent 7 (logArgs [(block, 1), (stream, 2)])

/-- Record a device fault (R454, R456): the first cause stays; a further one is logged only. With the engine clock
running the committed frames are still to be ended. -/
def State.deviceFault (s : State) (cause : Nat) : State :=
  let l := s.logEvent 6 (logArgs [(cause, 1)])
  if s.faulted then l
  else
    let t := ((l.putFld Reg.devStat 3 0 3).setReg Reg.fltDevfault (BitVec.ofNat 32 cause)).alert 0
    let u := t.clrBits Reg.plcStat 0x2F#32
    let dropped := u.img.held.length
    let v := { u with
      dev := { u.dev with faultAt := some u.clock.now, draining := true }
      img := { u.img with held := [] } }
    v.count Reg.admCmdIgnCnt dropped

end Sys2Proof.Machine
end

