-- ==== Sys2Proof/Machine/Transfer.lean ====
section
/-! DEFINITION. What passes with time in the stream engine: transfer streams and channels, what a glide buffer holds with its
watermarks (R301, R304), the commands whose data have ended (R298, R305), and the rate of the token buckets (R303). -/

namespace Sys2Proof.Machine

/-! ## Addresses (R293 to R295) -/

/-- Row indices where the regions begin. -/
def rowDir : Nat := 33554432
def rowImage : Nat := 33816576
def rowJournal : Nat := 33947648
def rowArea : Nat := 34013184
def rowSpareGranules : Nat := 34013184
def rowSpareRows : Nat := 35061760
def rowScan : Nat := 35192832
def rowControl : Nat := 35296256
def rowStaging : Nat := 35345408
def rowEnd : Nat := 50331648

/-- A transfer stream and a channel. -/
def State.ts (s : State) (t : Nat) : TStream := tget TStream.zero s.stm.ts t
def State.setTs (s : State) (t : Nat) (x : TStream) : State := { s with stm := { s.stm with ts := tset TStream.zero s.stm.ts t x } }
def State.chan (s : State) (c : Nat) : Chan := tget Chan.zero s.hbm.chans c
def State.setChan (s : State) (c : Nat) (x : Chan) : State := { s with hbm := { s.hbm with chans := tset Chan.zero s.hbm.chans c x } }

/-! ## Descriptors (R297) -/

end Sys2Proof.Machine

namespace Sys2Proof

/-- The SPACE codes of the two ends: 0 HBM, 1 tile path, 2 client buffer. -/
def Desc.srcSpace (d : Desc) : Nat := d.src.toNat / 2 ^ 40 % 8
def Desc.dstSpace (d : Desc) : Nat := d.dst.toNat / 2 ^ 40 % 8

/-- The bytes a descriptor moves. -/
def Desc.total (d : Desc) : Nat := d.length.toNat * d.pieces.toNat

/-- Where byte `k` of a descriptor comes from and goes to: the pieces follow one another at the strides. -/
def Desc.srcAt (d : Desc) (k : Nat) : Nat :=
  d.src.toNat % 2 ^ 37 + k / d.length.toNat * d.srcStride.toNat + k % d.length.toNat
def Desc.dstAt (d : Desc) (k : Nat) : Nat :=
  d.dst.toNat % 2 ^ 37 + k / d.length.toNat * d.dstStride.toNat + k % d.length.toNat

/-- The HBM address of byte `k`, read or written; the read-ahead wraps at the end of the journal (R306).
(DEDUCED: log entry 46.) -/
def Desc.hbmAt (d : Desc) (t : Nat) (toHbm : Bool) (k : Nat) : Nat :=
  if toHbm then d.dstAt k
  else if t = 13 then 2048 * Machine.rowJournal + (d.srcAt k - 2048 * Machine.rowJournal) % 2 ^ 27
  else d.srcAt k

/-- The directions in which a descriptor crosses the HBM's data bus: both, where it copies within the HBM. -/
def Desc.crosses (d : Desc) (toHbm : Bool) : Bool := if toHbm then d.dstSpace == 0 else d.srcSpace == 0

end Sys2Proof

namespace Sys2Proof.Machine

/-- Bytes of the active descriptor that have been commanded in one direction. -/
def TStream.commanded (x : TStream) (toHbm : Bool) : Nat :=
  ((x.parts.filter (fun p => p.toHbm == toHbm)).map (·.len)).sum

/-- The last byte has been delivered, the last burst acknowledged (R298). -/
def TStream.done (x : TStream) (d : Desc) : Bool :=
  (!d.crosses false || decide (d.total ≤ x.commanded false)) && (!d.crosses true || decide (d.total ≤ x.commanded true)) &&
  x.parts.all (·.landed)

/-- The engine cycle at which the commands issued so far end. -/
def TStream.lastEnd (x : TStream) : Nat := x.parts.foldl (fun m p => max m p.ends) 0

/-! ## Glide buffers (R301, R304) -/

/-- The levels in force: for a buffer that is written out the defaults are 0 and 7/8 of BUF, else 1/8 of BUF and 0.
(DEDUCED: log entry 30.) (DESIGN CHOICE: log entry 49.) -/
def TStream.levels (x : TStream) (t : Nat) : Nat × Nat :=
  let buf := (Config.bufBytes (BitVec.ofNat 6 t)).toNat
  let wr := x.active.any (fun d => !d.crosses false)
  ((x.wmLo.map (·.toNat)).getD (if wr then 0 else buf / 8), (x.wmHi.map (·.toNat)).getD (if wr then 7 * buf / 8 else 0))

/-- OCC takes a new value, with the crossings that makes. -/
def State.setOcc (s : State) (t occ : Nat) : State :=
  let x := s.ts t
  let wm := x.levels t
  let low := decide (wm.1 ≤ x.occ) && decide (occ < wm.1)
  let high := decide (wm.2 ≠ 0) && decide (x.occ < wm.2) && decide (wm.2 ≤ occ)
  let u := s.setTs t { x with
    occ := occ, lo := x.lo || low, hi := x.hi || high
    lows := if low then x.lows + 1#32 else x.lows
    highs := if high then x.highs + 1#32 else x.highs }
  if low || high then (u.count Reg.stmWmCnt (b2n low + b2n high)).setBits Reg.stmStat 4#32 else u

/-- Bytes on their way into a glide buffer: their credits are taken (R302). -/
def TStream.flying (x : TStream) : Nat := ((x.parts.filter (fun p => !p.toHbm && !p.landed)).map (·.len)).sum

/-! ## The journal read-ahead (R305, R306) -/

/-- Put bytes of the journal into their line: it takes its new tag with the first of them. (DEDUCED: log entry 46.) -/
def Stm.fillLine (m : Stm) (o : Nat) (data : List Byte) : Stm :=
  let line := o / 2048
  let l := tget (0, []) m.jra (line % 512)
  let old := if l.1 = line + 1 then l.2 else List.replicate 2048 0#8
  let bs := old.take (o % 2048) ++ data ++ old.drop (o % 2048 + data.length)
  { m with jra := tset (0, []) m.jra (line % 512) (line + 1, bs) }

/-! ## Commands whose data have ended (R298, R301) -/

/-- A part is delivered: what was read for a glide buffer is held there from then on, and a line of the read-ahead is filled. -/
def State.landPart (s : State) (t i : Nat) : State :=
  let x := s.ts t
  match x.parts[i]? with
  | none => s
  | some p =>
    let u := s.setTs t { x with parts := x.parts.set i { p with landed := true, data := [] } }
    let v := if t < 16 && !p.toHbm then
      u.setOcc t (if t = 13 then min (x.occ + p.len) (Config.bufBytes 13).toNat else x.occ + p.len) else u
    match p.data, x.active with
    | [], _ => v
    | _, none => v
    | bs, some d => { v with stm := v.stm.fillLine (d.hbmAt t false p.off - 2048 * rowJournal) bs }

/-- Deliver what has ended by now on one transfer stream. -/
def State.landStream (s : State) (t : Nat) : State :=
  (upto (s.ts t).parts.length).foldl (fun u i =>
    match (u.ts t).parts[i]? with
    | some p => if !p.landed && decide (p.ends ≤ u.engineCycle) then u.landPart t i else u
    | none => u) s

/-- The state with everything delivered that has ended by now. (DESIGN CHOICE: log entry 90.) -/
def State.landed (s : State) : State :=
  (s.stm.ts.filter (fun p => p.2.parts.any (fun q => !q.landed))).foldl (fun u p => u.landStream p.1) s

/-! ## Tokens (R303) -/

/-- No frame is in the pipeline and admission starts no slot: PLACING, LOADING, a drain with what it holds stopped, steps 2 to 7 of a
re-placement (R303, R423). -/
def State.fullRate (s : State) : Bool :=
  s.img.st == .placing || s.img.st == .loading || s.rbit Reg.fabStat 4 || s.rbit Reg.fabStat 5 || s.plc.whole ||
  (2 ≤ fld (s.reg Reg.plcStat) 3 0 && fld (s.reg Reg.plcStat) 3 0 ≤ 7)

/-- SP_RATE in force, in 1/256 byte an engine cycle. -/
def State.spRate (s : State) : Nat :=
  if s.fullRate then fld (s.reg Reg.stmSpRate) 15 0 else fld (s.reg Reg.stmSpRate) 31 16

/-- What the bucket of a transfer stream has gained by now, in 1/256 byte. The scrub gains one row every 429 microseconds.
(DEDUCED: log entry 30.) -/
def State.gained (s : State) (t : Nat) : Nat := if t = 34 then s.engineCycle * 524288 / 772200 else s.stm.gain

/-- Tokens of a snowplough stream now, in 1/256 byte. -/
def State.tokens (s : State) (t : Nat) : Nat :=
  min (256 * (s.reg Reg.stmSpBurst).toNat) ((s.ts t).tokens + (s.gained t - (s.ts t).tokensAt))

/-- Every bucket holds what it may by the size in force, before that changes. -/
def State.settleTokens (s : State) : State :=
  (upto 19).foldl (fun u i => u.setTs (16 + i) { u.ts (16 + i) with tokens := s.tokens (16 + i), tokensAt := s.gained (16 + i) }) s

/-- Abandon the descriptors of TS 16 to 31, as a re-placement starts (R316): nothing is counted. -/
def State.abandonLoads (s : State) : State :=
  { s with stm := { s.stm with ts := tmap TStream.zero (fun t x =>
      if 16 ≤ t ∧ t < 32 then { x with active := none, shadow := none, parts := [] } else x) s.stm.ts } }

end Sys2Proof.Machine
end

