-- ==== Sys2Proof/Machine/Query.lean ====
section
/-! DEFINITION. Quantities that a read forms from other state: the image state's code, the condition of R44, frames
waiting, free pages, spares, the pitch map's blocks, the tag census, the lease, and the values of the read-only
registers that show them. -/

namespace Sys2Proof.Machine

/-- The code of an image state (R37). -/
def ImageState.code : ImageState → Nat
  | .empty => 0 | .writing => 1 | .verifying => 2 | .verified => 3 | .placing => 4
  | .loading => 5 | .committed => 6 | .releasing => 7 | .rejected => 8

/-- A pitch map is in force (R523). -/
def State.mapInForce (s : State) : Bool := !s.plc.pitch.isEmpty

/-- IMAGE_STATE is COMMITTED. -/
def State.committed (s : State) : Bool := s.img.st == .committed

/-! ## Tiles and blocks (R9, R11) -/

/-- A packed address names a tile (R9, R10). -/
def isTile (t : TileAddr) : Bool := t.toNat < 16384 && t.toNat % 128 < 68

/-- Sector, block in sector, tile in block, and global block of a packed address. -/
def sectorOf (t : TileAddr) : Nat := t.toNat / 2048 % 8
def blockOf (t : TileAddr) : Nat := t.toNat / 128 % 16
def posOf (t : TileAddr) : Nat := t.toNat % 128
def gblockOf (t : TileAddr) : Nat := t.toNat / 128 % 128

/-- The packed address of a sector, block and tile. -/
def packTile (sector block tile : Nat) : TileAddr := BitVec.ofNat 16 (sector * 2048 + block * 128 + tile)

/-- A tile of the fabric. -/
def State.tile (s : State) (t : TileAddr) : Tile := tget Tile.zero s.fab.tiles t.toNat

/-- Replace a tile. -/
def State.setTile (s : State) (t : TileAddr) (x : Tile) : State :=
  { s with fab := { s.fab with tiles := tset Tile.zero s.fab.tiles t.toNat x } }

/-- The tiles the pitch map uses. -/
def State.usedTiles (s : State) : List TileAddr := s.plc.pitch.flatten

/-- The pitch map uses a tile. -/
def State.tileUsed (s : State) (t : TileAddr) : Bool := s.usedTiles.any (· == t)

/-- The pitch map uses a block. -/
def State.blockUsed (s : State) (b : Nat) : Bool := s.usedTiles.any (fun t => gblockOf t == b)

/-- The stage of a tile under the map, if any. -/
def State.stageOfTile (s : State) (t : TileAddr) : Option Nat :=
  (upto s.plc.pitch.length).find? (fun i => (s.plc.pitch.getD i []).any (· == t))

/-- A power domain. -/
def State.dom (s : State) (d : Nat) : Dom := tget Dom.on s.pwr.doms d

/-- Replace a power domain. -/
def State.setDom (s : State) (d : Nat) (x : Dom) : State :=
  { s with pwr := { s.pwr with doms := tset Dom.on s.pwr.doms d x } }

/-- A domain is low (R427). -/
def State.domLow (s : State) (d : Nat) : Bool := (s.dom d).st == 2

/-- A used tile block is gated or still reloading (R28). -/
def State.usedGated (s : State) : Bool :=
  s.pwr.reloading || s.usedTiles.any (fun t => (s.dom (gblockOf t)).st != 0)

/-- REMAP_STEP is not 0: a re-placement runs. -/
def State.remapping (s : State) : Bool := s.rbit Reg.plcStat 5

/-- The condition of R44. -/
def State.partly (s : State) : Bool :=
  s.committed && (s.remapping || s.plc.whole || s.pwr.gating || s.usedGated)

/-! ## Admission -/

/-- What admission keeps for a stream. -/
def State.stream (s : State) (n : Nat) : StreamAdm := tget StreamAdm.zero s.adm.streams n

/-- Replace it. -/
def State.setStream (s : State) (n : Nat) (x : StreamAdm) : State :=
  { s with adm := { s.adm with streams := tset StreamAdm.zero s.adm.streams n x } }

/-- A slot of a stream. -/
def StreamAdm.slot (x : StreamAdm) (b : Bool) : Slot := if b then x.slot1 else x.slot0

/-- Replace a slot of a stream. -/
def StreamAdm.setSlot (x : StreamAdm) (b : Bool) (y : Slot) : StreamAdm :=
  if b then { x with slot1 := y } else { x with slot0 := y }

/-- Frames waiting for admission (R65). -/
def State.waitingFrames (s : State) : List Frame := s.adm.frames.filter (fun f => f.phase == .waiting)

/-- Pages in use (R51). -/
def State.pagesUsed (s : State) : Nat :=
  s.adm.streams.foldl (fun n p => n + p.2.slot0.pages.length + p.2.slot1.pages.length) 0

/-- Free reassembly pages (R51). -/
def State.bufFree (s : State) : Nat := 12288 - s.pagesUsed

/-- Stage interval in sector cycles at a frame rate (R34). -/
def stageInterval (rate : Nat) : Nat := 2600000000 / rate

/-- Admission slot length in engine cycles at a frame rate (R34). -/
def slotLength (rate : Nat) : Nat := 1800000000 / rate

/-- Some frame has entered stage 0 and has not left the fabric. -/
def State.frameInside (s : State) : Bool :=
  s.adm.frames.any (fun f => f.phase == .sending || f.phase == .fabric)

/-! ## The retired-tile list and the spares (R130, R132, R147) -/

/-- The retired tiles: those of flash and those on their way there or kept until reset. -/
def State.retiredTiles (s : State) : List TileAddr :=
  ((s.flash.retired ++ s.tel.toRetire ++ s.tel.volatile).filter (fun r => r.type == 1#8)).map
    (fun r => BitVec.ofNat 16 r.addr.toNat)

/-- A tile is retired. -/
def State.isRetired (s : State) (t : TileAddr) : Bool := s.retiredTiles.any (· == t)

/-- A spare is in use. -/
def State.spareInUse (s : State) (t : TileAddr) : Bool := s.plc.cover.any (fun p => p.1 == t)

/-- The retired active positions of a block. -/
def State.retiredActive (s : State) (b : Nat) : Nat :=
  (s.retiredTiles.eraseDups.filter (fun t => gblockOf t == b && posOf t < 64)).length

/-- Usable spares not in use (R146). -/
def State.sparesFree (s : State) : Nat :=
  512 - ((s.retiredTiles ++ s.plc.cover.map (·.1)).eraseDups.filter (fun t => 64 ≤ posOf t)).length

/-! ## Tags (R97) -/

/-- Slots active, slots retiring, and live tags over the die. -/
def State.tagActive (s : State) (c : Nat) : Bool :=
  s.fab.tiles.any (fun p => !p.2.held && p.2.active.toNat == c)

def State.tagRetiring (s : State) (c : Nat) : Bool :=
  s.fab.tiles.any (fun p => !p.2.held && p.2.retiring == some (BitVec.ofNat 2 c))

def State.tagHeld (s : State) (c : Nat) : Bool :=
  s.fab.links.any (fun l => l.w.tag.toNat == c) ||
  s.fab.tiles.any (fun p => p.2.ctxEnds.any (fun k => k / 8 == c) || p.2.queues.any (fun q =>
    q.2.words.any (fun w => w.tag.toNat == c) || q.2.pend.any (fun r => r.1.toNat == c)))

def State.tagLive (s : State) (c : Nat) : Bool := s.tagActive c || s.tagRetiring c || s.tagHeld c

/-- FAB_TAG_CENSUS (R116). -/
def State.tagCensus (s : State) : Nat :=
  (upto 4).foldl (fun n c => n + b2n (s.tagLive c) * 2 ^ c + b2n (s.tagActive c) * 2 ^ (4 + c) +
    b2n (s.tagRetiring c) * 2 ^ (8 + c)) 0

/-! ## Leases, clocks, power -/

/-- A lease is in force (R461). -/
def State.leased (s : State) : Bool :=
  match s.flt.leaseEnd with
  | some e => s.clock.now < e
  | none => false

/-- Microseconds until the lease ends (R477). -/
def State.leaseLeft (s : State) : Nat :=
  match s.flt.leaseEnd with
  | some e => (e - s.clock.now) / 100
  | none => 0

/-- ROLE is PRIMARY and EN is 1 (R460). -/
def State.primary (s : State) : Bool := s.rbit Reg.fltCtl 0 && fld (s.reg Reg.fltCtl) 2 1 == 1

/-- ROLE is SECONDARY and EN is 1: at EN 0 the device acts as SOLO (R477). -/
def State.secondary (s : State) : Bool := s.rbit Reg.fltCtl 0 && fld (s.reg Reg.fltCtl) 2 1 == 2

/-- A sector's clock in units of 100 MHz (R425). -/
def State.sectFreq (s : State) (n : Nat) : Nat :=
  let r := s.reg (if n < 4 then Reg.clkSectFreq0 else Reg.clkSectFreq1)
  fld r (8 * (n % 4) + 7) (8 * (n % 4))

/-- A sector is below 2.6 GHz. -/
def State.throttled (s : State) : Bool := (upto 8).any (fun n => s.sectFreq n < 26)

/-- The hottest sensor and its reading (R425): the lower number on a tie. -/
def State.hottest (s : State) : Nat × Int :=
  (s.clk.temps.zip (upto s.clk.temps.length)).foldl
    (fun best p => if best.2 < sInt 16 p.1.toNat then (p.2, sInt 16 p.1.toNat) else best)
    (0, sInt 16 (s.clk.temps.getD 0 0).toNat)

/-- The temperature of a sector: the highest of its six sensors (R408). -/
def State.sectTemp (s : State) (n : Nat) : Int :=
  ((upto 6).map (fun i => sInt 16 (s.clk.temps.getD (6 * n + i) 0).toNat)).foldl max
    (sInt 16 (s.clk.temps.getD (6 * n) 0).toNat)

/-- Word k of the low map (R427). -/
def State.lowMap (s : State) (k : Nat) : Word :=
  (upto 32).foldl (fun w i => if s.domLow (32 * k + i) ∧ 32 * k + i < 152 then w ||| bmask i else w) 0#32

/-- Some domain is entering, leaving or queued to leave its low state. -/
def State.pwrBusy (s : State) : Bool := s.pwr.doms.any (fun p => p.2.st == 1 || p.2.st == 3)

/-- Exits are queued (R422). -/
def State.inrushWait (s : State) : Bool := s.pwr.doms.any (fun p => p.2.st == 4)

/-! ## Keys (R442) -/

/-- KEY_STATE of a slot: 0 EMPTY, 1 ACTIVE, 2 REVOKED; slots 0 and 1 are ACTIVE as delivered. -/
def State.keyState (s : State) (k : Nat) : Nat :=
  if k < 2 then 1 + tget 0 s.flash.keySt k else tget 0 s.flash.keySt k

/-- The key of a slot. -/
def State.keyOf (s : State) (k : Nat) : BitVec 512 :=
  if k = 0 then Config.factoryKey false else if k = 1 then Config.factoryKey true else tget 0 s.flash.keys k

/-- SEC_KEYS (R450). -/
def State.secKeys (s : State) : Word :=
  (upto 6).foldl (fun w k =>
    if s.keyState k = 1 then w ||| bmask k else if s.keyState k = 2 then w ||| bmask (8 + k) else w) 0#32

/-- VERSION of a firmware envelope (R440). -/
def fwVersion (bs : List Byte) : Word := BitVec.ofNat 32 (leNum ((bs.drop 0x10).take 4))

/-- FIRMWARE_VERSION of the running firmware (R362). -/
def State.fwRunning (s : State) : Word := fwVersion s.sec.running

/-! ## Objects in management memory -/

/-- The live value of an object held in management memory, or its default. -/
def State.objVal (s : State) (key d : Nat) : Nat :=
  match tget 0 s.dict.objs key with
  | 0 => d
  | n + 1 => n

/-- Set the live value of such an object. -/
def State.setObj (s : State) (key v : Nat) : State := { s with dict := { s.dict with objs := tset 0 s.dict.objs key (v + 1) } }

/-! ## Registers that a read forms -/

/-- One bit per block (R400). -/
def State.perBlock (s : State) (off i : Nat) : Word :=
  (upto 18).foldl (fun w n => if s.rbit (n * 0x10000 + off) i then w ||| bmask n else w) 0#32

/-- The frames whose maps the buffers of crop-and-resize hold (R275, R290). -/
def State.mapFrames (s : State) : List Nat := ((s.ppu.rows.filter (fun r => r.unit == 8)).map (·.ordinal)).eraseDups

/-- The value word of a register as a read returns it, taking into account what other state shows there (R382 to R393
and the register tables). -/
def State.readReg (s : State) (a : Nat) : Word :=
  let w := s.reg a
  if 0x8000 ≤ a % 0x10000 ∧ a % 0x10000 < 0xFE00 then tget 0#32 s.hold (a - 0x8000)
  else if a = Reg.devId then BitVec.ofNat 32 (0xC9060000 + 256 * Config.siliconRev.toNat + Config.packageRev.toNat)
  else if a = Reg.devFwVersion then s.fwRunning
  else if a = Reg.devSerial0 ∨ a = Reg.devSerial1 ∨ a = Reg.devSerial2 ∨ a = Reg.devSerial3 then
    BitVec.ofNat 32 (Config.serial.toNat / 2 ^ (32 * ((a - Reg.devSerial0) / 16)))
  else if a = Reg.devTimeLo then BitVec.ofNat 32 s.devTime.toNat
  else if a = Reg.devTimeHi then BitVec.ofNat 32 (s.devTime.toNat / 2 ^ 32)
  else if a = Reg.devProf then
    BitVec.ofNat 32 (256 * s.dict.source + 16 * s.dict.active.toNat + s.dict.pins.toNat)
  else if a = Reg.devBlockEn then s.perBlock 0 0
  else if a = Reg.devCfgignSum then s.perBlock 0x10 31
  else if a = Reg.admStat then
    (w &&& 0x800000E0#32) ||| BitVec.ofNat 32 (16 * b2n s.partly + s.img.st.code)
  else if a = Reg.admInterval then BitVec.ofNat 32 (stageInterval s.img.rate)
  else if a = Reg.admSlotLen then BitVec.ofNat 32 (slotLength s.img.rate)
  else if a = Reg.admWaiting then BitVec.ofNat 32 s.waitingFrames.length
  else if a = Reg.admBufFree then BitVec.ofNat 32 s.bufFree
  else if a = Reg.egrPending then BitVec.ofNat 32 s.adm.frames.length
  else if a = Reg.plcStat then
    (w &&& 0x800000EF#32) ||| BitVec.ofNat 32 (16 * b2n (s.img.st == .placing || s.img.st == .loading || (s.plc.whole && !s.faulted)))
  else if a = Reg.plcSparesFree then BitVec.ofNat 32 s.sparesFree
  else if a = Reg.fabTagCensus then BitVec.ofNat 32 s.tagCensus
  else if a = Reg.stmWmCnt then s.landed.reg a
  else if a = Reg.stmStat then
    (s.landed.reg a &&& 0x8000000E#32) ||| BitVec.ofNat 32 (b2n (s.stm.ts.any (fun p => p.2.active.isSome)))
  else if a = Reg.hbmStat then
    (w &&& 0x8000003D#32) ||| BitVec.ofNat 32 (2 * b2n (s.rbit Reg.hbmCtl 1 && s.rbit Reg.hbmStat 0 && s.engineUp))
  else if a = Reg.hptId then
    BitVec.ofNat 32 (65536 * Config.packageRev.toNat + 256 * Config.siliconRev.toNat + Config.mfr.toNat)
  else if a = Reg.hptRate then BitVec.ofNat 32 (65536 * (Config.portRate true).toNat + (Config.portRate false).toNat)
  else if a = Reg.hptStat then
    (w &&& 0x800000C3#32) ||| BitVec.ofNat 32 (4 * b2n s.hp0.pd + 8 * b2n s.hp1.pd + 16 * b2n s.hp0.sr + 32 * b2n s.hp1.sr)
  else if a = Reg.cruStat then (w &&& 0x80000000#32) ||| BitVec.ofNat 32 (min s.mapFrames.length 2)
  else if a = Reg.clkStat then (w &&& 0x8000003E#32) ||| BitVec.ofNat 32 (b2n s.throttled)
  else if a = Reg.clkTempMax then
    BitVec.ofNat 32 (256 * s.hottest.1) ||| (BitVec.ofInt 32 (s.hottest.2 / 4) &&& 0xFF#32)
  else if a = Reg.pwrStat then
    (w &&& 0x80000008#32) ||| BitVec.ofNat 32 (b2n s.pwrBusy + 2 * b2n s.pwr.gating + 4 * b2n s.inrushWait)
  else if Reg.pwrLowMap0 ≤ a ∧ a ≤ Reg.pwrLowMap0 + 0x40 then s.lowMap ((a - Reg.pwrLowMap0) / 16)
  else if a = Reg.fltStat then
    (w &&& 0x800001D3#32) ||| BitVec.ofNat 32 (8 * b2n s.leased + 32 * b2n s.flt.walk.isSome)
  else if a = Reg.fltLeaseLeft then BitVec.ofNat 32 s.leaseLeft
  else if a = Reg.fltJrnSeqLo then BitVec.ofNat 32 (if s.secondary then s.flt.lastJ else s.flt.nextJ)
  else if a = Reg.fltJrnSeqHi then BitVec.ofNat 32 ((if s.secondary then s.flt.lastJ else s.flt.nextJ) / 2 ^ 32)
  else if a = Reg.secKeys then s.secKeys
  else w

end Sys2Proof.Machine
end

