-- ==== Sys2Proof/Machine/Time.lean ====
section
/-! DEFINITION. The passing of time: the clock, what the token buckets gain (R303) and the watch on stages and units that make no
progress (R307, R309). -/

namespace Sys2Proof.Machine

/-! ## The watch (R307, R309) -/

/-- 450,000 engine cycles. -/
def stuckSteps : Nat := usSteps 250

/-- The tile has begun a frame and not ended it (R307). -/
def Tile.inFrame (x : Tile) : Bool := x.queues.any (fun p => p.2.begun) || x.sent.any (fun p => p.2 % 2 == 1)

/-- The tiles of a stage. -/
def State.stageTiles (s : State) (i : Nat) : List Tile := (s.plc.pitch.getD i []).map s.tile

/-- A stage holds a word, or one of its tiles a frame. -/
def State.stageHolds (s : State) (i : Nat) : Bool :=
  (s.stageTiles i).any (fun x => x.queues.any (fun p => !p.2.words.isEmpty) || x.inFrame)

/-- What a stage has done: its ISSUE counts and the words its queues have taken. -/
def State.stageSig (s : State) (i : Nat) : Nat :=
  (s.stageTiles i).foldl (fun n x => x.queues.foldl (fun n p => n + p.2.wordsIn.toNat) (n + (tget 0#32 x.counts 0).toNat)) 0

/-- The watch counts for a stage: no tile of it is frozen or stands in a sector that a capture has stopped. -/
def State.stageWatched (s : State) (i : Nat) : Bool :=
  (s.plc.pitch.getD i []).all (fun t => !(s.tile t).freeze && !bit s.clk.capture (sectorOf t))

/-- The engine-domain units: admission, egress, the context engine, the post-processing unit, crop-and-resize. -/
def unitBlocks : List Nat := [1, 2, 6, 7, 8]

/-- A unit holds a frame: from its first word or end marker until the unit has passed on its last (R309). (DEDUCED: log entry 91.) -/
def State.unitHolds (s : State) (n : Nat) : Bool :=
  let any := fun (ps : List Phase) => s.adm.frames.any (fun f => ps.any (· == f.phase))
  if n = 1 then any [.sending]
  else if n = 2 then any [.ended]
  else if n = 6 then !s.ctx.reqs.isEmpty || !s.ctx.owed.isEmpty
  else if n = 7 then any [.decoded, .suppressed, .cropped] || s.ppu.rows.any (fun r => r.unit == 7)
  else if n = 8 then !s.ppu.cropOwed.isEmpty || s.ppu.rows.any (fun r => r.unit == 8)
  else false

/-- What a unit has done: the words it has taken and sent, the row groups sent, and the phases its frames have left. -/
def State.unitSig (s : State) (n : Nat) : Nat :=
  s.adm.frames.foldl (fun m f => m + f.nextGroup + (if f.phase = .ended then 1 else 0)) (tget 0 s.fab.unitMoves n)

/-- The same for a key of the watch. -/
def State.watchSig (s : State) (k : Nat) : Nat := if k < 512 then s.stageSig k else s.unitSig (k - 512)

/-- The watch counts at all: not while EN is 0, during a drain or a re-placement, or with WDOG_EN 0. -/
def State.watching (s : State) : Bool :=
  s.rbit Reg.fabCtl 0 && !s.rbit Reg.fabStat 4 && !s.remapping && s.rbit Reg.stmCtl 2 && !s.faulted

/-- A watch after `d` steps: what has moved since it was last looked at starts it again. -/
def Watch.next (w : Watch) (sig d : Nat) : Watch := ⟨sig, (if w.sig = sig then w.steps else 0) + d⟩

/-- Look at a stage or a unit as `d` steps pass. -/
def watchOne (m : Tbl Watch) (k sig d : Nat) (holds counts : Bool) : Tbl Watch :=
  if !holds then tset Watch.zero m k Watch.zero
  else tset Watch.zero m k ((tget Watch.zero m k).next sig (if counts then d else 0))

/-- The watch as `d` steps pass. -/
def State.watched (s : State) (d : Nat) : Tbl Watch :=
  if s.watching then
    unitBlocks.foldl (fun m n => watchOne m (512 + n) (s.unitSig n) d (s.unitHolds n) (s.clk.capture == 0#8))
      ((upto s.plc.pitch.length).foldl (fun m i => watchOne m i (s.stageSig i) d (s.stageHolds i) (s.stageWatched i)) s.plc.watch)
  else s.plc.watch

/-! ## Time -/

/-- The clock moves on to step `t`: the buckets gain at the rate in force, and the watch counts. -/
def State.passTo (s : State) (t : Nat) : State :=
  { s with
    clock := { s.clock with now := t }
    stm := { s.stm with gain := s.stm.gain + 18 * (t - s.clock.now) * s.spRate }
    plc := { s.plc with watch := s.watched (t - s.clock.now) } }

/-- The state at step `t`, where that has not come yet: a command that names a timed event takes place at the moment the
event falls due (log entry 3). -/
def State.until (s : State) (t : Nat) : State := if t ≤ s.clock.now then s else s.passTo t

end Sys2Proof.Machine
end

