-- ==== Sys2Proof/Machine/Image.lean ====
section
/-! DEFINITION. Reading the image copy: the envelope (R440), the image header (R31), the stage table (R32), the section
table (R443), the parameter blocks (R176, R177, R258, R264, R274), the numeric header (R201) and the fusion section
(R182). An address here is a payload offset; the payload starts at byte 0xC0 of the copy. -/

namespace Sys2Proof.Machine

/-- A little-endian payload field. -/
def pay (c : Memory) (off size : Nat) : Nat := Memory.num c (0xC0 + off) size

/-! ## Header (R31) -/

def imgFlags (c : Memory) : Nat := pay c 0x006 2
def imgForerunner (c : Memory) : Bool := imgFlags c % 2 == 1
def imgWide (c : Memory) : Bool := imgFlags c / 2 % 2 == 1
def imgPayLen (c : Memory) : Nat := pay c 0x008 4
def imgStages (c : Memory) : Nat := pay c 0x00C 2
def imgTiles (c : Memory) : Nat := pay c 0x010 4
def imgMaxBudget (c : Memory) : Nat := pay c 0x014 4
/-- Width, height and format of a geometry: false normal, true wide. -/
def imgW (c : Memory) (v : Bool) : Nat := if v then pay c 0x020 2 else pay c 0x018 2
def imgH (c : Memory) (v : Bool) : Nat := if v then pay c 0x022 2 else pay c 0x01A 2
def imgFmt (c : Memory) (v : Bool) : Nat := if v then pay c 0x024 1 else pay c 0x01C 1
def imgStageTab (c : Memory) : Nat := pay c 0x028 4
def imgSecTab (c : Memory) : Nat := pay c 0x02C 4

/-- Frame size in bytes (R33). -/
def frameSize (w h fmt : Nat) : Nat := if fmt = 0 then 3 * w * h else w * h * 3 / 2

/-- Row groups of a geometry (R52, R184). -/
def rowGroups (h fmt : Nat) : Nat := if fmt = 0 then h else h / 2

/-- The frame-relative byte ranges, start and length, of row group `y` (R52). -/
def groupRanges (w h fmt y : Nat) : List (Nat × Nat) :=
  if fmt = 0 then [(y * w, w), (w * h + y * w, w), (2 * w * h + y * w, w)]
  else [(2 * y * w, 2 * w), (w * h + y * (w / 2), w / 2), (w * h + w * h / 4 + y * (w / 2), w / 2)]

/-- The channel rows of row group `y` in plane order: for 4:2:0 two rows of Y, then Cb and Cr. -/
def groupRows (w h fmt y : Nat) : List (Nat × Nat) :=
  if fmt = 0 then groupRanges w h fmt y
  else [(2 * y * w, w), ((2 * y + 1) * w, w)] ++ (groupRanges w h fmt y).drop 1

/-! ## Stage records (R32) -/

def stg (c : Memory) (s off size : Nat) : Nat := pay c (imgStageTab c + 64 * s + off) size
def stgTiles (c : Memory) (s : Nat) : Nat := stg c s 2 2
def stgOp (c : Memory) (s : Nat) : Nat := stg c s 4 2
def stgFlags (c : Memory) (s : Nat) : Nat := stg c s 6 2
def stgBudget (c : Memory) (s : Nat) : Nat := stg c s 8 4
def stgSram (c : Memory) (s : Nat) : Nat := stg c s 0x0C 4
def stgProducers (c : Memory) (s : Nat) : List Nat :=
  ((upto 4).map (fun i => stg c s (0x10 + 2 * i) 2)).filter (· != 0xFFFF)
def stgOutputs (c : Memory) (s : Nat) : Nat := stg c s 0x18 2

/-- Consumers of a stage, as the other records name it. -/
def stgConsumers (c : Memory) (s : Nat) : List Nat :=
  (upto (imgStages c)).filter (fun t => (stgProducers c t).any (· == s))

/-! ## Sections (R443) -/

def secCount (c : Memory) : Nat := pay c (imgSecTab c) 4
def secKind (c : Memory) (i : Nat) : Nat := pay c (imgSecTab c + 16 + 16 * i) 2
def secOff (c : Memory) (i : Nat) : Nat := pay c (imgSecTab c + 16 + 16 * i + 4) 4
def secLen (c : Memory) (i : Nat) : Nat := pay c (imgSecTab c + 16 + 16 * i + 8) 4

/-- Payload offsets of a stage's weight, schedule and parameter sections. -/
def stgWeights (c : Memory) (s : Nat) : Nat := secOff c (stg c s 0x1C 4)
def stgSched (c : Memory) (s : Nat) : Nat := secOff c (stg c s 0x20 4)
/-- The parameter block of a variant (R178). -/
def stgParams (c : Memory) (s : Nat) (v : Bool) : Nat := secOff c (stg c s 0x24 4) + 64 * b2n v

/-- The fusion section, if there is exactly one (R181). -/
def fusionSecs (c : Memory) : List Nat := (upto (secCount c)).filter (fun i => secKind c i == 4)

/-- A tile block: payload offset of its prefix; SRAM offset and length (R443). -/
def blkSram (c : Memory) (o : Nat) : Nat := pay c o 4
def blkLen (c : Memory) (o : Nat) : Nat := pay c (o + 4) 4

/-- The offset of logical tile `i`'s block in a section whose blocks start at `o`, each after `lead` bytes. -/
def blkAt (c : Memory) (lead : Nat) : Nat → Nat → Nat
  | o, 0 => o + lead
  | o, i + 1 => blkAt c lead (o + lead + 8 + blkLen c (o + lead)) i

/-- Logical tile `i`'s block of weights, and of its schedule; its context slots lie in the 512 bytes before. -/
def weightBlk (c : Memory) (s i : Nat) : Nat := blkAt c 0 (stgWeights c s + 32) i
def schedBlk (c : Memory) (s i : Nat) : Nat := blkAt c 512 (stgSched c s) i
def slotAt (c : Memory) (s i : Nat) (v : Bool) : Nat := schedBlk c s i - 512 + 256 * b2n v

/-- The 64-bit SRAM word `w` of a logical tile as LOADING writes it: from the schedule block, else the weights. -/
def loadedWord (c : Memory) (s i w : Nat) : Nat :=
  let inBlk := fun o => blkSram c o ≤ 8 * w && 8 * w < blkSram c o + blkLen c o
  let sb := schedBlk c s i
  let wb := weightBlk c s i
  if inBlk sb then pay c (sb + 8 + (8 * w - blkSram c sb)) 8
  else if inBlk wb then pay c (wb + 8 + (8 * w - blkSram c wb)) 8 else 0

/-- The instruction words of a slot: its schedule in static mode, its rules' handlers in rule mode (R86, R99, R101). -/
def slotInstrs (c : Memory) (s i : Nat) (v : Bool) : List Nat :=
  let o := slotAt c s i v
  let cfg := pay c o 4
  if cfg % 2 = 0 then []
  else if cfg / 2 % 2 = 0 then
    (upto (pay c (o + 8) 4 % 8192)).map (fun n => loadedWord c s i (pay c (o + 4) 4 % 8192 + n))
  else ((upto 8).map (fun r =>
    let ru := pay c (o + 0x20 + 8 * r) 8
    if ru / 2 ^ 44 % 2 = 0 then []
    else (upto (ru % 32 + 1)).map (fun n => loadedWord c s i (ru / 65536 % 8192 + n)))).flatten

/-- Every instruction word of a stage, with the logical tile that holds it. -/
def stgInstrs (c : Memory) (s : Nat) : List (Nat × Nat) :=
  ((upto (stgTiles c s)).map (fun i =>
    (slotInstrs c s i false ++ slotInstrs c s i true).map (fun w => (i, w)))).flatten

/-! ## Spatial parameter block (R176), at payload offset `o` -/

structure Spatial where
  cIn : Nat
  cOut : Nat
  inH : Nat
  inW : Nat
  outH : Nat
  outW : Nat
  groups : Nat
  kH : Nat
  kW : Nat
  sH : Nat
  sW : Nat
  dH : Nat
  dW : Nat
  padT : Nat
  padB : Nat
  padL : Nat
  padR : Nat
  fH : Nat
  fW : Nat
  fillMode : Nat
  act : Nat
  fill : Nat
  actA : Nat
  actB : Nat
  flags : Nat
  seg : Nat
  deriving DecidableEq, Repr

def spatial (c : Memory) (o : Nat) : Spatial :=
  ⟨pay c o 2, pay c (o + 2) 2, pay c (o + 4) 2, pay c (o + 6) 2, pay c (o + 8) 2, pay c (o + 10) 2, pay c (o + 12) 2,
   pay c (o + 14) 1, pay c (o + 15) 1, pay c (o + 16) 1, pay c (o + 17) 1, pay c (o + 18) 1, pay c (o + 19) 1,
   pay c (o + 20) 1, pay c (o + 21) 1, pay c (o + 22) 1, pay c (o + 23) 1, pay c (o + 24) 1, pay c (o + 25) 1,
   pay c (o + 26) 1, pay c (o + 27) 1, pay c (o + 28) 4, pay c (o + 0x20) 4, pay c (o + 0x24) 4, pay c (o + 0x28) 1,
   pay c (o + 0x29) 1⟩

/-- DIAG, BIAS and ZOUT of a spatial block. -/
def Spatial.bias (p : Spatial) : Bool := p.flags % 2 == 1
def Spatial.diag (p : Spatial) : Bool := p.flags / 4 % 2 == 1
def Spatial.zout (p : Spatial) : Bool := p.flags / 8 % 2 == 1

/-- Output geometry that a stage gives its consumers, in a variant: channels, rows and columns (R152). Stage 0 gives
the image's three planes. -/
def stgOut (c : Memory) (s : Nat) (v : Bool) : Nat × Nat × Nat :=
  if s = 0 then (3, imgH c v, imgW c v)
  else let p := spatial c (stgParams c s v); (p.cOut, p.outH, p.outW)

/-- A stage issues MMAs (R149, R201). -/
def opMma (op : Nat) : Bool := [2, 3, 0x10, 0x20, 0x21].contains op

/-- An operator with a spatial block. -/
def opSpatial (op : Nat) : Bool := 2 ≤ op && op ≤ 0xA

/-- The stage with an operator, if any. -/
def stageOf (c : Memory) (op : Nat) : Option Nat := (upto (imgStages c)).find? (fun s => stgOp c s == op)

/-! ## Numeric header (R201) -/

/-- A signed byte. -/
def i8 (n : Nat) : Int := sInt 8 n

/-- The numeric header of a stage with the activation its ACC applies (R165). -/
def numHdr (c : Memory) (s : Nat) : NumHdr :=
  let o := stgWeights c s
  let op := stgOp c s
  let p := stgParams c s false
  let sp := spatial c p
  ⟨pay c o 1, pay c (o + 1) 1, pay c (o + 2) 1, pay c (o + 3) 1, i8 (pay c (o + 4) 1), pay c (o + 5) 1 % 2 == 1,
   if opSpatial op then sp.act else if op = 1 then pay c (p + 0x30) 1 else if op = 0x10 then pay c (p + 0x0E) 1 else 0,
   if opSpatial op then BitVec.ofNat 32 sp.actA else 0,
   if opSpatial op then BitVec.ofNat 32 sp.actB else 0,
   (opSpatial op && sp.bias) || op == 0x20⟩

/-- SAT_THRESH and UFL_THRESH of a stage. -/
def hdrSat (c : Memory) (s : Nat) : Word := BitVec.ofNat 32 (pay c (stgWeights c s + 8) 4)
def hdrUfl (c : Memory) (s : Nat) : Word := BitVec.ofNat 32 (pay c (stgWeights c s + 12) 4)

/-! ## The envelope (R440), at byte offsets of the written object `c` of `len` bytes -/

/-- The bytes of SIGNER_PK, PAYLOAD_DIGEST and SIGNATURE as numbers and lists. -/
def envLen (c : Memory) : Nat := Memory.num c 8 4
def envKeySlot (c : Memory) : Nat := Memory.num c 0x0C 1
def envPk (c : Memory) : BitVec 512 := BitVec.ofNat 512 (Memory.num c 0x20 64)
def envDigest (c : Memory) : BitVec 512 := BitVec.ofNat 512 (Memory.num c 0x60 64)

/-- The reason code of the first failed check of R441, 0 where all hold. Slots allowed for KIND 2 are 1 to 5, for KIND 1
slot 0 (R442). `limit` is how many bytes the written object can hold. -/
def envCheck (s : State) (c : Memory) (kind limit : Nat) : Nat :=
  let k := envKeySlot c
  let allowed := if kind = 1 then k = 0 else 1 ≤ k ∧ k ≤ 5
  let reserved := Memory.num c 0x0D 3 = 0 ∧ Memory.num c 0x14 12 = 0 ∧ Memory.num c 0xA0 32 = 0 ∧
    (kind = 1 ∨ Memory.num c 0x10 4 = 0)
  if Memory.num c 0 4 ≠ 0x4F535943 ∨ Memory.num c 4 2 ≠ 1 ∨ Memory.num c 6 2 ≠ kind ∨ ¬ reserved then 3
  else if limit < 0xC0 + envLen c + 29792 then 3
  else if ¬ allowed ∨ s.keyState k ≠ 1 ∨ envPk c ≠ s.keyOf k then 1
  else if Config.shake256 (Memory.bytes c 0xC0 (envLen c)) ≠ envDigest c then 1
  else if Config.slhVerify (envPk c) (Memory.bytes c 0 0xC0) (Memory.bytes c (0xC0 + envLen c) 29792) = false then 1
  else 0

/-- The reason code of VERIFYING: the envelope, the header's length, the profile's digest (R40), then MAGIC and
FORMAT_VERSION and the header's reserved fields (R123 check 2, R41). -/
def verifyReason (s : State) : Nat :=
  let c := s.img.copy
  let r := envCheck s c 2 268435456
  if r ≠ 0 then r
  else if imgPayLen c ≠ envLen c then 3
  else if s.img.verifyDigest ≠ 0 ∧ envDigest c ≠ s.img.verifyDigest then 2
  else if pay c 0 4 ≠ 0x49525943 ∨ pay c 4 2 ≠ 1 then 3
  else if imgFlags c ≥ 4 ∨ pay c 0x0E 2 ≠ 0 ∨ pay c 0x1D 3 ≠ 0 ∨ pay c 0x25 3 ≠ 0 then 3
  else 0

end Sys2Proof.Machine
end

