-- ==== Sys2Proof/Machine/Numeric.lean ====
section
/-! DEFINITION. Exact numbers and the number formats of 07_numerics: element codes (R198, R199), scales (R200, R205,
R206), rounding to nearest with ties away from zero (R207), FP32 and binary64 results (R208, R215). -/

namespace Sys2Proof.Machine

/-- An exact fraction; the denominator is above zero. -/
structure Q where
  num : Int
  den : Nat
  deriving DecidableEq, Repr

namespace Q
def ofInt (n : Int) : Q := ⟨n, 1⟩
def add (a b : Q) : Q := ⟨a.num * b.den + b.num * a.den, a.den * b.den⟩
def sub (a b : Q) : Q := ⟨a.num * b.den - b.num * a.den, a.den * b.den⟩
def mul (a b : Q) : Q := ⟨a.num * b.num, a.den * b.den⟩
def neg (a : Q) : Q := ⟨-a.num, a.den⟩
def abs (a : Q) : Q := ⟨a.num.natAbs, a.den⟩
/-- The quotient; zero where the divisor is zero, which no caller uses. -/
def div (a b : Q) : Q :=
  if b.num = 0 then ⟨0, 1⟩
  else if b.num < 0 then ⟨-(a.num * b.den), a.den * b.num.natAbs⟩
  else ⟨a.num * b.den, a.den * b.num.natAbs⟩
def le (a b : Q) : Bool := a.num * b.den ≤ b.num * a.den
def lt (a b : Q) : Bool := a.num * b.den < b.num * a.den
def eq (a b : Q) : Bool := a.num * b.den == b.num * a.den
def max (a b : Q) : Q := if le a b then b else a
def min (a b : Q) : Q := if le a b then a else b
/-- The floor. -/
def floor (a : Q) : Int := a.num / (a.den : Int)
/-- 2 to an integer power. -/
def pow2 (e : Int) : Q := if 0 ≤ e then ⟨(2 ^ e.toNat : Nat), 1⟩ else ⟨1, 2 ^ (-e).toNat⟩
end Q

/-- The nearest whole number to a / b, halves up. -/
def nearDiv (a b : Nat) : Nat := (2 * a + b) / (2 * b)

/-- The nearest whole number to a fraction, halves away from zero (R207). -/
def Q.near (a : Q) : Int :=
  if a.num < 0 then -(nearDiv a.num.natAbs a.den : Int) else (nearDiv a.num.natAbs a.den : Int)

/-- The exponent of the power of two at or below n / d, for n above zero. -/
def fracExp (n d : Nat) : Int :=
  let e : Int := (Nat.log2 n : Int) - (Nat.log2 d : Int)
  if Q.le (Q.pow2 e) ⟨n, d⟩ then e else e - 1

/-- The code, sign apart, of n / d rounded into a binary format with `p` mantissa bits whose smallest step is 2^umin.
Codes of such a format follow one another in order of magnitude. -/
def roundCode (p : Nat) (umin : Int) (n d : Nat) : Nat :=
  if n = 0 then 0
  else
    let u := max (fracExp n d - p) umin
    let q := if 0 ≤ u then nearDiv n (d * 2 ^ u.toNat) else nearDiv (n * 2 ^ (-u).toNat) d
    (u - umin).toNat * 2 ^ p + q

/-- The magnitude of a code of such a format, in units of 2^umin. -/
def codeMag (p : Nat) (code : Nat) : Nat :=
  let e := code / 2 ^ p
  let m := code % 2 ^ p
  if e = 0 then m else (2 ^ p + m) * 2 ^ (e - 1)

/-! ## FP32 (R208) -/

/-- An FP32 word as a whole number of 2^-149. (DESIGN CHOICE: log entry 16.) -/
def f32Int (w : Word) : Int :=
  if fld w 30 23 = 255 then Config.nonfinite w
  else if bit w 31 then -(codeMag 23 (fld w 30 0) : Int) else (codeMag 23 (fld w 30 0) : Int)

/-- The value of an FP32 word. (DESIGN CHOICE: log entry 16.) -/
def f32 (w : Word) : Q := ⟨f32Int w, 2 ^ 149⟩

/-- The largest finite FP32 value. -/
def f32Max : Q := ⟨((2 ^ 24 - 1) * 2 ^ 104 : Nat), 1⟩

/-- A result exceeds the largest finite value (R208). -/
def overflows (q : Q) : Bool := Q.lt f32Max q.abs

/-- The FP32 word nearest to an exact result, at most the largest finite value; `zneg` is the sign of a zero. -/
def toF32 (q : Q) (zneg : Bool) : Word :=
  let c := min (roundCode 23 (-149) q.num.natAbs q.den) 0x7F7FFFFF
  let neg := if c = 0 then zneg else q.num < 0
  BitVec.ofNat 32 (c + if neg then 2 ^ 31 else 0)

/-- A two-operand FP32 result. The sign of a zero is open (log entry 11). -/
def f32Of (q : Q) (a b : Word) : Word := toF32 q (Config.zeroNeg a b)

def f32Add (a b : Word) : Word := f32Of ((f32 a).add (f32 b)) a b
def f32Sub (a b : Word) : Word := f32Of ((f32 a).sub (f32 b)) a b
def f32Mul (a b : Word) : Word := f32Of ((f32 a).mul (f32 b)) a b

/-- An FP32 result with 1 where it took the largest finite value, else 0 (R208, R215). -/
abbrev Ov := Word × Nat

/-- An exact result as FP32, with its own overflow. -/
def ovOf (q : Q) (a b : Word) : Ov := (f32Of q a b, if overflows q then 1 else 0)
def fAdd (a b : Word) : Ov := ovOf ((f32 a).add (f32 b)) a b
def fSub (a b : Word) : Ov := ovOf ((f32 a).sub (f32 b)) a b
def fMul (a b : Word) : Ov := ovOf ((f32 a).mul (f32 b)) a b
def fDiv (a b : Word) : Ov := ovOf ((f32 a).div (f32 b)) a b

/-- A number as FP32. -/
def fNum (q : Q) : Word := toF32 q false
/-- One as FP32, and one half. -/
def f32One : Word := 0x3F800000#32
def f32Half : Word := 0x3F000000#32

/-- Add values in turn to a sum, with the overflows met. -/
def fSum (a : Ov) (vs : List Word) : Ov := vs.foldl (fun m v => let r := fAdd m.1 v; (r.1, m.2 + r.2)) a

/-- The order of two FP32 words. -/
def f32Le (a b : Word) : Bool := f32Int a ≤ f32Int b

def fMax (a b : Word) : Word := if f32Le a b then b else a
def fMin (a b : Word) : Word := if f32Le a b then a else b

/-- A word is a finite FP32 value above zero. -/
def f32Positive (w : Word) : Bool := fld w 30 23 != 255 && 0 < f32Int w

/-! ## exp and the logistic function (R245, R266) -/

/-- Fraction bits of the fixed-point numbers that enclose exp. -/
def expBits : Nat := 640

/-- The sum of the Taylor series of exp at y, in fixed point, from the term number k on: `n` terms, the first of them `t`. -/
def expSeries (y : Nat) : Nat → Nat → Nat → Nat
  | 0, _, _ => 0
  | n + 1, k, t => t + expSeries y n (k + 1) (t * y / 2 ^ expBits / (k + 1))

/-- exp of a value that is not negative and at most 200, in fixed point: the series at a 256th of it, squared eight times. -/
def expFix (x : Q) : Nat :=
  let y := x.num.natAbs * 2 ^ expBits / (x.den * 256)
  (upto 8).foldl (fun a _ => a * a / 2 ^ expBits) (expSeries y 160 0 (2 ^ expBits))

/-- exp of a value, far closer than FP32 tells apart; past 200 on either side no FP32 result changes any more. -/
def expQ (x : Q) : Q :=
  let a := expFix (x.abs.min (Q.ofInt 200))
  if x.num < 0 then ⟨(2 ^ expBits : Nat), a⟩ else ⟨(a : Nat), 2 ^ expBits⟩

/-- The FP32 word at a result that is not negative where it is one, else the one below it or the one above it, at most the
largest finite value: what an error below one unit in the last place allows (R245). (DEDUCED: log entry 5.) -/
def withinUlp (q : Q) (up : Bool) : Word :=
  let n := roundCode 23 (-149) q.num.natAbs q.den
  let below := if Q.le ⟨(codeMag 23 n : Nat), 2 ^ 149⟩ q then n else n - 1
  let exact_ := Q.eq ⟨(codeMag 23 below : Nat), 2 ^ 149⟩ q
  BitVec.ofNat 32 (min (if exact_ || !up then below else below + 1) 0x7F7FFFFF)

/-- exp and the logistic function of an FP32 word (R245, R266). -/
def fExp (a : Word) : Word := withinUlp (expQ (f32 a)) (Config.expUp a)
def fSigma (a : Word) : Word :=
  withinUlp ((Q.ofInt 1).div ((Q.ofInt 1).add (expQ (f32 a).neg))) (Config.sigmaUp a)

/-! ## binary64 (R215) -/

/-- A binary64 magnitude. -/
def f64 (w : BitVec 64) : Q := ⟨(codeMag 52 (fld w 62 0) : Nat), 2 ^ 1074⟩

/-- The binary64 word nearest to a result that is not negative. -/
def toF64 (q : Q) : BitVec 64 := BitVec.ofNat 64 (min (roundCode 52 (-1074) q.num.natAbs q.den) 0x7FEFFFFFFFFFFFFF)

/-- Add a squared difference: the term and the sum are each rounded (R215). -/
def addSq (acc : BitVec 64) (v d : Q) : BitVec 64 :=
  let e := v.sub d
  toF64 ((f64 acc).add (f64 (toF64 (e.mul e))))

/-! ## Element formats (R198, R199, R207) -/

/-- Bits of an element. -/
def elemBits (fmt : Nat) : Nat := if fmt = 3 ∨ fmt = 4 then 4 else 8

/-- MAXV. -/
def maxV (fmt : Nat) : Nat :=
  match fmt with
  | 0 => 448 | 1 => 57344 | 2 => 127 | 3 => 6 | _ => 7

/-- Mantissa bits and exponent of the smallest step of a floating format. -/
def fmtShape (fmt : Nat) : Nat × Int :=
  match fmt with
  | 0 => (3, -9) | 1 => (2, -16) | _ => (1, -1)

/-- The value of an element code in units of 2^-16, and whether it is a NaN or infinity code, which decodes as 0. -/
def elemVal (fmt code : Nat) : Int × Bool :=
  if fmt = 2 then (sInt 8 code * 65536, false)
  else if fmt = 4 then (sInt 4 code * 65536, false)
  else
    let half := 2 ^ (elemBits fmt - 1)
    let mag := code % half
    let sh := fmtShape fmt
    if (fmt = 0 ∧ mag = 0x7F) ∨ (fmt = 1 ∧ 0x7C ≤ mag) then (0, true)
    else
      let v : Int := (codeMag sh.1 mag * 2 ^ (16 + sh.2).toNat : Nat)
      (if half ≤ code then -v else v, false)

/-- An element's code for the exact quotient q, with its saturation and underflow outcomes (R207). -/
def elemCode (fmt : Nat) (q : Q) : Nat × Bool × Bool :=
  let sat := Q.lt (Q.ofInt (maxV fmt)) q.abs
  let neg := q.num < 0
  if fmt = 2 ∨ fmt = 4 then
    let m : Int := if sat then maxV fmt else q.abs.near
    let c := (if neg then -m else m) % (2 ^ elemBits fmt : Nat)
    (c.toNat, sat, q.num != 0 && m == 0)
  else
    let sh := fmtShape fmt
    let top := if fmt = 0 then 0x7E else if fmt = 1 then 0x7B else 7
    let m := if sat then top else min (roundCode sh.1 sh.2 q.num.natAbs q.den) top
    (if m = 0 then 0 else m + if neg then 2 ^ (elemBits fmt - 1) else 0, sat, q.num != 0 && m == 0)

/-- Element `i` of a byte string: a byte, or a nibble with the lower nibble first (R70, R198). -/
def elemAt (fmt : Nat) (v : Burst) (i : Nat) : Nat :=
  if elemBits fmt = 4 then v.toNat / 2 ^ (4 * i) % 16 else v.toNat / 2 ^ (8 * i) % 256

/-- Replace element `i`. -/
def putElem (fmt : Nat) (v : Burst) (i code : Nat) : Burst :=
  let b := elemBits fmt
  let m := (2 ^ b - 1) * 2 ^ (b * i)
  (v &&& ~~~(BitVec.ofNat 256 m)) ||| BitVec.ofNat 256 (code % 2 ^ b * 2 ^ (b * i))

/-! ## Scales (R200, R205, R206) -/

/-- A group's scale byte loaded with the constant beside it: a constant marker takes the constant (R210). -/
def loadScale (sf : Bool) (code : Byte) (c : Word) : Scale :=
  ⟨code, sf, if sf then fld code 6 0 == 0x7F else code == 0xFF#8, c, false, 0⟩

/-- The value of a scale under the stage's FINE_EXP. -/
def scaleVal (s : Scale) (fine : Int) : Q :=
  if s.konst then f32 s.c
  else if s.sf then (Q.mul ⟨(elemVal 0 (fld s.code 6 0)).1, 65536⟩ (Q.pow2 fine))
  else Q.pow2 ((s.code.toNat : Int) - 127)

/-- The constant marker and the code of an all-zero group. -/
def markerCode (sf : Bool) : Byte := if sf then 0x7F#8 else 0xFF#8
def zeroGroupCode (sf : Bool) : Byte := if sf then 0x38#8 else 0x7F#8

/-- The smallest e with t ≤ 2^e, for t above zero. -/
def ceilExp (n d : Nat) : Int :=
  let e := fracExp n d
  if Q.le ⟨n, d⟩ (Q.pow2 e) then e else e + 1

/-- The present-tensor code for the largest magnitude of a group, above zero (R205). -/
def presentCode (sf : Bool) (fmt : Nat) (fine : Int) (amax : Q) : Byte :=
  if sf then
    let t := amax.div (Q.mul (Q.ofInt (maxV fmt)) (Q.pow2 fine))
    BitVec.ofNat 8 (((upto 0x7E).find? (fun i => Q.le t ⟨(elemVal 0 (i + 1)).1, 65536⟩)).getD 0x7D + 1)
  else
    let t := amax.div (Q.ofInt (maxV fmt))
    BitVec.ofNat 8 ((max (ceilExp t.num.natAbs t.den) (-127)) + 127).toNat

/-- Elements in a group (R201). -/
def groupSize (gsel : Nat) : Nat := 32 * 2 ^ gsel

/-- Add to a count that stops at all ones. -/
def satAdd (w : Word) (n : Nat) : Word := BitVec.ofNat 32 (min (w.toNat + n) 0xFFFFFFFF)

end Sys2Proof.Machine
end

