-- ==== Sys2Proof/Machine/Checks.lean ====
section
/-! DEFINITION. The commit checks 3 to 7 of R123 over the image copy. A check answers the reason code and the stage at
fault, 0xFFFF where no single stage is; where several stages fail one check, the lowest is named (log entry 17). -/

namespace Sys2Proof.Machine

/-- The first stage that fails a test. (DEDUCED: log entry 17.) -/
def firstBad (c : Memory) (ok : Nat → Bool) : Option Nat := (upto (imgStages c)).find? (fun s => !ok s)

/-! ## Check 3: the limits of R33 -/

/-- A geometry within R33. -/
def geomOk (w h fmt maxW maxH maxSize : Nat) : Bool :=
  fmt ≤ 1 && 32 ≤ w && w ≤ maxW && 32 ≤ h && h ≤ maxH &&
  (if fmt = 0 then w % 32 == 0 else w % 64 == 0 && h % 2 == 0) && frameSize w h fmt ≤ maxSize

def check3 (c : Memory) : Option Nat :=
  let n := imgStages c
  let stages := upto n
  let imageOk :=
    1 ≤ n && n ≤ 512 &&
    imgTiles c == stages.foldl (fun t s => t + stgTiles c s) 0 && imgTiles c ≤ 8192 &&
    imgMaxBudget c == stages.foldl (fun t s => max t (stgBudget c s)) 0 &&
    geomOk (imgW c false) (imgH c false) (imgFmt c false) 2048 2048 2097152 &&
    (if imgWide c then geomOk (imgW c true) (imgH c true) (imgFmt c true) 3840 2160 16777216
     else imgW c true == 0 && imgH c true == 0 && imgFmt c true == 0)
  if !imageOk then some 0xFFFF
  else firstBad c (fun s =>
    stg c s 0 2 == s && 1 ≤ stgTiles c s && stgTiles c s ≤ 1024 && stgSram c s ≤ 49152 &&
    stgOutputs c s ≤ 8 && stgOutputs c s == (stgConsumers c s).length &&
    (s != 0 || (stgProducers c s).isEmpty))

/-! ## Check 4: operators and parameters (R2, R87, R149 to R183) -/

/-- The section table is well formed (R443). -/
def sectionsOk (c : Memory) : Bool :=
  let n := secCount c
  let ok := fun i => secOff c i % 64 == 0 && secOff c i + secLen c i ≤ imgPayLen c
  (upto n).all (fun i => ok i && (upto i).all (fun j =>
    secOff c i + secLen c i ≤ secOff c j || secOff c j + secLen c j ≤ secOff c i))

/-- A stage's section indices name sections of the right kinds. -/
def indicesOk (c : Memory) (s : Nat) : Bool :=
  [(0x1C, 1), (0x20, 2), (0x24, 3)].all (fun p => stg c s p.1 4 < secCount c && secKind c (stg c s p.1 4) == p.2)

/-- The tile blocks of a stage: multiples of 8, apart, within SRAM_PER_TILE (R443). -/
def blocksOk (c : Memory) (s : Nat) : Bool :=
  (upto (stgTiles c s)).all (fun i =>
    let a := weightBlk c s i
    let b := schedBlk c s i
    let one := fun o => blkSram c o % 8 == 0 && blkLen c o % 8 == 0 && blkSram c o + blkLen c o ≤ stgSram c s
    one a && one b &&
    (blkSram c a + blkLen c a ≤ blkSram c b || blkSram c b + blkLen c b ≤ blkSram c a))

/-- Fields of an instruction word (R86). -/
def opcodeOf (w : Nat) : Nat := w / 2 ^ 58 % 64
def outOf (w : Nat) : Nat := w / 2 ^ 44 % 8
def opField (w hi lo : Nat) : Nat := w / 2 ^ lo % 2 ^ (hi + 1 - lo)

/-- Opcodes that are not reserved (R87). (DESIGN CHOICE: log entry 4.) -/
def opcodeOk (o : Nat) : Bool :=
  o ≤ 6 || (8 ≤ o && o ≤ 0xA) || (0x10 ≤ o && o ≤ 0x1A) || (0x20 ≤ o && o ≤ 0x2B) || (0x30 ≤ o && o ≤ 0x35) ||
  o == 0x38 || o == 0x39

/-- Producers of an operator (R149). (DESIGN CHOICE: log entry 18.) -/
def producersOk (op n : Nat) : Bool :=
  if op = 1 then n == 0 else if op = 8 ∨ op = 9 then n == 2 else if op = 0xA then 2 ≤ n && n ≤ 4 else n == 1

/-- An activation with its constants (R165, R176). -/
def actOk (act a b : Nat) : Bool :=
  act ≤ 4 && (act != 2 || f32Le (BitVec.ofNat 32 a) (BitVec.ofNat 32 b)) &&
  (act == 2 || act == 3 || a == 0) && (act == 2 || b == 0)

/-- The spatial block of an operator within R151, R152 and R176. -/
def Spatial.ok (p : Spatial) (op : Nat) : Bool :=
  let conv := op == 2 || op == 3
  let pool := op == 4 || op == 5
  let res := op == 6 || op == 7
  let win := conv || pool
  let within := fun (on : Bool) (lo hi v : Nat) => if on then lo ≤ v && v ≤ hi else v == 0
  within win 1 15 p.kH && within win 1 15 p.kW && within win 1 8 p.sH && within win 1 8 p.sW &&
  within win 1 (if conv then 8 else 1) p.dH && within win 1 (if conv then 8 else 1) p.dW &&
  [p.padT, p.padB, p.padL, p.padR].all (within win 0 15) &&
  (if res then [1, 2, 4].contains p.fH && [1, 2, 4].contains p.fW && !(p.fH == 1 && p.fW == 1) else p.fH == 0 && p.fW == 0) &&
  1 ≤ p.cIn && p.cIn ≤ 4096 && 1 ≤ p.cOut && p.cOut ≤ 4096 &&
  (conv || op == 0xA || p.cOut == p.cIn) &&
  (if op = 2 then p.groups == 1
   else if op = 3 then 2 ≤ p.groups && p.groups ≤ 4096 && p.cIn % p.groups == 0 && p.cOut % p.groups == 0
   else p.groups == 0) &&
  1 ≤ p.inH && p.inH ≤ 2160 && 1 ≤ p.inW && p.inW ≤ 3840 && 1 ≤ p.outH && p.outH ≤ 2160 && 1 ≤ p.outW && p.outW ≤ 3840 &&
  p.fillMode ≤ 1 && actOk p.act p.actA p.actB && (if conv then 1 ≤ p.seg && p.seg ≤ 255 else p.seg == 0)

/-- DIAG's conditions (R167). -/
def diagOk (c : Memory) (s : Nat) (p : Spatial) : Bool :=
  stgOp c s == 3 && imgForerunner c && p.groups == p.cIn && p.cIn == p.cOut && pay c (stgWeights c s) 1 ≤ 2

/-- ZOUT's conditions (R195). -/
def zoutOk (c : Memory) (s : Nat) (p : Spatial) : Bool :=
  [2, 3, 8, 9].contains (stgOp c s) && (p.act == 1 || (p.act == 2 && 0 ≤ f32Int (BitVec.ofNat 32 p.actA))) &&
  (stgConsumers c s).all (fun t => opSpatial (stgOp c t) && !(stgOp c t == 3 && (spatial c (stgParams c t false)).diag))

/-- Geometry against the producers of lower number (R152, R173, R174), in a variant. -/
def inputsOk (c : Memory) (s : Nat) (v : Bool) (own : Nat × Nat × Nat) (cOut : Nat) : Bool :=
  let ps := stgProducers c s
  let lower := ps.filter (· < s)
  if stgOp c s = 0xA then
    (match ps.head? with
     | some t => s ≤ t || (stgOut c t v).1 == own.1
     | none => false) &&
    lower.all (fun t => (stgOut c t v).2 == own.2) &&
    (lower.length != ps.length || cOut == ps.foldl (fun n t => n + (stgOut c t v).1) 0)
  else lower.all (fun t => stgOut c t v == own)

/-- The variants an image holds (R178). -/
def variants (c : Memory) : List Bool := if imgWide c then [false, true] else [false]

/-- Two blocks agree outside a list of byte ranges. -/
def blocksAgree (c : Memory) (o : Nat) (skip : List (Nat × Nat)) : Bool :=
  (upto 64).all (fun i => skip.any (fun r => r.1 ≤ i && i < r.1 + r.2) || pay c (o + i) 1 == pay c (o + 64 + i) 1)

def spatialStageOk (c : Memory) (s : Nat) : Bool :=
  let op := stgOp c s
  (variants c).all (fun v =>
    let p := spatial c (stgParams c s v)
    p.ok op && (!p.diag || diagOk c s p) && (!p.zout || zoutOk c s p) && inputsOk c s v (p.cIn, p.inH, p.inW) p.cOut) &&
  (!imgWide c || blocksAgree c (stgParams c s false) [(4, 8), (0x14, 4)])

/-- The TEMPORAL_ATTENTION block and header (R228, R258). -/
def attentionOk (c : Memory) (s : Nat) : Bool :=
  let w := stgWeights c s
  (variants c).all (fun v =>
    let o := stgParams c s v
    let win := pay c (o + 0x10) 2
    let sk := pay c (o + 0x12) 2
    1 ≤ pay c o 2 && pay c o 2 ≤ 4096 && pay c (o + 2) 2 == pay c o 2 &&
    1 ≤ pay c (o + 4) 2 && pay c (o + 4) 2 ≤ 2160 && 1 ≤ pay c (o + 6) 2 && pay c (o + 6) 2 ≤ 3840 &&
    pay c (o + 8) 2 == pay c (o + 4) 2 && pay c (o + 10) 2 == pay c (o + 6) 2 &&
    1 ≤ pay c (o + 12) 1 && pay c (o + 12) 1 ≤ 64 && pay c (o + 14) 1 ≤ 4 &&
    win ≤ 4096 && sk ≤ 4096 && 1 ≤ win + sk && win + sk ≤ 4096 &&
    f32Positive (BitVec.ofNat 32 (pay c (o + 0x14) 4)) && pay c (o + 0x18) 4 != 0 &&
    inputsOk c s v (pay c o 2, pay c (o + 4) 2, pay c (o + 6) 2) (pay c (o + 2) 2)) &&
  pay c (w + 1) 1 ≤ 1 && pay c (w + 2) 1 == 0 && pay c (w + 3) 1 / 2 % 2 == 0 &&
  (!imgWide c || blocksAgree c (stgParams c s false) [(4, 8)])

/-- The DETECT_HEAD block (R264, R263). -/
def headOk (c : Memory) (s : Nat) : Bool :=
  (variants c).all (fun v =>
    let o := stgParams c s v
    let head := pay c (o + 0xC) 1
    let a := pay c (o + 0xD) 1
    let nc := pay c (o + 0xE) 1
    let hf := pay c (o + 0xF) 1
    1 ≤ pay c o 2 && pay c o 2 ≤ 4096 && pay c (o + 2) 2 == a * (4 + hf % 2 + nc) &&
    1 ≤ pay c (o + 4) 2 && pay c (o + 4) 2 ≤ 2160 && 1 ≤ pay c (o + 6) 2 && pay c (o + 6) 2 ≤ 3840 &&
    pay c (o + 8) 2 == pay c (o + 4) 2 && pay c (o + 10) 2 == pay c (o + 6) 2 &&
    head ≤ 1 && 1 ≤ a && a ≤ 8 && (head == 0 || a == 1) && 1 ≤ nc && nc ≤ 64 && hf < 4 &&
    1 ≤ pay c (o + 0x10) 1 && pay c (o + 0x10) 1 ≤ 64 && 1 ≤ pay c (o + 0x12) 2 &&
    1 ≤ pay c (o + 0x16) 2 && pay c (o + 0x16) 2 ≤ 512 && 1 ≤ pay c (o + 0x18) 2 &&
    1 ≤ pay c (o + 0x1C) 2 && pay c (o + 0x1C) 2 ≤ 65534 &&
    (upto 16).all (fun k => (pay c (o + 0x20 + 2 * k) 2 != 0) == (head == 0 && k / 2 < a)) &&
    inputsOk c s v (pay c o 2, pay c (o + 4) 2, pay c (o + 6) 2) (pay c (o + 2) 2)) &&
  stgOutputs c s == 0 && (!imgWide c || blocksAgree c (stgParams c s false) [(4, 8)])

/-- The CROP_FEATURES block and its place in the image (R263, R274). -/
def cropOk (c : Memory) (s : Nat) : Bool :=
  let ps := stgProducers c s
  let head := (stageOf c 0x20).getD 0
  (variants c).all (fun v =>
    let o := stgParams c s v
    let sizeOk := ps.all (fun t =>
      pay c o 2 * pay c (o + 2) 2 * pay c (o + 4) 2 * elemBits (pay c (stgWeights c t + 1) 1) ≤ 8388608 * 8)
    1 ≤ pay c (o + 6) 1 && pay c (o + 6) 1 ≤ 64 && 1 ≤ pay c (o + 7) 1 && pay c (o + 7) 1 ≤ 32 &&
    1 ≤ pay c (o + 8) 1 && pay c (o + 8) 1 ≤ 32 && pay c (o + 9) 1 ≤ 2 && 1 ≤ pay c (o + 10) 2 && pay c (o + 10) 2 ≤ 512 &&
    sizeOk && inputsOk c s v (pay c o 2, pay c (o + 2) 2, pay c (o + 4) 2) 0) &&
  stgOutputs c s == 0 &&
  ps.all (fun t => t < head && !(opSpatial (stgOp c t) && (spatial c (stgParams c t false)).zout)) &&
  (!imgWide c || blocksAgree c (stgParams c s false) [(2, 4)])

/-- The numeric header (R202). -/
def headerOk (c : Memory) (s : Nat) (hasMma : Bool) : Bool :=
  let w := stgWeights c s
  pay c w 1 ≤ 4 && pay c (w + 1) 1 ≤ 4 && pay c (w + 2) 1 ≤ 2 && pay c (w + 3) 1 < 4 && pay c (w + 4) 1 != 0x80 &&
  pay c (w + 5) 1 < 2 && (hasMma || pay c w 1 == 0) && (pay c (w + 5) 1 % 2 == 0 || stgFlags c s % 2 == 1)

/-- The modes a COP allows (R240). -/
def copModeOk (op mode : Nat) : Bool :=
  if op = 0 ∨ op = 2 then mode == 0 else if op = 1 ∨ op = 3 then mode ≤ 2 else mode ≤ 3

/-- One instruction of a stage (R87, R167, R202, R228, R233, R240, R258). -/
def instrOk (c : Memory) (s i w : Nat) : Bool :=
  let o := opcodeOf w
  let op := opField w 43 41
  let mode := opField w 40 38
  let cnt := opField w 37 32
  let part := opField w 31 30
  opcodeOk o &&
  (o != 9 || (opField w 33 31 == pay c (stgWeights c s) 1 &&
    (opField w 30 30 == 0 || diagOk c s (spatial c (stgParams c s false))))) &&
  (o != 0x38 ||
    (stgOp c s == 0x10 && i == 0 && (outOf w == 3 || outOf w == 4) && op ≤ 5 && copModeOk op mode &&
     (op == 1 || part == 0) &&
     (if op = 1 then cnt < 16 && (mode != 2 || cnt == 0)
      else if op = 2 then cnt + 1 == pay c (stgParams c s false + 12) 1 else cnt == 0)))

def stageOk4 (c : Memory) (s : Nat) : Bool :=
  let op := stgOp c s
  let ins := stgInstrs c s
  let known := op == 1 || opSpatial op || op == 0x10 || op == 0x20 || op == 0x21
  indicesOk c s && blocksOk c s && known && ((op == 1) == (s == 0)) && producersOk op (stgProducers c s).length &&
  headerOk c s (ins.any (fun p => opcodeOf p.2 == 9)) && ins.all (fun p => instrOk c s p.1 p.2) &&
  ((stgFlags c s % 2 == 1) == (op == 0x10)) && (stgFlags c s / 2 % 2 == 0 || op == 0x21) &&
  (stgFlags c s / 4 % 2 == 0 || op == 0x20) &&
  (if opSpatial op then spatialStageOk c s
   else if op = 1 then pay c (stgParams c s false + 0x30) 1 ≤ 4 && (!imgWide c || blocksAgree c (stgParams c s false) [])
   else if op = 0x10 then attentionOk c s
   else if op = 0x20 then headOk c s
   else cropOk c s)

/-! ### The fusion section (R181 to R189) -/

structure Fusion where
  off : Nat
  stripes : Nat
  groups : Nat
  last : Nat
  deriving DecidableEq, Repr

def fusion (c : Memory) : Fusion :=
  let o := secOff c ((fusionSecs c).headD 0)
  ⟨o, pay c (o + 2) 1, pay c (o + 3) 1, pay c (o + 4) 2⟩

def Fusion.first (f : Fusion) (c : Memory) (g : Nat) : Nat := pay c (f.off + 0x10 + 8 * g) 2
def Fusion.lastOf (f : Fusion) (c : Memory) (g : Nat) : Nat := pay c (f.off + 0x12 + 8 * g) 2
def Fusion.halo (f : Fusion) (c : Memory) (g : Nat) : Nat := pay c (f.off + 0x14 + 8 * g) 1
def Fusion.budget (f : Fusion) (c : Memory) (s : Nat) : Nat := pay c (f.off + 0x10 + 8 * f.groups + 8 * s + 4) 4

/-- The layout of the section (R182) and the groups (R183). -/
def fusionOk (c : Memory) : Bool :=
  let f := fusion c
  let n := imgStages c
  let i := (fusionSecs c).headD 0
  pay c f.off 2 == 1 && [1, 2, 4, 8].contains f.stripes && 0x10 + 8 * f.groups + 8 * n ≤ secLen c i &&
  (upto n).all (fun s => pay c (f.off + 0x10 + 8 * f.groups + 8 * s) 2 == s) &&
  (if f.stripes = 1 then f.groups == 0 && f.last == 0
   else
    1 ≤ f.groups && f.groups ≤ 64 && f.last + 1 < n && f.first c 0 == 1 &&
    (upto (f.groups - 1)).all (fun g => f.first c (g + 1) == f.lastOf c g + 1) && f.lastOf c (f.groups - 1) == f.last &&
    (upto f.groups).all (fun g => f.first c g ≤ f.lastOf c g) &&
    (upto f.last).all (fun k =>
      let s := k + 1
      [2, 3, 4, 5].contains (stgOp c s) && !(spatial c (stgParams c s true)).diag &&
      stgProducers c s == [s - 1] && stgConsumers c s == [s + 1] && stgTiles c s % f.stripes == 0) &&
    (stgProducers c (f.last + 1)).contains f.last)

/-- The last and the first input row of a run of stages `a` to `a + n` that row `o` of its last stage reads (R186). -/
def runRow (c : Memory) (a : Nat) (last : Bool) : Nat → Int → Int
  | 0, o => step a o
  | n + 1, o => runRow c a last n (step (a + n + 1) o)
where
  step (s : Nat) (o : Int) : Int :=
    let p := spatial c (stgParams c s true)
    (p.sH : Int) * o - p.padT + if last then (p.dH * (p.kH - 1) : Nat) else 0

/-- The bands at the input of group 0, in pixel rows (R184). -/
def frameBands (c : Memory) (p : Nat) : List Nat :=
  let n := rowGroups (imgH c true) (imgFmt c true)
  (upto (p + 1)).map (fun k => (k * 8 / p) * n / 8 * (if imgFmt c true = 0 then 1 else 2))

/-- The bands at the output of a group with bands `b` at its input (R187): O_0 to O_P. -/
def groupBands (c : Memory) (a n : Nat) (p : Nat) (b : List Nat) : List Nat :=
  let h := (spatial c (stgParams c (a + n) true)).outH
  (upto (p + 1)).map (fun k =>
    if k = 0 then 0 else if k = p then h
    else ((upto h).find? (fun (o : Nat) => decide (((b.getD k 0 : Nat) : Int) ≤ runRow c a true n (o : Int)))).getD h)

/-- The bands at the input of each group in turn. -/
def bandsFrom (c : Memory) (f : Fusion) : Nat → Nat → List Nat → List (List Nat)
  | 0, _, b => [b]
  | n + 1, g, b => b :: bandsFrom c f n (g + 1) (groupBands c (f.first c g) (f.lastOf c g - f.first c g) f.stripes b)

def allBands (c : Memory) : List (List Nat) :=
  let f := fusion c
  bandsFrom c f f.groups 0 (frameBands c f.stripes)

/-- The halos of a group (R188). -/
def halos (c : Memory) (f : Fusion) (g : Nat) (bands : List (List Nat)) : List Int :=
  let b := bands.getD g []
  let o := bands.getD (g + 1) []
  let a := f.first c g
  (upto f.stripes).map (fun k =>
    if k = 0 then 0
    else ((b.getD k 0 : Nat) : Int) - max (runRow c a false (f.lastOf c g - a) ((o.getD k 0 : Nat) : Int)) 0)

/-- The halo conditions with reason 0x0005. -/
def halosOk (c : Memory) : Bool :=
  let f := fusion c
  let bands := allBands c
  f.stripes == 1 || (upto f.groups).all (fun g =>
    let hs := halos c f g bands
    let b := bands.getD g []
    hs.all (· ≤ 64) &&
    (upto f.stripes).all (fun k => k == 0 || hs.getD k 0 ≤ ((b.getD k 0 : Nat) : Int) - (b.getD (k - 1) 0 : Nat)) &&
    ((f.halo c g : Nat) : Int) == hs.foldl max 0)

/-- Every stripe has an output row; otherwise the last stage of the first group at fault (reason 0x0006). -/
def stripesBad (c : Memory) : Option Nat :=
  let f := fusion c
  let bands := allBands c
  if f.stripes ≤ 1 then none
  else ((upto f.groups).find? (fun g =>
    let o := bands.getD (g + 1) []
    !(upto f.stripes).all (fun k => o.getD k 0 < o.getD (k + 1) 0))).map (f.lastOf c)

def check4 (c : Memory) : Option Nat :=
  let nFus := (fusionSecs c).length
  if (imgForerunner c && imgWide c) || nFus != b2n (imgWide c) || !sectionsOk c then some 0xFFFF
  else match firstBad c (stageOk4 c) with
    | some s => some s
    | none =>
      let many := fun (p : Nat → Bool) => ((upto (imgStages c)).filter p).length
      if 1 < many (fun s => stgOp c s == 0x10) || many (fun s => stgFlags c s / 4 % 2 == 1) != 1 ||
        1 < many (fun s => stgOp c s == 0x21) || (imgWide c && !(fusionOk c && halosOk c)) then some 0xFFFF
      else none

/-! ## Checks 5 to 7 -/

/-- The output extent of one axis (R153). -/
def outExtent (inp lo hi d k st : Nat) : Int := ((inp : Int) + lo + hi - (d : Int) * ((k : Int) - 1) - 1) / (st : Int) + 1

/-- The extents of a stage in a variant: none where they hold, else the reason (R153). The spec names no check of OUT_H and OUT_W
of an ADD, MUL or CONCAT stage against its inputs: the model accepts any (R173, R174). (DESIGN CHOICE: log entry 89.) -/
def extentBad (c : Memory) (s : Nat) (v : Bool) : Option Nat :=
  let op := stgOp c s
  let p := spatial c (stgParams c s v)
  if 2 ≤ op ∧ op ≤ 5 then
    let h := outExtent p.inH p.padT p.padB p.dH p.kH p.sH
    let w := outExtent p.inW p.padL p.padR p.dW p.kW p.sW
    if h ≤ 0 ∨ w ≤ 0 then some 6 else if h ≠ p.outH ∨ w ≠ p.outW then some 5 else none
  else if op = 6 ∨ op = 7 then
    if p.fH * p.inH ≠ p.outH ∨ p.fW * p.inW ≠ p.outW then some 5 else none
  else none

/-- Check 5: the extents, stage by stage, then the stripes. R123 lists reason 0x0006 here and gives no place to the extent that
differs from OUT_H or OUT_W, reason 0x0005: the model judges it with the extents of its stage. (DESIGN CHOICE: log entry 88.) -/
def check5 (c : Memory) : Option (Nat × Nat) :=
  match (upto (imgStages c)).findSome? (fun s => ((variants c).findSome? (extentBad c s)).map (fun r => (r, s))) with
  | some r => some r
  | none => if imgWide c then (stripesBad c).map (fun s => (6, s)) else none

/-- The budgets against the stage interval (R35, R189). (DESIGN CHOICE: log entry 18.) -/
def check6 (c : Memory) (rate : Nat) : Option Nat :=
  let t := stageInterval rate
  let f := fusion c
  match firstBad c (fun s => stgBudget c s ≤ t && (!imgWide c ||
      f.budget c s ≤ (if f.stripes ≠ 1 ∧ 1 ≤ s ∧ s ≤ f.last then 8 / f.stripes * t else 8 * t))) with
  | some s => some s
  | none => if imgMaxBudget c ≤ t then none else some 0xFFFF

/-- Dependency cycles (R124). Cycles of circuits inside a stage are the part's own finding (log entry 18). -/
def check7 (c : Memory) (digest : BitVec 512) : Option Nat :=
  match firstBad c (fun s => (stgProducers c s).all (· < s)) with
  | some s => some s
  | none => (Config.loopBad digest).map (·.toNat)

/-- Checks 3 to 7 in order: the reason and the stage at fault. (DEDUCED: log entry 73.) -/
def checks3to7 (c : Memory) (rate : Nat) (digest : BitVec 512) : Option (Nat × Nat) :=
  match check3 c with
  | some s => some (4, s)
  | none => match check4 c with
    | some s => some (5, s)
    | none => match check5 c with
      | some r => some r
      | none => match check6 c rate with
        | some s => some (7, s)
        | none => (check7 c digest).map (fun s => (9, s))

end Sys2Proof.Machine
end

