-- ==== Sys2Proof/Machine/Groups.lean ====
section
/-! DEFINITION. Groups of elements that share a scale: deriving a scale and converting under it (R205 to R207, R214), the
activations (R165), and the zero-compressed form of a row (R194). -/

namespace Sys2Proof.Machine

/-- The activation of R165 on an exact value. -/
def activate (hd : NumHdr) (q : Q) : Q :=
  match hd.act with
  | 1 => q.max (Q.ofInt 0)
  | 2 => (q.max (f32 hd.actA)).min (f32 hd.actB)
  | 3 => if 0 ≤ q.num then q else (f32 hd.actA).mul q
  | 4 => (q.mul (((q.add (Q.ofInt 3)).max (Q.ofInt 0)).min (Q.ofInt 6))).mul ⟨1, 6⟩
  | _ => q

/-! ## Scales of groups (R205, R206, R214) -/

/-- Element format and scale format of a side: false output, true input (R212). -/
def NumHdr.fmt (hd : NumHdr) (side : Bool) : Nat := if side then hd.cfmt else hd.ofmt
def NumHdr.sf (hd : NumHdr) (side : Bool) : Bool := if side then hd.sfmt % 2 == 1 else hd.sfmt / 2 % 2 == 1

/-- The quotient v / s of R207. A scale of 0 (R200) makes every value but 0 saturate. -/
def quot (v s : Q) : Q :=
  if s.num = 0 then (if v.num = 0 then ⟨0, 1⟩ else if v.num < 0 then ⟨-(2 ^ 20 : Nat), 1⟩ else ⟨(2 ^ 20 : Nat), 1⟩)
  else v.div s

/-- A group is converted in carried mode: an output-side group of a CARRY stage with a carried scale (R214). -/
def carriedMode (hd : NumHdr) (side : Bool) (g : GState) : Bool :=
  !side && hd.carry && !(loadScale (hd.sf false) g.carried 0).konst

/-- Add one FP32 value to a group state (R205, R212, R214). -/
def GState.scan (g : GState) (hd : NumHdr) (side : Bool) (v : Word) : GState :=
  let m := v &&& 0x7FFFFFFF#32
  let first := if g.count = 0 then v else g.first
  let p := if carriedMode hd side g then
      (elemCode (hd.fmt side) (quot (f32 v) (scaleVal (loadScale (hd.sf false) g.carried 0) hd.fine))).2
    else (false, false)
  { g with
    amax := if f32Int g.amax < (f32Int v).natAbs then m else g.amax
    first := first
    allEq := g.count == 0 || (g.allEq && f32Int v == f32Int first)
    count := g.count + 1
    predSat := g.predSat + b2n p.1
    predUfl := g.predUfl + b2n p.2 }

/-- The field of a group holds at least 4 bytes (R206). -/
def constFits (fmt n : Nat) : Bool := 4 ≤ n * elemBits fmt / 8

/-- What SEAL makes of a group state: its scale, whether the guard tripped, and the saturations and underflows counted
(R205, R206, R214, R215). (DEDUCED: log entry 24.) -/
def GState.seal (g : GState) (hd : NumHdr) (side guardEn : Bool) (limit : Word) : Scale × Bool × Nat × Nat :=
  let sf := hd.sf side
  let fmt := hd.fmt side
  let counted := carriedMode hd side g
  let mk := fun (code : Byte) (c : Word) => { loadScale sf code c with counted := counted }
  if f32Int g.amax = 0 then (mk (zeroGroupCode sf) 0, false, 0, 0)
  else if g.allEq && constFits fmt g.count then (mk (markerCode sf) g.first, false, 0, 0)
  else
    let present := presentCode sf fmt hd.fine (f32 g.amax)
    if counted then
      let trip := fld limit 7 0 ≤ g.predSat || fld limit 15 8 ≤ g.predUfl
      (mk (if trip && guardEn then present else g.carried) 0, trip, g.predSat, g.predUfl)
    else (mk present 0, false, 0, 0)

/-- One element under a sealed scale: its code, its outcomes and the value it decodes to (R206, R207). -/
def encodeElem (hd : NumHdr) (side : Bool) (sc : Scale) (v : Word) : Nat × Bool × Bool × Q :=
  let fmt := hd.fmt side
  if sc.konst then
    let b := elemBits fmt
    (if sc.idx < 32 / b then sc.c.toNat / 2 ^ (b * sc.idx) % 2 ^ b else 0, false, false, f32 sc.c)
  else
    let sv := scaleVal sc hd.fine
    let e := elemCode fmt (quot (f32 v) sv)
    (e.1, e.2.1, e.2.2, Q.mul ⟨(elemVal fmt e.1).1, 65536⟩ sv)

/-! ## Zero compression (R194) -/

/-- The bytes of a burst. -/
def burstBytes (v : Burst) : List Byte := leBytes 32 v.toNat

/-- Non-zero bytes that the bitmap words of a row of `n` chunks announce (R194). -/
def mapBits (maps : List Burst) (n : Nat) : Nat :=
  ((maps.map burstBytes).flatten.take (4 * n)).foldl (fun a b => a + ((upto 8).filter (fun i => bit b i)).length) 0

/-- The bitmap of a chunk (R194). -/
def chunkMap (bs : List Byte) : Nat := ((bs.zip (upto 32)).filter (fun p => p.1 != 0#8)).foldl (fun n p => n + 2 ^ p.2) 0

/-- The bitmap words and the data words of a row of chunks (R194). -/
def compressRow (chunks : List Burst) : List Burst :=
  let n := chunks.length
  let maps := (upto ((n + 7) / 8)).map (fun j =>
    BitVec.ofNat 256 ((upto 8).foldr (fun i a => (if 8 * j + i < n then chunkMap (burstBytes (chunks.getD (8 * j + i) 0)) else 0) + 2 ^ 32 * a) 0))
  let data := ((chunks.map burstBytes).flatten).filter (· != 0#8)
  maps ++ (upto ((data.length + 31) / 32)).map (fun j => burstOf (padTo 32 ((data.drop (32 * j)).take 32)))

/-- The decoded row: a byte where the bitmap has a bit, zero elsewhere. -/
def spread : List Bool → List Byte → List Byte
  | [], _ => []
  | true :: ms, b :: bs => b :: spread ms bs
  | _ :: ms, bs => 0#8 :: spread ms bs

/-- The chunks of a row from its bitmap words and data bytes (R194). -/
def expandRow (maps : List Burst) (bytes : List Byte) (n : Nat) : List Burst :=
  let bits := ((maps.map burstBytes).flatten.take (4 * n)).flatMap (fun b => (upto 8).map (fun i => bit b i))
  let row := spread bits bytes
  (upto n).map (fun i => burstOf ((row.drop (32 * i)).take 32))

/-- The row bytes that are settled once `n` data bytes are there: up to the first byte of the bitmap that still wants one. -/
def settled : List Bool → Nat → Nat
  | [], _ => 0
  | false :: ms, n => settled ms n + 1
  | true :: _, 0 => 0
  | true :: ms, n + 1 => settled ms n + 1

/-- The bitmap of a row of `k` chunks, a bit a byte. -/
def rowBits (maps : List Burst) (k : Nat) : List Bool :=
  ((maps.map burstBytes).flatten.take (4 * k)).flatMap (fun b => (upto 8).map (fun i => bit b i))

end Sys2Proof.Machine
end

