-- ==== Sys2Proof/Machine/Fabric.lean ====
section
/-! DEFINITION. The fabric's moving parts: route tables and wires (R80 to R84, R99, R100), words and queues (R76 to R79,
R102 to R105), lanes and credits (R83, R92), contexts (R93 to R97), frame aborts (R108, R109) and a flush of everything
(R106, R107). -/

namespace Sys2Proof.Machine

/-! ## Wires and routes -/

/-- The key of a wire: network 0 vector, 1 scalar, 2 control; wire 0 N, 1 E, 2 S, 3 W, 4 L0, 5 L1; 8 to 11 the crossing from
output 0 to 3 into an engine-domain unit. -/
def wireKey (t net wire : Nat) : Nat := 64 * t + 16 * net + wire

/-- The tile, the network and the wire of a key. -/
def keyTile (k : Nat) : TileAddr := BitVec.ofNat 16 (k / 64)
def keyNet (k : Nat) : Nat := k / 16 % 4
def keyWire (k : Nat) : Nat := k % 16

/-- The bits of word `k` of a context slot that are not reserved (R99 to R101): a reserved field reads as zero (R5). -/
def slotMask (k : Nat) : Word :=
  if k = 0 then 0x01FF0003#32
  else if k = 1 ∨ k = 2 then 0x1FFF#32
  else if 4 ≤ k ∧ k < 8 then 0xFFFFFFFF#32
  else if 8 ≤ k ∧ k < 24 then (if k % 2 = 0 then 0x1FFF001F#32 else 0xFFFFFF00#32)
  else if 24 ≤ k ∧ k < 33 then 0x0F8F0F8F#32
  else 0#32

/-- Write word `k` of slot `slot`: reserved bits stay zero (R5, R99). -/
def Tile.putSlot (x : Tile) (slot k : Nat) (v : Word) : Tile :=
  { x with slots := tset 0#32 x.slots (64 * slot + k) (v &&& slotMask k) }

/-- A word of a context slot (R99). -/
def Tile.slotWord (x : Tile) (slot off : Nat) : Word := tget 0#32 x.slots (64 * slot + off / 4)

/-- The slot is valid; its mode is rule mode; its stage. -/
def Tile.slotValid (x : Tile) (slot : Nat) : Bool := bit (x.slotWord slot 0) 0
def Tile.ruleMode (x : Tile) (slot : Nat) : Bool := bit (x.slotWord slot 0) 1
def Tile.slotStage (x : Tile) (slot : Nat) : Nat := fld (x.slotWord slot 0) 24 16

/-- A route entry (R100). -/
def Tile.route (x : Tile) (slot net wire : Nat) : Nat :=
  fld (x.slotWord slot (0x60 + 12 * net + 2 * wire)) (16 * (wire % 2) + 15) (16 * (wire % 2))

/-- TERM and QUEUE of an entry. -/
def routeTerm (e : Nat) : Bool := e / 128 % 2 == 1
def routeQueue (e : Nat) : Nat := e % 16
def routeOut (e dir : Nat) : Bool := e / 2 ^ (8 + dir) % 2 == 1

/-- A queue belongs to a network (R102). (DEDUCED: log entry 23.) -/
def netOfQueue (q : Nat) : Nat := if q < 8 then 0 else if q < 12 then 1 else 2

/-- 32 bytes of SRAM from a 64-bit word on. -/
def Tile.readV (x : Tile) (w : Nat) : Burst :=
  BitVec.ofNat 256 ((upto 4).foldr (fun i n => (tget 0#64 x.sram (w + i)).toNat + 2 ^ 64 * n) 0)
def Tile.writeV (x : Tile) (w : Nat) (v : Burst) : Tile :=
  { x with sram := (upto 4).foldl (fun m i => tset 0#64 m (w + i) (BitVec.ofNat 64 (v.toNat / 2 ^ (64 * i)))) x.sram }

/-- The ends of the links of spare 64 + k within its block (R129): rows 2k and 2k + 1 of column 7, and the spares beside it. -/
def spareEnds (k : Nat) : List Nat :=
  [16 * k + 7, 16 * k + 15] ++ (if 0 < k then [63 + k] else []) ++ (if k < 3 then [65 + k] else [])

/-- Where a wire out of a tile leads (R8, R129): the tile beyond it and the input wire there. -/
def neighbour (t : TileAddr) (dir : Nat) : Option (TileAddr × BitVec 2) :=
  let p := posOf t
  let at_ := fun (q : Nat) => packTile (sectorOf t) (blockOf t) q
  if p < 64 ∧ dir = 0 ∧ 8 ≤ p then some (at_ (p - 8), 2)
  else if p < 64 ∧ dir = 2 ∧ p < 56 then some (at_ (p + 8), 0)
  else if p < 64 ∧ dir = 1 ∧ p % 8 < 7 then some (at_ (p + 1), 3)
  else if p < 64 ∧ dir = 3 ∧ 0 < p % 8 then some (at_ (p - 1), 1)
  else if 64 ≤ p then
    let port := Config.sparePort t (BitVec.ofNat 2 dir)
    (spareEnds (p - 64))[port.1.toNat]?.map (fun q => (at_ q, port.2))
  else Config.edgeTile t (BitVec.ofNat 2 dir)

/-- The queues in which a slot's routes terminate (R96): the queues a context reads. -/
def Tile.readQueues (x : Tile) (slot : Nat) : List Nat :=
  ((upto 3).map (fun net => ((upto 6).filter (fun w => routeTerm (x.route slot net w))).map
    (fun w => routeQueue (x.route slot net w)))).flatten.eraseDups

/-- The lanes a slot uses: those whose entry drives a wire or ends in a queue. Lane 2 net + 0 or 1. -/
def Tile.lanes (x : Tile) (slot : Nat) : List Nat :=
  (upto 6).filter (fun l => let e := x.route slot (l / 2) (4 + l % 2); routeTerm e || e / 256 % 16 != 0)

/-! ## Crossings between clock domains (R18, R21, R415) -/

/-- The dual-clock queue that output `d` of a tile feeds, as the key of the wire at its receiving side: the outputs that
leave the sector, and those into an engine-domain unit. -/
def crossKey (t : TileAddr) (net d : Nat) : Option Nat :=
  match neighbour t d with
  | some (t', w) => if sectorOf t = sectorOf t' then none else some (wireKey t'.toNat net w.toNat)
  | none => if (Config.edgeUnit t (BitVec.ofNat 2 d)).isSome then some (wireKey t.toNat net (8 + d)) else none

/-- The occupancy at which a dual-clock queue of 24 words raises HOLD (R415). -/
def dcqHold : Nat := 16

/-- The words that stand at a wire, oldest first. -/
def State.atWire (s : State) (key : Nat) : List QWord := (s.fab.links.filter (fun l => l.wire == key)).map (·.w)

/-- The dual-clock queue before a wire raises HOLD (R415). -/
def State.holdRaised (s : State) (key : Nat) : Bool := dcqHold ≤ (s.atWire key).length

/-- An output of a route entry is a crossing whose queue raises HOLD: the edge switch keeps the word (R415). -/
def State.outHeld (s : State) (t : TileAddr) (net e : Nat) : Bool :=
  (upto 4).any (fun d => routeOut e d && (crossKey t net d).any s.holdRaised)

/-- A crossing on the way of a wire's words raises HOLD, so the circuit holds back to the injecting tile (R415). -/
def State.pathHeld (s : State) (slot net : Nat) : Nat → TileAddr → Nat → Bool
  | 0, _, _ => false
  | fuel + 1, t, wire =>
    let e := (s.tile t).route slot net wire
    s.outHeld t net e ||
    (upto 4).any (fun d => routeOut e d && (match neighbour t d with
      | some (t', w') => State.pathHeld s slot net fuel t' w'.toNat
      | none => false))

/-- A unit, or admission, offers a word to the wire of its circuit: it goes out unless HOLD is raised or an earlier word of the wire
still waits with the unit (R18, R415). -/
def State.offer (s : State) (l : LinkWord) : State :=
  if s.holdRaised l.wire || s.fab.unsent.any (fun m => m.wire == l.wire) then
    { s with fab := { s.fab with unsent := s.fab.unsent ++ [l] } }
  else { s with fab := { s.fab with links := s.fab.links ++ [l] } }

/-- A word has left a wire: the oldest one that waits for it at a unit follows once HOLD is low. -/
def State.refill (s : State) (key : Nat) : State :=
  match s.fab.unsent.find? (fun m => m.wire == key) with
  | some m => if s.holdRaised key then s
    else { s with fab := { s.fab with links := s.fab.links ++ [m], unsent := s.fab.unsent.erase m } }
  | none => s

/-- A lane is held back by a crossing on its circuit (R415). (DEDUCED: log entry 76.) -/
def State.laneHeld (s : State) (t : TileAddr) (slot lane : Nat) : Bool := s.pathHeld slot (lane / 2) 512 t (4 + lane % 2)

/-- A word stands in a dual-clock queue that has a side among these tiles or these engine-domain units. -/
def inCrossing (p : TileAddr → Bool) (u : Nat → Bool) (l : LinkWord) : Bool :=
  let t := keyTile l.wire
  let w := keyWire l.wire
  let unit := fun (d : Nat) => (Config.edgeUnit t (BitVec.ofNat 2 d)).any (fun k => u k.toNat)
  if 8 ≤ w then p t || unit (w - 8)
  else if 4 ≤ w then false
  else match neighbour t w with
    | some (o, _) => sectorOf o != sectorOf t && (p o || p t)
    | none => p t || unit w

/-- A side of these dual-clock queues is reset: their words are discarded and counted (R416). -/
def State.loseCrossings (s : State) (p : TileAddr → Bool) (u : Nat → Bool) : State :=
  let lost := (s.fab.links.filter (inCrossing p u)).length
  if lost = 0 then s
  else (({ s with fab := { s.fab with links := s.fab.links.filter (fun l => !inCrossing p u l) } }).count Reg.clkDcqLostCnt lost).setBits
    Reg.clkStat 0x4#32

/-! ## Words -/

/-- A word of data from a lane. -/
def isEnd (net : Nat) (w : QWord) : Bool :=
  if net = 2 then w.kind == 3#3 || w.kind == 4#3 else w.kind == 2#3 || w.kind == 3#3
def isAbort (net : Nat) (w : QWord) : Bool := if net = 2 then w.kind == 4#3 else w.kind == 3#3
def isCtxEnd (net : Nat) (w : QWord) : Bool := if net = 2 then w.kind == 6#3 else w.kind == 4#3
def isCtxSwitch (net : Nat) (w : QWord) : Bool := net == 2 && w.kind == 5#3

/-- The reason of an abort: 1 FLUSH, 2 FAULT, 3 REMAP (R78, R109). -/
def abortReason (net : Nat) (w : QWord) : Nat := if net = 2 then fld w.data 2 0 else fld w.data 7 0

/-- A source that holds no credit: admission, an engine-domain unit, or the model's own insertion. -/
def noSrc : Nat := 0xFFFFF

/-- A control token's data byte (R78). -/
def tokenData (tag kind arg : Nat) : Burst := BitVec.ofNat 256 (tag % 4 * 64 + kind % 8 * 8 + arg % 8)

/-- An abort word, and a CTX_END word, of a network. -/
def abortWord (net tag reason src : Nat) : QWord :=
  if net = 2 then ⟨BitVec.ofNat 2 tag, 4, tokenData tag 4 reason, src⟩ else ⟨BitVec.ofNat 2 tag, 3, BitVec.ofNat 256 reason, src⟩
def ctxEndWord (net tag src : Nat) : QWord :=
  if net = 2 then ⟨BitVec.ofNat 2 tag, 6, tokenData tag 6 0, src⟩ else ⟨BitVec.ofNat 2 tag, 4, 0, src⟩

/-! ## Queues -/

def Tile.queue (x : Tile) (q : Nat) : Queue := tget Queue.zero x.queues q
def Tile.setQueue (x : Tile) (q : Nat) (v : Queue) : Tile := { x with queues := tset Queue.zero x.queues q v }
def Queue.depth (v : Queue) : Nat := fld v.cfg 22 16
def Tile.credit (x : Tile) (lane : Nat) : Nat := (tget 0 x.credits lane).toNat
def Tile.setCredit (x : Tile) (lane n : Nat) : Tile := { x with credits := tset 0 x.credits lane (BitVec.ofNat 7 n) }
def Tile.takenOf (x : Tile) (q : Nat) : Nat := tget 0 x.taken q
def Tile.sentOf (x : Tile) (lane : Nat) : Nat := tget 0 x.sent lane

/-- The queue has room for one more word behind its stored words and pending aborts (R83, R137). -/
def Queue.room (v : Queue) : Bool := v.words.length + v.pend.length < v.depth || v.discard + v.drop != 0

/-- The SRAM word at which word `n` of a vector queue begins: the queue is a ring of DEPTH places of 32 bytes from BASE on
(R102, R117). (DEDUCED: log entry 74.) -/
def Queue.place (v : Queue) (n : Nat) : Nat := fld v.cfg 12 0 + 4 * ((v.rpos + n) % max v.depth 1)

/-- A queue's words stand in SRAM: a vector queue whose place lies inside it (R69, R102). -/
def Queue.inSram (v : Queue) (q n : Nat) : Bool := q < 8 && decide (v.place n + 3 ≤ 6143)

/-- The bank of a 64-bit SRAM word (R73). -/
def bankOf (word : Nat) : Nat := word / 4 % 8

/-- Put the data of word `n` of a vector queue in its place; `port` where the write comes from the network and takes the
bank in this cycle (R73). -/
def Tile.storeWord (x : Tile) (q n : Nat) (d : Burst) (port : Bool) : Tile :=
  let v := x.queue q
  if v.inSram q n then
    { x.writeV (v.place n) d with
      qbanks := if port then x.qbanks ||| BitVec.ofNat 8 (2 ^ bankOf (v.place n)) else x.qbanks }
  else x

/-- Word `n` of a queue as it is read: the data of a vector queue come from SRAM. -/
def Tile.wordAt (x : Tile) (q n : Nat) (w : QWord) : QWord :=
  let v := x.queue q
  if v.inSram q n then { w with data := x.readV (v.place n) } else w

/-- The words of a queue as they are read. -/
def Tile.queueWords (x : Tile) (q : Nat) : List QWord :=
  let ws := (x.queue q).words
  (ws.zip (upto ws.length)).map (fun p => x.wordAt q p.2 p.1)

/-- Give a queue a list of words, each in its place, and raise HIGH_WATER to the words held (R115). -/
def Tile.putWords (x : Tile) (q : Nat) (ws : List QWord) : Tile :=
  let v := x.queue q
  let y := x.setQueue q { v with
    words := ws, high := if v.high.toNat < ws.length then BitVec.ofNat 32 ws.length else v.high }
  (ws.zip (upto ws.length)).foldl (fun y p => y.storeWord q p.2 p.1.data false) y

/-- What a queue presents as its head: a stored word, or a pending abort behind the stored words (R137). -/
def Tile.head (x : Tile) (q : Nat) : Option QWord :=
  let v := x.queue q
  match v.words with
  | w :: _ => some (x.wordAt q 0 w)
  | [] => v.pend.head?.map (fun p => abortWord (netOfQueue q) p.1.toNat p.2.toNat noSrc)

/-- Pending aborts take places as places free (R137). -/
def Tile.settle (x : Tile) (q : Nat) : Tile :=
  let v := x.queue q
  let n := min v.pend.length (v.depth - v.words.length)
  if n = 0 then x
  else
    let ws := (v.pend.take n).map (fun p => abortWord (netOfQueue q) p.1.toNat p.2.toNat noSrc)
    (x.setQueue q { v with pend := v.pend.drop n }).putWords q (x.queueWords q ++ ws)

/-- Owe a credit for a word taken out of queue `q` of tile `t`. -/
def State.owe (s : State) (t : TileAddr) (q : Nat) (w : QWord) : State :=
  if w.src = noSrc then s
  else { s with fab := { s.fab with creditBack := s.fab.creditBack ++ [(w.src, 16 * t.toNat + q)] } }

/-- Remove the head of a queue of a tile, with the credit it returns and the count of ends taken. -/
def State.takeHead (s : State) (t : TileAddr) (q : Nat) : State :=
  let x := s.tile t
  let v := x.queue q
  let net := netOfQueue q
  let count := fun (y : Tile) (e : Bool) => if e then { y with taken := tset 0 y.taken q (y.takenOf q + 1) } else y
  match v.words with
  | w :: ws =>
    let v' := { v with
      words := ws, rpos := (v.rpos + 1) % max v.depth 1
      begun := !isEnd net w && (v.begun || !(isCtxEnd net w || isCtxSwitch net w)) }
    (s.setTile t (count ((x.setQueue q v').settle q) (isEnd net w))).owe t q w
  | [] => s.setTile t (count (x.setQueue q { v with pend := v.pend.drop 1, begun := false }) (!v.pend.isEmpty))

/-- An abort that a switch put in place of a damaged word (R79): bit 8 marks that words of the frame still follow it. -/
def brokenMark (w : QWord) : Bool := bit w.data 8

/-- Put a word at the tail of a queue: dropped while ends are still to be discarded, else stored and counted; what
follows the abort of a broken frame is discarded up to the frame's end (R79, R105, R106, R108, R115). R115 does not say
whether a word discarded on arrival is a word written: the model counts it in WORDS_IN. (DESIGN CHOICE: log entry 77.) -/
def State.enqueue (s : State) (t : TileAddr) (q : Nat) (w : QWord) : State :=
  let x := s.tile t
  let v := x.queue q
  let net := netOfQueue q
  if v.discard + v.drop ≠ 0 ∧ ¬ isCtxEnd net w ∧ ¬ isCtxSwitch net w then
    let e := isEnd net w
    let v' := { v with
      wordsIn := v.wordsIn + 1#32
      flushed := if v.discard ≠ 0 then v.flushed + 1#32 else v.flushed
      discard := if e ∧ v.discard ≠ 0 then v.discard - 1 else v.discard
      drop := if e ∧ v.discard = 0 then v.drop - 1 else v.drop }
    let y := x.setQueue q v'
    (s.setTile t (if e ∧ v.discard = 0 then { y with taken := tset 0 y.taken q (y.takenOf q + 1) } else y)).owe t q w
  else
    let broken := isAbort net w && brokenMark w
    let w' := if broken then { w with data := w.data &&& 0xFF#256 } else w
    let ws := v.words ++ [w']
    s.setTile t ((x.setQueue q { v with
      words := ws
      discard := if broken then v.discard + 1 else v.discard
      wordsIn := v.wordsIn + 1#32
      high := if v.high.toNat < ws.length then BitVec.ofNat 32 ws.length else v.high }).storeWord q v.words.length w'.data true)

/-- Drop from the head of a queue until `n` more ends are gone; what is not there yet is dropped on arrival (R108). -/
def State.dropFrames (s : State) (t : TileAddr) (q : Nat) : Nat → Nat → State
  | _, 0 => s
  | 0, n + 1 =>
    let x := s.tile t
    s.setTile t (x.setQueue q { x.queue q with drop := (x.queue q).drop + n + 1 })
  | fuel + 1, n + 1 =>
    match (s.tile t).head q with
    | none =>
      let x := s.tile t
      s.setTile t (x.setQueue q { x.queue q with drop := (x.queue q).drop + n + 1 })
    | some w => State.dropFrames (s.takeHead t q) t q fuel (if isEnd (netOfQueue q) w then n else n + 1)

/-! ## Lanes -/

/-- The queues a wire's word ends in, following the routes of its tag, as packed tile and queue. -/
def State.destsFrom (s : State) (slot net : Nat) : Nat → TileAddr → Nat → List (TileAddr × Nat)
  | 0, _, _ => []
  | fuel + 1, t, wire =>
    let e := (s.tile t).route slot net wire
    (if routeTerm e then [(t, routeQueue e)] else []) ++
    ((upto 4).map (fun d =>
      if routeOut e d then
        match neighbour t d with
        | some (t', w') => State.destsFrom s slot net fuel t' w'.toNat
        | none => []
      else [])).flatten

/-- The destinations of a lane of a tile. -/
def State.laneDests (s : State) (t : TileAddr) (slot lane : Nat) : List (TileAddr × Nat) :=
  s.destsFrom slot (lane / 2) 512 t (4 + lane % 2)

/-- The wires into engine-domain units that a wire's word ends in, as their credit keys. -/
def State.unitsFrom (s : State) (slot net : Nat) : Nat → TileAddr → Nat → List Nat
  | 0, _, _ => []
  | fuel + 1, t, wire =>
    let e := (s.tile t).route slot net wire
    ((upto 4).map (fun d =>
      if routeOut e d then
        match neighbour t d with
        | some (t', w') => State.unitsFrom s slot net fuel t' w'.toNat
        | none => if (Config.edgeUnit t (BitVec.ofNat 2 d)).isSome then [2 ^ 20 + 4 * t.toNat + d] else []
      else [])).flatten

/-- The credits with which a lane starts (R83): the smallest free depth of its destinations. The depth of the queue in which
a circuit into an engine-domain unit ends is free (log entry 75). -/
def State.laneCredit (s : State) (t : TileAddr) (slot lane : Nat) : Nat :=
  let qs := (s.laneDests t slot lane).map (fun d => ((s.tile d.1).queue d.2).depth - ((s.tile d.1).queue d.2).words.length)
  let us := (s.unitsFrom slot (lane / 2) 512 t (4 + lane % 2)).map (fun k =>
    match Config.edgeUnit (BitVec.ofNat 16 ((k - 2 ^ 20) / 4)) (BitVec.ofNat 2 k) with
    | some u => (Config.unitDepth u).toNat
    | none => 0)
  match qs ++ us with
  | [] => 0
  | n :: ns => ns.foldl min n

/-- Send a word on a lane of a tile: it stands on the tile's own lane wire, and the lane gives up a credit. -/
def State.sendLane (s : State) (t : TileAddr) (lane : Nat) (w : QWord) : State :=
  let x := s.tile t
  let net := lane / 2
  let n := x.sentOf lane
  let sent' := if isEnd net w then 2 * (n / 2 + 1) else if isCtxEnd net w || isCtxSwitch net w then n else 2 * (n / 2) + 1
  let y := { (x.setCredit lane (x.credit lane - 1)) with sent := tset 0 x.sent lane sent' }
  let u := s.setTile t y
  { u with fab := { u.fab with links := u.fab.links ++ [⟨wireKey t.toNat net (4 + lane % 2), { w with src := 8 * t.toNat + lane }⟩] } }

/-- Every lane of a list holds a credit. -/
def Tile.creditsFor (x : Tile) (ls : List Nat) : Bool := ls.all (fun l => x.credit l != 0)

/-! ## Counters of a tile, frame state -/

/-- The reload value of counter `k` in a slot. -/
def Tile.reload (x : Tile) (slot k : Nat) : BitVec 16 :=
  BitVec.ofNat 16 (fld (x.slotWord slot (0x10 + 2 * k)) (16 * (k % 2) + 15) (16 * (k % 2)))

/-- Every counter takes its reload value (R91). -/
def Tile.loadCounters (x : Tile) (slot : Nat) : Tile :=
  { x with c := tfill 0 8 (x.reload slot) x.c }

/-- A decrement of a counter (R91). -/
def Tile.decCounter (x : Tile) (slot k : Nat) : Tile :=
  let v := tget 0 x.c k
  { x with c := tset 0 x.c k (if v = 0 then x.reload slot k - 1 else v - 1) }

/-- What a tile keeps for the variant of a slot (R158, R180). -/
def Tile.workOf (x : Tile) (slot : Nat) : Work := tget Work.zero x.work (slot % 2)
def Tile.setWork (x : Tile) (slot : Nat) (k : Work) : Tile := { x with work := tset Work.zero x.work (slot % 2) k }

/-- Both buffers empty, with the next frame to work (R179). -/
def Work.clear (k : Work) (n : Nat) : Work := { k with parts := [], next := [], rows := [], accs := 0, sent := 0, done := n }

/-- The part of a tile that an abandoned frame loses: step, counters, accumulators, the numeric state and the buffers of the
variant (R108, R179, R213). -/
def Tile.abandon (x : Tile) (slot : Nat) : Tile :=
  ({ x with
    steps := tset 0 x.steps slot 0, handler := none, a := [], g := [], mmas := [], accAt := [], xsc := [], wsc := [],
    osc := [], isc := [], og := [], ig := [], z := ZState.zero, aborting := none
    work := tset Work.zero x.work (slot % 2) ((x.workOf slot).clear (x.workOf slot).done) }).loadCounters slot

/-- The stage's numeric header as the tile's slot names it. -/
def State.hdrOf (s : State) (x : Tile) (slot : Nat) : NumHdr := tget NumHdr.zero s.num.hdrs (x.slotStage slot)

/-! ## Contexts (R93 to R96) -/

/-- The context that issues: the retiring slot where it can, else the active one (R95). -/
def Tile.contexts (x : Tile) : List Nat := (x.retiring.map (·.toNat)).toList ++ [x.active.toNat]

/-- Slot `a` has delivered the end marker of every queue it reads (R96). -/
def Tile.allDelivered (x : Tile) (a : Nat) : Bool := (x.readQueues a).all (fun q => x.delivered.contains (16 * a + q))

/-- Send the CTX_END words that retired slots still owe, on each lane that holds a credit (R83, R96). -/
def State.sendCtxEnds (s : State) (t : TileAddr) : State :=
  (s.tile t).ctxEnds.foldl (fun u k =>
    let y := u.tile t
    if y.credit (k % 8) = 0 || u.laneHeld t (k / 8) (k % 8) then u
    else (u.setTile t { y with ctxEnds := y.ctxEnds.erase k }).sendLane t (k % 8) (ctxEndWord (k % 8 / 2) (k / 8) noSrc)) s

/-- End the retirement of slot `a` where every queue has delivered and no frame of the slot is still to be abandoned:
CTX_END is then owed to every lane of the slot, and leaves on each as it holds a credit (R96). -/
def State.tryRetire (s : State) (t : TileAddr) : State :=
  let x := s.tile t
  match x.retiring with
  | none => s.sendCtxEnds t
  | some a =>
    if x.allDelivered a.toNat ∧ ¬ x.aborting.any (fun p => p.1 == a) then
      (s.setTile t { x with
        retiring := none, delivered := x.delivered.filter (fun k => k / 16 != a.toNat)
        ctxEnds := x.ctxEnds ++ (x.lanes a.toNat).map (8 * a.toNat + ·) }).sendCtxEnds t
    else s.sendCtxEnds t

/-- The frame a tile is in under a slot: the ends it has sent on the slot's slowest lane, or taken where it has no lane. -/
def Tile.frameNo (x : Tile) (c : Nat) : Nat :=
  match (x.lanes c).map (fun l => x.sentOf l / 2) with
  | n :: ns => ns.foldl min n
  | [] => match (x.readQueues c).map x.takenOf with
    | n :: ns => ns.foldl min n
    | [] => 0

/-- The first frame that slot `b` works after a switch from slot `a`, counted from the fabric's base: the first frame
inside of the other geometry that slot `a` has not ended (R98). -/
def State.switchFrame (s : State) (t : TileAddr) (a b : Nat) : Nat :=
  let now := s.fab.base + (s.tile t).frameNo a
  let ords := s.adm.frames.filterMap (fun f => if f.wide == (b % 2 == 1) then f.ordinal.filter (now ≤ ·) else none)
  match ords with
  | [] => now - s.fab.base
  | n :: ns => ns.foldl min n - s.fab.base

/-- Lanes and queues that a slot uses and the one before it did not carry ends from its first frame `n` on (R193); its buffers
start empty at that frame (R180). -/
def Tile.realign (x : Tile) (a b n : Nat) : Tile :=
  { x with
    sent := ((x.lanes b).filter (fun l => !(x.lanes a).contains l)).foldl (fun m l => tset 0 m l (2 * n)) x.sent
    taken := ((x.readQueues b).filter (fun q => !(x.readQueues a).contains q)).foldl (fun m q => tset 0 m q n) x.taken
    work := tset Work.zero x.work (b % 2) ((x.workOf b).clear n) }

/-- Make slot `b` active; the slot that was active retires (R93, R95). The spec does not say what a second switch does while
an earlier slot still retires: the slot left last retires, and the earlier retirement is given up.
(DESIGN CHOICE: log entry 78.) -/
def State.switchTo (s : State) (t : TileAddr) (b : Nat) : State :=
  let x := s.tile t
  let a := x.active.toNat
  if a = b then s
  else s.setTile t ((({ x with retiring := some x.active, active := BitVec.ofNat 2 b }).realign a b (s.switchFrame t a b)).loadCounters b)

/-! ## Aborts (R108, R109) -/

/-- The aborts present at the heads of the queues slot `c` reads that stand for the frame it is in, with their queues. An
abort of a later frame waits at its head until the tile has ended the frames before it (R92). (DEDUCED: log entry 20.) -/
def Tile.abortHeads (x : Tile) (c : Nat) : List (Nat × Nat) :=
  (x.readQueues c).filterMap (fun q => match x.head q with
    | some w => if isAbort (netOfQueue q) w && w.tag.toNat == c && decide (x.takenOf q ≤ x.frameNo c) then
        some (q, abortReason (netOfQueue q) w) else none
    | none => none)

/-- The reasons of the aborts of frame `n` among the words of a queue, the first of which belong to frame `k`. -/
def reasonsOf (net n : Nat) : Nat → List QWord → List Nat
  | _, [] => []
  | k, w :: ws =>
    (if k = n ∧ isAbort net w then [abortReason net w] else []) ++ reasonsOf net n (if isEnd net w then k + 1 else k) ws

/-- The reasons of every FRAME_ABORT for frame `n` that a tile holds in the queues slot `c` reads (R109). -/
def Tile.heldReasons (x : Tile) (c n : Nat) : List Nat :=
  ((x.readQueues c).map (fun q =>
    let net := netOfQueue q
    reasonsOf net n (x.takenOf q)
      ((x.queue q).words ++ (x.queue q).pend.map (fun p => abortWord net p.1.toNat p.2.toNat noSrc)))).flatten

/-- Give up the frame numbered `n` since the fabric was last empty, the one the tile is in: one abort on every lane that has
not ended it, and its words dropped from every queue that has not delivered its end. -/
def State.abandonFrame (s : State) (t : TileAddr) (c n reason : Nat) : State :=
  let y := (s.tile t).abandon c
  let x := (({ y with aborting := (s.tile t).aborting.filter (fun a => a.1.toNat != c || a.2.1 != n) } : Tile)).setWork c
    { y.workOf c with done := max (y.workOf c).done (n + 1) }
  let ls := (x.lanes c).filter (fun l => x.sentOf l / 2 ≤ n)
  let u := ls.foldl (fun u l => u.sendLane t l (abortWord (l / 2) c reason noSrc)) (s.setTile t x)
  (x.readQueues c).foldl (fun u q => u.dropFrames t q 256 (n + 1 - (u.tile t).takenOf q)) u

/-! ## Flush of one queue (R104, R105) -/

/-- The slot that consumes a queue: the retiring one until the queue has delivered its end marker (R95, R96). -/
def Tile.consumer (x : Tile) (q : Nat) : Nat :=
  match x.retiring with
  | some a => if (x.readQueues a.toNat).contains q && !x.delivered.contains (16 * a.toNat + q) then a.toNat else x.active.toNat
  | none => x.active.toNat

/-- Empty a queue: an abort of reason FLUSH for every frame touched, the context entries kept behind them, and the ends
that are still to come discarded. -/
def State.flushQueue (s : State) (t : TileAddr) (q : Nat) : State :=
  let x := s.tile t
  let v := x.queue q
  let net := netOfQueue q
  let words := v.words ++ v.pend.map (fun p => abortWord net p.1.toNat p.2.toNat noSrc)
  let data := words.filter (fun w => !(isCtxEnd net w || isCtxSwitch net w))
  let kept := words.filter (fun w => isCtxEnd net w || isCtxSwitch net w)
  let ends := data.filter (isEnd net)
  let openTag := match data.getLast? with
    | some w => if isEnd net w then none else some w.tag.toNat
    | none => if v.begun then some (x.consumer q) else none
  let aborts := ends.map (fun w => abortWord net w.tag.toNat 1 noSrc) ++
    (openTag.map (fun g => abortWord net g 1 noSrc)).toList
  let n := data.length
  let u := s.setTile t ((x.setQueue q { v with
    pend := []
    flushed := v.flushed + BitVec.ofNat 32 n
    discard := v.discard + openTag.toList.length }).putWords q (aborts ++ kept))
  let u := data.foldl (fun u w => u.owe t q w) u
  u.count Reg.fabFlushWordCnt n

/-! ## Flush of everything (R106, R107) -/

/-- The slot with which admission tags its next frames (R121). -/
def State.admissionSlot (s : State) : Nat := 2 * b2n (s.rbit Reg.fabStat 6) + b2n s.adm.lastVariant

/-- A tile after a flush of every queue: no word, no retirement, every step 0, the frame state cleared, and the slot of the
frame that admission sent last active (R106, R107). The words are counted in FAB_FLUSH_WORD_CNT and not in FLUSHED, which
counts R104 and R105 only (R115). -/
def Tile.flushed (x : Tile) (slot : Nat) : Tile :=
  let qs := tmap Queue.zero (fun _ v =>
    { v with words := [], pend := [], discard := 0, drop := 0, begun := false }) x.queues
  let y := { x with queues := qs, retiring := none, delivered := [], ctxEnds := [], steps := [],
                    active := BitVec.ofNat 2 slot, sent := [], taken := []
                    work := tmap Work.zero (fun _ k => k.clear 0) x.work }
  (y.abandon y.active.toNat)

/-- Words in the queues of a tile that a flush counts. -/
def Tile.queuedWords (x : Tile) : Nat := x.queues.foldl (fun n p => n + p.2.words.length) 0

/-- Words and pending aborts are gone from every queue of a tile. -/
def Tile.queuesEmpty (x : Tile) : Bool := x.queues.all (fun p => p.2.words.isEmpty && p.2.pend.isEmpty)

/-- Give every used lane of every tile of the map the credits of R83: a lane that only the other variant of the active bank
uses has those of its circuit under that variant. -/
def State.loadCredits (s : State) : State :=
  s.usedTiles.foldl (fun u t =>
    let x := u.tile t
    let a := x.active.toNat
    let b := 2 * (a / 2) + (1 - a % 2)
    let y := (x.lanes b).foldl (fun y l => y.setCredit l (u.laneCredit t b l)) x
    u.setTile t ((x.lanes a).foldl (fun y l => y.setCredit l (u.laneCredit t a l)) y)) s

/-- Number the frames afresh: the fabric holds nothing. -/
def State.rebase (s : State) : State :=
  { s with fab := { s.fab with
      tiles := tmap Tile.zero (fun _ x => { x with
        sent := [], taken := [], work := tmap Work.zero (fun _ k => k.clear 0) x.work }) s.fab.tiles
      unitEnds := []
      base := s.adm.nextOrdinal } }

/-- Empty every queue and link of the fabric and put every tile at the start of a frame (R106, R107): every tile but those
that were never loaded and stand in reset (R118). -/
def State.emptyFabric (s : State) : State :=
  let words := s.fab.tiles.foldl (fun n p => n + p.2.queuedWords) 0
  let slot := s.admissionSlot
  let u := { s with fab := { s.fab with
    tiles := tmap Tile.zero (fun _ x => if x.held && !x.hold then x else x.flushed slot) s.fab.tiles
    links := [], unsent := [], unitEnds := [], creditBack := [], scan := [], base := s.adm.nextOrdinal } }
  ((u.count Reg.fabFlushWordCnt words).putBit Reg.fabStat 7 false |>.setReg Reg.fabScanSize 0).loadCredits

end Sys2Proof.Machine
end

