-- ==== Sys2Proof/Machine/Encoding.lean ====
section
/-! DEFINITION. The 64-bit instruction words of tile SRAM (R86, R87): the opcode of each tile command, the header fields of a
word, and the operand fields that the spec places. A tile command is what its tile does in a cycle only where the word at the
slot's step, or at the handler's, spells it (R89). -/

namespace Sys2Proof.Machine

/-- The header of an instruction word (R86), read without an error. -/
def wordHdr (w : Nat) : Hdr :=
  ⟨BitVec.ofNat 2 (opField w 57 56), BitVec.ofNat 3 (opField w 55 53), opField w 52 52 == 1, opField w 51 51 == 1,
    BitVec.ofNat 4 (opField w 50 47), BitVec.ofNat 3 (opField w 46 44), .ok, .ok⟩

/-- The opcode of an instruction word (R86). -/
def wordOp (w : Nat) : Nat := opField w 63 58

/-- The word's header is that of the command (R86). -/
def hdrIs (w : Nat) (h : Hdr) : Bool :=
  let k := wordHdr w
  k.pred == h.pred && k.csel == h.csel && k.dec == h.dec && k.qinEn == h.qinEn && k.qin == h.qin && k.out == h.out

/-- The word has this opcode and this header. -/
def spells (w op : Nat) (h : Hdr) : Bool := wordOp w == op && hdrIs w h

/-- The OPERANDS of CVT (R212). -/
def cvtIs (w func : Nat) (c : CvtOps) : Bool :=
  opField w 43 41 == func && opField w 40 37 == c.vs.toNat && opField w 36 33 == c.vd.toNat && opField w 32 27 == c.sreg.toNat &&
  opField w 26 21 == c.pos.toNat && opField w 20 20 == b2n c.side && opField w 19 19 == b2n c.row &&
  opField w 18 16 == c.k.toNat && opField w 15 13 == c.fmt.toNat && opField w 12 12 == b2n c.sf

/-- The OPERANDS of COP (R233). -/
def copIs (w : Nat) (c : CopOps) : Bool :=
  opField w 43 41 == c.op.toNat && opField w 40 38 == c.mode.toNat && opField w 37 32 == c.cnt.toNat &&
  opField w 31 30 == c.part.toNat && opField w 29 29 == b2n c.ack && opField w 28 26 == c.rc.toNat

/-- The OPERANDS of MMA (R164). -/
def mmaIs (w : Nat) (vreg : BitVec 4) (off : BitVec 2) (bank : Bool) (k fmt : BitVec 3) (diag zero : Bool) : Bool :=
  opField w 43 40 == vreg.toNat && opField w 39 38 == off.toNat && opField w 37 37 == b2n bank && opField w 36 34 == k.toNat &&
  opField w 33 31 == fmt.toNat && opField w 30 30 == b2n diag && opField w 29 29 == b2n zero

/-- The instruction word spells the command: its opcode, its header and every operand field whose place the spec gives (R86,
R87, R164, R212, R233). A command that is no tile instruction is spelled by no word. (DESIGN CHOICE: log entry 4.) -/
def spelledBy (w : Nat) : Instr → Bool
  | .nop _ h => spells w 0x00 h
  | .wait _ h => spells w 0x01 h
  | .jmp _ h target => spells w 0x02 h && opField w 12 0 == target.toNat
  | .tokr _ h base mul => spells w 0x03 h && opField w 12 0 == base.toNat && opField w 20 13 == mul.toNat
  | .tokw _ h kind arg => spells w 0x04 h && opField w 5 3 == kind.toNat && opField w 2 0 == arg.toNat
  | .ctx _ h variant => spells w 0x05 h && opField w 0 0 == b2n variant
  | .endOp _ h => spells w 0x06 h
  | .ldw _ h bank word _ => spells w 0x08 h && opField w 13 13 == b2n bank && opField w 12 0 == word.toNat
  | .mma _ h vreg off bank k fmt diag zero => spells w 0x09 h && mmaIs w vreg off bank k fmt diag zero
  | .acc _ h _ _ _ => spells w 0x0A h
  | .vectorAdd _ h _ _ _ _ => spells w 0x10 h
  | .vectorSub _ h _ _ _ _ => spells w 0x11 h
  | .vectorMul _ h _ _ _ _ => spells w 0x12 h
  | .vectorMax _ h _ _ _ _ => spells w 0x13 h
  | .vectorMin _ h _ _ _ _ => spells w 0x14 h
  | .relu _ h _ _ _ => spells w 0x15 h
  | .shuf _ h _ _ _ _ => spells w 0x16 h
  | .vectorCmp _ h _ _ _ _ => spells w 0x17 h
  | .vectorSel _ h _ _ _ _ _ => spells w 0x18 h
  | .zpack _ h _ _ => spells w 0x19 h
  | .zunpack _ h _ _ _ => spells w 0x1A h
  | .scalarAdd _ h _ _ _ => spells w 0x20 h
  | .scalarSub _ h _ _ _ => spells w 0x21 h
  | .scalarMul _ h _ _ _ => spells w 0x22 h
  | .scalarAnd _ h _ _ _ => spells w 0x23 h
  | .scalarOr _ h _ _ _ => spells w 0x24 h
  | .scalarXor _ h _ _ _ => spells w 0x25 h
  | .scalarShl _ h _ _ _ => spells w 0x26 h
  | .scalarShr _ h _ _ _ => spells w 0x27 h
  | .scalarCmp _ h _ _ _ => spells w 0x28 h
  | .scalarSel _ h _ _ _ _ => spells w 0x29 h
  | .scalarMin _ h _ _ _ => spells w 0x2A h
  | .scalarMax _ h _ _ _ => spells w 0x2B h
  | .ldv _ h _ _ _ => spells w 0x30 h
  | .stv _ h _ _ => spells w 0x31 h
  | .lds _ h _ _ _ _ => spells w 0x32 h
  | .sts _ h _ _ _ => spells w 0x33 h
  | .rcv _ h _ _ => spells w 0x34 h
  | .snd _ h _ kind _ => spells w 0x35 h && opField w 2 0 == kind.toNat
  | .cop _ h c => spells w 0x38 h && copIs w c
  | .scan _ h c => spells w 0x39 h && cvtIs w 0 c
  | .seal _ h c => spells w 0x39 h && cvtIs w 1 c
  | .encode _ h c => spells w 0x39 h && cvtIs w 2 c
  | .decode _ h c => spells w 0x39 h && cvtIs w 3 c
  | .xsl _ h c => spells w 0x39 h && cvtIs w 4 c
  | .wsl _ h c => spells w 0x39 h && cvtIs w 5 c
  | .carry _ h c => spells w 0x39 h && cvtIs w 6 c
  | _ => false

/-- The SRAM word that a slot issues from next: the handler's in rule mode, ENTRY plus STEP in static mode (R89, R90, R99). -/
def Tile.nextWord (x : Tile) (c : Nat) : Nat :=
  let at_ := match x.handler with
    | some (k, n, _) => if x.ruleMode c && k == c then n else fld (x.slotWord c 4) 12 0 + (tget 0#13 x.steps c).toNat
    | none => fld (x.slotWord c 4) 12 0 + (tget 0#13 x.steps c).toNat
  (tget 0#64 x.sram at_).toNat

/-- Slot `c` of a tile issues next what the command names. -/
def Tile.meets (x : Tile) (c : Nat) (i : Instr) : Bool := spelledBy (x.nextWord c) i

end Sys2Proof.Machine
end

