-- ==== Sys2Proof/Machine/FeatureMap.lean ====
section
/-! DEFINITION. Feature maps and the spatial operators (05_convolution): the words of a map on the vector network (R148, R203,
R204), the element that a kernel position reads (R154 to R157), the expanded row and its blocks (R160 to R163, R166, R167), and
what each operator gives (R155, R169 to R175). The instructions of a stage's schedule carry the operators out; these are the
results the spec names for them. (DEDUCED: log entry 87.) -/

namespace Sys2Proof.Machine

/-! ## The words of a map (R148, R203, R204) -/

/-- Bytes of a channel row's element words, and words of its scale codes (R204). -/
def rowElemBytes (hd : NumHdr) (w : Nat) : Nat := ((w * elemBits hd.ofmt + 7) / 8 + 31) / 32 * 32
def rowGroupsOf (hd : NumHdr) (w : Nat) : Nat := (w + groupSize hd.gsel - 1) / groupSize hd.gsel
def rowScaleWords (hd : NumHdr) (w : Nat) : Nat := (rowGroupsOf hd w + 31) / 32
/-- Bytes of a channel row, uncompressed. -/
def rowBytes (hd : NumHdr) (w : Nat) : Nat := rowElemBytes hd w + 32 * rowScaleWords hd w

/-- What one element of a map decodes to: its FP32 value with its own overflow, and 1 where its code is a NaN or infinity
(R199, R204, R206). -/
structure Elem where
  val : Word
  ovf : Nat
  bad : Nat
  deriving DecidableEq, Repr, Inhabited

/-- Element `x` of a channel row of `w` elements, from the row's bytes. -/
def rowElem (hd : NumHdr) (w : Nat) (row : List Byte) (x : Nat) : Elem :=
  let gs := groupSize hd.gsel
  let code := row.getD (rowElemBytes hd w + x / gs) 0
  let field := row.drop (x / gs * (gs * elemBits hd.ofmt / 8))
  let sc := loadScale (hd.sf false) code (BitVec.ofNat 32 (leNum (field.take 4)))
  if sc.konst then ⟨sc.c, 0, 0⟩
  else
    let b := (row.getD (x * elemBits hd.ofmt / 8) 0).toNat
    let e := elemVal hd.ofmt (if elemBits hd.ofmt = 4 then b / 16 ^ (x % 2) % 16 else b)
    let q := Q.mul ⟨e.1, 65536⟩ (scaleVal sc hd.fine)
    ⟨toF32 q false, if overflows q then 1 else 0, b2n e.2⟩

/-- The bytes of words. -/
def wordsBytes (ws : List Burst) : List Byte := (ws.map burstBytes).flatten

/-- Words of the first channel row at the front of a row group: those of R204, or bitmap and data words in place of the element
words where the producer compresses (R194). -/
def chanWords (hd : NumHdr) (zout : Bool) (w : Nat) (ws : List Burst) : Nat :=
  let n := rowElemBytes hd w / 32
  if zout then
    let m := (n + 7) / 8
    m + (mapBits (ws.take m) n + 31) / 32 + rowScaleWords hd w
  else n + rowScaleWords hd w

/-- The bytes of channel row `ci` of a row group, uncompressed (R148, R194, R204). -/
def chanRow (hd : NumHdr) (zout : Bool) (w : Nat) : Nat → List Burst → List Byte
  | 0, ws =>
    let n := rowElemBytes hd w / 32
    if zout then
      let m := (n + 7) / 8
      let k := chanWords hd zout w ws - rowScaleWords hd w
      wordsBytes (expandRow (ws.take m) (wordsBytes ((ws.take k).drop m)) n) ++ wordsBytes ((ws.drop k).take (rowScaleWords hd w))
    else wordsBytes (ws.take (chanWords hd zout w ws))
  | k + 1, ws => chanRow hd zout w k (ws.drop (chanWords hd zout w ws))

/-- Element (ci, x) of a row group. -/
def groupElem (hd : NumHdr) (zout : Bool) (w ci x : Nat) (ws : List Burst) : Elem := rowElem hd w (chanRow hd zout w ci ws) x

/-- Cut a list into runs of `n`. -/
def cut {α : Type} (n : Nat) (l : List α) : List (List α) :=
  (upto ((l.length + n - 1) / n)).map (fun i => (l.drop (n * i)).take n)

/-- Elements packed into bytes, each format's way (R70, R198). -/
def packElems (fmt : Nat) (es : List Nat) : List Byte :=
  if elemBits fmt = 4 then (cut 2 es).map (fun p => BitVec.ofNat 8 (p.getD 0 0 + 16 * p.getD 1 0))
  else es.map (BitVec.ofNat 8)

/-- One group converted in normal mode: its element codes and its scale code (R205 to R207). -/
def convertRun (hd : NumHdr) (side : Bool) (vs : List Word) : List Nat × Byte :=
  let g := vs.foldl (fun g v => g.scan hd side v) GState.zero
  let sc := (g.seal hd side false 0).1
  ((vs.zip (upto vs.length)).map (fun p => (encodeElem hd side { sc with idx := p.2 } p.1).1), sc.code)

/-- Bytes as words, the last one filled with zeros. -/
def vecWords (bs : List Byte) : List Burst :=
  (upto ((bs.length + 31) / 32)).map (fun i => burstOf (padTo 32 ((bs.drop (32 * i)).take 32)))

/-- A channel row of FP32 values in the stage's output format: element words, compressed where ZOUT is set, then scale words
(R148, R194, R203, R204). -/
def channelRow (hd : NumHdr) (zout : Bool) (vs : List Word) : List Burst :=
  let gs := (cut (groupSize hd.gsel) vs).map (convertRun hd false)
  let es := vecWords (packElems hd.ofmt (gs.map (·.1)).flatten)
  (if zout then compressRow es else es) ++ vecWords (gs.map (·.2))

/-- A row group: its channel rows in order, each with a KIND; the last word carries ROW_END, or FRAME_END in the frame's last row
group (R77, R148). -/
def rowGroup (hd : NumHdr) (zout lastRow : Bool) (chans : List (List Word)) : List (Burst × Nat) :=
  let ws := (chans.map (channelRow hd zout)).flatten
  (ws.zip (upto ws.length)).map (fun p => (p.1, if p.2 + 1 = ws.length then (if lastRow then 2 else 1) else 0))

/-! ## Which element a kernel position reads (R154 to R157) -/

/-- Input coordinates of a kernel position (R154). -/
def Spatial.rowAt (p : Spatial) (oy kh : Nat) : Int := (p.sH : Int) * oy - p.padT + (p.dH : Int) * kh
def Spatial.colAt (p : Spatial) (ox kw : Nat) : Int := (p.sW : Int) * ox - p.padL + (p.dW : Int) * kw

/-- The map position that a kernel position reads; none where it is padding (R154). -/
def Spatial.tap (p : Spatial) (oy ox kh kw : Nat) : Option (Nat × Nat) :=
  let y := p.rowAt oy kh
  let x := p.colAt ox kw
  if 0 ≤ y ∧ y < (p.inH : Int) ∧ 0 ≤ x ∧ x < (p.inW : Int) then some (y.toNat, x.toNat) else none

/-- The fill value (R156). -/
def Spatial.fillWord (p : Spatial) : Word := if p.fillMode = 1 then BitVec.ofNat 32 p.fill else 0#32

/-- A map as its FP32 values by channel, row and column. -/
abbrev FMap := Nat → Nat → Nat → Word

/-- The input element of an output position, a kernel position and an input channel (R154, R156). -/
def Spatial.element (p : Spatial) (m : FMap) (ci oy ox kh kw : Nat) : Word :=
  match p.tap oy ox kh kw with
  | some (y, x) => m ci y x
  | none => p.fillWord

/-- The two source positions and the two weights of an output position on one axis (R172). -/
structure Lerp where
  i0 : Nat
  i1 : Nat
  w0 : Q
  w1 : Q
  deriving DecidableEq, Repr

/-- The half-pixel rule on an axis of `n` elements; an axis with F = 1 passes its input unchanged (R172). -/
def lerp (f n o : Nat) : Lerp :=
  let src := (((Q.ofInt o).add ⟨1, 2⟩).mul ⟨1, f⟩).sub ⟨1, 2⟩
  let c := (src.max (Q.ofInt 0)).min (Q.ofInt ((n : Int) - 1))
  let i0 := c.floor.toNat
  let w1 := c.sub (Q.ofInt i0)
  ⟨i0, min (i0 + 1) (n - 1), (Q.ofInt 1).sub w1, w1⟩

/-- Output row `oy` of an operator reads input row `y` (R154, R171 to R174). -/
def Spatial.reads (p : Spatial) (op oy y : Nat) : Bool :=
  if 2 ≤ op ∧ op ≤ 5 then (upto p.kH).any (fun kh => p.rowAt oy kh == (y : Int))
  else if op = 6 then oy / max p.fH 1 == y
  else if op = 7 then let l := lerp (max p.fH 1) p.inH oy; l.i0 == y || l.i1 == y
  else oy == y

/-- An output row reads the row: it is covered (R157). -/
def Spatial.covered (p : Spatial) (op y : Nat) : Bool := (upto p.outH).any (fun oy => p.reads op oy y)

/-- Output row `oy` or a later one of the frame still reads the row (R158). -/
def Spatial.wanted (p : Spatial) (op oy y : Nat) : Bool := (upto p.outH).any (fun o => oy ≤ o && p.reads op o y)

/-! ## The expanded row and its blocks (R160 to R163, R166, R167) -/

/-- L, and the input channels of a group of the convolution. -/
def Spatial.len (p : Spatial) : Nat := p.kH * p.kW
def Spatial.perGroup (p : Spatial) : Nat := p.cIn / max p.groups 1

/-- Round up to whole multiples. -/
def roundUp (n k : Nat) : Nat := (n + k - 1) / k * k

/-- L_ROW: the reduction elements rounded up to whole scale groups; under DIAG, of eight channels of L elements each padded to a
multiple of 8 (R160, R167). -/
def Spatial.rowLen (p : Spatial) (gs : Nat) : Nat :=
  if p.diag then roundUp (8 * roundUp p.len 8) gs else roundUp (p.perGroup * p.len) gs

/-- Element `e` of the expanded row of output position (oy, ox) for group `g` of the convolution, `e = L ci + K_W kh + kw`; zero
past the last channel (R160). Under DIAG the row interleaves the eight channels from `8 g` on: chunk j of channel c stands at
64 j + 8 c (R167). -/
def Spatial.expanded (p : Spatial) (m : FMap) (g oy ox e : Nat) : Word :=
  let l := p.len
  if p.diag then
    let i := 8 * (e / 64) + e % 8
    let c := 8 * g + e / 8 % 8
    if i < l ∧ c < p.cIn then p.element m c oy ox (i / p.kW) (i % p.kW) else 0#32
  else if e < p.perGroup * l then
    p.element m (g * p.perGroup + e / l) oy ox (e % l / p.kW) (e % l % p.kW)
  else 0#32

/-- The expanded row of a position of a block: zeros at or past OUT_W (R162). -/
def Spatial.blockRow (p : Spatial) (gs : Nat) (m : FMap) (g oy ox : Nat) : List Word :=
  (upto (p.rowLen gs)).map (fun e => if ox < p.outW then p.expanded m g oy ox e else 0#32)

/-- Segments of an expanded row, and the elements of segment `i` (R161). -/
def Spatial.segments (p : Spatial) (gs : Nat) : Nat := (p.rowLen gs + p.seg * gs - 1) / (p.seg * gs)
def segment (p : Spatial) (gs i : Nat) (row : List Word) : List Word := (row.drop (i * (p.seg * gs))).take (p.seg * gs)

/-- A run of expanded elements in the stage's input format: every scale group derives its own scale from the values copied,
padding and fill among them (R163, R203). -/
def convertRow (hd : NumHdr) (vs : List Word) : List Nat × List Byte :=
  let gs := (cut (groupSize hd.gsel) vs).map (convertRun hd true)
  ((gs.map (·.1)).flatten, gs.map (·.2))

/-- One half of the expanded buffer (R162): the bytes of its eight rows, row k at k times the segment size, and the scale codes
of each row. -/
structure Half where
  bytes : List Byte
  scales : List (List Byte)
  deriving DecidableEq, Repr, Inhabited

/-- The half that holds segment `i` of the block at (oy, ox) for group `g` (R160 to R163). -/
def Spatial.half (p : Spatial) (hd : NumHdr) (m : FMap) (g oy ox i : Nat) : Half :=
  let rows := (upto 8).map (fun k =>
    convertRow hd (segment p (groupSize hd.gsel) i (p.blockRow (groupSize hd.gsel) m g oy (ox + k))))
  ⟨(rows.map (fun r => packElems hd.cfmt r.1)).flatten, rows.map (·.2)⟩

/-- A weight bank of the native mapping: the weights of one output channel in column `c`, zero in the other seven (R166). -/
def nativeBank (fmt c : Nat) (ws : List Nat) : BitVec 512 :=
  BitVec.ofNat 512 (((ws.zip (upto ws.length)).foldl (fun n p => n + p.1 * 2 ^ (elemBits fmt * (8 * p.2 + c))) 0))

/-! ## What the operators give -/

/-- The exact value of a convolution at an output position: the sum over the expanded row of element times weight, padding as
fill, plus the bias where BIAS is set (R154, R155, R165). Its rounding is that of MMA and ACC (R209). -/
def Spatial.conv (p : Spatial) (m : FMap) (wt : Nat → Q) (bias : Word) (g oy ox : Nat) : Q :=
  ((upto (p.perGroup * p.len)).foldl (fun a e =>
    a.add ((f32 (p.element m (g * p.perGroup + e / p.len) oy ox (e % p.len / p.kW) (e % p.len % p.kW))).mul (wt e))) (Q.ofInt 0)).add
    (if p.bias then f32 bias else Q.ofInt 0)

/-- The elements of a pooling window that lie in the map, row by row. -/
def Spatial.window (p : Spatial) (m : FMap) (c oy ox : Nat) : List Word :=
  (upto (p.kH * p.kW)).filterMap (fun i => (p.tap oy ox (i / p.kW) (i % p.kW)).map (fun q => m c q.1 q.2))

/-- POOL_MAX: the largest element of the window, padding left out; the fill value where it holds only padding (R169). -/
def Spatial.poolMax (p : Spatial) (m : FMap) (c oy ox : Nat) : Word :=
  match p.window m c oy ox with
  | [] => p.fillWord
  | v :: vs => vs.foldl fMax v

/-- COUNT_PAD (R176). -/
def Spatial.countPad (p : Spatial) : Bool := p.flags / 2 % 2 == 1

/-- POOL_AVG: the sum in FP32 times 1 / n, over every position of the window with COUNT_PAD, else over the map's; the fill value
where the window holds only padding and COUNT_PAD is 0 (R170). The elements are added row by row. -/
def Spatial.poolAvg (p : Spatial) (m : FMap) (c oy ox : Nat) : Ov :=
  let vs := if p.countPad then (upto (p.kH * p.kW)).map (fun i => p.element m c oy ox (i / p.kW) (i % p.kW))
    else p.window m c oy ox
  if vs.isEmpty then (p.fillWord, 0)
  else
    let s := fSum (0#32, 0) vs
    let r := fMul s.1 (fNum ⟨1, vs.length⟩)
    (r.1, s.2 + r.2)

/-- RESAMPLE_NEAREST (R171). -/
def Spatial.nearest (p : Spatial) (m : FMap) (c oy ox : Nat) : Word := m c (oy / p.fH) (ox / p.fW)

/-- A weighted sum of two values in FP32. -/
def blend (w0 w1 : Word) (a b : Word) : Ov :=
  let x := fMul w0 a
  let y := fMul w1 b
  let r := fAdd x.1 y.1
  (r.1, x.2 + y.2 + r.2)

/-- RESAMPLE_BILINEAR: along columns first and then along rows, in FP32; an axis with F = 1 passes its input (R172). -/
def Spatial.bilinear (p : Spatial) (m : FMap) (c oy ox : Nat) : Ov :=
  let ly := lerp p.fH p.inH oy
  let lx := lerp p.fW p.inW ox
  let line := fun (y : Nat) =>
    if p.fW = 1 then (m c y ox, 0) else blend (fNum lx.w0) (fNum lx.w1) (m c y lx.i0) (m c y lx.i1)
  if p.fH = 1 then line oy
  else
    let a := line ly.i0
    let b := line ly.i1
    let r := blend (fNum ly.w0) (fNum ly.w1) a.1 b.1
    (r.1, a.2 + b.2 + r.2)

/-- ADD and MUL of an element of the first and of the second producer, with the activation of R165 (R173). -/
def addElem (hd : NumHdr) (a b : Word) : Ov :=
  let r := fAdd a b
  (toF32 (activate hd (f32 r.1)) (bit r.1 31), r.2 + if overflows (activate hd (f32 r.1)) then 1 else 0)
def mulElem (hd : NumHdr) (a b : Word) : Ov :=
  let r := fMul a b
  (toF32 (activate hd (f32 r.1)) (bit r.1 31), r.2 + if overflows (activate hd (f32 r.1)) then 1 else 0)

/-- CONCAT: channel `c` of the maps in the order of the producers, each with its channels (R174). -/
def concatElem : List (Nat × FMap) → Nat → Nat → Nat → Word
  | [], _, _, _ => 0#32
  | (n, m) :: ms, c, y, x => if c < n then m c y x else concatElem ms (c - n) y x

/-- The INPUT block: M and OFF (R177). -/
def inputM (c : Memory) (o ch j : Nat) : Word := BitVec.ofNat 32 (pay c (o + 12 * ch + 4 * j) 4)
def inputOff (c : Memory) (o j : Nat) : Word := BitVec.ofNat 32 (pay c (o + 0x24 + 4 * j) 4)

/-- The three pixels that INPUT reads at a position, `px` the byte at an offset of the frame: R, G and B, or Y at the position
with the Cb and Cr samples of its 2 by 2 square (R47, R175). -/
def inputPixels (px : Nat → Byte) (w h fmt y x : Nat) : List Nat :=
  if fmt = 0 then [px (y * w + x), px (w * h + y * w + x), px (2 * w * h + y * w + x)].map (·.toNat)
  else [px (y * w + x), px (w * h + y / 2 * (w / 2) + x / 2), px (w * h + w * h / 4 + y / 2 * (w / 2) + x / 2)].map (·.toNat)

/-- INPUT: output channel `ch` of a pixel position, in FP32 and in the order of j (R175). -/
def inputElem (c : Memory) (o ch : Nat) (ps : List Nat) : Ov :=
  (upto 3).foldl (fun (a : Ov) j =>
    let d := fSub (fNum (Q.ofInt (ps.getD j 0))) (inputOff c o j)
    let t := fMul (inputM c o ch j) d.1
    let r := if j = 0 then (t.1, 0) else fAdd a.1 t.1
    (r.1, a.2 + d.2 + t.2 + r.2)) (0#32, 0)

end Sys2Proof.Machine
end

