-- ==== Sys2Proof/Machine/Boundary.lean ====
section
/-! DEFINITION. The copy that a snapshot makes (R393, R115) and the window boundary (R7, R395, R459, R479, R480, R216, R453), with
the extension of counters for the dictionary (R360). -/

namespace Sys2Proof.Machine

/-! ## Snapshots -/

/-- The SNAP register of a block. -/
def snapReg (b : Nat) : Nat := b * 0x10000 + 0xFE00

/-- Copy every counter of a block into its holding register; FAB's cover every tile and queue (R115, R393). -/
def State.snapCopy (s : State) (b : Nat) : State :=
  let u := { s with hold := (counters b).foldl (fun m a => tset 0#32 m a (s.readReg a)) s.hold }
  if b = 4 then
    { u with fab := { u.fab with tiles := tmap Tile.zero (fun _ x =>
        { x with
          heldCounts := x.counts
          queues := tmap Queue.zero (fun _ v =>
            { v with heldIn := v.wordsIn, heldFull := v.full, heldFlushed := v.flushed, heldHigh := v.high }) x.queues }) u.fab.tiles } }
  else u

/-! ## Window statistics (R216) -/

/-- A binary64 sum. -/
def f64Add (a b : BitVec 64) : BitVec 64 := toF64 ((f64 a).add (f64 b))

/-- Add a tile's counts to a stage's. -/
def StageStat.addTile (g : StageStat) (x : Tile) : StageStat :=
  { g with
    sat := satAdd g.sat x.sat.toNat, ufl := satAdd g.ufl x.ufl.toNat, converted := g.converted + x.converted
    sqerr := f64Add g.sqerr x.sqerr, trip := satAdd g.trip x.trip.toNat, accOvf := satAdd g.accOvf x.accOvf.toNat }

/-- The mean squared error of a window. -/
def StageStat.withMse (g : StageStat) : StageStat :=
  { g with mse := if g.converted = 0 then 0 else toF32 ((f64 g.sqerr).div (Q.ofInt g.converted.toNat)) false }

/-- The statistics of the window that ended: every stage's from the tiles that left the map within the window and then from its
tiles in the order of their numbers; a stage that had no tile reads zero (R216). -/
def State.windowStats (s : State) : Tbl StageStat :=
  let blank := fun (g : StageStat) => { StageStat.zero with satThresh := g.satThresh, uflThresh := g.uflThresh }
  ((upto s.plc.pitch.length) ++ s.num.part.map (·.1)).foldl (fun m i =>
    let g := tget StageStat.zero s.num.part i
    let h := tget StageStat.zero s.num.stats i
    tset StageStat.zero m i ((s.plc.pitch.getD i []).foldl (fun (a : StageStat) t => a.addTile (s.tile t))
      { g with satThresh := h.satThresh, uflThresh := h.uflThresh }).withMse)
    (tmap StageStat.zero (fun _ g => blank g) s.num.stats)

/-- A tile at a window boundary: its statistics, link errors and HIGH_WATER start again. -/
def Tile.newWindow (x : Tile) : Tile :=
  { x with
    converted := 0, sat := 0, ufl := 0, sqerr := 0, trip := 0, accOvf := 0, linkErrs := 0
    queues := tmap Queue.zero (fun _ v => { v with high := BitVec.ofNat 32 v.words.length }) x.queues }

/-! ## Extended counters (R360) -/

/-- Object keys: 256 times the index plus the subindex. -/
def okey (index sub : Nat) : Nat := 256 * index + sub

/-- Extend a 64-bit count to one whose low 32 bits are `w`. -/
def extend (old : Nat) (w : Word) : Nat := (old + (w - BitVec.ofNat 32 old).toNat) % 2 ^ 64

/-- The management controller extends its counters from the holding registers. -/
def State.extendAll (s : State) : State :=
  let one := fun (m : Tbl Nat) (k : Nat) (w : Word) => tset 0 m k (extend (tget 0 m k) w)
  let m0 := one s.dict.ext (okey 0x6000 5) (tget 0#32 s.hold Reg.ctxAppendCnt)
  let m1 := one m0 (okey 0x6000 6) (tget 0#32 s.hold Reg.ctxEvictCnt)
  let m2 := one m1 (okey 0x7020 1) (tget 0#32 s.hold Reg.hbmCeCnt)
  let m3 := s.adm.streams.foldl (fun m p => one m (okey (0x4000 + p.1) 3) p.2.accepted) m2
  { s with dict := { s.dict with ext := m3 } }

/-! ## The boundary -/

/-- The numeric and tile side of a boundary. -/
def State.windowFabric (s : State) : State :=
  { s with
    num := { s.num with stats := s.windowStats, part := [], evalDue := true }
    fab := { s.fab with tiles := tmap Tile.zero (fun _ x => x.newWindow) s.fab.tiles } }

/-- Sensors, monitors and channels start a new window. -/
def State.windowSensors (s : State) : State :=
  { s with
    tel := { s.tel with tempSum := s.tel.temps, voltSum := s.tel.volts, temps := [], volts := [] }
    hbm := { s.hbm with chans := tmap Chan.zero (fun _ x => { x with busy := x.busyNow, busyNow := 0 }) s.hbm.chans } }

/-- The clock side: the boundary is counted, and a written window length takes force (R459, R479). -/
def State.windowClock (s : State) : State :=
  let b := s.boundaryAt
  let u := { s with clock := { s.clock with
    anchor := b, lenMs := fld (s.reg Reg.telWindow) 9 0, synced := s.clock.early.isSome, early := none } }
  let v := u.count Reg.telWindowNum 1
  v.setReg Reg.numWindow (v.reg Reg.telWindowNum)

/-- WINDOW_BOUNDARY (R395, R459): every block is copied, and joins a copy that is running. -/
def State.windowBoundary (s : State) : State :=
  let u := (upto 18).foldl (fun u b => (u.snapCopy b).setBits (snapReg b) 0x2#32) s
  u.windowFabric.windowSensors.extendAll.windowClock

/-- The boundary that ends the window in progress has come and has not been carried out. -/
def State.boundaryDue (s : State) : Bool := s.engineUp && s.clock.frozen.isNone && decide (s.boundaryAt ≤ s.clock.now)

/-- Carry out every boundary that is due, before an event that comes at or after it: an event exactly at a boundary belongs to the
window that begins there (R7). -/
def State.openUpTo (s : State) : Nat → State
  | 0 => s
  | n + 1 => if s.boundaryDue then s.windowBoundary.openUpTo n else s

/-- The state with the window of the present moment open: a window is 1 ms long at least (R479). -/
def State.openWindows (s : State) : State := s.openUpTo ((s.clock.now - s.boundaryAt) / msSteps 1 + 1)

/-- A tile leaves the map within a window: what it has counted stays with its stage (R216). -/
def State.keepStats (s : State) (stage : Nat) (t : TileAddr) : State :=
  { s with num := { s.num with
      part := tset StageStat.zero s.num.part stage ((tget StageStat.zero s.num.part stage).addTile (s.tile t)) } }

/-- Every tile of the map leaves it. -/
def State.keepAllStats (s : State) : State :=
  (upto s.plc.pitch.length).foldl (fun u i => (s.plc.pitch.getD i []).foldl (fun v t => v.keepStats i t) u) s

end Sys2Proof.Machine
end

