-- ==== Sys2Proof/Machine/Routing.lean ====
section
/-! DEFINITION. What the placement engine makes of the routes it has found (R81, R84, R85, R100, R125, R127, R128): the check of
every switch, the latency of a circuit, its credit round trip, and the depth and base of every queue. -/

namespace Sys2Proof.Machine

/-! ## Routes of a map -/

/-- A route entry of the map for a variant, reserved bits zero (R100, R119). -/
def mapEntry (map : BitVec 512) (t : TileAddr) (v : Bool) (net wire : Nat) : Nat :=
  (Config.route map t v (BitVec.ofNat 2 net) (BitVec.ofNat 3 wire) &&& 0x0F8F#16).toNat

/-- The six entries of a network of one switch obey R81 and R100: no output wire and no queue has two drivers, a direction
input does not drive its own direction, and a queue is of the entry's network. -/
def entriesLegal (net : Nat) (es : List Nat) : Bool :=
  (upto 4).all (fun d => (es.filter (fun e => routeOut e d)).length ≤ 1 && !routeOut (es.getD d 0) d) &&
  (upto 16).all (fun q => (es.filter (fun e => routeTerm e && routeQueue e == q)).length ≤ 1) &&
  es.all (fun e => !routeTerm e || netOfQueue (routeQueue e) == net)

/-- Every switch of the finished map, wire by wire, in both contexts (R125). -/
def mapLegal (map : BitVec 512) (ts : List TileAddr) : Bool :=
  ts.all (fun t => [false, true].all (fun v => (upto 3).all (fun net =>
    entriesLegal net ((upto 6).map (mapEntry map t v net)))))

/-- The three tables of a context slot of a tile obey R81 and R100. -/
def Tile.slotLegal (x : Tile) (c : Nat) : Bool :=
  (upto 3).all (fun net => entriesLegal net ((upto 6).map (x.route c net)))

/-! ## Latencies (R84, R85, R119) -/

/-- The forward latency of the hop between two tiles: every dual-clock hop is taken at 14 cycles (R84, R119). -/
def hopLatency (a b : TileAddr) : Nat :=
  if gblockOf a = gblockOf b then 1 else if sectorOf a = sectorOf b then 2 else 14

/-- The forward latency of the circuit that arrives on a wire, traced back to the lane or the unit that injects it. -/
def traceBack (map : BitVec 512) (v : Bool) (net : Nat) : Nat → TileAddr → Nat → Nat
  | 0, _, _ => 0
  | fuel + 1, t, wire =>
    if 4 ≤ wire then 0
    else match neighbour t wire with
      | none => 14
      | some (n, d) =>
        match (upto 6).find? (fun w => routeOut (mapEntry map n v net w) d.toNat) with
        | some w => hopLatency n t + traceBack map v net fuel n w
        | none => hopLatency n t

/-- The wires whose words end in a queue of a tile under a variant. -/
def termWires (map : BitVec 512) (t : TileAddr) (v : Bool) (q : Nat) : List Nat :=
  (upto 6).filter (fun w =>
    let e := mapEntry map t v (netOfQueue q) w
    routeTerm e && routeQueue e == q)

/-- The queue is in use. -/
def queueUsed (map : BitVec 512) (t : TileAddr) (q : Nat) : Bool := [false, true].any (fun v => !(termWires map t v q).isEmpty)

/-- The credit round trip of the circuits that end in a queue (R85): both ways of every hop and 2. -/
def roundTrip (map : BitVec 512) (t : TileAddr) (q : Nat) : Nat :=
  ([false, true].map (fun v => (termWires map t v q).map (fun w => 2 * traceBack map v (netOfQueue q) 512 t w + 2))).flatten.foldl max 0

/-- The skew of a queue against those read with it (R127); a queue that is no join input has none. -/
def skewOf (map : BitVec 512) (t : TileAddr) (q : Nat) : Nat :=
  let ps := Config.joinPaths map t (BitVec.ofNat 4 q)
  let own := match ps.find? (fun p => p.1.toNat == q) with
    | some p => p.2.toNat
    | none => ps.foldl (fun m p => max m p.2.toNat) 0
  ps.foldl (fun m p => max m (p.2.toNat - own)) 0

/-- d_req of R127; 0 for a queue that is not in use. -/
def dReq (digest map : BitVec 512) (st i : Nat) (t : TileAddr) (q : Nat) : Nat :=
  if queueUsed map t q then
    max ((Config.imageDepth digest (BitVec.ofNat 9 st) (BitVec.ofNat 10 i) (BitVec.ofNat 4 q)).toNat + skewOf map t q)
      (max 4 (roundTrip map t q))
  else 0

/-! ## Depths and bases (R102, R127, R128) -/

/-- The queues of a pool: the vector queues, the scalar and the control ones. -/
def poolQueues (net : Nat) : List Nat := if net = 0 then upto 8 else if net = 1 then [8, 9, 10, 11] else [12, 13, 14, 15]

/-- The first place of a pool and its places (R102). -/
def poolSpace (map : BitVec 512) (t : TileAddr) (net : Nat) : Nat × Nat :=
  if net = 0 then ((Config.queueSpace map t).1.toNat, (Config.queueSpace map t).2.toNat) else (0, 128)

/-- BASE of a place: an SRAM word for a vector queue, a pool index else (R117). -/
def placeBase (net p : Nat) : Nat := if net = 0 then 4 * p else p

/-- A QCFG word (R117). -/
def qcfgOf (depth base : Nat) : Word := BitVec.ofNat 32 (2 ^ 31 + depth % 128 * 65536 + base % 8192)

/-- The queues of a tile at commit: each in use has the depth of R127, one behind the other in its pool.
(DEDUCED: log entry 81.) -/
def commitCfg (digest map : BitVec 512) (st i : Nat) (t : TileAddr) (q : Nat) : Word :=
  let d := dReq digest map st i t q
  let before := ((poolQueues (netOfQueue q)).filter (· < q)).foldl (fun n k => n + dReq digest map st i t k) 0
  if d = 0 then 0x00040000#32
  else qcfgOf d (placeBase (netOfQueue q) ((poolSpace map t (netOfQueue q)).1 + before))

/-- The queues of a tile meet R127: none needs more than 64 words, and each pool holds its queues. -/
def depthsFit (digest map : BitVec 512) (st i : Nat) (t : TileAddr) : Bool :=
  (upto 16).all (fun q => dReq digest map st i t q ≤ 64) &&
  (upto 3).all (fun net => (poolQueues net).foldl (fun n q => n + dReq digest map st i t q) 0 ≤ (poolSpace map t net).2)

/-- The places of a pool that queues other than `q` hold, as pairs of first place and depth. -/
def takenPlaces (cfgs : Nat → Word) (net q : Nat) : List (Nat × Nat) :=
  ((poolQueues net).filter (fun k => k != q && bit (cfgs k) 31)).map (fun k =>
    (if net = 0 then fld (cfgs k) 12 0 / 4 else fld (cfgs k) 12 0, fld (cfgs k) 22 16))

/-- The places from `p` on, `n` of them, are free. -/
def placesFree (held : List (Nat × Nat)) (p n : Nat) : Bool := held.all (fun h => p + n ≤ h.1 || h.1 + h.2 ≤ p)

/-- A queue after a repair (R128): none shrinks; one that is to grow takes at most what the reserve of its pool leaves, keeps
its BASE where the places above it are free, and else takes the lowest new BASE in the reserve. (DEDUCED: log entry 81.) -/
def regrow (map : BitVec 512) (t : TileAddr) (cfgs : Nat → Word) (q want : Nat) : Word :=
  let net := netOfQueue q
  let old := fld (cfgs q) 22 16
  let space := poolSpace map t net
  let held := takenPlaces cfgs net q
  let own := if net = 0 then fld (cfgs q) 12 0 / 4 else fld (cfgs q) 12 0
  let fits := fun (d : Nat) =>
    if space.1 ≤ own && decide (own + d ≤ space.1 + space.2) && placesFree held own d then some own
    else ((upto (space.2 + 1 - d)).map (space.1 + ·)).find? (fun p => placesFree held p d)
  if ¬ bit (cfgs q) 31 ∨ want ≤ old then cfgs q
  else
    match ((upto (min want 64 - old)).map (fun k => min want 64 - k)).findSome? (fun d => (fits d).map (fun p => (d, p))) with
    | some (d, p) => qcfgOf d (placeBase net p)
    | none => cfgs q

/-- The queues of a tile after a repair, taken in turn. -/
def repairCfgs (digest map : BitVec 512) (st i : Nat) (t : TileAddr) (old : Nat → Word) : Nat → Word :=
  (upto 16).foldl (fun f q => let w := regrow map t f q (dReq digest map st i t q); fun k => if k = q then w else f k) old

/-- The queues that a repair leaves short (R128). -/
def shortQueues (digest map : BitVec 512) (st i : Nat) (t : TileAddr) (old : Nat → Word) : Nat :=
  ((upto 16).filter (fun q => fld (repairCfgs digest map st i t old q) 22 16 < dReq digest map st i t q)).length

end Sys2Proof.Machine
end

