-- ==== Sys2Proof/Machine/Placement.lean ====
section
/-! DEFINITION. Ends of frames (R66), the retirement table (R132, R483, R485), placing an image (R122), loading a tile's SRAM
and slots (R42, R121, R156), and tile faults with the start of a re-placement (R126, R130 to R135, R138, R520). -/

namespace Sys2Proof.Machine

/-! ## Ends of frames (R66, R67) -/

/-- A frame that ends without a result: no detections. -/
def Frame.dropWith (f : Frame) (st : Status) : Frame :=
  { f with phase := .ended, status := st, dets := [], candidates := 0, tracks := 0, boxes := [], candLimit := false,
           trackFull := false }

/-- End every frame without a record that meets a condition. -/
def State.endFrames (s : State) (p : Frame → Bool) (st : Status) : State :=
  { s with adm := { s.adm with frames := s.adm.frames.map (fun f => if p f then f.dropWith st else f) } }

/-- The frame is inside the pipeline: it has entered stage 0 and has no record yet. -/
def Frame.inside (f : Frame) : Bool := f.ordinal.isSome

/-- Free a slot of a stream: pages back, data and OVERRUN gone, idle (R51, R53, R58). -/
def State.freeSlot (s : State) (stream : Nat) (slot : Bool) : State :=
  s.setStream stream ((s.stream stream).setSlot slot Slot.empty)

/-- Free the slots of the frames that meet a condition while admission still sends them. -/
def State.freeSending (s : State) (p : Frame → Bool) : State :=
  (s.adm.frames.filter (fun f => p f && f.phase == .sending)).foldl (fun u f => u.freeSlot f.stream f.slot) s

/-- Every frame inside ends; the post-processing units let go of theirs. (DEDUCED: log entry 62.) -/
def State.endInside (s : State) (st : Status) : State :=
  let u := (s.freeSending Frame.inside).endFrames Frame.inside st
  { u with ppu := { u.ppu with cands := [], rows := [], cropOwed := [] } }

/-- Count a DROPPED_OVERRUN end (R65). -/
def State.countOverrun (s : State) : State :=
  ((s.count Reg.admOverrunCnt 1).setBits Reg.admStat 0x40#32).alert 5

/-- End frames that have not entered stage 0, and free their slots (R58, R63, R65). -/
def State.endOutside (s : State) (p : Frame → Bool) (st : Status) : State :=
  let hit := s.adm.frames.filter (fun f => p f && f.phase == .waiting)
  let u := hit.foldl (fun u f => u.freeSlot f.stream f.slot) s
  let v := u.endFrames (fun f => p f && f.phase == .waiting) st
  if st = .overrun then hit.foldl (fun v _ => v.countOverrun) v else v

/-! ## Retirement (R132, R483, R485) -/

/-- Records in the table or on their way there. -/
def State.retireCount (s : State) : Nat := s.flash.retired.length + s.tel.toRetire.length

/-- Add a record to the retirement table, or keep it until reset where the table is full. -/
def State.retire (s : State) (r : Retire) : State :=
  if s.retireCount < 8192 then { s with tel := { s.tel with toRetire := s.tel.toRetire ++ [r] } }
  else
    let u := { s with tel := { s.tel with volatile := s.tel.volatile ++ [r] } }
    (u.logEvent 0x16 (logArgs [(r.type.toNat, 1), (r.addr.toNat, 4)])).setBits Reg.telStat 0x400#32

/-- Retire a tile that is not retired yet. (DEDUCED: log entry 45.) -/
def State.retireTile (s : State) (t : TileAddr) (cause : Nat) : State :=
  if s.isRetired t then s
  else (s.logEvent 3 (logArgs [(t.toNat, 2)])).retire ⟨1, BitVec.ofNat 8 cause, 0, BitVec.ofNat 32 t.toNat⟩

/-! ## Rejection (R41, R123) -/

/-- Every tile is held in reset, with no slot active or retiring (R42, R121). -/
def State.holdAll (s : State) : State :=
  { s with fab := { s.fab with tiles := [], links := [], unsent := [], unitEnds := [], creditBack := [], scan := [], stopped := false } }

/-- No pitch map is in force any more (R119). -/
def State.clearMap (s : State) : State :=
  { s with plc := { s.plc with pitch := [], pitchDigest := 0, pitchShown := 0, cover := [], affected := [], failed := [], waiting := [], dropped := [],
                               whole := false, inBivouac := false } }

/-- The image is rejected with a reason and the stage at fault. (DEDUCED: log entry 13.) -/
def State.rejectImage (s : State) (code stage : Nat) : State :=
  let u := { s.holdAll.clearMap with img := { s.img with st := .rejected, result := BitVec.ofNat 16 code } }
  ((u.setReg Reg.plcRejInfo (BitVec.ofNat 32 (stage * 65536 + code))).logEvent 0x10 (logArgs [(code, 2), (stage, 2)])).alert 9

/-! ## Positions (R122) -/

/-- The serpentine order of blocks (R122 step 3). -/
def serpentine : List Nat := [0, 1, 2, 3, 7, 6, 5, 4, 8, 9, 10, 11, 15, 14, 13, 12]

/-- Spares assigned to retired active positions in a block: spare and position, lowest spare first (R122 step 1). -/
def coverBlock (retired : List TileAddr) (sec blk : Nat) : List (TileAddr × TileAddr) :=
  let gone := fun (p : Nat) => retired.any (· == packTile sec blk p)
  (((upto 4).map (64 + ·)).filter (fun p => !gone p)).map (packTile sec blk) |>.zip
    (((upto 64).filter gone).map (packTile sec blk))

/-- Every assignment of R122 step 1. -/
def coverAll (retired : List TileAddr) : List (TileAddr × TileAddr) :=
  ((upto 8).map (fun sec => ((upto 16).map (coverBlock retired sec)).flatten)).flatten

/-- The free positions of a sector in order, each as the tile that works there. -/
def sectorFree (retired : List TileAddr) (sec : Nat) : List TileAddr :=
  (serpentine.map (fun b =>
    let cover := coverBlock retired sec b
    (upto 64).filterMap (fun p =>
      let t := packTile sec b p
      if retired.any (· == t) then (cover.find? (fun c => c.2 == t)).map (·.1) else some t))).flatten

/-- Take `n` positions from sectors in increasing number, filling each (R122 step 2). -/
def fillFrom : Nat → List (List TileAddr) → List TileAddr × List (List TileAddr)
  | _, [] => ([], [])
  | n, f :: fs =>
    let r := fillFrom (n - f.length) fs
    (f.take n ++ r.1, f.drop n :: r.2)

/-- Take `n` positions from the lowest sector that holds them all. -/
def takeWhole : Nat → List (List TileAddr) → Option (List TileAddr × List (List TileAddr))
  | _, [] => none
  | n, f :: fs =>
    if n ≤ f.length then some (f.take n, f.drop n :: fs)
    else (takeWhole n fs).map (fun r => (r.1, f :: r.2))

/-- Place the stages in turn. -/
def placeStages : List Nat → List (List TileAddr) → Option (List (List TileAddr))
  | [], _ => some []
  | n :: ns, free =>
    match takeWhole n free with
    | some r => (placeStages ns r.2).map (r.1 :: ·)
    | none =>
      let r := fillFrom n free
      if r.1.length = n then (placeStages ns r.2).map (r.1 :: ·) else none

/-- The positions of an image under a list of retired tiles; none where they do not suffice. -/
def layout (c : Memory) (retired : List TileAddr) : Option (List (List TileAddr)) :=
  placeStages ((upto (imgStages c)).map (stgTiles c)) ((upto 8).map (sectorFree retired))

/-- The digest of a map (R119, R120): the image, the frame rate, the running firmware's version and the positions decide it. -/
def State.mapDigest (s : State) (pitch : List (List TileAddr)) : BitVec 512 :=
  Config.shake256 (Config.pitchBytes s.img.digest s.img.rate s.fwRunning pitch)

/-- FAB_STAT.BANK (R121). -/
def State.bank (s : State) : Bool := s.rbit Reg.fabStat 6

/-! ## Writing and loading tiles (R42, R99, R121, R156) -/

/-- A route word of two entries as the engine writes it. -/
def routeWord (map : BitVec 512) (t : TileAddr) (v : Bool) (net pair : Nat) : Word :=
  BitVec.ofNat 32 (mapEntry map t v net (2 * pair) + 65536 * mapEntry map t v net (2 * pair + 1))

/-- Word `k` of a context slot: from the image, with the routes of the map (R443). -/
def slotImageWord (c : Memory) (map : BitVec 512) (s i : Nat) (t : TileAddr) (v : Bool) (k : Nat) : Word :=
  if 24 ≤ k ∧ k < 33 then routeWord map t v ((k - 24) / 3) ((k - 24) % 3)
  else BitVec.ofNat 32 (pay c (slotAt c s i v + 4 * k) 4)

/-- Write both variant slots of a bank. -/
def Tile.writeBank (x : Tile) (c : Memory) (map : BitVec 512) (s i : Nat) (t : TileAddr) (bank : Nat) : Tile :=
  (upto 128).foldl (fun y k => y.putSlot (2 * bank + k / 64) (k % 64) (slotImageWord c map s i t (64 ≤ k) (k % 64))) x

/-- Write a run of SRAM words from the copy. -/
def loadWords (c : Memory) (from_ : Nat) (word : Nat) : Nat → Tbl (BitVec 64) → Tbl (BitVec 64)
  | 0, m => m
  | n + 1, m => loadWords c (from_ + 8) (word + 1) n (tset 0#64 m word (BitVec.ofNat 64 (pay c from_ 8)))

/-- Write one tile block of the image into a tile's SRAM. -/
def Tile.loadBlock (x : Tile) (c : Memory) (o : Nat) : Tile :=
  { x with sram := loadWords c (o + 8) (blkSram c o / 8) (blkLen c o / 8) x.sram }

/-- FILL_VALUE, which every tile of a spatial stage holds in S63 from LOADING on, whatever FILL_MODE is (R156). -/
def fillWord (c : Memory) (s : Nat) : Word :=
  if opSpatial (stgOp c s) then BitVec.ofNat 32 (spatial c (stgParams c s false)).fill else 0#32

/-- What a tile keeps for a variant of its stage when it is loaded: a line buffer where the stage is spatial, and the ACCs of a
frame where it is a convolution (R158, R159; log entry 87). -/
def loadWork (c : Memory) (map : BitVec 512) (s : Nat) (t : TileAddr) (v : Bool) : Work :=
  { Work.zero with
    lined := opSpatial (stgOp c s)
    due := if stgOp c s = 2 ∨ stgOp c s = 3 then (Config.accCount map t v).toNat else 0 }

/-- A tile loaded from the image: its SRAM, S63, both slots of a bank, its queues, variant 0 active, counters loaded.
(DEDUCED: log entry 73.) -/
def loadTile (c : Memory) (digest map : BitVec 512) (s i : Nat) (t : TileAddr) (bank : Nat) : Tile :=
  let x := ((({ Tile.zero with held := false }.loadBlock c (weightBlk c s i)).loadBlock c (schedBlk c s i)).writeBank c map s i t bank)
  let y := { x with
    s := tset 0#32 x.s 63 (fillWord c s)
    queues := tfill Queue.zero 16 (fun k => { Queue.zero with cfg := commitCfg digest map s i t k }) []
    active := BitVec.ofNat 2 (2 * bank)
    work := tfill Work.zero 2 (fun v => loadWork c map s t (v == 1)) [] }
  y.loadCounters (2 * bank)

/-- The logical tiles of a map with their stage and number. -/
def mapTiles (pitch : List (List TileAddr)) : List (Nat × Nat × TileAddr) :=
  ((upto pitch.length).map (fun s =>
    let ts := pitch.getD s []
    (upto ts.length).map (fun i => (s, i, ts.getD i 0)))).flatten

/-- What rejects positions as a map: no route for some circuit, or a wire or a queue driven twice, is reason 8 (R122, R125); a
queue that R127 cannot hold is reason 10, with its stage. -/
def State.mapReject (s : State) (p : List (List TileAddr)) : Option (Nat × Nat) :=
  let m := s.mapDigest p
  let ts := mapTiles p
  if Config.routable s.img.digest p = false ∨ mapLegal m (ts.map (·.2.2)) = false then some (8, 0xFFFF)
  else (ts.find? (fun x => !depthsFit s.img.digest m x.1 x.2.1 x.2.2)).map (fun x => (10, x.1))

/-- Load every tile of the map in force into a bank, and give every lane its credits. -/
def State.loadAll (s : State) (bank : Bool) : State :=
  let u := (mapTiles s.plc.pitch).foldl (fun u p =>
    u.setTile p.2.2 (loadTile s.img.copy s.img.digest s.plc.pitchDigest p.1 p.2.1 p.2.2 (b2n bank))) s.holdAll
  { u with fab := { u.fab with base := u.adm.nextOrdinal } }.loadCredits

/-! ## Tile faults (R126, R130, R131, R135, R138, R520) -/

/-- Hops from a position to spare 64 + k (R129). -/
def spareHops (pos k : Nat) : Nat :=
  let r := pos / 8
  let d := fun (a : Nat) => if r ≤ a then a - r else r - a
  (7 - pos % 8) + 1 + min (d (2 * k)) (d (2 * k + 1))

/-- The spares of a block that are neither in use nor failed. (DEDUCED: log entry 44.) -/
def State.usableSpares (s : State) (blk : Nat) : List Nat :=
  (upto 4).filter (fun k =>
    let t := packTile (blk / 16) (blk % 16) (64 + k)
    !s.isRetired t && !s.spareInUse t)

/-- The active position whose work a tile carries. -/
def State.positionOf (s : State) (t : TileAddr) : TileAddr :=
  match s.plc.cover.find? (fun p => p.1 == t) with
  | some p => p.2
  | none => t

/-- The spare with the smallest distance, the lower number on a tie (R130). (DEDUCED: log entry 44.) -/
def State.chooseSpare (s : State) (t : TileAddr) : Option Nat :=
  (s.usableSpares (gblockOf t)).foldl (fun best k =>
    let h := spareHops (posOf (s.positionOf t)) k
    match best with
    | some b => if h < spareHops (posOf (s.positionOf t)) b then some k else best
    | none => some k) none

/-- Count frames that end DROPPED_REMAP, for every affected stage (R147). -/
def State.countDropped (s : State) (n : Nat) : State :=
  { s with plc := { s.plc with
      dropped := s.plc.affected.foldl (fun m st => tset 0#32 m st (tget 0#32 m st + BitVec.ofNat 32 n)) s.plc.dropped } }

/-- Place the whole image again (R131): every frame inside ends DROPPED_REMAP, held records are dropped, and LOADING follows.
Where no map is found, or the one found does not pass R125 and R127, the device has failed and the image stays partly
loaded. -/
def State.placeAgain (s : State) (t : TileAddr) : State :=
  let retired := s.retiredTiles
  let u := (s.setBits Reg.plcStat 0x40#32).putFld Reg.plcStat 3 0 4
  let v := ((u.setReg Reg.plcLastFault (BitVec.ofNat 32 (0xFFFF0000 + t.toNat))).countDropped
    (s.adm.frames.filter Frame.inside).length).endInside .remap
  match (layout s.img.copy retired).filter (fun p => (s.mapReject p).isNone) with
  | some p =>
    let w := ((v.keepAllStats.holdAll).clrBits Reg.fabStat 0x80#32).setReg Reg.fabScanSize 0
    { w with plc := { w.plc with pitch := p, cover := coverAll retired, whole := true, affected := [], waiting := [] } }
  | none => { v with plc := { v.plc with whole := true } }.deviceFault 3

/-- Begin a re-placement (R135 step 1) for a fault detected at step `at_`: admission pauses, the tiles stop, and what TS 16 to 31
were loading is abandoned (R316).
(DEDUCED: log entry 44.) -/
def State.beginRemap (s : State) (at_ : Nat) : State :=
  if s.remapping then s
  else
    let u := ((s.count Reg.plcRemapCnt 1).alert 1).setReg Reg.plcStat (setFld (s.reg Reg.plcStat ||| 0x20#32) 3 0 1)
    State.abandonLoads { u with
      plc := { u.plc with startedAt := at_, affected := [], failed := [], inBivouac := u.rbit Reg.fabStat 5, capture := false }
      fab := { u.fab with stopped := true } }

/-- A fault, detected at step `at_`, of a tile that the map in force uses joins or begins a re-placement, or waits for the
running one; a tile that the running re-placement already replaces adds nothing. -/
def State.remapTile (s : State) (t : TileAddr) (cause : BitVec 3) (stage at_ : Nat) : State :=
  if s.remapping ∧ (s.plc.failed.any (·.1 == t) ∨ s.plc.waiting.any (·.1 == t)) then s
  else if s.remapping ∧ 4 < fld (s.reg Reg.plcStat) 3 0 then
    { s with plc := { s.plc with waiting := s.plc.waiting ++ [(t, cause, at_)] } }
  else
    let u := s.beginRemap at_
    let x := { u.tile t with hold := true, held := true, fault := true }
    let v := u.setTile t x
    let w : State := { v with plc := { v.plc with
      failed := v.plc.failed ++ [(t, 0xFFFF#16)], affected := (v.plc.affected ++ [stage]).eraseDups } }
    let need := (w.plc.failed.filter (fun p => gblockOf p.1 == gblockOf t)).length
    if w.plc.whole || decide ((w.usableSpares (gblockOf t)).length < need) then w.placeAgain t else w

/-- A tile fault (R452): counted, logged, the tile retired; then by the state of the image (R126, R520, R454, R135). -/
def State.tileFault (s : State) (t : TileAddr) (cause : BitVec 3) : State :=
  let stage := s.stageOfTile t
  let l := (s.count Reg.fltTileFaultCnt 1).logEvent 2 (logArgs [(t.toNat, 2), (stage.getD 0xFFFF, 2), (cause.toNat, 1)])
  let u := l.retireTile t cause.toNat
  match s.img.st with
  | .placing | .loading =>
    if u.img.restarts ≠ 0 then u.rejectImage 8 0xFFFF
    else { u.holdAll with img := { u.img with st := .placing, restarts := 1 } }
  | .committed | .releasing =>
    match stage with
    | none => u
    | some st => if u.faulted then u else if u.rbit Reg.plcCtl 0 then u.remapTile t cause st u.clock.now else u.deviceFault 7
  | _ => u

end Sys2Proof.Machine
end

