-- ==== Sys2Proof/Machine/LineBuffer.lean ====
section
/-! DEFINITION. The line buffer and the expanded buffer of a tile of a spatial stage (R157 to R163, R179, R180): rows enter the
line buffer as the tile takes their words, leave it when no later output row reads them, and the expanded buffer holds what the
copy makes of them. The spec gives the line buffer no place in SRAM: the model keeps it beside SRAM, by variant.
(DEDUCED: log entry 87.) -/

namespace Sys2Proof.Machine

/-- The operator and the spatial block that a slot of a tile works under. -/
def State.slotOp (s : State) (x : Tile) (c : Nat) : Nat := stgOp s.img.copy (x.slotStage c)
def State.slotBlock (s : State) (x : Tile) (c : Nat) : Spatial :=
  spatial s.img.copy (stgParams s.img.copy (x.slotStage c) (c % 2 == 1))

/-- The row number of the first row group of a frame on a queue: a band or a halo of a striped stage begins inside the map
(R184 to R188). -/
def State.firstRowOf (s : State) (t : TileAddr) (c q : Nat) : Nat :=
  let f := fusion s.img.copy
  let st := (s.tile t).slotStage c
  if c % 2 = 1 ∧ f.stripes ≠ 1 ∧ 1 ≤ st ∧ st ≤ f.last + 1 then (Config.firstRow s.plc.pitchDigest t (BitVec.ofNat 4 q)).toNat else 0

/-- Output row and first position of the block whose ACC comes next (R162, R165). -/
def State.accAt (s : State) (t : TileAddr) (c : Nat) : Nat × Nat :=
  let p := Config.accPlace s.plc.pitchDigest t (c % 2 == 1) (BitVec.ofNat 32 ((s.tile t).workOf c).accs)
  (p.1.toNat, p.2.toNat)

/-- The output row that a tile is working on (R158): that of its next ACC, or the one whose row group it sends next. -/
def State.outRow (s : State) (t : TileAddr) (c : Nat) : Nat :=
  if ((s.tile t).workOf c).due = 0 then ((s.tile t).workOf c).sent else (s.accAt t c).1

/-- Take a word of a row group: it joins its row where the row is covered, and the whole row enters the line buffer; an uncovered
row is discarded (R157, R158). -/
def Work.take (k : Work) (covered : Nat → Bool) (first q n : Nat) (w : QWord) : Work :=
  let i := tget 0 k.next q
  let y := first + i
  let part := if covered y then tget [] k.parts q ++ [w.data] else []
  if isEnd 0 w || w.kind == 1#3 then
    { k with
      parts := tset [] k.parts q []
      rows := if covered y then k.rows ++ [⟨q, n, y, part⟩] else k.rows
      next := tset 0 k.next q (if isEnd 0 w then 0 else i + 1) }
  else { k with parts := tset [] k.parts q part }

/-- Free the rows of the frame in work that no later output row reads, and those of frames that are done (R158). -/
def Work.free (k : Work) (wanted : Nat → Bool) : Work :=
  { k with rows := k.rows.filter (fun r => decide (k.done < r.frame) || (k.done == r.frame && wanted r.y)) }

/-- The rows a tile still needs, after its output row has moved on. -/
def State.freeRows (s : State) (t : TileAddr) (c : Nat) : State :=
  let x := s.tile t
  s.setTile t (x.setWork c ((x.workOf c).free ((s.slotBlock x c).wanted (s.slotOp x c) (s.outRow t c))))

/-- A word has been taken from a vector queue (R157, R158). -/
def State.noteRow (s : State) (t : TileAddr) (c q : Nat) (w : QWord) : State :=
  let x := s.tile t
  let k := x.workOf c
  if !k.lined || decide (8 ≤ q) then s
  else (s.setTile t (x.setWork c (k.take ((s.slotBlock x c).covered (s.slotOp x c)) (s.firstRowOf t c q) q (x.takenOf q) w))).freeRows t c

/-- The ACC of row `k` of a block stands at an output position inside the row: its result may be sent (R162). -/
def State.accInside (s : State) (t : TileAddr) (c k : Nat) : Bool :=
  ((s.tile t).workOf c).due == 0 || decide ((s.accAt t c).2 + k < (s.slotBlock (s.tile t) c).outW)

/-- An ACC has been issued; the last one of a frame frees every row of it (R158, R159). -/
def State.noteAcc (s : State) (t : TileAddr) (c : Nat) : State :=
  let x := s.tile t
  let k := x.workOf c
  if k.due = 0 then s
  else if k.accs + 1 < k.due then (s.setTile t (x.setWork c { k with accs := k.accs + 1 })).freeRows t c
  else (s.setTile t (x.setWork c { k with accs := 0, done := k.done + 1 })).freeRows t c

/-- A word has been sent on a lane: the end of a row group, on the lowest vector lane in use, moves the output row on where the
stage issues no ACC (R158). -/
def State.noteSent (s : State) (t : TileAddr) (c lane : Nat) (kind : BitVec 3) : State :=
  let x := s.tile t
  let k := x.workOf c
  if !k.lined || k.due != 0 || (x.lanes c).head? != some lane || decide (2 ≤ lane) then s
  else if kind = 1#3 then (s.setTile t (x.setWork c { k with sent := k.sent + 1 })).freeRows t c
  else if kind = 2#3 then (s.setTile t (x.setWork c { k with sent := 0, done := k.done + 1 })).freeRows t c
  else s

/-- A word of a vector queue that slot `c` must leave there: it belongs to a frame after the one whose last ACC is still to come,
or to the new geometry while another slot retires (R159, R180). -/
def Tile.rowsWait (x : Tile) (c q : Nat) : Bool :=
  let k := x.workOf c
  decide (q < 8) && ((k.due != 0 && decide (k.done < x.takenOf q)) || (k.lined && x.retiring.any (fun a => a.toNat != c)))

/-! ## The expanded buffer (R160 to R163) -/

/-- Row `y` of the frame in work, as its words stand in the line buffer. -/
def Work.row (k : Work) (y : Nat) : Option (List Burst) := (k.rows.find? (fun r => r.frame == k.done && r.y == y)).map (·.words)

/-- The map that a tile's line buffer shows: the values of its rows as the first producer's format has them (R163, R204). -/
def State.lineMap (s : State) (t : TileAddr) (c : Nat) : FMap := fun ci y x =>
  let z := s.tile t
  let cp := s.img.copy
  let st := (stgProducers cp (z.slotStage c)).headD 0
  match (z.workOf c).row y with
  | some ws => (groupElem (tget NumHdr.zero s.num.hdrs st) (opSpatial (stgOp cp st) && (spatial cp (stgParams cp st (c % 2 == 1))).zout)
      (s.slotBlock z c).inW ci x ws).val
  | none => 0#32

/-- The rows of the map that an output row reads stand in the line buffer. -/
def State.rowsReady (s : State) (t : TileAddr) (c oy : Nat) : Bool :=
  let z := s.tile t
  let p := s.slotBlock z c
  (upto p.inH).all (fun y => !p.reads (s.slotOp z c) oy y || ((z.workOf c).row y).isSome)

/-- The segment that the array is running: whole segments of MMAs into row 7 since its last ZERO (R161, R163). -/
def State.segmentNow (s : State) (t : TileAddr) (c : Nat) : Nat :=
  let z := s.tile t
  let hd := s.hdrOf z c
  tget 0 z.mmas 7 / max ((s.slotBlock z c).seg * groupSize hd.gsel / (if elemBits hd.cfmt = 4 then 16 else 8)) 1

/-- The two halves of the expanded buffer for group `g` of the convolution: the segment the array is running and the one the copy
fills beside it; none while rows that it reads are still to come, and none after the frame's last block (R158 to R163). -/
def State.halves (s : State) (t : TileAddr) (c g : Nat) : List (Option Half) :=
  let z := s.tile t
  let p := s.slotBlock z c
  let hd := s.hdrOf z c
  let a := s.accAt t c
  let n := p.segments (groupSize hd.gsel)
  let i := s.segmentNow t c
  [i, (i + 1) % max n 1].map (fun j =>
    if (z.workOf c).lined && s.rowsReady t c a.1 then some (p.half hd (s.lineMap t c) g a.1 a.2 j) else none)

end Sys2Proof.Machine
end

