-- ==== Sys2Proof/Machine/PowerOps.lean ====
section
/-! DEFINITION. Power domains (R418 to R424, R523): policies and conditions, entries and exits of the low state, the drain
of R110 as START and R423 begin it, and leaving bivouac. -/

namespace Sys2Proof.Machine

/-- The policy of a domain: 0 HOST, 1 AUTO, 2 PORT (R418). -/
def State.policy (s : State) (d : Nat) : Nat :=
  if d < 128 then (if s.blockUsed d then 0 else 1)
  else if d < 140 then 0
  else if d = 144 ∨ d = 145 then 2
  else 1

/-- Image states in which a commit or an image is at work: PLACING to RELEASING. -/
def State.imageAtWork (s : State) : Bool :=
  s.img.st == .placing || s.img.st == .loading || s.img.st == .committed || s.img.st == .releasing

/-- Every ingress slot is idle. -/
def State.slotsIdle (s : State) : Bool := s.adm.streams.all (fun p => p.2.slot0.st == .idle && p.2.slot1.st == .idle)

/-- A verification or a signing runs, or 10 ms have not passed since the last one ended (R418). -/
def State.sigBusy (s : State) : Bool :=
  s.img.st == .verifying || s.sec.fwVerify || s.sec.attest == 1

/-- The condition of an AUTO domain's low state (R418, R523). -/
def State.autoLow (s : State) (d : Nat) : Bool :=
  if d < 128 then !(s.img.st == .placing || s.img.st == .loading)
  else if d < 144 ∨ d = 146 then !s.blockEn 6
  else if d = 147 then !s.blockEn 7
  else if d = 148 then !s.blockEn 8
  else if d = 149 then s.hp0.sr && s.hp1.sr && !s.imageAtWork && s.slotsIdle
  else if d = 150 then !s.sigBusy && msSteps 10 ≤ s.clock.now - s.pwr.sigIdleAt
  else fld (s.reg Reg.telStat) 2 0 == 0 || fld (s.reg Reg.telStat) 2 0 == 4

/-- Transitions of the domains go on: a trip stops them where they are (R424). -/
def State.moving (s : State) : Bool := s.up && !s.rbit Reg.clkStat 4

/-- The condition of an AUTO domain has ended: for the signature engine, a request has come (R418). -/
def State.autoHigh (s : State) (d : Nat) : Bool := if d = 150 then s.sigBusy else !s.autoLow d

/-- The condition under which a HOST domain takes REQ_LOW (R418). -/
def State.hostCond (s : State) (d : Nat) : Bool :=
  if d < 128 then true
  else if d < 136 then (upto 16).all (fun b => s.domLow (16 * (d - 128) + b))
  else (s.img.st == .empty || s.img.st == .verified || s.img.st == .rejected) && s.stm.ts.all (fun p => p.2.active.isNone)

/-- Begin the entry of a domain that is on (R420). -/
def State.enterLow (s : State) (d : Nat) : State :=
  let x := s.dom d
  if x.st = 0 then s.setDom d { x with st := 1, at_ := s.clock.now }
  else if x.st = 4 then s.setDom d { x with st := 2 }
  else s

/-- Begin the exit of a low domain (R421): tile blocks wait for a wave of R422; a lift during an entry is held, and
domain 149 abandons its entry (R424). -/
def State.leaveLow (s : State) (d : Nat) : State :=
  let x := s.dom d
  if x.st = 2 then s.setDom d { x with st := if d < 128 then 4 else 3, at_ := s.clock.now }
  else if x.st = 1 then
    if d = 149 then s.setDom d { x with st := 3, at_ := s.clock.now }
    else { s with pwr := { s.pwr with liftHeld := (s.pwr.liftHeld ++ [d]).eraseDups } }
  else s

/-- Let a domain follow its condition (R419): an AUTO domain, or a spine or an HBM group whose REQ_LOW asks for the low state. -/
def State.follow (u : State) (d : Nat) : State :=
  if u.policy d = 1 then
    if u.autoLow d then (if (u.dom d).st = 0 ∨ (u.dom d).st = 4 then u.enterLow d else u)
    else if u.autoHigh d && ((u.dom d).st == 1 || (u.dom d).st == 2) then u.leaveLow d
    else u
  else if u.policy d = 0 ∧ 128 ≤ d ∧ (u.dom d).reqLow then
    if u.hostCond d then u.enterLow d
    else if (u.dom d).st = 1 ∨ (u.dom d).st = 2 then u.leaveLow d
    else u
  else u

/-- Let every domain follow its condition. (DESIGN CHOICE: log entry 1.) -/
def State.autoPower (s : State) : State := (upto 152).foldl (fun u d => u.follow d) s

/-- Nothing waits: one step of device time passes, and AUTO domains follow their conditions (log entry 1). -/
def State.idle (s : State) : State :=
  let u := s.passTo (s.clock.now + 1)
  if u.up && u.blockEn 13 then u.autoPower else u

/-- Refuse a REQ_LOW write (R419). -/
def State.refuseLow (s : State) (d reason : Nat) : State :=
  let x := s.dom d
  ((s.setDom d { x with reqLow := false, refusal := reason }).count Reg.pwrRefusedCnt 1).setBits Reg.pwrStat 0x8#32

/-- Used blocks whose REQ_LOW is 1. -/
def State.requestedBlocks (s : State) : List Nat := (upto 128).filter (fun b => s.blockUsed b && (s.dom b).reqLow)

/-- Used blocks that are not on. -/
def State.gatedBlocks (s : State) : List Nat := (upto 128).filter (fun b => s.blockUsed b && (s.dom b).st != 0)

/-! ## Drain (R110) -/

/-- Begin a drain. -/
def State.beginDrain (s : State) (scan gate : Bool) : State :=
  let u := s.setBits Reg.fabStat 0x10#32
  { u with fab := { u.fab with drainAt := u.clock.now, drainScan := scan, drainGate := gate, stopped := scan } }

/-- The units send again what found no room when the links landed (R110). -/
def State.sendUnsent (s : State) : State :=
  s.fab.unsent.foldl State.offer { s with fab := { s.fab with unsent := [] } }

/-- Leave bivouac: the fabric is enabled again (R111, R423). -/
def State.leaveBivouac (s : State) : State :=
  let u := ((s.setBits Reg.fabCtl 1#32).clrBits Reg.fabStat 0x20#32)
  ({ u with fab := { u.fab with stopped := false, drainGate := false } }).sendUnsent

/-- In bivouac: requested blocks enter their low state (R423 step 3); where none is requested and none is low any
more, the Y6 resumes. -/
def State.gateBlocks (s : State) : State :=
  let u := s.requestedBlocks.foldl (fun u b => u.enterLow b) s
  if u.requestedBlocks.isEmpty && u.gatedBlocks.isEmpty then
    let v := { u with pwr := { u.pwr with gating := false, reloading := false } }
    if v.fab.drainGate then v.leaveBivouac else v
  else u

/-- Take up a REQ_LOW of 1 for a used block: R44 holds, and the fabric drains by run empty unless it is drained or
draining already (R423); during a re-placement it is held (R424). -/
def State.requestGate (s : State) (b : Nat) : State :=
  let u := s.setDom b { s.dom b with reqLow := true }
  if s.remapping then { u with pwr := { u.pwr with heldReq := (u.pwr.heldReq ++ [b]).eraseDups } }
  else
    let v := { u with pwr := { u.pwr with gating := true } }
    if v.rbit Reg.fabStat 5 then v.gateBlocks
    else if v.rbit Reg.fabStat 4 then v
    else v.beginDrain false true

/-- REQ_LOW is 0 for every used block: the low ones leave their low state (R423). -/
def State.wakeBlocks (s : State) : State :=
  if s.requestedBlocks.isEmpty then
    let u := s.gatedBlocks.foldl (fun u b => u.leaveLow b) s
    if u.gatedBlocks.isEmpty && u.rbit Reg.fabStat 5 && u.pwr.gating && !u.pwr.reloading then u.gateBlocks else u
  else s

/-- Write DCTL of a domain (R419, R423, R428). -/
def State.writeDctl (s : State) (d : Nat) (v : Bool) : State :=
  if 152 ≤ d then s
  else if s.policy d ≠ 0 then s.refuseLow d 2
  else if v then
    if !s.hostCond d then s.refuseLow d 1
    else if d < 128 then s.requestGate d
    else (s.setDom d { s.dom d with reqLow := true }).enterLow d
  else
    let u := s.setDom d { s.dom d with reqLow := false }
    let w := { u with pwr := { u.pwr with heldReq := u.pwr.heldReq.filter (· != d) } }
    if d < 128 then w.wakeBlocks else w.leaveLow d

/-- What a domain loses as it enters its low state (R418). -/
def State.loseDomain (s : State) (d : Nat) : State :=
  if d < 128 then
    let u := ((mapTiles s.plc.pitch).filter (fun p => gblockOf p.2.2 == d)).foldl (fun u p => u.keepStats p.1 p.2.2) s
    { u with fab := { u.fab with tiles := u.fab.tiles.filter (fun p => p.1 / 128 % 128 != d) } }
  else if 136 ≤ d ∧ d < 140 then { s with hbm := { s.hbm with selfRef := s.hbm.selfRef ||| BitVec.ofNat 4 (2 ^ (d - 136)) } }
  else if d = 146 then { s with ctx := { s.ctx with dcache := [] } }
  else if d = 147 then { s with ppu := { s.ppu with cands := [], rows := s.ppu.rows.filter (fun r => r.unit != 7) } }
  else if d = 148 then { s with ppu := { s.ppu with rows := s.ppu.rows.filter (fun r => r.unit != 8), cropOwed := [] } }
  else s

end Sys2Proof.Machine
end

