-- ==== Sys2Proof/Machine/Journal.lean ====
section
/-! DEFINITION. The mirror journal's writer (R464 to R468): the entry layout, the units that may be written, padding at the
end of the region, and a journal break. -/

namespace Sys2Proof.Machine

/-- Units of 64 bytes in the journal region (R464). -/
def jUnits : Nat := 2097152

/-- JFLAGS of R465. -/
def jStaked : Nat := 1
def jSkipped : Nat := 2
def jReleased : Nat := 4
def jForced : Nat := 8
def jWalk : Nat := 16
def jBad : Nat := 32

/-- The stream context of a stream. -/
def State.sctx (s : State) (n : Nat) : StreamCtx := tget StreamCtx.zero s.ctx.streams n

/-- Replace it. -/
def State.setSctx (s : State) (n : Nat) (x : StreamCtx) : State :=
  { s with ctx := { s.ctx with streams := tset StreamCtx.zero s.ctx.streams n x } }

/-- H, the epoch in force (R461). -/
def State.epoch (s : State) : Word := s.reg Reg.fltEpoch

/-- The journal writer writes entries (R256, R456, R460, R468). -/
def State.journaling (s : State) : Bool :=
  s.primary && !s.rbit Reg.fltStat 4 && !s.faulted && s.engineUp

/-- What an entry says beside its number and place. -/
structure JBody where
  kind : Nat
  flags : Nat
  stream : Nat
  slot : Nat
  seq : Word
  payload : List Byte
  deriving DecidableEq, Repr

/-- Units of an entry, header included (R465). -/
def JBody.units (b : JBody) : Nat := 1 + (b.payload.length + 63) / 64

/-- The bytes of an entry (R465). -/
def State.jBytes (s : State) (b : JBody) : List Byte :=
  let cursor := if b.kind = 15 then 0 else (s.sctx b.stream).cursor
  let h := leBytes 8 s.flt.nextJ ++ leBytes 1 b.kind ++ leBytes 1 b.flags ++ leBytes 2 b.units ++ leBytes 2 b.stream ++
    leBytes 2 b.slot ++ leBytes 4 s.epoch.toNat ++ leBytes 4 b.seq.toNat ++ leBytes 2 cursor ++ leBytes 2 0 ++
    leBytes 4 (s.reg Reg.ctxContextId).toNat ++ leBytes 8 s.devTime.toNat ++ leBytes 20 0
  h ++ leBytes 4 (crc32c (h ++ b.payload)).toNat ++ b.payload

/-- No live entry has a unit among the `n` from `a` on (R468). -/
def State.jFree (s : State) (a n : Nat) : Bool :=
  s.flt.live.all (fun e => decide (a + n ≤ e.start) || decide (e.start + e.units ≤ a))

/-- Write one entry at unit `a` and move the head behind it. -/
def State.jPut (s : State) (a : Nat) (b : JBody) : State :=
  let u := { s with
    hbm := { s.hbm with journal := Memory.putBytes s.hbm.journal (64 * a) (s.jBytes b) }
    flt := { s.flt with live := s.flt.live ++ [JEntry.mk s.flt.nextJ a b.units], nextJ := s.flt.nextJ + 1 } }
  u.setReg Reg.fltJrnHead (BitVec.ofNat 32 ((a + b.units) % jUnits))

/-- A journal break (R468): the writer stops, and a walk with it. (DEDUCED: log entry 32.) -/
def State.jBreak (s : State) : State :=
  let u := (s.setBits Reg.fltStat 0x90#32).count Reg.fltJrnBreakCnt 1
  ({ u with flt := { u.flt with walk := none } }).logEvent 0xD (logArgs [(u.flt.nextJ - 1, 4)])

/-- Write an entry at the head, after a PAD where it would run past the end of the region (R464); a break where a unit
it needs is not free. -/
def State.journal (s : State) (b : JBody) : State :=
  if !s.journaling then s
  else
    let head := (s.reg Reg.fltJrnHead).toNat
    if head + b.units ≤ jUnits then
      if s.jFree head b.units then s.jPut head b else s.jBreak
    else
      let rest := jUnits - head
      if s.jFree head rest && s.jFree 0 b.units then
        (s.jPut head ⟨15, 0, 0, 0, 0, List.replicate (64 * (rest - 1)) 0#8⟩).jPut 0 b
      else s.jBreak

/-- Units of the region that no live entry holds. -/
def State.jFreeUnits (s : State) : Nat := jUnits - s.flt.live.foldl (fun n e => n + e.units) 0

end Sys2Proof.Machine
end

