-- ==== Sys2Proof/Machine/Units.lean ====
section
/-! DEFINITION. Words between the fabric and the engine-domain units (R18, R84): what a unit does with a word that reaches
it, the requests of the context engine as their words arrive (R234, R255), and the words a unit sends. -/

namespace Sys2Proof.Machine

/-- A unit takes or sends a word (R309). -/
def State.unitMoved (s : State) (unit : Nat) : State :=
  { s with fab := { s.fab with unitMoves := tset 0 s.fab.unitMoves unit (tget 0 s.fab.unitMoves unit + 1) } }

/-- Send a word from an engine-domain unit on its circuit of a network (R235, R277). -/
def State.unitSend (s : State) (unit net : Nat) (w : QWord) : State :=
  let p := Config.unitWire s.plc.pitchDigest (BitVec.ofNat 5 unit) (BitVec.ofNat 2 net)
  (s.unitMoved unit).offer ⟨wireKey p.1.toNat net p.2.toNat, w⟩

/-- A word of a unit: data as the network carries it. -/
def unitWord (net : Nat) (tag : BitVec 2) (kind : Nat) (data : Burst) : QWord :=
  ⟨tag, BitVec.ofNat 3 kind, if net = 2 then tokenData tag.toNat kind data.toNat else data, noSrc⟩

/-- FRAME_END, or the abort that stands in its place. -/
def endWord (net : Nat) (tag : BitVec 2) (reason : Nat) : QWord :=
  if reason = 0 then unitWord net tag (if net = 2 then 3 else 2) 0 else abortWord net tag.toNat reason noSrc

/-! ## Ends of frames by abort (R109) -/

/-- The status of a frame by the reason of its abort. -/
def abortStatus (reason : Nat) : Status := if reason = 1 then .flush else if reason = 3 then .remap else .fault

/-- A frame is still before the end of crop-and-resize. -/
def Frame.beforeCrop (f : Frame) : Bool :=
  f.phase == .sending || f.phase == .fabric || f.phase == .decoded || f.phase == .suppressed

/-- Crop-and-resize passes on the aborts whose frames come next (R262): no frame before them is still to leave it. -/
def State.sendCropOwed (s : State) : State :=
  let due := fun (o : Nat × BitVec 2 × Nat) =>
    !s.adm.frames.any (fun g => g.beforeCrop && g.ordinal.any (fun n => decide (n < o.1)))
  let u := (s.ppu.cropOwed.filter due).foldl (fun (u : State) o => u.unitSend 8 0 (abortWord 0 o.2.1.toNat o.2.2 noSrc)) s
  { u with ppu := { u.ppu with cropOwed := u.ppu.cropOwed.filter (fun o => !due o) } }

/-- An abort for the frame with an ordinal has reached a unit, which lets go of the frame's words (R288): the frame ends once and
is counted; where crop-and-resize has not sent its boxes yet, the abort goes to the CROP_FEATURES stage in their place (R109,
R262). -/
def State.abortFrame (s : State) (ordinal reason : Nat) : State :=
  let p := fun (f : Frame) => f.ordinal == some ordinal && f.phase != .ended
  let v := { s with ppu := { s.ppu with rows := s.ppu.rows.filter (fun r => r.ordinal != ordinal) } }
  match s.adm.frames.find? p with
  | none => v
  | some f =>
    let u := ((v.freeSending p).endFrames p (abortStatus reason)).count Reg.fabAbortCnt 1
    let w := if f.phase == .decoded then { u with ppu := { u.ppu with cands := [] } } else u
    if f.beforeCrop && (stageOf s.img.copy 0x21).isSome then
      ({ w with ppu := { w.ppu with
          cropOwed := w.ppu.cropOwed ++ [(ordinal, BitVec.ofNat 2 (2 * b2n s.bank + b2n f.wide), reason)] } }).sendCropOwed
    else w

/-! ## Requests of the context engine (R234) -/

/-- Fields of a request header. -/
def CtxReq.op (r : CtxReq) : Nat := fld r.header 31 29
def CtxReq.mode (r : CtxReq) : Nat := fld r.header 28 26
def CtxReq.cnt (r : CtxReq) : Nat := fld r.header 25 20 + 1
def CtxReq.part (r : CtxReq) : Nat := fld r.header 19 18
def CtxReq.ack (r : CtxReq) : Bool := bit r.header 17
def CtxReq.rc (r : CtxReq) : Nat := fld r.header 16 14

/-- Words after the header. -/
def CtxReq.need (r : CtxReq) : Nat :=
  if r.op = 0 then 470 else if r.op = 2 then 66 * r.cnt else if r.mode ≤ 1 then 1 else 0

/-- Close a request whose words are all there. A request for a frame that is not in flight is dropped. -/
def CtxReq.close (r : CtxReq) : List CtxReq :=
  if r.words.length < r.need then [r] else if r.stream < 1024 then [{ r with complete := true }] else []

/-- A new request from its header word: the low 14 bits name the frame (R232). -/
def State.newReq (s : State) (w : QWord) : CtxReq :=
  let h := BitVec.ofNat 32 w.data.toNat
  match s.adm.frames.find? (fun f => f.ordinal.any (fun o => o % 16384 == fld h 13 0)) with
  | some f => ⟨f.ordinal.getD 0, f.stream, f.seq, f.tag, f.tEntry, w.tag, h, [], false, none⟩
  | none => ⟨fld h 13 0, 1024, 0, 0, 0, w.tag, h, [], false, none⟩

/-- Take a data word of the request lane. -/
def State.reqWord (s : State) (w : QWord) : State :=
  match s.ctx.reqs.find? (fun r => !r.complete) with
  | some r =>
    let r' := { r with words := r.words ++ [BitVec.ofNat 32 w.data.toNat] }
    let rest := s.ctx.reqs.filter (·.complete)
    { s with ctx := { s.ctx with reqs := rest ++ r'.close } }
  | none =>
    let r := s.newReq w
    let owed := if r.stream = 1024 || s.ctx.owed.any (fun o => o.ordinal == r.ordinal) then s.ctx.owed
                else s.ctx.owed ++ [⟨r.ordinal, r.tag, none⟩]
    { s with ctx := { s.ctx with reqs := s.ctx.reqs ++ r.close, owed := owed } }

/-- Send the end markers that are due: the frame's end is taken, and no request of it or of a frame before it waits for its
reply (R238). -/
def State.sendOwed (s : State) : State :=
  let due := fun (o : CtxOwed) => o.ended.isSome && s.ctx.reqs.all (fun r => decide (o.ordinal < r.ordinal))
  let u := (s.ctx.owed.filter due).foldl (fun u o =>
    [1, 0, 2].foldl (fun v net => v.unitSend 6 net (endWord net o.tag (o.ended.getD 0))) u) s
  { u with ctx := { u.ctx with owed := u.ctx.owed.filter (fun o => !due o) } }

/-- Send the replies of the requests that have run, in the order of the requests, up to the first that has not; each is followed by
the end markers it makes due (R238). -/
def State.sendReplies : Nat → State → State
  | 0, s => s
  | n + 1, s =>
    match s.ctx.reqs with
    | r :: rs => (match r.reply with
      | some ws => State.sendReplies n
          ((ws.foldl (fun (u : State) w => u.unitSend 6 w.1 (unitWord w.1 r.tag 0 w.2)) { s with ctx := { s.ctx with reqs := rs } }).sendOwed)
      | none => s)
    | [] => s

/-- The end of a frame on the request lane: a partial request is discarded (R255). -/
def State.reqEnd (s : State) (ordinal reason : Nat) : State :=
  let owed := s.ctx.owed.map (fun (o : CtxOwed) => if o.ordinal = ordinal then CtxOwed.mk o.ordinal o.tag (some reason) else o)
  ({ s with ctx := { s.ctx with reqs := s.ctx.reqs.filter (·.complete), owed := owed } }).sendOwed

/-! ## Maps at the post-processing units (R265, R275, R278) -/

/-- The stage whose tile sent a word. -/
def State.srcStage (s : State) (w : QWord) : Nat := (s.tile (BitVec.ofNat 16 (w.src / 8))).slotStage w.tag.toNat

/-- Put a word behind those that a circuit has brought of its frame. -/
def putRow (unit stage ordinal key : Nat) (d : Burst) : List UnitRows → List UnitRows
  | [] => [⟨unit, stage, ordinal, key, [d]⟩]
  | r :: rs =>
    if r.unit = unit ∧ r.stage = stage ∧ r.ordinal = ordinal ∧ r.key = key then { r with words := r.words ++ [d] } :: rs
    else r :: putRow unit stage ordinal key d rs

/-- A post-processing unit keeps a vector word of a frame that has not ended. -/
def State.keepWord (s : State) (unit ordinal key : Nat) (w : QWord) : State :=
  if s.adm.frames.all (fun f => f.ordinal != some ordinal || f.phase == .ended) then s
  else { s with ppu := { s.ppu with rows := putRow unit (s.srcStage w) ordinal key w.data s.ppu.rows } }

/-- The wires on which a stage sends to a unit under a slot, as keys of `Fab.unitEnds`. -/
def State.unitCircuits (s : State) (unit stage slot : Nat) : List Nat :=
  (((s.plc.pitch.getD stage []).map (fun t =>
    (((s.tile t).lanes slot).filter (· < 2)).map (fun l => s.unitsFrom slot 0 512 t (4 + l)))).flatten.flatten.map (· - 2 ^ 20)).filter
      (fun k => Config.edgeUnit (BitVec.ofNat 16 (k / 4)) (BitVec.ofNat 2 k) == some (BitVec.ofNat 5 unit))

/-- Every circuit of a stage into a unit has brought the end of a frame. -/
def State.unitHas (s : State) (unit stage slot ordinal : Nat) : Bool :=
  (s.unitCircuits unit stage slot).all (fun k => decide (ordinal < s.fab.base + tget 0 s.fab.unitEnds k / 2))

/-- The words of a frame that a stage has sent to a unit, in the order of R148; with several circuits their order is the
schedule's. (DESIGN CHOICE: log entry 61.) -/
def State.unitWords (s : State) (unit stage ordinal : Nat) : List Burst :=
  match (s.ppu.rows.filter (fun r => r.unit == unit && r.stage == stage && r.ordinal == ordinal)).map (·.words) with
  | [] => []
  | [ws] => ws
  | cs => Config.mergeRows s.img.digest (BitVec.ofNat 9 stage) cs

/-- A unit lets go of a frame's words. -/
def State.dropRows (s : State) (unit stage ordinal : Nat) : State :=
  { s with ppu := { s.ppu with
      rows := s.ppu.rows.filter (fun r => !(r.unit == unit && r.stage == stage && r.ordinal == ordinal)) } }

/-! ## A word at a unit -/

/-- Crop-and-resize leaves a vector word where it is while its two map buffers hold other frames (R275). -/
def State.mapsFull (s : State) (t : TileAddr) (dir net : Nat) (w : QWord) : Bool :=
  Config.edgeUnit t (BitVec.ofNat 2 dir) == some 8#5 && net == 0 && !isCtxEnd 0 w && !isAbort 0 w &&
  decide (2 ≤ (s.mapFrames.filter (· != s.fab.base + tget 0 s.fab.unitEnds (4 * t.toNat + dir) / 2)).length)

/-- A word reaches the engine-domain unit beyond a wire out of a tile: its credit goes back, and data, ends and aborts
are taken. -/
def State.unitTake (s0 : State) (t : TileAddr) (dir net : Nat) (w : QWord) : State :=
  match Config.edgeUnit t (BitVec.ofNat 2 dir) with
  | none => s0
  | some unit =>
    let s := s0.unitMoved unit.toNat
    let key := 2 ^ 17 * net + 4 * t.toNat + dir
    let k := tget 0 s.fab.unitEnds key
    let n := k / 2
    let owe := if w.src = noSrc then s
      else { s with fab := { s.fab with creditBack := s.fab.creditBack ++ [(w.src, 2 ^ 20 + 4 * t.toNat + dir)] } }
    let put := fun (v : Nat) (u : State) => { u with fab := { u.fab with unitEnds := tset 0 u.fab.unitEnds key v } }
    if isCtxEnd net w || isCtxSwitch net w then owe
    else if k % 2 = 1 then (if isEnd net w then put (2 * n) owe else owe)
    else if isAbort net w then
      let u := put (2 * (n + 1) + b2n (brokenMark w)) owe
      let reason := abortReason net w
      if unit = 6#5 then u.reqEnd (s.fab.base + n) reason else u.abortFrame (s.fab.base + n) reason
    else if isEnd net w then
      let u := put (2 * (n + 1)) owe
      if unit = 6#5 then u.reqEnd (s.fab.base + n) 0
      else if net = 0 then u.keepWord unit.toNat (s.fab.base + n) key w else u
    else if unit = 6#5 ∧ net = 1 then owe.reqWord w
    else if unit ≠ 6#5 ∧ net = 0 then owe.keepWord unit.toNat (s.fab.base + n) key w
    else owe

/-- Deliver a word to the units that a wire leads to under the slot of its tag. -/
def State.unitsTake (s : State) (t : TileAddr) (net wire : Nat) (w : QWord) : State :=
  (s.unitsFrom w.tag.toNat net 512 t wire).foldl (fun u k =>
    u.unitTake (BitVec.ofNat 16 ((k - 2 ^ 20) / 4)) (k % 4) net w) s

end Sys2Proof.Machine
end

