-- ==== Sys2Proof/Machine/Remap.lean ====
section
/-! DEFINITION. Drain, bivouac and flush (R104 to R113, R521), the re-placement (R133 to R139), stall and unit watches (R307
to R309), and the faults of tiles (R126, R453, R490, R520). -/

namespace Sys2Proof.Machine

/-! ## Drain and bivouac -/

/-- A drain runs; the fabric is in bivouac; scan records are held. -/
def State.draining (s : State) : Bool := s.rbit Reg.fabStat 4
def State.bivouac (s : State) : Bool := s.rbit Reg.fabStat 5
def State.scanHeld (s : State) : Bool := s.rbit Reg.fabStat 7

/-- FAB_DRAIN_CTL.START (R110, R138, R521). -/
def State.start (s : State) : State :=
  if s.remapping || s.draining || s.bivouac then s.cfgIgn 4
  else s.beginDrain (s.rbit Reg.fabDrainCtl 0) false

def execStart (s : State) : Out := onlyIf s.engineUp s s.start

/-- The queues in which the circuit of a word on a link ends. -/
def State.linkDests (s : State) (l : LinkWord) : List (TileAddr × Nat) :=
  if 8 ≤ keyWire l.wire then [] else s.destsFrom l.w.tag.toNat (keyNet l.wire) 512 (keyTile l.wire) (keyWire l.wire)

/-- A word on a link lands where its circuit ends. A word that holds no credit (admission's, or a unit's) and finds no room, or
comes behind such a word, stays with its sender (R83, R110). (DEDUCED: log entry 34.) -/
def State.landWord (s : State) (l : LinkWord) : State :=
  let ds := s.linkDests l
  if l.w.src = noSrc ∧ (ds.any (fun d => !((s.tile d.1).queue d.2).room) ∨ s.fab.unsent.any (fun m => m.wire == l.wire)) then
    { s with fab := { s.fab with unsent := s.fab.unsent ++ [l] } }
  else
    ds.foldl (fun v d => v.enqueue d.1 d.2 l.w)
      (if 8 ≤ keyWire l.wire then s.unitTake (keyTile l.wire) (keyWire l.wire - 8) (keyNet l.wire) l.w
       else s.unitsTake (keyTile l.wire) (keyNet l.wire) (keyWire l.wire) l.w)

/-- Words on links land in the queues, and at the engine-domain units, where their circuits end. (DEDUCED: log entry 34.) -/
def State.landOnce (s : State) : State :=
  s.fab.links.foldl State.landWord { s with fab := { s.fab with links := [] } }

/-- Words on links land, and then the end markers that the units send for them (R110, R135). (DEDUCED: log entry 34.) -/
def State.landLinks (s : State) : State := s.landOnce.landOnce

/-- A tile whose queues are marked empty after a scan-out. -/
def Tile.emptied (x : Tile) : Tile :=
  { x with
    queues := tmap Queue.zero (fun _ v => { v with words := [], pend := [] }) x.queues
    retiring := none, ctxEnds := [] }

/-- The scan record of a tile: its registers, and its queue words as they are read (R113). -/
def Tile.synced (x : Tile) : Tile :=
  { x with queues := tmap Queue.zero (fun k v => { v with words := x.queueWords k }) x.queues }

/-- The size of the scan records in KiB. R113 does not say which records FAB_SCAN_SIZE counts nor how it rounds: the model
counts 4 KiB of registers for each of the 8,704 tiles and 32 bytes a vector queue word, rounded up to a KiB.
(DESIGN CHOICE: log entry 82.) -/
def State.scanKib (s : State) : Nat :=
  let words := s.fab.tiles.foldl (fun n p => n + (p.2.queues.filter (fun q => q.1 < 8)).foldl (fun m q => m + q.2.words.length) 0) 0
  (8704 * 4096 + 32 * words + 1023) / 1024

/-- Copy every tile to the save area and mark the queues empty: the records are held (R110, R113).
(DEDUCED: log entry 34.) -/
def State.saveTiles (s : State) : State :=
  let v := { s with fab := { s.fab with
    scan := tmap Tile.zero (fun _ x => x.synced) s.fab.tiles
    tiles := tmap Tile.zero (fun _ x => x.emptied) s.fab.tiles } }
  (v.setBits Reg.fabStat 0x80#32).setReg Reg.fabScanSize (BitVec.ofNat 32 s.scanKib)

/-- The scan-out: link words land, and the tiles are saved (R110). -/
def State.scanOut (s : State) : State := s.landLinks.saveTiles

/-- No frame is in the fabric and every queue and link is empty (R110 METHOD 0). (DEDUCED: log entry 33.) -/
def State.runEmpty (s : State) : Bool :=
  !s.frameInside && s.fab.links.isEmpty && s.fab.unsent.isEmpty && s.fab.tiles.all (fun p => p.2.queuesEmpty && p.2.retiring.isNone && p.2.ctxEnds.isEmpty)

/-- The end of a drain: EN clear, BIVOUAC set, the duration recorded; then the gating of R423. -/
def execDrainComplete (s : State) : Out :=
  let us := (s.clock.now - s.fab.drainAt) / 100
  let u := if s.fab.drainScan then s.scanOut else s
  let v := ((u.clrBits Reg.fabStat 0x10#32).setBits Reg.fabStat 0x20#32).clrBits Reg.fabCtl 1#32
  let w := v.setReg Reg.fabDrainTime (BitVec.ofNat 32 us)
  let t := { w with fab := { w.fab with stopped := false } }
  onlyIf (s.engineUp && s.draining && !s.remapping && (s.fab.drainScan || s.runEmpty)) s
    (if t.pwr.gating then t.gateBlocks else t)

/-- FAB_DRAIN_CTL.SCAN_IN (R111, R521). -/
def State.scanIn (s : State) : State :=
  if s.remapping || !s.scanHeld || s.fab.scanning then s.cfgIgn 4
  else { s with fab := { s.fab with scanning := true, drainAt := s.clock.now } }

def execScanIn (s : State) : Out := onlyIf s.engineUp s s.scanIn

/-- A tile with registers and queue contents restored from its record, each queue's words placed from its BASE in force on;
the rest of SRAM, slots, TCTL and queue settings stay as they are, and so do the counters (R111, R113, R137). -/
def Tile.restore (x r : Tile) : Tile :=
  let y := { r with
    sram := x.sram, slots := x.slots, hold := x.hold, held := x.held, freeze := x.freeze, fault := x.fault
    counts := x.counts, heldCounts := x.heldCounts, converted := x.converted, sat := x.sat, ufl := x.ufl, sqerr := x.sqerr,
    trip := x.trip, accOvf := x.accOvf, scrubPos := x.scrubPos, linkErrs := x.linkErrs
    queues := tfill Queue.zero 16 (fun k =>
      { x.queue k with words := [], rpos := 0, pend := (r.queue k).pend, discard := (r.queue k).discard,
                       drop := (r.queue k).drop, begun := (r.queue k).begun }) [] }
  (upto 16).foldl (fun z k => (z.putWords k (r.queue k).words).settle k) y

/-- Restore every tile from the held records, and clear SCAN_HELD. -/
def State.scanRestore (s : State) : State :=
  let u := s.fab.scan.foldl (fun u p =>
    let t := BitVec.ofNat 16 p.1
    u.setTile t ((u.tile t).restore p.2)) s
  ({ u with fab := { u.fab with scan := [], scanning := false } }.clrBits Reg.fabStat 0x80#32).setReg Reg.fabScanSize 0

def execScanInComplete (s : State) : Out :=
  let us := (s.clock.now - s.fab.drainAt) / 100
  onlyIf (s.engineUp && s.fab.scanning && s.scanHeld && !s.remapping) s
    (s.scanRestore.setReg Reg.fabDrainTime (BitVec.ofNat 32 us))

/-- FAB_DRAIN_CTL.RESUME (R111, R138, R521). -/
def State.resume (s : State) : State :=
  if s.remapping || !s.bivouac || s.scanHeld then s.cfgIgn 4 else s.leaveBivouac

def execResume (s : State) : Out := onlyIf s.engineUp s s.resume

/-- FAB_DRAIN_CTL.FLUSH_ALL: every queue and link is emptied, held records are dropped, and every frame inside ends
DROPPED_FLUSH (R106, R107); ignored in a re-placement (R138). (DEDUCED: log entry 35.) (DEDUCED: log entry 62.) -/
def State.flushAll (s : State) : State :=
  if s.remapping then s.cfgIgn 4
  else
    let u := s.emptyFabric.endInside .flush
    { u with fab := { u.fab with scanning := false }, ctx := { u.ctx with reqs := u.ctx.reqs.filter (·.complete), owed := [] } }

def execFlushAll (s : State) : Out := onlyIf s.engineUp s s.flushAll

/-- QSTAT.FLUSH of one queue (R104, R105, R118); ignored in a re-placement (R138). -/
def State.queueFlush (s : State) (t : TileAddr) (q : Nat) : State :=
  if s.remapping then s.cfgIgn 4 else s.flushQueue t q

/-- The flush is a write of the indirect space, so one that names no tile is ignored (R10). -/
def execQueueFlush (t : TileAddr) (q : BitVec 4) (s : State) : Out :=
  onlyIf (s.engineUp && isTile t) s (s.queueFlush t q.toNat)

/-! ## The affected run (R133) -/

/-- The lanes a tile uses, with the frames it has ended and begun on each. -/
def Tile.laneEnds (x : Tile) : List Nat := (x.lanes x.active.toNat).map (fun l => x.sentOf l / 2)
def Tile.laneBegun (x : Tile) : List Nat := (x.lanes x.active.toNat).map (fun l => (x.sentOf l + 1) / 2)

/-- The first and the first unaffected frame of one stage's run, counted from the fabric's base. -/
def State.stageRun (s : State) (st : Nat) : Nat × Nat :=
  let tiles := fun (i : Nat) => (s.plc.pitch.getD i []).map s.tile
  let started := s.adm.nextOrdinal - s.fab.base
  let lo := ((tiles st).map Tile.laneEnds).flatten.foldl min started
  let hi := if st = 0 then started
    else (((stgProducers s.img.copy st).map tiles).flatten.map Tile.laneBegun).flatten.foldl max 0
  (lo, max lo hi)

/-- The joined run of the affected stages (R138). (DEDUCED: log entry 44.) -/
def State.affectedRun (s : State) : Nat × Nat :=
  match s.plc.affected.map s.stageRun with
  | [] => (0, 0)
  | r :: rs => rs.foldl (fun a b => (min a.1 b.1, max a.2 b.2)) r

/-! ## Steps 3 to 8 of R135 -/

/-- Count the words bound for or held by failed tiles (R135 step 2). -/
def State.countLost (s : State) : State :=
  let failed := s.plc.failed.map (·.1)
  let inQ := failed.foldl (fun n t => n + (s.tile t).queuedWords) 0
  let flying := (s.fab.links.filter (fun l => (s.linkDests l).any (fun d => failed.contains d.1))).length
  s.count Reg.plcLostWordCnt (inQ + flying)

/-- The frame from which a tile works its active slot, where an older slot still retires (R98). -/
def State.slotFrom (s : State) (t : TileAddr) : Nat :=
  match (s.tile t).retiring with
  | some a => s.switchFrame t a.toNat (s.tile t).active.toNat
  | none => 0

/-- The first frame past the run that a queue or a lane of the tile carries: one that only the retiring slot uses carries no
frame of the active slot (R193). -/
def runEnd (hi from_ : Nat) (inActive : Bool) : Nat := if inActive then hi else min hi from_

/-- A queue of an affected stage after the abort edits: its words are gone and counted, and it discards what is still to come
of the run; the entries that carry a context stay (R96, R136). -/
def Tile.editQueue (x : Tile) (hi q : Nat) : Tile :=
  let v := x.queue q
  let net := netOfQueue q
  let keeps := fun (w : QWord) => isCtxEnd net w || isCtxSwitch net w
  let gone := v.words.filter (fun w => !keeps w)
  let ends := x.takenOf q + (gone.filter (isEnd net)).length + v.pend.length
  let y := (x.setQueue q { v with
    pend := [], begun := false, flushed := v.flushed + BitVec.ofNat 32 gone.length
    discard := v.discard + (hi - (ends + v.drop)) }).putWords q ((x.queueWords q).filter keeps)
  { y with taken := tset 0 y.taken q (max ends hi) }

/-- A tile of an affected stage after the abort edits: queue contents gone and counted, its inputs discarding up to the end
of the run, its frame state cleared (R136). `from_` is the first frame of the active slot. (DEDUCED: log entry 44.) -/
def Tile.edited (x : Tile) (hi from_ : Nat) : Tile :=
  let c := x.active.toNat
  let reads := (x.contexts.map x.readQueues).flatten.eraseDups
  let lanes := (x.contexts.map x.lanes).flatten.eraseDups
  let y := reads.foldl (fun y q => y.editQueue (runEnd hi from_ ((x.readQueues c).contains q)) q) x
  let z := y.abandon c
  { z.setWork c { z.workOf c with done := max (z.workOf c).done (runEnd hi from_ true) } with
    steps := []
    sent := lanes.foldl (fun m l => tset 0 m l (2 * max (y.sentOf l / 2) (runEnd hi from_ ((x.lanes c).contains l)))) y.sent }

/-- The aborts that the lanes of a tile of an affected stage owe for the run: lane and tag, in frame order (R136). -/
def Tile.owedAborts (x : Tile) (hi from_ : Nat) : List (Nat × Nat) :=
  let c := x.active.toNat
  let old := (x.retiring.map (·.toNat)).getD c
  (((x.contexts.map x.lanes).flatten.eraseDups).map (fun l =>
    let ends := x.sentOf l / 2
    (upto (runEnd hi from_ ((x.lanes c).contains l) - ends)).map (fun i =>
      (l, if (x.lanes c).contains l && decide (from_ ≤ ends + i) then c else old)))).flatten

/-- Queue an abort of reason REMAP behind the last word of a queue, or take it for a frame being discarded
(R136, R137). -/
def State.queueAbort (s : State) (t : TileAddr) (q tag src : Nat) : State :=
  let x := s.tile t
  let v := x.queue q
  if v.discard ≠ 0 then s.setTile t (x.setQueue q { v with discard := v.discard - 1 })
  else if v.words.length < v.depth ∧ v.pend.isEmpty then
    s.setTile t (x.putWords q (x.queueWords q ++ [abortWord (netOfQueue q) tag 3 src]))
  else s.setTile t (x.setQueue q { v with pend := (v.pend ++ [(BitVec.ofNat 2 tag, 3#8)]).take 15 })

/-- Repeat a step. -/
def times {α : Type} (f : α → α) : Nat → α → α
  | 0, a => a
  | n + 1, a => times f n (f a)

/-- Step 3: the abort edits in the saved records (R136). -/
def State.abortEdits (s : State) (lo hi : Nat) : State :=
  let tiles := (s.plc.affected.map (fun st => s.plc.pitch.getD st [])).flatten
  let owed := (tiles.map (fun t => ((s.tile t).owedAborts hi (s.slotFrom t)).map (fun o =>
    (t, o.1, o.2, s.laneDests t o.2 o.1)))).flatten
  let u := tiles.foldl (fun u t => u.setTile t ((u.tile t).edited hi (s.slotFrom t))) s
  let v := owed.foldl (fun u o =>
    o.2.2.2.foldl (fun w d => w.queueAbort d.1 d.2 o.2.2.1 (8 * o.1.toNat + o.2.1))
      (u.unitsTake o.1 (o.2.1 / 2) (4 + o.2.1 % 2) (abortWord (o.2.1 / 2) o.2.2.1 3 noSrc))) u
  { v.countDropped (hi - lo) with plc := { (v.countDropped (hi - lo)).plc with fLo := lo, fHi := hi } }

/-- Step 4 for one failed tile: the spare takes its position (R130). -/
def State.takeSpare (s : State) (t : TileAddr) : State :=
  match s.chooseSpare t with
  | none => s
  | some k =>
    let p := s.positionOf t
    let spare := packTile (sectorOf t) (blockOf t) (64 + k)
    let old := s.tile t
    let u := ((s.stageOfTile t).elim s (fun st => s.keepStats st t)).setTile spare { Tile.zero with
      sent := old.sent, taken := old.taken, queues := old.queues, active := old.active, retiring := old.retiring
      delivered := old.delivered, ctxEnds := old.ctxEnds, work := old.work }
    let pitch := u.plc.pitch.map (fun ts => ts.map (fun a => if a == t then spare else a))
    let failed := u.plc.failed.map (fun f => if f.1 == t then (t, spare) else f)
    let cover := (u.plc.cover.filter (fun c => c.1 != t)) ++ [(spare, p)]
    let v := { u with plc := { u.plc with cover := cover, pitch := pitch, failed := failed } }
    v.setReg Reg.plcLastFault (BitVec.ofNat 32 (65536 * spare.toNat + t.toNat))

/-- A spare loaded from the image with the queues of the tile it replaces, words by their data (R135 step 5, R137). -/
def State.loadSpare (s : State) (spare : TileAddr) : State :=
  match (mapTiles s.plc.pitch).find? (fun p => p.2.2 == spare) with
  | none => s
  | some (st, i, t) =>
    let x := loadTile s.img.copy s.img.digest s.plc.pitchDigest st i t (b2n s.bank)
    let old := s.tile t
    let y := { x with
      sent := old.sent, taken := old.taken, active := old.active, retiring := old.retiring
      delivered := old.delivered, ctxEnds := old.ctxEnds, work := old.work
      queues := tfill Queue.zero 16 (fun k =>
        { x.queue k with discard := (old.queue k).discard, drop := (old.queue k).drop, pend := (old.queue k).pend }) [] }
    s.setTile t ((upto 16).foldl (fun z k => (z.putWords k (old.queueWords k)).settle k) (y.loadCounters y.active.toNat))

/-- Step 6: both variant slots of the other bank, and the depths that the reserve allows, for every tile of the map
(R121, R128). -/
def State.writeOtherBank (s : State) : State :=
  let b := 1 - b2n s.bank
  (mapTiles s.plc.pitch).foldl (fun u p =>
    let t := p.2.2
    let x := (u.tile t).writeBank u.img.copy u.plc.pitchDigest p.1 p.2.1 t b
    let cfg := repairCfgs u.img.digest u.plc.pitchDigest p.1 p.2.1 t (fun k => (x.queue k).cfg)
    let words := (upto 16).map (fun k => x.queueWords k)
    let y := (upto 16).foldl (fun (y : Tile) k => y.setQueue k { y.queue k with cfg := cfg k, rpos := 0 }) x
    u.setTile t ((upto 16).foldl (fun y k => y.putWords k (words.getD k [])) y)) s

/-- The queues that the repair of a map leaves short of R127 (R128). -/
def State.shortCount (s : State) : Nat :=
  (mapTiles s.plc.pitch).foldl (fun n p =>
    n + shortQueues s.img.digest s.plc.pitchDigest p.1 p.2.1 p.2.2 (fun k => ((s.tile p.2.2).queue k).cfg)) 0

/-- The records of the save area, laid over the tiles for the steps that edit them: held records, or the scan-out of the whole
die (R135 step 2, R138). -/
def State.openRecords (s : State) : State := if s.scanHeld then s.scanRestore else s.countLost.landLinks

/-- Steps 4 and 5: the spares are chosen, the routes and depths of the new map made, and the spares loaded (R127, R128, R130). A
capture release loads the tiles of its sectors again (R488). -/
def State.repair (s : State) : State :=
  let u3 := s.plc.failed.foldl (fun u f => if f.2 == 0xFFFF#16 then u.takeSpare f.1 else u) s
  let u4 := { u3 with plc := { u3.plc with pitchDigest := u3.mapDigest u3.plc.pitch } }
  let u5 := (u4.plc.failed.map (·.2)).foldl (fun u t => u.loadSpare t) u4
  let u6 : State := if u5.plc.capture then
      ((mapTiles u5.plc.pitch).filter (fun p => bit u5.tel.cap.dSectors (sectorOf p.2.2))).foldl (fun u p => u.loadSpare p.2.2) u5
    else u5
  if u6.shortCount = 0 then u6 else (u6.setBits Reg.plcStat 0x80#32).count Reg.plcUnbalCnt u6.shortCount

/-- The end of the scan-out (R135 steps 2 to 6): words of failed tiles are lost, the aborts queued, the spares chosen and
loaded, the other bank written, and the edited records held in the save area. An unreadable save area or image copy is a device
fault (R310). (DEDUCED: log entry 44.) -/
def execRemapScanOutDone (ue : Bool) (s : State) : Out :=
  let u1 := s.openRecords
  let run := u1.affectedRun
  let u2 := (u1.abortEdits run.1 run.2).repair
  let u3 := (u2.writeOtherBank.saveTiles).putFld Reg.plcStat 3 0 7
  onlyIf (s.engineUp && s.remapping && fld (s.reg Reg.plcStat) 3 0 ≤ 4 && !s.plc.whole && s.clk.capture == 0#8) s
    (if ue then s.deviceFault 6 else u3)

/-- Exclusive or of a tag with 2 (R137). -/
def flipTag (t : BitVec 2) : BitVec 2 := t ^^^ 2#2

/-- The lane that owes a word its credit, where a spare has taken the sender's place. -/
def moveSrc (failed : List (TileAddr × TileAddr)) (src : Nat) : Nat :=
  match failed.find? (fun f => f.1.toNat == src / 8) with
  | some f => 8 * f.2.toNat + src % 8
  | none => src

/-- A word moved to the other bank: its tag, which a control token also carries in its data (R78, R137). -/
def flipWord (failed : List (TileAddr × TileAddr)) (net : Nat) (w : QWord) : QWord :=
  { w with
    tag := flipTag w.tag, src := moveSrc failed w.src
    data := if net = 2 then tokenData (flipTag w.tag).toNat w.kind.toNat
      (if isCtxSwitch net w then (w.data.toNat + 2) % 4 else w.data.toNat) else w.data }

/-- A tile moved to the other bank. -/
def Tile.flip (failed : List (TileAddr × TileAddr)) (x : Tile) : Tile :=
  { x with
    active := flipTag x.active
    retiring := x.retiring.map flipTag
    delivered := x.delivered.map (fun k => (k + 32) % 64)
    steps := tfill 0#13 4 (fun c => tget 0#13 x.steps ((c + 2) % 4)) []
    ctxEnds := x.ctxEnds.map (fun k => (k + 16) % 32)
    aborting := x.aborting.map (fun p => (flipTag p.1, p.2))
    handler := x.handler.map (fun k => ((k.1 + 2) % 4, k.2))
    queues := tmap Queue.zero (fun q v => { v with
      words := v.words.map (flipWord failed (netOfQueue q))
      pend := v.pend.map (fun p => (flipTag p.1, p.2)) }) x.queues }

/-- Record the length of an interruption (R139) and the entries of R484. -/
def State.remapTimes (s : State) : State :=
  let us := (s.clock.now - s.plc.startedAt) / 100
  let u := s.setReg Reg.plcRemapTime (BitVec.ofNat 32 us)
  let v := if (u.reg Reg.plcRemapMax).toNat < us then u.setReg Reg.plcRemapMax (BitVec.ofNat 32 us) else u
  v.plc.failed.foldl (fun w f => w.logEvent 4 (logArgs [(f.1.toNat, 2), (f.2.toNat, 2), (us, 4)])) v

/-- The re-placement is over: R44 ends, the watch starts again (R316), held requests and waiting faults are taken up (R138, R424). -/
def State.remapOver (s : State) : State :=
  let u := { s.clrBits Reg.plcStat 0x2F#32 with
    fab := { s.fab with stopped := s.draining && s.fab.drainScan }
    plc := { s.plc with affected := [], failed := [], waiting := [], inBivouac := false, capture := false, whole := false, watch := [] } }
  let v := s.plc.waiting.foldl (fun w f =>
    match w.stageOfTile f.1 with
    | some st => w.remapTile f.1 f.2.1 st f.2.2
    | none => w) u
  let held := v.pwr.heldReq
  if v.remapping then v
  else held.foldl (fun w b => w.requestGate b) { v with pwr := { v.pwr with heldReq := [] } }

/-- The end of the scan-in (R135 steps 7 and 8): the records are restored, every word, tag and slot moves to the other bank,
credits are set, the bank changes die-wide and the first slot may start; in bivouac the fabric stays there (R138). -/
def State.remapFinish (s0 : State) : State :=
  let s := s0.scanRestore
  let reqs := s.ctx.reqs.map (fun (r : CtxReq) => { r with tag := flipTag r.tag })
  let owed := s.ctx.owed.map (fun (o : CtxOwed) => { o with tag := flipTag o.tag })
  let tiles := tmap Tile.zero (fun _ x => if x.held && !x.hold then x else x.flip s.plc.failed) s.fab.tiles
  let move := fun (ls : List LinkWord) => ls.map (fun (l : LinkWord) => { l with w := flipWord s.plc.failed (keyNet l.wire) l.w })
  let u := { s with
    fab := { s.fab with tiles := tiles, links := move s.fab.links, unsent := move s.fab.unsent, creditBack := [] }
    plc := { s.plc with pitchShown := s.plc.pitchDigest }
    ctx := { s.ctx with reqs := reqs, owed := owed } }
  let v := (u.putBit Reg.fabStat 6 (!u.bank)).loadCredits
  let w := if v.plc.inBivouac then v else (v.setBits Reg.fabCtl 1#32).sendUnsent
  let x := if w.plc.capture then w.putFld Reg.telStat 2 0 5 else w
  x.remapTimes.remapOver

/-! ## Faults of tiles, stages and units -/

/-- A tile fault reported with its cause (R452, R484). -/
def execTileFault (t : TileAddr) (cause : BitVec 3) (s : State) : Out :=
  if !isTile t then .fault .noSuchTile else onlyIf s.engineUp s (s.tileFault t cause)

/-- A tile does not take a load word or an indirect word within 10 microseconds (R453). -/
def execTileNoResponseTimeout (t : TileAddr) (s : State) : Out :=
  if !isTile t then .fault .noSuchTile
  else onlyIf (s.engineUp && !bit s.clk.capture (sectorOf t)) s (s.tileFault t 3)

/-- Count what the check of an SRAM read found (R74). -/
def State.countEcc (s : State) (e : Ecc) : State :=
  match e with
  | .ok => s
  | .corrected => s.count Reg.fabEccCorrCnt 1
  | .uncorrectable => (s.count Reg.fabEccUncorrCnt 1).setBits Reg.fabStat 0x200#32

/-- One access of a tile's scrub (R490): it takes an idle bank cycle, or holds an instruction, which counts a HAZARD. An
uncorrectable word is a tile fault of cause 4. -/
def execTileScrubAccess (t : TileAddr) (ecc : Ecc) (held : Bool) (s : State) : Out :=
  let x := s.tile t
  let y := { x with
    scrubPos := (x.scrubPos + 1) % 1536
    counts := if held && s.rbit Reg.fabCtl 0 && !x.held then tset 0#32 x.counts 3 (tget 0#32 x.counts 3 + 1#32) else x.counts }
  let u := (s.setTile t y).countEcc ecc
  let on := s.engineUp && s.rbit Reg.fabCtl 1 && (s.dom (gblockOf t)).st == 0
  if !isTile t then .fault .noSuchTile
  else onlyIf on s (if ecc = .uncorrectable then u.tileFault t 4 else u)

/-- The moment at which a watched stage or unit has made no progress for 250 microseconds, if nothing moves until then. -/
def State.stuckAt (s : State) (k : Nat) (w : Watch) : Nat := s.clock.now + (stuckSteps - (w.next (s.watchSig k) 0).steps)

/-- The stages that are stuck at this moment. -/
def State.stuckStages (s : State) : List Nat :=
  (upto s.plc.pitch.length).filter (fun i =>
    s.stageWatched i && s.stageHolds i && decide (stuckSteps ≤ ((tget Watch.zero s.plc.watch i).next (s.stageSig i) 0).steps))

/-- A stuck stage (R308): counted, logged, and re-placed, with every stage that is stuck at that moment and with no tile retired; a
second stall of the stage within 10 s is a device fault (R309). -/
def State.stall (s : State) (n : Nat) : State :=
  let last := tget 0 s.plc.lastStall n
  let u := (((s.count Reg.stmWdogCnt 1).setReg Reg.stmWdogLast (BitVec.ofNat 32 n)).setBits Reg.stmStat 0x8#32).logEvent 5
    (logArgs [(n, 2)])
  let v := u.alert 2
  let w := { v with plc := { v.plc with lastStall := tset 0 v.plc.lastStall n (s.clock.now + 1) } }
  if last ≠ 0 ∧ s.clock.now + 1 - last ≤ msSteps 10000 then w.deviceFault 4
  else
    let b := w.beginRemap w.clock.now
    { b with plc := { b.plc with affected := (n :: s.stuckStages).eraseDups } }

/-- STALL_FAULT: the stage holds a word or a frame and nothing in it moves until its 250 microseconds are over. -/
def execStallFault (stage : BitVec 9) (s : State) : Out :=
  let n := stage.toNat
  let u := s.until (s.stuckAt n (tget Watch.zero s.plc.watch n))
  onlyIf (s.engineUp && n < s.plc.pitch.length && s.watching && s.stageWatched n && s.stageHolds n) s (u.stall n)

/-- UNIT_NO_PROGRESS: an engine-domain unit that holds a frame makes no progress for 250 microseconds (R309). -/
def execUnitNoProgress (unit : BitVec 5) (s : State) : Out :=
  let n := unit.toNat
  let u := s.until (s.stuckAt (512 + n) (tget Watch.zero s.plc.watch (512 + n)))
  onlyIf (s.engineUp && s.watching && s.clk.capture == 0#8 && s.unitHolds n) s (u.deviceFault 5)

end Sys2Proof.Machine
end

