-- ==== Sys2Proof/Machine/Needs.lean ====
section
/-! DEFINITION. What an instruction asks of its cycle beside its predicate (R71 to R73, R83, R87 to R90, R196): a word of QIN, a
credit of its lanes, and no hazard; and the same of the instruction that a slot issues next, read from its SRAM word (R95). -/

namespace Sys2Proof.Machine

/-- What an instruction asks of its cycle beside its header. -/
structure Need where
  /-- it waits for a word of QIN in this tile and context -/
  word : Tile → Nat → Bool
  /-- it is WAIT, which counts WAIT and takes nothing (R87) -/
  isWait : Bool
  /-- the lanes that must hold a credit -/
  lanes : Tile → Nat → List Nat
  /-- a hazard holds it (R71, R72, R73) -/
  hazard : Tile → Bool

/-- The lane an OUT code names (R86). -/
def outLane (out : Nat) : List Nat := if out = 0 then [] else [out - 1]

/-- The head of a queue is present for slot `c` (R88); an abort is no word an instruction takes (R108). -/
def Tile.present (x : Tile) (q c : Nat) : Option QWord :=
  match x.head q with
  | some w => if w.tag.toNat = c ∧ ¬ isAbort (netOfQueue q) w ∧ ¬ isCtxEnd (netOfQueue q) w then some w else none
  | none => none

/-- PRED holds (R86). -/
def Tile.predHolds (x : Tile) (h : Hdr) : Bool :=
  match h.pred.toNat with
  | 0 => true
  | 1 => tget 0 x.c h.csel.toNat == 0
  | _ => tget 0 x.c h.csel.toNat != 0

/-! ## Hazards -/

/-- Some of these SRAM words lie in a bank that a queue write has taken in this cycle (R73). (DEDUCED: log entry 74.) -/
def Tile.sramBusy (x : Tile) (word n : Nat) : Bool := (upto n).any (fun i => bit x.qbanks (bankOf (word + i)))

/-- The head word of a vector queue lies in such a bank (R73). -/
def Tile.queueBusy (x : Tile) (q : Nat) : Bool := q < 8 && x.sramBusy ((x.queue q).place 0) 1

/-- A bank an MMA named in the last four cycles is still in use (R72); 0 stands for never. (DEDUCED: log entry 24.) -/
def Tile.bankBusy (x : Tile) (bank : Bool) : Bool :=
  let a := tget 0 x.bankAt (b2n bank)
  a != 0 && x.cycle < a + 4

/-- An accumulator row is being updated until the end of the fourth cycle after its last MMA (R71). -/
def Tile.rowBusy (x : Tile) (k : Nat) : Bool :=
  let a := tget 0 x.accAt k
  a != 0 && x.cycle < a + 4

/-! ## Needs -/

/-- The default need: a word of QIN where QIN_EN, in a bank that is free, and a credit of OUT's lane. -/
def needOf (h : Hdr) : Need :=
  ⟨fun _ _ => h.qinEn, false, fun _ _ => outLane h.out.toNat, fun x => h.qinEn && x.queueBusy h.qin.toNat⟩

/-- The need of an instruction that reads or writes `n` SRAM words from `word` on (R73). -/
def sramNeed (h : Hdr) (word n : Nat) : Need :=
  { needOf h with hazard := fun x => (needOf h).hazard x || x.sramBusy word n }

/-- What WAIT needs: a word of QIN, which it does not take. -/
def waitNeed (h : Hdr) : Need := { needOf h with word := fun _ _ => true, isWait := true, hazard := fun _ => false }

/-- What RCV needs: the head word of QIN. (DEDUCED: log entry 23.) -/
def rcvNeed (h : Hdr) : Need := { needOf h with word := fun _ _ => true, hazard := fun x => x.queueBusy h.qin.toNat }

/-- The control lanes of a slot, on which a CTX_SWITCH is forwarded (R94). -/
def Tile.controlLanes (x : Tile) (c : Nat) : List Nat := (x.lanes c).filter (fun l => l / 2 == 2)

/-- What TOKR needs: the head word of QIN and, for a CTX_SWITCH, a credit of every control lane. -/
def tokrNeed (h : Hdr) : Need :=
  { rcvNeed h with
    lanes := fun x c => outLane h.out.toNat ++ (match x.present h.qin.toNat c with
      | some w => if isCtxSwitch (netOfQueue h.qin.toNat) w then x.controlLanes c else []
      | none => []) }

/-- What LDW and ACC need: a bank that no MMA uses and SRAM words whose banks are free (R72, R73), a row that is complete
(R71). -/
def ldwNeed (h : Hdr) (bank : Bool) (word : Nat) : Need :=
  { needOf h with hazard := fun x => (sramNeed h word 8).hazard x || x.bankBusy bank }
def accNeed (h : Hdr) (k : Nat) : Need := { needOf h with hazard := fun x => (needOf h).hazard x || x.rowBusy k }

/-- What SND needs: a credit where it has a word to send. -/
def sndNeed (h : Hdr) (packed : Bool) : Need :=
  { needOf h with lanes := fun x _ => if packed && x.z.out.isEmpty then [] else outLane h.out.toNat }

/-- A ZUNPACK takes a word: bitmap words first, then the data words they announce (R196). -/
def ZState.wants (z : ZState) (n : Nat) : Bool :=
  z.maps.length < (n + 7) / 8 || z.bytes.length < (mapBits z.maps n + 31) / 32 * 32

/-- What ZUNPACK needs: a word of QIN while its row still wants one, and the row's SRAM words free (R73, R196). -/
def unpackNeed (h : Hdr) (word k : Nat) : Need :=
  { needOf h with
    word := fun x _ => x.z.wants k
    hazard := fun x => (x.z.wants k && x.queueBusy h.qin.toNat) || x.sramBusy word (4 * k) }

/-- The need of the instruction that a word spells, where the spec places the fields that decide it and by a free function of
OPERANDS where it does not. (DESIGN CHOICE: log entry 4.) -/
def wordNeed (w : Nat) : Need :=
  let h := wordHdr w
  let o := BitVec.ofNat 44 w
  let at_ := (Config.sramWord o).toNat
  match wordOp w with
  | 0x01 => waitNeed h
  | 0x03 => tokrNeed h
  | 0x08 => ldwNeed h (opField w 13 13 == 1) (opField w 12 0)
  | 0x0A => accNeed h (Config.accRow o).toNat
  | 0x19 => sramNeed h at_ (4 * (Config.rowChunks o).toNat)
  | 0x1A => unpackNeed h at_ (Config.rowChunks o).toNat
  | 0x30 | 0x31 => sramNeed h at_ 4
  | 0x32 | 0x33 => sramNeed h at_ 1
  | 0x34 => rcvNeed h
  | 0x35 => sndNeed h (Config.sndPacked o)
  | _ => needOf h

end Sys2Proof.Machine
end

