-- ==== Sys2Proof/Machine/Issue.lean ====
section
/-! DEFINITION. One sector cycle of a tile (R86 to R92, R95, R114): which context issues, what holds an instruction back,
and what every issued instruction does beside its own effect. -/

namespace Sys2Proof.Machine

/-- Where the schedule goes next (R89). -/
inductive Flow where
  | on
  | jump (n : Nat)
  | done
  deriving DecidableEq, Repr

/-- Tile counters by number (R114). -/
def cIssue : Nat := 0
def cStallIn : Nat := 1
def cStallOut : Nat := 2
def cHazard : Nat := 3
def cRetire : Nat := 4
def cWait : Nat := 5

def Tile.bump (x : Tile) (k : Nat) : Tile := { x with counts := tset 0#32 x.counts k (tget 0#32 x.counts k + 1#32) }

/-- A tile can issue at all: enabled, not held, its block on, its sector running. -/
def State.tileOn (s : State) (t : TileAddr) : Bool :=
  s.engineUp && s.rbit Reg.fabCtl 0 && !(s.tile t).held && !s.clk.stopped && !bit s.clk.capture (sectorOf t) &&
  (s.dom (gblockOf t)).st == 0

/-- What a context does in this cycle. -/
inductive Gate where
  | go
  | wait
  | stallIn
  | stallOut
  | hazard
  | none
  deriving DecidableEq, Repr

/-- The issueStatus of an instruction in slot `c` (R89). -/
def issueStatus (x : Tile) (h : Hdr) (n : Need) (c : Nat) : Gate :=
  let runs := if x.ruleMode c then x.handler.any (fun k => k.1 == c) else true
  if !x.slotValid c || !runs then .none
  else if !x.predHolds h then .go
  else if n.word x c && ((x.present h.qin.toNat c).isNone || (!n.isWait && x.rowsWait c h.qin.toNat)) then
    (if n.isWait then .wait else .stallIn)
  else if !x.creditsFor (n.lanes x c) then .stallOut
  else if n.hazard x then .hazard
  else .go

/-- A rule is ready (R90, R101). With KM 1 and an empty IN_MASK there is no queue whose KIND could be compared, and the spec
does not say whether the rule is ready: the model counts it as ready. (DESIGN CHOICE: log entry 79.) -/
def issueRuleReady (x : Tile) (c r : Nat) : Bool :=
  let hi := x.slotWord c (0x24 + 8 * r)
  let qs := (upto 16).filter (fun q => bit hi (16 + q))
  let out := fld hi 15 13
  bit hi 12 &&
  qs.all (fun q => (x.present q c).isSome) &&
  (!bit hi 11 || (match qs.head? with
    | some q => (x.present q c).any (fun w => w.kind.toNat == fld hi 10 8)
    | none => true)) &&
  x.creditsFor (outLane out)

/-- The first ready rule after the pointer (R90). -/
def issueNextRule (x : Tile) (c : Nat) : Option Nat :=
  ((upto 8).map (fun n => (x.rulePtr.toNat + n + 1) % 8)).find? (issueRuleReady x c)

/-- What slot `c` itself would do in this cycle: in rule mode with no handler of its own it goes where a rule is ready, else
its next instruction does what its SRAM word asks (R89, R90, R95). -/
def ownGate (x : Tile) (c : Nat) : Gate :=
  if !x.slotValid c then .none
  else if x.ruleMode c && !x.handler.any (fun k => k.1 == c) then
    (if x.handler.isNone && (issueNextRule x c).isSome then .go else .none)
  else issueStatus x (wordHdr (x.nextWord c)) (wordNeed (x.nextWord c)) c

/-- Slot `c` could issue in this cycle by its own next instruction (R95). -/
def issueCouldIssue (x : Tile) (c : Nat) : Bool := ownGate x c == .go

/-- Count, for every lane in use that holds no credit, a FULL cycle at the queues it ends in (R115). -/
def State.countFull (s : State) (t : TileAddr) : State :=
  let x := s.tile t
  ((x.lanes x.active.toNat).filter (fun l => x.credit l == 0)).foldl (fun u l =>
    (u.laneDests t x.active.toNat l).foldl (fun v d =>
      let y := v.tile d.1
      v.setTile d.1 (y.setQueue d.2 { y.queue d.2 with full := (y.queue d.2).full + 1#32 })) u) s

/-- Record a contained error of a tile: counted and logged with the stream of the frame it works, which the tile is to
abandon for the reason FAULT (R74, R108, R452). -/
def State.tileContained (s : State) (t : TileAddr) (c : Nat) : State :=
  let x := s.tile t
  let ord := s.fab.base + x.frameNo c
  let stream := match s.adm.frames.find? (fun f => f.ordinal == some ord) with
    | some f => f.stream
    | none => 0xFFFF
  (s.contained 4 stream).setTile t { x with aborting := some (BitVec.ofNat 2 c, x.frameNo c, 2#8) }

/-- The stage's numeric header of the issuing context. -/
def State.hdrAt (s : State) (t : TileAddr) (c : Nat) : NumHdr := s.hdrOf (s.tile t) c

/-- After an instruction: DEC, the step or the handler, and the count of the cycle (R86, R89, R91, R114).
(DEDUCED: log entry 19.) -/
def Tile.advance (x : Tile) (h : Hdr) (c : Nat) (f : Flow) (retired : Bool) : Tile :=
  let y := if h.dec then x.decCounter c h.csel.toNat else x
  let z := if y.ruleMode c then
      match y.handler, f with
      | some (k, n, left), .on => { y with handler := if left ≤ 1 then none else some (k, n + 1, left - 1) }
      | some (k, _, left), .jump m => { y with handler := if left ≤ 1 then none else some (k, m, left - 1) }
      | _, _ => { y with handler := none }
    else
      let cur := tget 0#13 y.steps c
      { y with steps := tset 0#13 y.steps c (match f with
          | .on => cur + 1#13
          | .jump n => BitVec.ofNat 13 n
          | .done => 0#13) }
  { (z.bump (if retired then cRetire else cIssue)) with cycle := z.cycle + 1, qbanks := 0 }

/-- The admission ordinal that logical tile 0 of the TEMPORAL_ATTENTION stage finds in S62 once it takes the first word
of a frame from any of its queues (R232). -/
def State.noteFirst (s : State) (t : TileAddr) (c q : Nat) : State :=
  let x := s.tile t
  let n := x.takenOf q
  let st := x.slotStage c
  let first := (x.readQueues c).all (fun p => !(x.queue p).begun && x.takenOf p ≤ n || x.takenOf p < n)
  if stgOp s.img.copy st == 0x10 && (s.plc.pitch.getD st []).head? == some t && first then
    s.setTile t { x with s := tset 0#32 x.s 62 (BitVec.ofNat 32 (s.fab.base + n)) }
  else s

/-- The word an instruction takes from QIN: none where it needs none. -/
def sourceWord (x : Tile) (h : Hdr) (n : Need) (c : Nat) : Option QWord :=
  if n.word x c then x.present h.qin.toNat c else none

/-- The state in which an issuing instruction finds its operands: the cycle's FULL counts and the checks of the fetch and of a
vector queue word are made, and the word of QIN has been taken (R74, R89, R115). -/
def State.afterSource (s : State) (t : TileAddr) (h : Hdr) (n : Need) (c : Nat) : State :=
  let e := (s.countFull t).countEcc h.fetch
  match sourceWord (s.tile t) h n c with
  | some w =>
    if n.isWait then e
    else (((if h.qin.toNat < 8 then e.countEcc h.qecc else e).noteFirst t c h.qin.toNat).noteRow t c h.qin.toNat w).takeHead t h.qin.toNat
  | none => e

/-- The cycle of the tile that issues is counted, DEC and the step go on, and a retirement that is complete ends. -/
def State.afterIssue (s : State) (t : TileAddr) (h : Hdr) (c : Nat) (f : Flow) (retired : Bool) : State :=
  (s.setTile t ((s.tile t).advance h c f retired)).tryRetire t

/-- A cycle in which the tile issues nothing advances one counter (R114); a retirement that is complete still ends, and CTX_END
words that are owed leave (R96). -/
def State.tileTick (s : State) (t : TileAddr) (k : Nat) : State :=
  let y := (s.tile t).bump k
  (s.setTile t { y with cycle := y.cycle + 1, qbanks := 0 }).tryRetire t

/-- The retiring slot is the one that issues: its own next instruction, or a rule of it, can (R95). -/
def issuesRetiring (x : Tile) : Bool := x.retiring.any (fun a => issueCouldIssue x a.toNat)

/-- The slot a tile issues from (R95). -/
def issueSlot (x : Tile) : Nat :=
  if issuesRetiring x then (x.retiring.map (·.toNat)).getD 0 else x.active.toNat

/-- The gate of an instruction with the crossings on its circuits: a lane whose crossing raises HOLD stalls like one without
a credit (R415). -/
def State.issueGate (s : State) (t : TileAddr) (h : Hdr) (n : Need) (c : Nat) : Gate :=
  let x := s.tile t
  let g := issueStatus x h n c
  if (g == .go || g == .hazard) && x.predHolds h && (n.lanes x c).any (s.laneHeld t c) then .stallOut else g

/-- Words of the frame that a damaged word belongs to, up to its end; and whether the end is among them. -/
def frameRest (net : Nat) : List QWord → List QWord × List QWord × Bool
  | [] => ([], [], false)
  | w :: ws => if isEnd net w then ([w], ws, true) else
    let r := frameRest net ws
    (w :: r.1, r.2.1, r.2.2)

/-- The head word of a scalar or control pool has a parity error (R103): it is counted, a contained error, and replaced by a
FRAME_ABORT of reason FAULT; what follows of its frame is discarded. (DEDUCED: log entry 80.) -/
def State.poolParity (s : State) (t : TileAddr) (q c : Nat) : State :=
  let x := s.tile t
  let v := x.queue q
  let net := netOfQueue q
  let stream := match s.adm.frames.find? (fun f => f.ordinal == some (s.fab.base + x.frameNo c)) with
    | some f => f.stream
    | none => 0xFFFF
  let u := ((s.count Reg.fabLinkParCnt 1).setBits Reg.fabStat 0x100#32).contained 4 stream
  match v.words with
  | [] => u
  | w :: ws =>
    let bad := abortWord net w.tag.toNat 2 w.src
    if isEnd net w then u.setTile t (x.setQueue q { v with words := bad :: ws })
    else
      let r := frameRest net ws
      r.1.foldl (fun y k => y.owe t q k) (u.setTile t (x.setQueue q { v with
        words := bad :: r.2.1, discard := if r.2.2 then v.discard else v.discard + 1 }))

/-- One sector cycle in which a tile meets an instruction (R89, R95, R114): it issues from the retiring context where that
can, else from the active one, and is the instruction that the context's SRAM word spells; its effect `eff` is given the
context and the word taken from QIN, if any. An uncorrectable vector queue word is a contained error, and a damaged pool word
becomes an abort (R74, R103). A cycle at or after a window boundary counts in the window that begins there (R7).
(DESIGN CHOICE: log entry 4.) (DEDUCED: log entry 67.) -/
def State.tileCycle (s0 : State) (i : Instr) (t : TileAddr) (h : Hdr) (n : Need)
    (eff : State → Nat → Option QWord → State × Flow) : Out :=
  let s := s0.openWindows
  let x := s.tile t
  if !isTile t then .fault .noSuchTile
  else if h.pred.toNat = 3 ∨ h.out.toNat = 7 then .fault (.reserved 86)
  else if !s.tileOn t then .next s
  else if x.freeze || s.fab.stopped then .next ((s.countFull t).tileTick t cWait)
  else
    let c := issueSlot x
    if x.aborting.isSome || !(x.abortHeads c).isEmpty then
      .next ((s.countFull t).tileTick t (if x.ruleMode c then cWait else cStallIn))
    else if !x.slotValid c then .next ((s.countFull t).tileTick t cWait)
    else if !x.meets c i then .next s
    else match s.issueGate t h n c with
      | .none => .next s
      | .wait => .next ((s.countFull t).tileTick t cWait)
      | .stallIn => .next ((s.countFull t).tileTick t cStallIn)
      | .stallOut => .next ((s.countFull t).tileTick t cStallOut)
      | .hazard => .next ((s.countFull t).tileTick t cHazard)
      | .go =>
        if h.fetch = .uncorrectable then .next (((s.countFull t).countEcc h.fetch).tileFault t 1)
        else
          let retired := issuesRetiring x && issueCouldIssue x x.active.toNat
          if x.predHolds h then
            let takes := (sourceWord x h n c).isSome && !n.isWait
            if takes ∧ 8 ≤ h.qin.toNat ∧ h.qecc ≠ .ok then
              .next ((((s.countFull t).countEcc h.fetch).poolParity t h.qin.toNat c).tileTick t (if x.ruleMode c then cWait else cStallIn))
            else if takes ∧ h.qecc = .uncorrectable then
              .next (((s.afterSource t h n c).tileContained t c).afterIssue t h c .on retired)
            else
              let r := eff (s.afterSource t h n c) c (sourceWord x h n c)
              .next (r.1.afterIssue t h c r.2 retired)
          else .next (((s.countFull t).countEcc h.fetch).afterIssue t h c .on retired)

/-- An instruction whose effect is on its tile alone, with the next instruction after it. -/
def State.tileOp (s : State) (i : Instr) (t : TileAddr) (h : Hdr) (f : Tile → Nat → Tile) : Out :=
  s.tileCycle i t h (needOf h) (fun u c _ => (u.setTile t (f (u.tile t) c), .on))

/-! ## Registers and SRAM words of a tile -/

def Tile.sreg (x : Tile) (r : Nat) : Word := tget 0#32 x.s (r % 64)
def Tile.setS (x : Tile) (r : Nat) (v : Word) : Tile := { x with s := tset 0#32 x.s (r % 64) v }
def Tile.vreg (x : Tile) (r : Nat) : Burst := tget 0#256 x.v (r % 16)
def Tile.setV (x : Tile) (r : Nat) (v : Burst) : Tile := { x with v := tset 0#256 x.v (r % 16) v }

/-- FP32 lane `c` of a vector, and a vector of eight lanes. -/
def lane32 (v : Burst) (c : Nat) : Word := BitVec.ofNat 32 (v.toNat / 2 ^ (32 * c))
def ofLanes (f : Nat → Word) : Burst := BitVec.ofNat 256 ((upto 8).foldr (fun c n => (f c).toNat + 2 ^ 32 * n) 0)

/-- Count FP32 results that took the largest finite value (R208, R215). -/
def State.countOvf (s : State) (t : TileAddr) (n : Nat) : State :=
  if n = 0 then s
  else
    let x := s.tile t
    (s.setTile t (if s.blockEn 5 then { x with accOvf := times satInc n x.accOvf } else x)).setBits Reg.numStat 0x10#32

/-- Count NaN and infinity codes read (R199). -/
def State.countNonfin (s : State) (n : Nat) : State :=
  if n = 0 then s else (s.count Reg.numNonfinCnt n).setBits Reg.numStat 0x8#32

/-- The word of QIN as a source operand in place of a register (log entry 21). -/
def qinData (w : Option QWord) (d : Burst) : Burst := match w with | some q => q.data | none => d

/-- The KIND of a result: that of the word taken from QIN, in the coding of OUT's network, or DATA where none was taken (R77,
R78; log entry 21). -/
def resultKind (h : Hdr) (w : Option QWord) : BitVec 3 :=
  match w with
  | none => 0
  | some q =>
    if (12 ≤ h.qin.toNat) = (5 ≤ h.out.toNat) then q.kind
    else if 5 ≤ h.out.toNat then
      (if q.kind = 1#3 then 2#3 else if q.kind = 2#3 then 3#3 else if q.kind = 3#3 then 4#3 else if q.kind = 4#3 then 6#3 else 0#3)
    else
      (if q.kind = 2#3 then 1#3 else if q.kind = 3#3 then 2#3 else if q.kind = 4#3 then 3#3 else if q.kind = 6#3 then 4#3 else 0#3)

/-- A word as a network carries it (R76): 256 bits, 32 bits, or a token with its tag. -/
def laneData (net c : Nat) (kind : BitVec 3) (data : Burst) : Burst :=
  if net = 2 then tokenData c kind.toNat data.toNat
  else if net = 1 then BitVec.ofNat 256 (data.toNat % 2 ^ 32)
  else data

/-- Send a result on OUT where the header names a lane. (DEDUCED: log entry 21.) -/
def State.sendOut (s : State) (t : TileAddr) (h : Hdr) (c : Nat) (kind : BitVec 3) (data : Burst) : State :=
  match outLane h.out.toNat with
  | [] => s
  | l :: _ => (s.sendLane t l ⟨BitVec.ofNat 2 c, kind, laneData (l / 2) c kind data, noSrc⟩).noteSent t c l kind

end Sys2Proof.Machine
end

