-- ==== Sys2Proof/Machine/Array.lean ====
section
/-! DEFINITION. The MAC array: LDW, MMA and ACC (R70 to R72, R164 to R166, R208 to R210). -/

namespace Sys2Proof.Machine

/-- The last word of the tile SRAM (R69). -/
def lastWord : Nat := 6143

/-- LDW: 64 bytes of SRAM into a weight bank (R72); an unreadable word is a tile fault (R74). -/
def execLdw (t : TileAddr) (h : Hdr) (bank : Bool) (word : BitVec 13) (ecc : Ecc) (s : State) : Out :=
  if lastWord < word.toNat + 7 then .fault .noSuchWord
  else s.tileCycle (.ldw t h bank word ecc) t h (ldwNeed h bank word.toNat) (fun u _ _ =>
    let v := u.countEcc ecc
    let x := v.tile t
    let w := BitVec.ofNat 512 ((x.readV word.toNat).toNat + 2 ^ 256 * (x.readV (word.toNat + 4)).toNat)
    if ecc = .uncorrectable then (v.tileFault t 1, .on)
    else (v.setTile t (if bank then { x with w1 := w } else { x with w0 := w }), .on))

/-- Elements of an MMA chunk: 8 or 16 (R70). -/
def chunkLen (fmt : Nat) : Nat := if elemBits fmt = 4 then 16 else 8

/-- The weight element W[j][c] of a bank (R70). -/
def weightAt (fmt : Nat) (w : BitVec 512) (j c : Nat) : Nat :=
  let b := elemBits fmt
  w.toNat / 2 ^ (b * (8 * j + c)) % 2 ^ b

/-- An element's value in units of 2^-16, taken as 1 under a constant scale, and whether its code is a NaN or infinity
(R199, R210). -/
def mmaElem (fmt : Nat) (konst : Bool) (code : Nat) : Int × Nat :=
  if konst then (65536, 0) else ((elemVal fmt code).1, b2n (elemVal fmt code).2)

/-- The sum of products of one column, in units of 2^-32, and the NaN or infinity codes of its weights. -/
def mmaSum (fmt : Nat) (x : Burst) (w : BitVec 512) (c : Nat) (kx kw : Bool) : Int × Nat :=
  (upto (chunkLen fmt)).foldl (fun a j =>
    let p := mmaElem fmt kx (elemAt fmt x j)
    let q := mmaElem fmt kw (weightAt fmt w j c)
    (a.1 + p.1 * q.1, a.2 + q.2)) (0, 0)

/-- The NaN or infinity codes of a chunk of x. -/
def mmaBadX (fmt : Nat) (x : Burst) (kx : Bool) : Nat :=
  (upto (chunkLen fmt)).foldl (fun a j => a + (mmaElem fmt kx (elemAt fmt x j)).2) 0

/-- Close the group of one accumulator: A + sx * sw * G, rounded once (R209). -/
def closeOne (hd : NumHdr) (x : Tile) (k c : Nat) : Q :=
  let sx := scaleVal (tget Scale.zero x.xsc k) hd.fine
  let sw := scaleVal (tget Scale.zero x.wsc c) hd.fine
  (f32 (tget 0#32 x.a (8 * c + k))).add ((sx.mul sw).mul ⟨tget 0 x.g (8 * c + k), 2 ^ 32⟩)

/-- Close the groups of row `k`; with the count of results that took the largest finite value. (DEDUCED: log entry 24.) -/
def Tile.closeRow (x : Tile) (hd : NumHdr) (k : Nat) : Tile × Nat :=
  let qs := (upto 8).map (closeOne hd x k)
  let a := (upto 8).foldl (fun m c =>
    tset 0#32 m (8 * c + k) (f32Of (qs.getD c ⟨0, 1⟩) (tget 0#32 x.a (8 * c + k)) 0#32)) x.a
  ({ x with a := a, g := (upto 8).foldl (fun m c => tset 0 m (8 * c + k) 0) x.g }, (qs.filter overflows).length)

/-- Add one chunk into row `k` (R70, R209): products exactly into G, and the group closed where it is complete. The
result is the tile, the results that overflowed and the NaN and infinity codes read. -/
def Tile.mma (x : Tile) (hd : NumHdr) (v0 v1 : Burst) (off : Nat) (bank : Bool) (k fmt : Nat) (diag zero : Bool) :
    Tile × Nat × Nat :=
  let y := if zero then { x with
      a := (upto 8).foldl (fun m c => tset 0#32 m (8 * c + k) 0#32) x.a
      g := (upto 8).foldl (fun m c => tset 0 m (8 * c + k) 0) x.g
      mmas := tset 0 x.mmas k 0 } else x
  let w := if bank then y.w1 else y.w0
  let all := v0.toNat + 2 ^ 256 * v1.toNat
  let chunk := fun (c : Nat) => BitVec.ofNat 256 (all / 2 ^ (64 * (if diag then c else off)) % 2 ^ 64)
  let kx := (tget Scale.zero y.xsc k).konst
  let sums := (upto 8).map (fun c => mmaSum fmt (chunk c) w c kx (tget Scale.zero y.wsc c).konst)
  let badX := if diag then (upto 8).foldl (fun n c => n + mmaBadX fmt (chunk c) kx) 0 else mmaBadX fmt (chunk 0) kx
  let bad := sums.foldl (fun n p => n + p.2) badX
  let n := tget 0 y.mmas k + 1
  let z := { y with
    g := (upto 8).foldl (fun m c => tset 0 m (8 * c + k) (tget 0 m (8 * c + k) + (sums.getD c (0, 0)).1)) y.g
    mmas := tset 0 y.mmas k n
    accAt := tset 0 y.accAt k (y.cycle + 1)
    bankAt := tset 0 y.bankAt (b2n bank) (y.cycle + 1) }
  let r := if n % (groupSize hd.gsel / chunkLen fmt) = 0 then z.closeRow hd k else (z, 0)
  (r.1, r.2, bad)

/-- MMA (R70, R164, R166). (DEDUCED: log entry 73.) -/
def execMma (t : TileAddr) (h : Hdr) (vreg : BitVec 4) (off : BitVec 2) (bank : Bool) (k fmt : BitVec 3)
    (diag zero : Bool) (s : State) : Out :=
  if 5 ≤ fmt.toNat ∨ (diag ∧ (vreg.toNat % 2 = 1 ∨ off.toNat ≠ 0)) then .fault (.reserved 164)
  else s.tileCycle (.mma t h vreg off bank k fmt diag zero) t h (needOf h) (fun u c w =>
    let x := u.tile t
    let r := x.mma (u.hdrAt t c) (qinData w (x.vreg vreg.toNat)) (x.vreg (vreg.toNat + 1)) off.toNat bank k.toNat fmt.toNat
      diag zero
    (((u.setTile t r.1).countOvf t r.2.1).countNonfin r.2.2, .on))

/-- The lanes of row `k` after bias and activation, rounded once, and how many overflowed (R165, R208, R209). -/
def accLanes (hd : NumHdr) (x : Tile) (k : Nat) (bias : Burst) : Burst × Nat :=
  let one := fun (c : Nat) =>
    let a := f32 (tget 0#32 x.a (8 * c + k))
    activate hd (if hd.bias then a.add (f32 (lane32 bias c)) else a)
  (ofLanes (fun c => f32Of (one c) (tget 0#32 x.a (8 * c + k)) (lane32 bias c)), ((upto 8).filter (fun c => overflows (one c))).length)

/-- ACC closes an open group, adds the bias of the lanes named, applies the activation and moves the row to a vector
register (R71, R165, R209). R165 stores the bias in the weight section and gives ACC no operand for it: the model takes it from
the vector register that the instruction names. (DESIGN CHOICE: log entry 84.) A result at or past OUT_W is not sent (R162). (DEDUCED: log entry 24.)
(DEDUCED: log entry 73.) -/
def execAcc (t : TileAddr) (h : Hdr) (k : BitVec 3) (vd bias : BitVec 4) (s : State) : Out :=
  s.tileCycle (.acc t h k vd bias) t h (accNeed h k.toNat) (fun u c w =>
    let hd := u.hdrAt t c
    let x := u.tile t
    let isOpen := tget 0 x.mmas k.toNat % (groupSize hd.gsel / chunkLen hd.cfmt) != 0
    let y := if isOpen then x.closeRow hd k.toNat else (x, 0)
    let r := accLanes hd y.1 k.toNat (qinData w (y.1.vreg bias.toNat))
    let v := (u.setTile t (y.1.setV vd.toNat r.1)).countOvf t (y.2 + r.2)
    ((if u.accInside t c k.toNat then v.sendOut t h c (resultKind h w) r.1 else v).noteAcc t c, .on))

end Sys2Proof.Machine
end

