-- ==== Sys2Proof/Machine/Store.lean ====
section
/-! DEFINITION. The context store (R222 to R231, R239 to R241, R247 to R257): the directory and its checksum, a stream's lists,
stakes and eviction, clears, quotas and stripes. Both the operations of a stage and the entries that a secondary
applies use it. -/

namespace Sys2Proof.Machine

/-! ## Stripes and the directory (R141, R223 to R225) -/

/-- The stripe at position `k` of a stream's list. -/
def StreamCtx.stripe (c : StreamCtx) (st k : Nat) : Nat :=
  match c.stripes with
  | none => 512 * st + k
  | some l => l.getD k 0

/-- The whole stripe list under the quota in force. -/
def StreamCtx.stripeList (c : StreamCtx) (st : Nat) : List Nat := (upto (c.quota / 64)).map (c.stripe st)

/-- Directory index D(s, j), and the granule of slot j. -/
def State.dirIndex (s : State) (st j : Nat) : Nat := 64 * (s.sctx st).stripe st (j / 64) + j % 64
def State.granule (s : State) (st j : Nat) : Nat := 64 * (s.sctx st).stripe st (j / 64) + (j + st) % 64

/-- The CHECKSUM of an entry given with that field zero (R225). -/
def dirCrc (e : Nat) : Nat := (crc16 (leBytes 16 e)).toNat

/-- A valid directory entry (R224). -/
def dirEntry (ksum : Nat) (seq : Word) (loc slot stream : Nat) (staked : Bool) : BitVec 128 :=
  let e := ksum * 2 ^ 84 + seq.toNat * 2 ^ 52 + loc * 2 ^ 27 + slot * 2 ^ 12 + stream * 4 + b2n staked * 2 + 1
  BitVec.ofNat 128 (e + dirCrc e * 2 ^ 92)

def dirValid (e : BitVec 128) : Bool := bit e 0
def dirStaked (e : BitVec 128) : Bool := bit e 1
def dirSeq (e : BitVec 128) : Word := BitVec.ofNat 32 (fld e 83 52)
def dirKsum (e : BitVec 128) : Nat := fld e 91 84

/-- The directory entry of a slot. -/
def State.dirAt (s : State) (st j : Nat) : BitVec 128 := tget 0 s.ctx.dir (s.dirIndex st j)

/-- A slot below the quota is valid. -/
def State.slotValid (s : State) (st j : Nat) : Bool := j < (s.sctx st).quota && dirValid (s.dirAt st j)

/-- Use an entry of the directory cache: 65,536 sets of 16, least recently used out (R222, R252). -/
def State.dirTouch (s : State) (d : Nat) : State :=
  let set := tget [] s.ctx.dcache (d % 65536)
  let hit := set.contains d
  let u := { s with ctx := { s.ctx with dcache := tset [] s.ctx.dcache (d % 65536) ((d :: set.erase d).take 16) } }
  if hit then u else u.count Reg.ctxDcMissCnt 1

/-- Write the directory entry of a slot. -/
def State.setDir (s : State) (st j : Nat) (e : BitVec 128) : State :=
  let d := s.dirIndex st j
  ({ s with ctx := { s.ctx with dir := tset 0 s.ctx.dir d e } }).dirTouch d

/-- Set or clear STAKED of a valid entry. -/
def State.setStaked (s : State) (st j : Nat) (b : Bool) : State :=
  let e := s.dirAt st j
  s.setDir st j (dirEntry (dirKsum e) (dirSeq e) (fld e 51 27) j st b)

/-! ## Near-cache (R145, R252) -/

/-- The set of a granule: the part beside its stack, then the index of R252. -/
def nearSet (g : Nat) : Nat := g / 16 % 4 * 1024 + (g / 64 % 64 * 16 + g % 16)

/-- Read a granule: a hit moves its line to the front; a miss allocates a line where `alloc`. (DEDUCED: log entry 27.) -/
def State.nearRead (s : State) (g : Nat) (alloc : Bool) : State :=
  if !s.rbit Reg.ctxCtl 1 then s
  else
    let set := tget [] s.ctx.near (nearSet g)
    let put := fun (l : List Nat) => { s with ctx := { s.ctx with near := tset [] s.ctx.near (nearSet g) l } }
    if set.contains g then (put (g :: set.erase g)).count Reg.ctxNcHitCnt 1
    else (if alloc then put ((g :: set).take 8) else s).count Reg.ctxNcMissCnt 1

/-- An APPEND puts its slot into the near-cache. -/
def State.nearPut (s : State) (g : Nat) : State :=
  if !s.rbit Reg.ctxCtl 1 then s
  else
    let set := tget [] s.ctx.near (nearSet g)
    { s with ctx := { s.ctx with near := tset [] s.ctx.near (nearSet g) ((g :: set.erase g).take 8) } }

/-! ## Tight codes (R247, R248) -/

/-- The tight code of a group of 32 elements in `fmt` with E8M0 code `code`; none where it has none. -/
def tightCode (fmt : Nat) (elems : List Byte) (code : Byte) : Option Nat :=
  if elems.all (· == 0#8) then none
  else if code = 0xFF#8 then
    let c := f32 (BitVec.ofNat 32 (leNum (elems.take 4)))
    if c.num = 0 then none else some (presentCode false fmt 0 c.abs).toNat
  else
    let m := elems.foldl (fun m b => max m (elemVal fmt b.toNat).1.natAbs) 0
    if m = 0 then none
    else some ((code.toNat : Int) + ceilExp m (65536 * maxV fmt)).toNat

/-- The 56 groups of a slot: 8 of the key, then 48 of the value, as their tight codes (R226). -/
def slotTight (bs : List Byte) : List (Option Nat) :=
  let fmt := (bs.getD 0x74C 0).toNat
  (upto 8).map (fun g => tightCode fmt ((bs.drop (32 * g)).take 32) (bs.getD (0x100 + g) 0)) ++
  (upto 48).map (fun g => tightCode fmt ((bs.drop (0x108 + 32 * g)).take 32) (bs.getD (0x708 + g) 0))

/-- KSUM of a slot (R248). -/
def slotKsum (bs : List Byte) : Nat := ((slotTight bs).take 8).foldl (fun m t => max m (t.getD 0)) 0

/-- The carry codes after an APPEND (R250). -/
def carryAfter (carry : Tbl Byte) (bs : List Byte) : Tbl Byte :=
  ((slotTight bs).zip (upto 56)).foldl (fun m p => match p.1 with
    | some t => tset 0xFF#8 m p.2 (BitVec.ofNat 8 t)
    | none => m) carry

/-! ## Slots and lists -/

/-- A slot's bytes 0x000 to 0x77F; the rest of its 2 KiB is zero (R226). -/
def State.slotBytes (s : State) (g : Nat) : List Byte := padTo 1920 (tget [] s.ctx.slots g)

/-- Clear the context link of every track of a stream that names a slot (R239). -/
def State.unlink (s : State) (st j : Nat) : State :=
  let f := fun (k : Nat) (t : Track) => if k / 512 = st ∧ t.slot = BitVec.ofNat 32 (2 ^ 31 + j) then { t with slot := 0 } else t
  { s with ctx := { s.ctx with tracks := tmap Track.zero f s.ctx.tracks } }

/-- The recent list's entries that pass the check of R240, newest first. (DEDUCED: log entry 27.) -/
def State.recentOk (s : State) (st : Nat) : List (Nat × Word) :=
  (s.sctx st).recent.filter (fun p => s.slotValid st p.1 && dirSeq (s.dirAt st p.1) == p.2)

/-- A slot is staked; its stake entry. -/
def StreamCtx.stakeOf (c : StreamCtx) (j : Nat) : Option StakeEntry := c.stake.find? (fun e => e.slot == j)
def StreamCtx.staked (c : StreamCtx) (j : Nat) : Bool := c.stake.any (fun e => e.slot == j)

/-- Enter a slot in the released list, in increasing SEQ. -/
def insertReleased (p : Nat × Word) : List (Nat × Word) → List (Nat × Word)
  | [] => [p]
  | q :: qs => if p.2.toNat < q.2.toNat then p :: q :: qs else q :: insertReleased p qs

/-- Remove a slot from the stake, released and recent lists. -/
def StreamCtx.forget (c : StreamCtx) (j : Nat) : StreamCtx :=
  { c with stake := c.stake.filter (fun e => e.slot != j), released := c.released.filter (fun p => p.1 != j) }

/-- Invalidate a slot: its entry becomes zero, and no list names it. -/
def State.invalidate (s : State) (st j : Nat) : State :=
  let u := s.setDir st j 0
  let c := (u.sctx st).forget j
  (u.setSctx st { c with recent := c.recent.filter (fun p => p.1 != j) }).unlink st j

/-- A slot or its directory entry has failed its check (R253): invalidated, counted, logged and journalled. -/
def State.slotBad (s : State) (st j : Nat) : State :=
  let q := dirSeq (s.dirAt st j)
  let u := ((s.invalidate st j).count Reg.ctxSlotBadCnt 1).setBits Reg.ctxStat 0x10#32
  (u.logEvent 8 (logArgs [(st, 2), (j, 2), (1, 1)])).journal ⟨4, jBad, st, j, q, []⟩

/-- The next slot of the cursor that is not staked, and the staked slots passed over (R239). -/
def scanCursor (c : StreamCtx) : Nat → Nat → List Nat → Nat × List Nat
  | 0, j, seen => (j, seen)
  | n + 1, j, seen => if c.staked j then scanCursor c n ((j + 1) % c.quota) (seen ++ [j]) else (j, seen)

/-- The slot an APPEND takes, and the stream's lists after it (R239). -/
def StreamCtx.choose (c : StreamCtx) : Nat × StreamCtx :=
  match c.released with
  | p :: ps => (p.1, { c with released := ps })
  | [] =>
    let r := scanCursor c c.quota c.cursor []
    (r.1, { c with
      stake := c.stake.map (fun e => if r.2.contains e.slot then { e with skipped := true } else e)
      cursor := (r.1 + 1) % c.quota })

/-- Write a slot and its directory entry, with the near-cache and the recent list (R239, R252). -/
def State.writeSlot (s : State) (st j : Nat) (seq : Word) (staked : Bool) (bs : List Byte) : State :=
  let g := s.granule st j
  let u := ({ s with ctx := { s.ctx with slots := tset [] s.ctx.slots g bs } }).nearPut g
  let v := u.setDir st j (dirEntry (slotKsum bs) seq g j st staked)
  let c := v.sctx st
  v.setSctx st { c with recent := ((j, seq) :: c.recent).take 4096 }

/-! ## STAKE, UNSTAKE, EVICT (R241) -/

/-- STAKE of a slot: the status of R237. -/
def State.stakeSlot (s : State) (st j : Nat) : State × Nat :=
  let c := s.sctx st
  if !s.slotValid st j then (s, 2)
  else if c.staked j then (s, 0)
  else if c.limit ≤ c.stake.length then (s, 3)
  else
    let q := dirSeq (s.dirAt st j)
    let rel := c.released.any (fun p => p.1 == j)
    let u := (s.setStaked st j true).setSctx st { c with
      stake := c.stake ++ [⟨j, q, rel⟩], released := c.released.filter (fun p => p.1 != j) }
    (u.journal ⟨2, jStaked + (if rel then jSkipped else 0), st, j, q, []⟩, 0)

/-- UNSTAKE of a slot. -/
def State.unstakeSlot (s : State) (st j : Nat) : State × Nat :=
  let c := s.sctx st
  if !s.slotValid st j then (s, 2)
  else match c.stakeOf j with
    | none => (s, 0)
    | some e =>
      let u := (s.setStaked st j false).setSctx st { c with
        stake := c.stake.filter (fun x => x.slot != j)
        released := if e.skipped then insertReleased (j, e.seq) c.released else c.released }
      (u.journal ⟨3, if e.skipped then jReleased else 0, st, j, e.seq, []⟩, 0)

/-- Stake entries in increasing SEQ. -/
def insertStake (e : StakeEntry) : List StakeEntry → List StakeEntry
  | [] => [e]
  | x :: xs => if e.seq.toNat < x.seq.toNat then e :: x :: xs else x :: insertStake e xs
def stakeSorted (l : List StakeEntry) : List StakeEntry := l.foldl (fun a e => insertStake e a) []

/-- UNSTAKE ALL. -/
def State.unstakeAll (s : State) (st : Nat) : State :=
  (stakeSorted (s.sctx st).stake).foldl (fun u e => (u.unstakeSlot st e.slot).1) s

/-- EVICT of a slot. -/
def State.evictSlot (s : State) (st j : Nat) : State × Nat :=
  let c := s.sctx st
  if !s.slotValid st j then (s, 2)
  else if c.staked j then (s, 4)
  else
    let q := dirSeq (s.dirAt st j)
    let u := (s.setDir st j 0).setSctx st { c with released := c.released.filter (fun p => p.1 != j) }
    ((u.unlink st j).journal ⟨4, 0, st, j, q, []⟩, 0)

/-- EVICT ALL: every slot invalid, lists empty, CURSOR 0, carry reset (R241, R250). -/
def State.evictAll (s : State) (st : Nat) : State :=
  let c := s.sctx st
  let ks := c.stripeList st
  let dir := s.ctx.dir.filter (fun p => !(ks.contains (p.1 / 64)))
  let u := { s with ctx := { s.ctx with dir := dir } }
  let v := u.setSctx st { c with cursor := 0, stake := [], released := [], recent := [], carry := [] }
  v.journal ⟨5, 0, st, 0, 0, []⟩

/-- A stream CLEAR: EVICT ALL together with the stream's track entries (R255). -/
def State.clearStream (s : State) (st : Nat) : State :=
  let u := s.evictAll st
  { u with ctx := { u.ctx with tracks := u.ctx.tracks.filter (fun p => p.1 / 512 != st) } }

/-- Clear the store as at reset (R257): the directory, every list, the carry codes and the tracks. -/
def State.clearStore (s : State) : State :=
  let f := fun (_ : Nat) (c : StreamCtx) =>
    { c with cursor := 0, stake := [], released := [], recent := [], carry := [] }
  let u := { s with ctx := { s.ctx with
    dir := [], tracks := [], near := [], dcache := [], streams := tmap StreamCtx.zero f s.ctx.streams } }
  u.setBits Reg.ctxStat 0x2#32

/-! ## Quotas (R229, R230, R142) -/

/-- The effective staking limit. -/
def stakeLimit (quota stakeMax : Nat) : Nat := if quota < 128 then 0 else min stakeMax (min 4096 (quota - 64))

/-- Evict a valid slot by force, staked or not (R229). -/
def State.forceEvict (s : State) (st j : Nat) : State :=
  let q := dirSeq (s.dirAt st j)
  (((s.invalidate st j).count Reg.ctxForcedEvictCnt 1).setBits Reg.ctxStat 0x8#32).journal ⟨4, jForced, st, j, q, []⟩

/-- Shrink a stream's quota: the slots of the stripes at the end are evicted and the stripes returned.
(DEDUCED: log entry 26.) -/
def State.shrinkQuota (s : State) (st q : Nat) : State :=
  let c := s.sctx st
  if c.quota ≤ q then s
  else
    let js := (upto (c.quota - q)).map (q + ·)
    let u := js.foldl (fun u j => if u.slotValid st j then u.forceEvict st j else u) s
    let d := u.sctx st
    let ks := d.stripeList st
    let v := u.setSctx st { d with
      quota := q, stripes := some (ks.take (q / 64)), cursor := if q ≤ d.cursor then 0 else d.cursor }
    { v with ctx := { v.ctx with free := v.ctx.free ++ ks.drop (q / 64) } }

/-- Grow a stream's quota from the free list, as far as that goes. (DEDUCED: log entry 26.) -/
def State.growQuota (s : State) (st q : Nat) : State :=
  let c := s.sctx st
  if q ≤ c.quota then s
  else
    let want := (q - c.quota) / 64
    let got := s.ctx.free.take want
    let ks := c.stripeList st ++ got
    let u := s.setSctx st { c with quota := 64 * ks.length, stripes := some ks }
    let v := { u with ctx := { u.ctx with free := u.ctx.free.drop want } }
    if got.length < want then v.setBits Reg.ctxStat 0x4#32 else v

/-- Objects QUOTA and STAKE_MAX of a stream (R261). -/
def State.quotaObj (s : State) (st : Nat) : Nat := s.objVal (256 * (0x6100 + st) + 1) 32768
def State.stakeMaxObj (s : State) (st : Nat) : Nat := s.objVal (256 * (0x6100 + st) + 2) 1024

/-- At commit, every stream's quota takes its written value: shrinkage first, then growth, in stream order (log entry
26), and the staking limit follows (R229, R230). (DEDUCED: log entry 26.) -/
def State.applyQuotas (s : State) : State :=
  let u := (upto 1024).foldl (fun u st => u.shrinkQuota st (u.quotaObj st)) s
  let v := (upto 1024).foldl (fun u st => u.growQuota st (u.quotaObj st)) u
  (upto 1024).foldl (fun w st =>
    let c := w.sctx st
    w.setSctx st { c with limit := stakeLimit c.quota (w.stakeMaxObj st) }) v

/-! ## Counts shown by reads (R260, R261) -/

/-- Valid slots of a stream. -/
def State.validCount (s : State) (st : Nat) : Nat :=
  let ks := (s.sctx st).stripeList st
  (s.ctx.dir.filter (fun p => ks.contains (p.1 / 64))).length

/-- The newest SEQ: that of the newest valid slot in the recent list, 0 where there is none. -/
def State.newestSeq (s : State) (st : Nat) : Word := match s.recentOk st with | p :: _ => p.2 | [] => 0

end Sys2Proof.Machine
end

