-- ==== Sys2Proof/Machine/Context.lean ====
section
/-! DEFINITION. The operations of the context engine (R232 to R258): APPEND, GATHER, ATTEND, STAKE, UNSTAKE and EVICT with
their replies, a stream CLEAR and CLEAR_ALL. Each command runs the oldest complete request of its stream (R238). -/

namespace Sys2Proof.Machine

/-- A request that has its words and has not run. -/
def CtxReq.waits (r : CtxReq) : Bool := r.complete && r.reply.isNone

/-- The oldest complete request of a stream that has not run, if it names the operation and the engine can run it.
(DEDUCED: log entry 27.) -/
def State.nextReq (s : State) (st op : Nat) : Option CtxReq :=
  if s.engineUp && s.blockEn 6 && !s.rbit Reg.ctxStat 1 && !s.clk.stopped then
    match s.ctx.reqs.find? (fun r => r.waits && r.stream == st) with
    | some r => if r.op = op then some r else none
    | none => none
  else none

/-- Put the words of its reply to the oldest request of a stream that has not run. -/
def answer (st : Nat) (ws : List (Nat × Burst)) : List CtxReq → List CtxReq
  | [] => []
  | r :: rs => if r.waits && r.stream == st then { r with reply := some ws } :: rs else r :: answer st ws rs

/-- A request has run: its reply goes out once those of the requests before it have (R238). A request from before the fabric was
last emptied gets none: its frame has ended (R106). -/
def State.doneReq (s : State) (r : CtxReq) (ws : List (Nat × Burst)) : State :=
  let u := { s with ctx := { s.ctx with reqs := answer r.stream (if r.ordinal < s.fab.base then [] else ws) s.ctx.reqs } }
  (u.count Reg.ctxOpsCnt 1).sendReplies u.ctx.reqs.length

/-- The words of a reply (R235, R236), each with its network: the header and the scalar words after it, the vector words, and
a STEP token naming RC. -/
def replyWords (r : CtxReq) (status arg : Nat) (scalars : List Word) (vecs : List Burst) : List (Nat × Burst) :=
  ((BitVec.ofNat 256 (r.op * 2 ^ 29 + status * 2 ^ 25 + arg % 2 ^ 25) :: scalars.map (fun w => BitVec.ofNat 256 w.toNat)).map
    (fun d => (1, d))) ++ vecs.map (fun d => (0, d)) ++ [(2, BitVec.ofNat 256 r.rc)]

/-- Answer a request; a reply whose status is not OK is counted (R237). -/
def State.replyReq (s : State) (r : CtxReq) (status arg : Nat) (scalars : List Word) (vecs : List Burst) : State :=
  (if status = 0 then s else s.count Reg.ctxRefusedCnt 1).doneReq r (replyWords r status arg scalars vecs)

/-- Answer a request whose reply is sent only where ACK asks for it. -/
def State.ackReq (s : State) (r : CtxReq) (status arg : Nat) : State :=
  if r.ack then s.replyReq r status arg [] [] else s.doneReq r []

/-! ### Checks of a read (R253) -/

/-- A finding of a kind for a slot. -/
def found (fs : List CtxFinding) (j : Nat) (e : CtxErr) : Bool := fs.contains ⟨BitVec.ofNat 15 j, e⟩

/-- Read a slot's directory entry: an error that the cache corrects is counted, and a line that is lost is dropped and read again
from HBM (R253). -/
def State.readDir (s : State) (st j : Nat) (fs : List CtxFinding) : State :=
  let d := s.dirIndex st j
  let set := tget [] s.ctx.dcache (d % 65536)
  if set.contains d && found fs j .dirLost then
    ({ s with ctx := { s.ctx with dcache := tset [] s.ctx.dcache (d % 65536) (set.erase d) } }).dirTouch d
  else if set.contains d && found fs j .dirCorrected then (s.count Reg.ctxEccCorrCnt 1).dirTouch d
  else s.dirTouch d

/-- Read a slot's granule, in the same way. -/
def State.readSlot (s : State) (st j : Nat) (fs : List CtxFinding) (alloc : Bool) : State :=
  let g := s.granule st j
  let set := tget [] s.ctx.near (nearSet g)
  let hit := s.rbit Reg.ctxCtl 1 && set.contains g
  if hit && found fs j .nearLost then
    ({ s with ctx := { s.ctx with near := tset [] s.ctx.near (nearSet g) (set.erase g) } }).nearRead g alloc
  else if hit && found fs j .nearCorrected then (s.count Reg.ctxEccCorrCnt 1).nearRead g alloc
  else s.nearRead g alloc

/-- The bytes of scalar words. -/
def wordBytes (ws : List Word) : List Byte := (ws.map (fun w => leBytes 4 w.toNat)).flatten

/-- The stage that uses the engine, and its parameter block (R258). -/
def State.taParams (s : State) : Nat := match stageOf s.img.copy 0x10 with
  | some n => stgParams s.img.copy n false
  | none => 0
def State.taFmt (s : State) : Nat := match stageOf s.img.copy 0x10 with
  | some n => (tget NumHdr.zero s.num.hdrs n).ofmt
  | none => 0

/-- The slot a request names: none where there is none (R234, R240). -/
def State.named (s : State) (r : CtxReq) (i : Nat) : Option Nat :=
  let a := fld (r.words.getD 0 0) 14 0
  match r.mode with
  | 0 => ((s.recentOk r.stream)[a + i]?).map (·.1)
  | 1 => if a + i < (s.sctx r.stream).quota then some (a + i) else none
  | _ => ((s.sctx r.stream).recent.find? (fun p => p.2 == r.seq)).map (·.1)

/-! ## APPEND (R226, R227, R239, R250) -/

/-- The slot an APPEND writes: the payload, the metadata, the CRC and the reserved rest. -/
def slotImage (r : CtxReq) (j fmt : Nat) (epoch : Word) : List Byte :=
  let p := wordBytes r.words
  let body := p.take 256 ++ (p.drop 256).take 8 ++ (p.drop 264).take 1536 ++ (p.drop 1800).take 48 ++
    leBytes 4 r.seq.toNat ++ leBytes 2 r.stream ++ leBytes 2 j ++ leBytes 8 r.frameTag.toNat ++ leBytes 4 epoch.toNat ++
    leBytes 1 fmt ++ leBytes 3 0 ++ leBytes 8 r.tEntry.toNat ++ (p.drop 1848).take 32
  body ++ leBytes 4 (crc32c body).toNat ++ leBytes 4 0

/-- APPEND on a stream with a quota. The entry of the slot to be overwritten is read, and a failed CHECKSUM costs the slot
(R253). -/
def State.appendSlot (s : State) (r : CtxReq) (fs : List CtxFinding) : State :=
  let st := r.stream
  let p := (s.sctx st).choose
  let j := p.1
  let u0 := (s.setSctx st p.2).readDir st j fs
  let hurt := found fs j .mismatch && u0.slotValid st j
  let u1 := if hurt then u0.slotBad st j else u0
  let evicted := u1.slotValid st j
  let u2 := if evicted then (u1.unlink st j).count Reg.ctxEvictCnt 1 else u1
  let bs := slotImage r j s.taFmt s.epoch
  let u3 := u2.writeSlot st j r.seq false bs
  let c := u3.sctx st
  let u4 := (u3.setSctx st { c with
    carry := carryAfter c.carry bs, appends := c.appends + 1#32
    evicts := if evicted then c.evicts + 1#32 else c.evicts }).count Reg.ctxAppendCnt 1
  let u5 := u4.journal ⟨1, 0, st, j, r.seq, padTo 2048 bs⟩
  let mark := fun (f : Frame) => if f.ordinal = some r.ordinal then { f with appended := some (BitVec.ofNat 15 j) } else f
  let u6 := if hurt then u5 else { u5 with adm := { u5.adm with frames := u5.adm.frames.map mark } }
  u6.ackReq r (if hurt then 5 else 0) (2 ^ 15 * b2n evicted + j)

/-- APPEND. (DEDUCED: log entry 27.) -/
def execAppend (stream : BitVec 10) (fs : List CtxFinding) (s : State) : Out :=
  match s.nextReq stream.toNat 0 with
  | none => .next s
  | some r => .next (if (s.sctx r.stream).quota = 0 then s.ackReq r 1 0 else s.appendSlot r fs)

/-! ## GATHER (R236, R242) -/

/-- The bytes of a part of a slot. -/
def slotPart (part : Nat) (bs : List Byte) : List Byte :=
  match part with
  | 0 => bs.take 0x780
  | 1 => bs.take 0x108
  | 2 => (bs.drop 0x108).take 0x630
  | _ => (bs.drop 0x738).take 0x40

/-- Read one slot for GATHER: the state, the words sent, and whether it was delivered and whether it failed its check. -/
def State.gatherOne (s : State) (r : CtxReq) (fs : List CtxFinding) (j : Option Nat) : State × List Burst × Bool × Bool :=
  let zeros := (s, vecWords (slotPart r.part (List.replicate 1920 0#8)), false, false)
  match j with
  | none => zeros
  | some j =>
    let d := s.readDir r.stream j fs
    if !s.slotValid r.stream j then (d, zeros.2.1, false, false)
    else
      let e := d.readSlot r.stream j fs true
      if found fs j .mismatch then (e.slotBad r.stream j, zeros.2.1, false, true)
      else (e, vecWords (slotPart r.part (s.slotBytes (s.granule r.stream j))), true, false)

/-- GATHER. -/
def execGather (stream : BitVec 10) (fs : List CtxFinding) (s : State) : Out :=
  match s.nextReq stream.toNat 1 with
  | none => .next s
  | some r =>
    let js := (upto r.cnt).map (s.named r)
    let t := js.foldl (fun (a : State × List Burst × Nat × Bool) j =>
      let o := a.1.gatherOne r fs j
      (o.1, a.2.1 ++ o.2.1, a.2.2.1 + b2n o.2.2.1, a.2.2.2 || o.2.2.2)) (s, [], 0, false)
    let n := t.2.2.1
    let status := if t.2.2.2 then 5 else if n < r.cnt then 2 else 0
    .next (t.1.replyReq r status n [] t.2.1)

/-! ## ATTEND (R243 to R246, R249) -/

/-- The slots selected, in selection order. -/
def State.selected (s : State) (st w sk floor : Nat) : List Nat :=
  let ok := fun (j : Nat) => s.slotValid st j && decide (floor ≤ dirKsum (s.dirAt st j))
  let a := (((s.recentOk st).map (·.1)).filter ok).take w
  let b := (((stakeSorted (s.sctx st).stake).reverse.map (·.slot)).filter (fun j => ok j && !a.contains j)).take sk
  a ++ b

/-- A group of 32 elements with its scale: a constant group has elements of 1 and the scale c (R210). -/
def groupVal (fmt : Nat) (elems : List Byte) (code : Byte) : List Int × Q :=
  if code = 0xFF#8 then (List.replicate 32 65536, f32 (BitVec.ofNat 32 (leNum (elems.take 4))))
  else (elems.map (fun b => (elemVal fmt b.toNat).1), scaleVal (loadScale false code 0) 0)

/-- NaN and infinity codes in a group (R199). -/
def groupBad (fmt : Nat) (elems : List Byte) (code : Byte) : Nat :=
  if code = 0xFF#8 then 0 else (elems.filter (fun b => (elemVal fmt b.toNat).2)).length

/-- The score of a key against a query, each given as 256 element bytes and 8 codes, with the results that overflowed (R245). -/
def score (fmt : Nat) (q qc k kc : List Byte) (scale : Word) : Ov :=
  let acc := (upto 8).foldl (fun (a : Ov) g =>
    let x := groupVal fmt ((q.drop (32 * g)).take 32) (qc.getD g 0)
    let y := groupVal fmt ((k.drop (32 * g)).take 32) (kc.getD g 0)
    let p := (x.1.zip y.1).foldl (fun n v => n + v.1 * v.2) (0 : Int)
    let e := ovOf ((f32 a.1).add ((x.2.mul y.2).mul ⟨p, 2 ^ 32⟩)) a.1 0#32
    (e.1, a.2 + e.2)) ((0#32, 0) : Ov)
  let r := fMul acc.1 scale
  (r.1, acc.2 + r.2)

/-- e_j of a score under the maximum, with the overflow of the difference. -/
def expTerm (sc m : Word) : Ov :=
  let d := fSub sc m
  (fExp d.1, d.2)

/-- Add results with their own overflows in turn. -/
def ovSum (vs : List Ov) : Ov := vs.foldl (fun a v => let r := fAdd a.1 v.1; (r.1, a.2 + v.2 + r.2)) (0#32, 0)

/-- The CAU of each selected slot: within a channel, dealt in turn (R244). -/
def cauOf : List Nat → Tbl Nat → List Nat
  | [], _ => []
  | g :: gs, dealt =>
    let c := g % 64
    (4 * c + tget 0 dealt c % 4) :: cauOf gs (tset 0 dealt c (tget 0 dealt c + 1))

/-- The decoded value element `d` of a slot (R226, R245). -/
def valueAt (fmt : Nat) (bs : List Byte) (d : Nat) : Q :=
  let g := d / 32
  let x := groupVal fmt ((bs.drop (0x108 + 32 * g)).take 32) (bs.getD (0x708 + g) 0)
  x.2.mul ⟨x.1.getD (d % 32) 0, 65536⟩

/-- The result of one query over the selected slots (bytes, CAU), element by element: FP32 words, with the results that
overflowed (R245). -/
def attendOne (fmt : Nat) (q qc : List Byte) (slots : List (List Byte × Nat)) (scale : Word) : List Word × Nat :=
  let ss := slots.map (fun p => score fmt q qc (p.1.take 256) ((p.1.drop 256).take 8) scale)
  let m := match ss with | [] => 0#32 | a :: as => as.foldl (fun m b => if f32Le m b.1 then b.1 else m) a.1
  let es := ss.map (fun a => expTerm a.1 m)
  let caus := (upto 256).filter (fun u => slots.any (fun p => p.2 == u))
  let mine := fun (u : Nat) => ((slots.zip es).filter (fun p => p.1.2 == u)).map (fun p => (p.1.1, p.2.1))
  let z := ovSum (caus.map (fun u => ovSum ((mine u).map (fun p => (p.2, 0)))))
  let rs := (upto 1536).map (fun d =>
    let v := ovSum (caus.map (fun u =>
      ovSum ((mine u).map (fun p => ovOf ((f32 p.2).mul (valueAt fmt p.1 d)) p.2 0#32))))
    let e := fDiv v.1 z.1
    (e.1, v.2 + e.2))
  (rs.map (·.1), (ss ++ es).foldl (fun n a => n + a.2) 0 + rs.foldl (fun n a => n + a.2) z.2)

/-- Convert 32 values to a group: 32 element bytes and the code (R246). -/
def convertGroup (fmt : Nat) (vs : List Word) : List Byte × Byte :=
  let r := convertRun { NumHdr.zero with ofmt := fmt } false vs
  (r.1.map (BitVec.ofNat 8), r.2)

/-- The reply words of one query: 48 words of elements and 2 of codes. -/
def attendWords (fmt : Nat) (r : List Word) : List Burst :=
  let gs := (upto 48).map (fun g => convertGroup fmt ((r.drop (32 * g)).take 32))
  vecWords (gs.map (·.1)).flatten ++ vecWords (padTo 64 (gs.map (·.2)))

/-- The 14 carry words of a stream (R249). -/
def carryWords (c : Tbl Byte) : List Word :=
  (upto 14).map (fun w => BitVec.ofNat 32 (leNum ((upto 4).map (fun i => tget 0xFF#8 c (4 * w + i)))))

/-- ATTEND. -/
def execAttend (stream : BitVec 10) (fs : List CtxFinding) (s : State) : Out :=
  match s.nextReq stream.toNat 2 with
  | none => .next s
  | some r =>
    let st := r.stream
    let o := s.taParams
    let fmt := s.taFmt
    let sel := if (s.sctx st).quota = 0 then [] else s.selected st (pay s.img.copy (o + 0x10) 2) (pay s.img.copy (o + 0x12) 2) (pay s.img.copy (o + 0x0D) 1)
    let u0 := sel.foldl (fun u j => (u.readDir st j fs).readSlot st j fs false) s
    let hurt := sel.filter (fun j => found fs j .mismatch)
    let good := sel.filter (fun j => !found fs j .mismatch)
    let u2 := hurt.foldl (fun u j => u.slotBad st j) u0
    let gs := good.map (s.granule st)
    let slots := (gs.map s.slotBytes).zip (cauOf gs [])
    let scale := BitVec.ofNat 32 (pay s.img.copy (o + 0x14) 4)
    let outs := (upto r.cnt).map (fun i =>
      let q := wordBytes ((r.words.drop (66 * i)).take 64)
      let qc := wordBytes ((r.words.drop (66 * i + 64)).take 2)
      let a := if slots.isEmpty then (List.replicate 1536 0#32, 0) else attendOne fmt q qc slots scale
      (attendWords fmt a.1, a.2))
    let nan := (upto r.cnt).foldl (fun n i =>
        n + (upto 8).foldl (fun n g => n + groupBad fmt (((wordBytes ((r.words.drop (66 * i)).take 64)).drop (32 * g)).take 32)
          ((wordBytes ((r.words.drop (66 * i + 64)).take 2)).getD g 0)) 0) 0 +
      slots.foldl (fun n p => n + (upto 8).foldl (fun n g => n + groupBad fmt ((p.1.drop (32 * g)).take 32) (p.1.getD (0x100 + g) 0)) 0 +
        (upto 48).foldl (fun n g => n + groupBad fmt ((p.1.drop (0x108 + 32 * g)).take 32) (p.1.getD (0x708 + g) 0)) 0) 0
    let busy := (slots.map (fun p => (slots.filter (fun q => q.2 == p.2)).length)).foldl max 0 * r.cnt * 14
    let tile0 := match stageOf s.img.copy 0x10 with | some n => ((s.plc.pitch.getD n []).headD 0) | none => 0
    let u3 := ((u2.count Reg.ctxCauBusy busy).countNonfin nan).countOvf tile0 (outs.foldl (fun n p => n + p.2) 0)
    let status := if (s.sctx st).quota = 0 then 1 else if hurt.isEmpty then 0 else 5
    .next (u3.replyReq r status good.length (carryWords (s.sctx st).carry) (outs.map (·.1)).flatten)

/-! ## STAKE, UNSTAKE and EVICT (R241) -/

/-- Run an operation on the slot a request names: a failed CHECKSUM costs the slot and gives PARTIAL (R253). ARG of a reply is the
slot index that the request names; of an age or a frame that names no slot the spec gives no index, and ARG is free (R235,
log entry 59). -/
def State.onSlot (s : State) (r : CtxReq) (fs : List CtxFinding) (f : State → Nat → State × Nat) : State :=
  match s.named r 0 with
  | none => if r.mode = 1 then s.ackReq r 2 (fld (r.words.getD 0 0) 14 0) else s.free.2.ackReq r 2 (fld s.free.1 14 0)
  | some j =>
    let u := s.readDir r.stream j fs
    if found fs j .mismatch && u.slotValid r.stream j then (u.slotBad r.stream j).ackReq r 5 j
    else
      let o := f u j
      o.1.ackReq r o.2 j

/-- STAKE. -/
def execStake (stream : Checked (BitVec 10) (List CtxFinding)) (s : State) : Out :=
  match s.nextReq stream.val.toNat 3 with
  | none => .next s
  | some r => .next (s.onSlot r stream.check (fun u j => u.stakeSlot r.stream j))

/-- UNSTAKE of one slot or of ALL. -/
def execUnstake (stream : Checked (BitVec 10) (List CtxFinding)) (s : State) : Out :=
  match s.nextReq stream.val.toNat 4 with
  | none => .next s
  | some r =>
    .next (if r.mode = 3 then (s.unstakeAll r.stream).ackReq r 0 0
           else s.onSlot r stream.check (fun u j => u.unstakeSlot r.stream j))

/-- EVICT of one slot or of ALL. -/
def execEvict (stream : Checked (BitVec 10) (List CtxFinding)) (s : State) : Out :=
  match s.nextReq stream.val.toNat 5 with
  | none => .next s
  | some r =>
    .next (if r.mode = 3 then (s.evictAll r.stream).ackReq r 0 0
           else s.onSlot r stream.check (fun u j => u.evictSlot r.stream j))

/-! ## Clears (R255, R257, R261) -/

/-- STREAM_CLEAR: object (0x6100 + s):05 written TRUE. -/
def execStreamClear (stream : BitVec 10) (s : State) : Out := onlyIf s.engineUp s (s.clearStream stream.toNat)

/-- CTX_CTL.CLEAR_ALL: a configuration bit, taken only while CTX_CTL.EN is 0 (R257, R259, R388). -/
def State.clearAll (s : State) : State := if s.blockEn 6 then s.cfgIgn 6 else s.clearStore

def execClearAll (s : State) : Out := onlyIf s.engineUp s s.clearAll

/-- A clear of the store has finished. -/
def execStoreClearComplete (s : State) : Out :=
  let u := s.clrBits Reg.ctxStat 0x2#32
  onlyIf (s.engineUp && s.rbit Reg.ctxStat 1) s { u with flt := { u.flt with clearing := false } }

end Sys2Proof.Machine
end

