-- ==== Sys2Proof/Machine/Arrive.lean ====
section
/-! DEFINITION. A word that arrives at a switch (R79 to R84, R100): the parity check, the outputs it drives, the queue or the
engine-domain unit it ends in. -/

namespace Sys2Proof.Machine

/-- The router that drives an input wire: the neighbour on that side, or the tile itself for a lane (R453). -/
def drivingTile (t : TileAddr) (wire : Nat) : Option TileAddr :=
  if 4 ≤ wire then some t else (neighbour t wire).map (·.1)

/-- A word with a parity error: counted, a contained error, and replaced by an abort of reason FAULT; 16 such errors in a
window on the wires of one tile are a tile fault (R79, R453). -/
def State.parityError (s : State) (t : TileAddr) (net wire : Nat) (w : QWord) : State × QWord :=
  let stream := match s.adm.frames.find? (fun f => f.ordinal == some (s.fab.base + (s.tile t).frameNo w.tag.toNat)) with
    | some f => f.stream
    | none => 0xFFFF
  let u := ((s.count Reg.fabLinkParCnt 1).setBits Reg.fabStat 0x100#32).contained 4 stream
  let bad := abortWord net w.tag.toNat 2 w.src
  let bad := if isEnd net w then bad else { bad with data := bad.data ||| 0x100#256 }
  match drivingTile t wire with
  | none => (u, bad)
  | some d =>
    let x := u.tile d
    let v := u.setTile d { x with linkErrs := x.linkErrs + 1 }
    (if x.linkErrs + 1 = 16 then v.tileFault d 2 else v, bad)

/-- Drive the outputs of a route entry with a word: each leads to a neighbour's wire or to the crossing into an engine-domain
unit. (DESIGN CHOICE: log entry 66.) -/
def State.driveOuts (s : State) (t : TileAddr) (net e : Nat) (w : QWord) : State :=
  (upto 4).foldl (fun u d =>
    if routeOut e d then
      let wire := match neighbour t d with
        | some (t', w') => some (wireKey t'.toNat net w'.toNat)
        | none => if (Config.edgeUnit t (BitVec.ofNat 2 d)).isSome then some (wireKey t.toNat net (8 + d)) else none
      { u with fab := { u.fab with links := u.fab.links ++ (wire.map (fun k => LinkWord.mk k w)).toList } }
    else u) s

/-- Another wire of the switch asks for an output that this word wants, with a word of the retiring context, which goes first
(R82). -/
def State.yields (s : State) (t : TileAddr) (net wire : Nat) (w : QWord) : Bool :=
  let x := s.tile t
  x.retiring.any (fun a => w.tag != a && (upto 6).any (fun k => k != wire &&
    (s.atWire (wireKey t.toNat net k)).head?.any (fun o => o.tag == a &&
      (upto 4).any (fun d => routeOut (x.route w.tag.toNat net wire) d && routeOut (x.route a.toNat net k) d))))

/-- The parity groups of a word that disagree on a link: eight of a vector word, one of the others (R76). -/
def linkParity (net : Nat) (syn : Byte) : Bool := if net = 0 then syn != 0 else bit syn 0

/-- The context slot could not be read as its word was routed: a tile fault (R74). The word stays on its link. -/
def State.slotUnread (s : State) (t : TileAddr) : State := (s.countEcc .uncorrectable).tileFault t 1

/-- LINK_WORD_ARRIVAL: the oldest word on an input wire is routed by the table of its tag's slot, or an engine-domain unit takes
the oldest word of its crossing (wires 8 to 11), crop-and-resize while one of its map buffers is free (R275). A tile held in reset takes no word from a link (R118); a word waits whose queue
has no room, whose crossing raises HOLD (R415) or which gives way to the retiring context (R82). A word on a circuit that ends in
a queue of another network, or that goes back the way it came, is a host error (R81, R100). `syn` names the parity groups that
disagree, and what the check of the context slot found. (DEDUCED: log entry 41.) -/
def execLinkWordArrival (t : TileAddr) (net : BitVec 2) (wire : BitVec 4) (syn : Checked Byte) (s : State) : Out :=
  let n := net.toNat
  let k := wire.toNat
  if !isTile t then .fault .noSuchTile
  else match s.fab.links.find? (fun l => l.wire == wireKey t.toNat n k) with
    | none => .next s
    | some l =>
      let x := s.tile t
      let e := x.route l.w.tag.toNat n k
      let u := ({ s with fab := { s.fab with links := s.fab.links.erase l } }).refill l.wire
      if 8 ≤ k then
        .next (if s.engineUp && !s.mapsFull t (k - 8) n l.w then u.unitTake t (k - 8) n l.w else s)
      else if !s.engineUp || x.held || s.clk.stopped || bit s.clk.capture (sectorOf t) || (s.dom (gblockOf t)).st != 0 then .next s
      else if syn.check = .uncorrectable then .next (s.slotUnread t)
      else if (routeTerm e ∧ netOfQueue (routeQueue e) ≠ n) ∨ (k < 4 ∧ routeOut e k) then .next s.unpredictable
      else if (routeTerm e ∧ ¬ (x.queue (routeQueue e)).room) ∨ s.outHeld t n e ∨ s.yields t n k l.w then .next s
      else
        let p := if linkParity n syn.val then (u.openWindows.countEcc syn.check).parityError t n k l.w else (u.countEcc syn.check, l.w)
        let v := p.1.driveOuts t n e p.2
        .next (if routeTerm e && !(v.tile t).held then v.enqueue t (routeQueue e) p.2 else v)

end Sys2Proof.Machine
end

