-- ==== Sys2Proof/Machine/Admission.lean ====
section
/-! DEFINITION. Admission (R47 to R65): apertures and the reassembly buffer, doorbells, the start of a slot, row groups, the
limit on waiting and the flush of waiting frames. -/

namespace Sys2Proof.Machine

/-! ## Streams (R47 to R50) -/

/-- ENABLE and WIDE of a stream (R48). -/
def State.enabled (s : State) (st : Nat) : Bool := s.objVal (256 * (0x4000 + st) + 1) 1 != 0
def State.wideObj (s : State) (st : Nat) : Bool := st % 8 == 0 && s.objVal (256 * (0x4000 + st) + 2) 0 != 0

/-- A stream is wide under the image in force (R49). -/
def State.wideStream (s : State) (st : Nat) : Bool := s.wideObj st && imgWide s.img.copy

/-- A stream is absorbed by the wide stream of its group of eight. -/
def State.absorbed (s : State) (st : Nat) : Bool := st % 8 != 0 && s.wideStream (st / 8 * 8)

/-- Geometry of a frame: width, height, format; its size in bytes and its row groups (R33, R52). -/
def State.geomSize (s : State) (wide : Bool) : Nat := frameSize (imgW s.img.copy wide) (imgH s.img.copy wide) (imgFmt s.img.copy wide)
def State.geomGroups (s : State) (wide : Bool) : Nat := rowGroups (imgH s.img.copy wide) (imgFmt s.img.copy wide)

/-! ## Ingress (R47, R51 to R53, R335) -/

/-- The stream, slot and slot offset that an ingress address of a port names. -/
def State.ingressAt (s : State) (port : Bool) (addr : Nat) : Nat × Bool × Nat :=
  let a := addr - 0x40000000
  let st := 512 * b2n port + a / 0x400000
  let w := st / 8 * 8
  if s.wideStream w then
    let o := a % 0x2000000
    (w, decide (0x1000000 ≤ o), o % 0x1000000)
  else (st, decide (0x200000 ≤ a % 0x400000), a % 0x200000)

/-- The bytes of a burst whose numbers are below `n`. -/
def lowMask (n : Nat) : Nat := 2 ^ min n 32 - 1

/-- Merge the bytes of a mask into a burst. -/
def mergeBurst (old new : Burst) (mask : Nat) : Burst :=
  let m : Burst := BitVec.ofNat 256 ((upto 32).foldr (fun i n => (if mask / 2 ^ i % 2 = 1 then 255 else 0) + 256 * n) 0)
  (old &&& ~~~m) ||| (new &&& m)

/-- A burst of frame data at offset `off` of a slot with the bytes of `mask`. -/
def Slot.put (x : Slot) (off : Nat) (data : Burst) (mask : Nat) : Slot :=
  let k := off / 32
  { x with
    st := .written
    data := tset 0 x.data k (mergeBurst (tget 0 x.data k) data mask)
    mask := tset 0 x.mask k (tget 0 x.mask k ||| BitVec.ofNat 32 mask)
    pages := if x.pages.contains (off / 4096) then x.pages else x.pages ++ [off / 4096] }

/-- Count discarded bursts (R330). -/
def State.wdisc (s : State) : State := s.count Reg.hptWdiscCnt 1

/-- One ingress burst. A write into a slot that waits or is being sent is a host error (R58). R53 says of a write that finds no free
page that it is discarded and sets OVERRUN; the state that an idle slot then shows is the model's choice: written, with no page
(log entry 86). (DEDUCED: log entry 41.) (DESIGN CHOICE: log entry 86.) -/
def State.ingressBurst (s : State) (port : Bool) (addr : Nat) (data : Burst) (mask : Nat) : Out :=
  if !s.committed then .next s.wdisc
  else
    let p := s.ingressAt port addr
    let st := p.1
    let off := p.2.2 / 32 * 32
    let x := s.stream st
    let sl := x.slot p.2.1
    let size := s.geomSize (s.wideStream st)
    let keep := lowMask (size - off)
    let inside := Nat.land mask keep
    let u := if inside = mask then s else s.wdisc
    if sl.st = .waiting ∨ sl.st = .sending then .next s.unpredictable
    else if inside = 0 then .next u
    else if sl.pages.contains (off / 4096) then .next (u.setStream st (x.setSlot p.2.1 (sl.put off data inside)))
    else if u.bufFree = 0 then
      .next (u.setStream st (x.setSlot p.2.1 { sl with overrun := true, st := .written }))
    else
      let v := u.setStream st (x.setSlot p.2.1 (sl.put off data inside))
      .next (if v.bufFree = 0 then v.setBits Reg.admStat 0x20#32 else v)

/-! ## Doorbells (R53 to R59) -/

/-- Every byte of a slot within the frame size has been written. -/
def Slot.whole (x : Slot) (size : Nat) : Bool :=
  (upto ((size + 31) / 32)).all (fun k => Nat.land (tget 0 x.mask k).toNat (lowMask (size - 32 * k)) == lowMask (size - 32 * k))

/-- The conditions of R57, with the role of R460. -/
def State.acceptsDoorbell (s : State) (st : Nat) (slot : Bool) : Bool :=
  let sl := (s.stream st).slot slot
  s.committed && s.blockEn 1 && !s.partly && !s.faulted && !s.secondary && s.enabled st && !s.absorbed st &&
  (sl.st == .idle || sl.st == .written)

/-- Slot 0 of a stream is ordered before slot 1 where both doorbells fall in the same engine cycle: the frame just accepted for
slot 0 takes the place and the SEQ of the one for slot 1 before it (R14, R59). (DEDUCED: log entry 48.) -/
def orderSlots (fs : List Frame) (f : Frame) : List Frame :=
  let same := fun (g : Frame) =>
    g.stream == f.stream && g.slot && !f.slot && g.acceptedAt == f.acceptedAt && g.ordinal.isNone && g.seq + 1#32 == f.seq
  match fs.find? same with
  | none => fs
  | some g => fs.map (fun k =>
      if k = g then { f with seq := g.seq } else if k = f then { g with seq := f.seq } else k)

/-- An accepted doorbell (R53, R54, R56, R58). -/
def State.acceptDoorbell (s : State) (st : Nat) (slot : Bool) (tag : BitVec 64) : State :=
  let x := s.stream st
  let sl := x.slot slot
  let wide := s.wideStream st
  let seq := x.accepted + 1#32
  let f : Frame :=
    { stream := st, slot := slot, tag := tag, seq := seq, tDoorbell := s.devTime, tEntry := 0, wide := wide
      phase := if sl.overrun then .ended else .waiting, status := if sl.overrun then .overrun else .ok
      ordinal := none, startedAt := 0, acceptedAt := s.clock.now, nextGroup := 0, asPrimary := s.primary
      candLimit := false, trackFull := false, candidates := 0, tracks := 0, dets := [], thresholds := [], appended := none
      boxes := [] }
  let y := { x with lastTag := tag, accepted := seq, overruns := if sl.overrun then x.overruns + 1#32 else x.overruns }
  let z := y.setSlot slot (if sl.overrun then Slot.empty else { sl with st := .waiting })
  let u := s.setStream st z
  let v := { u with adm := { u.adm with frames := orderSlots (u.adm.frames ++ [f]) f } }
  let w := (v.count Reg.egrAccepted 1).setReg Reg.admDoorbell (BitVec.ofNat 32 (2 ^ 31 + 1024 * b2n slot + st))
  let a := if sl.overrun then w.countOverrun
           else if sl.whole (s.geomSize wide) then w else w.count Reg.admShortCnt 1
  if 20 < a.waitingFrames.length then a.setBits Reg.admStat 0x80#32 else a

/-- A refused doorbell (R57). -/
def State.refuseDoorbell (s : State) (st : Nat) : State :=
  let x := s.stream st
  (s.setStream st { x with refused := x.refused + 1#32 }).count Reg.admRefusedCnt 1

/-- A doorbell rung on a stream's cell. -/
def State.ring (s : State) (st : Nat) (slot : Bool) (tag : BitVec 64) : State :=
  if s.acceptsDoorbell st slot then s.acceptDoorbell st slot tag else s.refuseDoorbell st

/-- Bytes 32 to 63 of a doorbell cell (R56), as a number. -/
def SlotSt.code : SlotSt → Nat | .idle => 0 | .written => 1 | .waiting => 2 | .sending => 3

def State.cellHigh (s : State) (st : Nat) : Nat :=
  let x := s.stream st
  let slots := if s.committed then x.slot0.st.code + 4 * x.slot1.st.code else 0
  let flags := b2n x.slot0.overrun + 2 * b2n x.slot1.overrun + 4 * b2n (s.absorbed st) + 8 * b2n (s.enabled st)
  x.lastTag.toNat + 2 ^ 64 * x.accepted.toNat + 2 ^ 96 * x.refused.toNat + 2 ^ 128 * slots + 2 ^ 136 * flags

/-! ## Slots (R36, R60 to R62, R98, R455) -/

/-- Every word that admission has sent has been taken by stage 0 (R36). -/
def State.rowsTaken (s : State) : Bool :=
  (Config.inputWires s.plc.pitchDigest).all (fun p =>
    let key := wireKey p.1.toNat 0 p.2.toNat
    s.fab.links.all (fun l => l.wire != key) && s.fab.unsent.all (fun l => l.wire != key) &&
    (s.destsFrom s.admissionSlot 0 512 p.1 p.2.toNat).all (fun d => ((s.tile d.1).queue d.2).words.isEmpty))

/-- Stage 0 has taken every row of the frame sent last (R36). -/
def State.stage0Taken (s : State) : Bool := !s.adm.frames.any (fun f => f.phase == .sending) && s.rowsTaken

/-- Admission may start slots (R44, R60, R110, R111). (DEDUCED: log entry 55.) -/
def State.admRuns (s : State) : Bool :=
  ((s.blockEn 1 && s.committed) || (s.img.st == .releasing && fld (s.reg Reg.admCtl) 2 1 == 0)) &&
  !s.partly && !s.remapping && !s.faulted && s.rbit Reg.fabCtl 0 && !s.draining && !s.bivouac && s.engineUp && s.clk.capture == 0#8

/-- The engine cycle from which R36 allows the next slot to start: one slot length after the last. -/
def State.slotDue (s : State) : Nat :=
  match s.adm.lastStart with
  | none => 0
  | some a => a + slotLength s.img.rate

/-- The first stream after the pointer, circularly, with a waiting frame whose doorbell was accepted before engine cycle `c`
(R60, R61). (DEDUCED: log entry 48.) -/
def State.nextReady (s : State) (c : Nat) : Option Nat :=
  let p := fld (s.reg Reg.admRrPtr) 9 0
  ((upto 1024).map (fun i => (p + 1 + i) % 1024)).find? (fun st =>
    s.waitingFrames.any (fun f => f.stream == st && decide (18 * f.acceptedAt < c)))

/-- The engine cycle in which the next slot starts: as soon as R36 allows it, or one cycle later where every waiting frame was
accepted in that very cycle (R61, R62). -/
def State.slotCycle (s : State) : Nat :=
  let c := max s.slotDue s.engineCycle
  if s.waitingFrames.any (fun f => decide (18 * f.acceptedAt < c)) then c else c + 1

/-- Send CTX_SWITCH and CTX_END where the geometry changes (R98). (DEDUCED: log entry 48.) -/
def State.switchGeometry (s : State) (wide : Bool) : State :=
  if s.adm.lastVariant = wide then s
  else
    let old := s.admissionSlot
    let u := { s with adm := { s.adm with lastVariant := wide } }
    let v := u.unitSend 1 2 ⟨BitVec.ofNat 2 old, 5, tokenData old 5 u.admissionSlot, noSrc⟩
    ((Config.inputWires v.plc.pitchDigest).map (fun p =>
      LinkWord.mk (wireKey p.1.toNat 0 p.2.toNat) (ctxEndWord 0 old noSrc))).foldl State.offer v

/-- Replace the frame of a stream and SEQ. -/
def State.mapFrame (s : State) (f : Frame) (g : Frame → Frame) : State :=
  { s with adm := { s.adm with frames := s.adm.frames.map (fun x => if x.stream = f.stream ∧ x.seq = f.seq then g x else x) } }

/-- SLOT_START: the oldest waiting frame of the next ready stream goes to stage 0. `ue`: its data hold an uncorrectable
word, and the frame ends DROPPED_FAULT at its slot start (R455). (DEDUCED: log entry 48.) -/
def execSlotStart (ue : Bool) (s : State) : Out :=
  .next (
    if s.admRuns && s.stage0Taken then
      let start := s.slotCycle
      match s.nextReady start with
      | none => s
      | some st =>
        match s.waitingFrames.find? (fun f => f.stream == st) with
        | none => s
        | some f =>
          let u := (s.until (cycleStep start)).setReg Reg.admRrPtr (BitVec.ofNat 32 st)
          if ue then (u.contained 1 st).endOutside (fun g => g.stream == st && g.seq == f.seq) .fault
          else
            let o := u.adm.nextOrdinal
            let x := u.stream st
            let v := (u.switchGeometry f.wide).setStream st (x.setSlot f.slot { x.slot f.slot with st := .sending })
            let w := v.mapFrame f (fun g => { g with phase := .sending, ordinal := some o, startedAt := start })
            { w with adm := { w.adm with nextOrdinal := o + 1, lastStart := some start, lastSlots := 1 } }
    else s)

/-! ## Row groups (R51, R52, R98, R148, R184, R455) -/

/-- The admission slot, 0 to 7, that carries a row group of a wide frame (R184). -/
def wideSlot (n y : Nat) : Nat := ((upto 8).find? (fun j => decide (y < (j + 1) * n / 8))).getD 7

/-- The bytes of a slot from an offset. -/
def Slot.bytes (x : Slot) (off n : Nat) : List Byte :=
  (upto n).map (fun i => byteOf (tget 0 x.data ((off + i) / 32)) ((off + i) % 32))

/-- The words of row group `y` with their KINDs: each channel row starts on a new word (R148). -/
def groupWords (x : Slot) (w h fmt y n : Nat) : List (Burst × Nat) :=
  let ws := ((groupRows w h fmt y).map (fun r =>
    (upto ((r.2 + 31) / 32)).map (fun k => burstOf (padTo 32 (x.bytes (r.1 + 32 * k) (min 32 (r.2 - 32 * k))))))).flatten
  (ws.zip (upto ws.length)).map (fun p => (p.1, if p.2 + 1 = ws.length then (if y + 1 = n then 2 else 1) else 0))

/-- The last row group that has a byte in a page of a slot (R51). -/
def pageGroup (w h fmt page : Nat) : Nat :=
  let a := 4096 * page
  let b := a + 4096
  let planes := if fmt = 0 then [(0, w, h), (w * h, w, h), (2 * w * h, w, h)]
    else [(0, 2 * w, h / 2), (w * h, w / 2, h / 2), (w * h + w * h / 4, w / 2, h / 2)]
  planes.foldl (fun m p =>
    let lo := max a p.1
    let hi := min b (p.1 + p.2.1 * p.2.2)
    if lo < hi then max m ((hi - 1 - p.1) / p.2.1) else m) 0

/-- Put words of admission on every stage-0 path. -/
def State.sendStage0 (s : State) (ws : List QWord) : State :=
  let add := ((Config.inputWires s.plc.pitchDigest).map (fun p =>
    ws.map (fun w => LinkWord.mk (wireKey p.1.toNat 0 p.2.toNat) w))).flatten
  add.foldl State.offer s

/-- ROW_GROUP_SEND: the next row group of the frame being sent; the first of each slot of a wide frame waits for the slot, which
starts one slot length after the slot before it and once stage 0 has taken that slot's rows (R36, R50). `ecc`: what the check of the reassembly buffer finds; an
uncorrectable word ends the frame with FRAME_ABORT on every stage-0 path. (DEDUCED: log entry 48.) -/
def execRowGroupSend (ecc : Ecc) (s0 : State) : Out :=
  .next (
    match s0.adm.frames.find? (fun f => f.phase == .sending) with
    | none => s0
    | some f =>
      let c := s0.img.copy
      let n := s0.geomGroups f.wide
      let y := f.nextGroup
      let opens := f.wide && decide (s0.adm.lastSlots ≤ wideSlot n y)
      let start := if opens then max s0.slotDue s0.engineCycle else f.startedAt
      let u := s0.until (cycleStep start)
      let s := if opens then { u with adm := { u.adm with lastStart := some start, lastSlots := wideSlot n y + 1 } } else u
      let tag := BitVec.ofNat 2 s.admissionSlot
      let x := s.stream f.stream
      let sl := x.slot f.slot
      if !(s.engineUp && !s.fab.stopped && s.rbit Reg.fabCtl 0 && !s.faulted && !s.remapping && s.clk.capture == 0#8) then s0
      else if opens && !s0.rowsTaken then s0
      else if ecc = .uncorrectable then
        let u := (s.contained 1 f.stream).sendStage0 [abortWord 0 tag.toNat 2 noSrc]
        (u.freeSlot f.stream f.slot).mapFrame f (fun g => { g with phase := .fabric })
      else
        let ws := (groupWords sl (imgW c f.wide) (imgH c f.wide) (imgFmt c f.wide) y n).map
          (fun p => QWord.mk tag (BitVec.ofNat 3 p.2) p.1 noSrc)
        let u := (if y = 0 then s.noteFirstRow (f.ordinal.getD 0) else s).sendStage0 ws
        let v := u.mapFrame f (fun g => { g with
          nextGroup := y + 1, tEntry := if y = 0 then s.devTime else g.tEntry
          phase := if y + 1 = n then .fabric else .sending })
        if y + 1 = n then v.freeSlot f.stream f.slot
        else
          let keep := sl.pages.filter (fun p => y < pageGroup (imgW c f.wide) (imgH c f.wide) (imgFmt c f.wide) p)
          v.setStream f.stream (x.setSlot f.slot { sl with pages := keep }))

/-! ## Ends before stage 0 (R63, R65) -/

/-- MAX_WAIT_EXPIRY of the frame in a stream's slot. -/
def execMaxWaitExpiry (stream : BitVec 10) (slot : Bool) (s : State) : Out :=
  let m := (s.reg Reg.admMaxWait).toNat
  let p := fun (f : Frame) => f.stream == stream.toNat && f.slot == slot && f.phase == .waiting
  let due := (s.adm.frames.filter p).foldl (fun t f => max t (f.acceptedAt + usSteps m)) 0
  let x := s.stream stream.toNat
  onlyIf (s.engineUp && m != 0 && s.adm.frames.any p) s
    (((s.until due).setStream stream.toNat { x with overruns := x.overruns + 1#32 }).endOutside p .overrun)

/-- ADM_CTL.FLUSH_WAIT. -/
def State.flushWait (s : State) : State := s.endOutside (fun _ => true) .flush

def execFlushWait (s : State) : Out := onlyIf s.engineUp s s.flushWait

end Sys2Proof.Machine
end

