-- ==== Sys2Proof/Machine/Egress.lean ====
section
/-! DEFINITION. Egress: the record of a frame (R66, R67, R284 to R287), the result rings and their index (R340 to R342), the
order of records (R13, R14, R64), damaged ring words (R455), and the end of every frame in a device fault (R456). -/

namespace Sys2Proof.Machine

/-! ## Records -/

def Status.code : Status → Nat
  | .ok => 0 | .remap => 1 | .flush => 2 | .overrun => 3 | .fault => 4

/-- The counter of records by status (R476). -/
def Status.counter : Status → Nat
  | .ok => Reg.egrRecOkCnt | .remap => Reg.egrRecRemapCnt | .flush => Reg.egrRecFlushCnt
  | .overrun => Reg.egrRecOverrunCnt | .fault => Reg.egrRecFaultCnt

/-- The UNLEASED flag of a record with status OK (R462). -/
def State.unleased (s : State) (f : Frame) : Bool := f.status == .ok && !s.leased && (s.primary || f.asPrimary)

/-- A detection entry (R286). -/
def Det.bytes (d : Det) : List Byte :=
  [d.cls, d.dflags] ++ leBytes 2 d.score.toNat ++ leBytes 2 d.x0.toNat ++ leBytes 2 d.y0.toNat ++ leBytes 2 d.x1.toNat ++
  leBytes 2 d.y1.toNat ++ leBytes 4 d.trackId.toNat ++ leBytes 4 d.slot.toNat ++ [d.trackState, 0] ++ leBytes 2 d.cand ++ leBytes 8 0

/-- RFLAGS (R284, R285): bits 0 to 2 only with status OK. -/
def State.rflags (s : State) (f : Frame) : Nat :=
  (if f.status = .ok then b2n (s.unleased f) + 2 * b2n f.candLimit + 4 * b2n f.trackFull else 0) + 8 * b2n f.wide

/-- The bytes of a record (R284), with the timestamps of R17. -/
def State.recordBytes (s : State) (f : Frame) : List Byte :=
  let ok := f.status == .ok
  let dets := if ok then f.dets else []
  leBytes 4 f.seq.toNat ++ leBytes 2 f.stream ++ leBytes 2 dets.length ++ leBytes 8 f.tag.toNat ++
  leBytes 1 f.status.code ++ leBytes 1 (s.rflags f) ++ leBytes 2 0 ++ leBytes 4 (s.reg Reg.fltEpoch).toNat ++
  leBytes 8 f.tDoorbell.toNat ++ leBytes 8 f.tEntry.toNat ++ leBytes 8 s.devTime.toNat ++
  leBytes 4 (if ok then f.candidates.toNat else 0) ++ leBytes 2 (if ok then f.tracks.toNat else 0) ++ leBytes 10 0 ++
  (dets.map Det.bytes).flatten

/-- Lines of a record (R340). -/
def Frame.recordLines (f : Frame) : Nat := 1 + ((if f.status = .ok then f.dets.length else 0) + 1) / 2

/-! ## The ring (R340 to R342) -/

/-- Fields of an index entry (R341). -/
def ixLines (e : BitVec 64) : Nat := fld e 51 42
def ixStart (e : BitVec 64) : Nat := fld e 41 32
def ixSeq (e : BitVec 64) : Word := BitVec.ofNat 32 (fld e 31 0)
def ixStale (e : BitVec 64) : Bool := bit e 63
def ixEntry (seq : Word) (start lines : Nat) : BitVec 64 := BitVec.ofNat 64 (seq.toNat + 2 ^ 32 * start + 2 ^ 42 * lines)

/-- The write line of a ring. -/
def State.writeLine (s : State) (st : Nat) : Nat := tget 64 s.egr.wline st

/-- Set STALE in the entries of a stream's records whose lines meet a run of lines; a write repairs both copies. -/
def State.staleRun (s : State) (st start lines : Nat) : State :=
  let hit := fun (k : Nat) (e : BitVec 64) =>
    k / 512 = st ∧ ixLines e ≠ 0 ∧ ixStart e < start + lines ∧ start < ixStart e + ixLines e
  let ix := tmap 0#64 (fun k e => if hit k e then e ||| BitVec.ofNat 64 (2 ^ 63) else e) s.egr.index
  { s with egr := { s.egr with
      index := ix
      damaged := s.egr.damaged.filter (fun k => !decide (hit k (tget 0#64 s.egr.index k))) } }

/-- Write record bytes into a ring's lines. -/
def State.putLines (s : State) (st start lines : Nat) (bs : List Byte) : State :=
  { s with egr := { s.egr with lines := (upto lines).foldl (fun m i =>
      tset 0#512 m (1024 * st + start + i) (BitVec.ofNat 512 (leNum ((bs.drop (64 * i)).take 64)))) s.egr.lines } }

/-- Write the record of a frame: stale what it overwrites, the record with SEQ last, the index entry, the write line. -/
def State.writeRecord (s : State) (f : Frame) : State :=
  let st := f.stream
  let k := f.recordLines
  let w0 := s.writeLine st
  let w := if 1024 < w0 + k then 64 else w0
  let u := (s.staleRun st w k).putLines st w k (s.recordBytes f)
  let key := 512 * st + f.seq.toNat % 512
  let v := { u with
    egr := { u.egr with
      index := tset 0#64 u.egr.index key (ixEntry f.seq w k)
      damaged := u.egr.damaged.filter (· != key)
      wline := tset 64 u.egr.wline st (w + k)
      lastSeq := tset 0#32 u.egr.lastSeq st f.seq
      records := tset 0#32 u.egr.records st (tget 0#32 u.egr.records st + 1#32) }
    adm := { u.adm with frames := u.adm.frames.filter (fun x => !(x.stream == st && x.seq == f.seq)) } }
  let c := v.count f.status.counter 1
  let d := if f.status = .ok then c.count Reg.ppuDetCnt f.dets.length else c
  if s.unleased f then (d.count Reg.egrUnleasedCnt 1).setBits Reg.egrStat 2#32 else d

/-! ## Order (R13, R14, R64) -/

/-- Every earlier frame of the stream has its record, and no frame that entered stage 0 before it lacks one. -/
def State.recordDue (s : State) (f : Frame) : Bool :=
  f.phase == .ended &&
  (match s.adm.frames.find? (fun g => g.stream == f.stream) with
   | some g => g.seq == f.seq
   | none => false) &&
  (match f.ordinal with
   | none => true
   | some o => s.adm.frames.all (fun g => match g.ordinal with
       | some p => decide (o ≤ p)
       | none => true))

/-- RECORD_WRITE. `ue`: admission's list of frames in flight holds an uncorrectable error, a device fault (R454). -/
def execRecordWrite (ue : Bool) (s : State) : Out :=
  match s.adm.frames.find? s.recordDue with
  | none => .next s
  | some f => onlyIf (s.engineUp && s.rbit Reg.egrCtl 0 && !s.faulted) s (if ue then s.deviceFault 8 else s.writeRecord f)

/-! ## DEVICE_FAULT_DRAIN_END (R456) -/

/-- The frames in the order of R13 and R64: by stream order those that never entered, by ordinal the others. Each turn
writes the first record due. (DEDUCED: log entry 35.) -/
def State.writeAll (s : State) : Nat → State
  | 0 => s
  | n + 1 => match s.adm.frames.find? s.recordDue with
    | some f => (s.writeRecord f).writeAll n
    | none => s

/-- Every committed frame without a record ends DROPPED_FAULT and has its record; then every sector clock stops.
(DEDUCED: log entry 35.) -/
def execDeviceFaultDrainEnd (s : State) : Out :=
  let u := (s.freeSending (fun _ => true)).endFrames (fun _ => true) .fault
  let hit := s.adm.frames.filter (fun f => f.phase == .waiting)
  let v := hit.foldl (fun u f => u.freeSlot f.stream f.slot) u
  let w := v.writeAll v.adm.frames.length
  onlyIf (s.engineUp && s.faulted && s.dev.draining) s { w with
    ppu := { w.ppu with cands := [], rows := [], cropOwed := [] }
    dev := { w.dev with draining := false }
    clk := { w.clk with stopped := true } }

/-! ## Damaged ring words (R455) -/

/-- A read finds an uncorrectable word in a record line: every record that holds the line is marked STALE. -/
def State.lineDamaged (s : State) (st line : Nat) : State :=
  ((s.staleRun st line 1).count Reg.egrUeCnt 1).setBits Reg.egrStat 4#32

/-- A read finds an uncorrectable word in one copy of an index entry: the other copy serves; a second one before a write
of the entry is a device fault. -/
def State.entryDamaged (s : State) (key : Nat) : State :=
  if s.egr.damaged.contains key then s.deviceFault 8
  else { s with egr := { s.egr with damaged := s.egr.damaged ++ [key] } }

end Sys2Proof.Machine
end

