-- ==== Sys2Proof/Machine/TileSpace.lean ====
section
/-! DEFINITION. The tile space (R9, R10, R117): the word at each offset, what a write under the rule of R103 stores there, and
what the tile path of a transfer stream reads and writes (R297). -/

namespace Sys2Proof.Machine

/-- Word `i` of a wide value. -/
def wordOf {n : Nat} (v : BitVec n) (i : Nat) : Word := BitVec.ofNat 32 (v.toNat / 2 ^ (32 * i))

/-! ## FAB: the tile space (R9, R10, R117) -/

/-- TSTAT. -/
def Tile.tstat (x : Tile) : Word :=
  BitVec.ofNat 32 (256 * b2n x.fault + 128 * b2n x.held +
    (match x.retiring with | some c => 64 + 16 * c.toNat | none => 0) +
    8 * b2n (x.ruleMode x.active.toNat) + x.active.toNat)

/-- QSTAT of a queue. -/
def Queue.qstat (v : Queue) : Word :=
  BitVec.ofNat 32 ((match v.words with
    | w :: _ => 16384 * w.tag.toNat + 2048 * w.kind.toNat
    | [] => 0) + v.words.length)

/-- The word at an offset of a tile's space. -/
def Tile.word (x : Tile) (o : Nat) : Word :=
  if o < 0xC000 then wordOf (tget 0#64 x.sram (o / 8)) (o / 4 % 2)
  else if o < 0xC400 then tget 0#32 x.slots ((o - 0xC000) / 4)
  else if o = 0xD000 then BitVec.ofNat 32 (2 * b2n x.freeze + b2n x.hold)
  else if o = 0xD004 then x.tstat
  else if 0xD010 ≤ o ∧ o < 0xD020 then BitVec.ofNat 32 (tget 0#13 x.steps ((o - 0xD010) / 4)).toNat
  else if o = 0xD020 then BitVec.ofNat 32 x.rulePtr.toNat
  else if 0xD030 ≤ o ∧ o < 0xD048 then BitVec.ofNat 32 (x.credit ((o - 0xD030) / 4))
  else if 0xD100 ≤ o ∧ o < 0xD200 then
    if o % 16 = 0 then (x.queue ((o - 0xD100) / 16)).cfg else if o % 16 = 4 then (x.queue ((o - 0xD100) / 16)).qstat else 0#32
  else if 0xD200 ≤ o ∧ o < 0xD218 then tget 0#32 x.heldCounts ((o - 0xD200) / 4)
  else if 0xD300 ≤ o ∧ o < 0xD400 then
    let v := x.queue ((o - 0xD300) / 16)
    match o % 16 / 4 with | 0 => v.heldIn | 1 => v.heldFull | 2 => v.heldFlushed | _ => v.heldHigh
  else if 0xE000 ≤ o ∧ o < 0xE100 then tget 0#32 x.s ((o - 0xE000) / 4)
  else if 0xE100 ≤ o ∧ o < 0xE300 then wordOf (tget 0#256 x.v ((o - 0xE100) / 32)) ((o - 0xE100) / 4 % 8)
  else if 0xE300 ≤ o ∧ o < 0xE400 then tget 0#32 x.a ((o - 0xE300) / 4)
  else if 0xE400 ≤ o ∧ o < 0xE420 then BitVec.ofNat 32 (tget 0#16 x.c ((o - 0xE400) / 4)).toNat
  else 0#32

/-- Replace word `i` of a wide value. -/
def putWord (v i : Nat) (w : Word) : Nat := v - v / 2 ^ (32 * i) % 2 ^ 32 * 2 ^ (32 * i) + w.toNat * 2 ^ (32 * i)

/-- A write of QCFG: reserved bits stay zero and a reserved DEPTH keeps the old one (R387). -/
def qcfgWrite (old v : Word) : Word := keepReserved [(22, 16, 4, 64)] old (v &&& 0x807F1FFF#32)

/-- A write under the rule of R103: SRAM, registers, STEP, RULE_PTR, credits and QCFG. -/
def Tile.putReg (x : Tile) (o : Nat) (v : Word) : Tile :=
  if o < 0xC000 then { x with sram := tset 0#64 x.sram (o / 8) (BitVec.ofNat 64 (putWord (tget 0#64 x.sram (o / 8)).toNat (o / 4 % 2) v)) }
  else if 0xD010 ≤ o ∧ o < 0xD020 then { x with steps := tset 0#13 x.steps ((o - 0xD010) / 4) (BitVec.ofNat 13 v.toNat) }
  else if o = 0xD020 then { x with rulePtr := BitVec.ofNat 3 v.toNat }
  else if 0xD030 ≤ o ∧ o < 0xD048 then x.setCredit ((o - 0xD030) / 4) (v.toNat % 128)
  else if 0xD100 ≤ o ∧ o < 0xD200 then
    let q := (o - 0xD100) / 16
    if o % 16 = 0 then x.setQueue q { x.queue q with cfg := qcfgWrite (x.queue q).cfg v } else x
  else if 0xE000 ≤ o ∧ o < 0xE100 then { x with s := tset 0#32 x.s ((o - 0xE000) / 4) v }
  else if 0xE100 ≤ o ∧ o < 0xE300 then
    let i := (o - 0xE100) / 32
    { x with v := tset 0#256 x.v i (BitVec.ofNat 256 (putWord (tget 0#256 x.v i).toNat ((o - 0xE100) / 4 % 8) v)) }
  else if 0xE300 ≤ o ∧ o < 0xE400 then { x with a := tset 0#32 x.a ((o - 0xE300) / 4) v }
  else if 0xE400 ≤ o ∧ o < 0xE420 then { x with c := tset 0#16 x.c ((o - 0xE400) / 4) (BitVec.ofNat 16 v.toNat) }
  else x

/-! ## The tile path (R297) -/

/-- `n` bytes of the tile space from an offset that is a multiple of four. -/
def Tile.pathBytes (x : Tile) (o n : Nat) : List Byte :=
  (((upto ((n + 3) / 4)).map (fun i => leBytes 4 (x.word (o + 4 * i)).toNat)).flatten).take n

/-- Put bytes into the tile space, whole words from an offset that is a multiple of four: SRAM, the words of the context slots, and
what a scan record restores (R111, R113). -/
def Tile.putPath (x : Tile) (o : Nat) (bs : List Byte) : Tile :=
  (upto (bs.length / 4)).foldl (fun y i =>
    let a := o + 4 * i
    let v := BitVec.ofNat 32 (leNum ((bs.drop (4 * i)).take 4))
    if 0xC000 ≤ a ∧ a < 0xC400 then y.putSlot ((a - 0xC000) / 256) ((a - 0xC000) / 4 % 64) v else y.putReg a v) x

end Sys2Proof.Machine
end

