-- ==== Sys2Proof/Machine/Stream.lean ====
section
/-! DEFINITION. Transfer streams and the HBM (10): arming and completing descriptors (R298, R306), what a command moves (R297),
merging (R299), arbitration by deadline with credits and tokens (R300 to R303), error outcomes, retirement and stripe relocation
(R144, R310 to R312), scrub, refresh and recalibration (R313 to R315). -/

namespace Sys2Proof.Machine

/-! ## Channels -/

/-- A channel's stack answers: HBM is initialised and the stack is not in self-refresh. -/
def State.chanUp (s : State) (c : Nat) : Bool :=
  s.engineUp && s.rbit Reg.hbmCtl 0 && !bit s.hbm.selfRef (c / 16)

/-! ## Descriptors (R298) -/

/-- The active descriptor completes: its client is told where NOTIFY asks for it, and the shadow takes its place. -/
def State.finish (s : State) (t : Nat) : State :=
  let x := s.ts t
  s.setTs t { x with
    active := x.shadow, shadow := none, parts := []
    told := x.told + b2n (x.active.any (fun d => bit d.dflags 1)) }

/-- Arm a transfer stream whose active descriptor has not completed. -/
def State.armActive (s : State) (t : Nat) (d : Desc) : State :=
  let x := s.ts t
  match x.active, x.shadow with
  | none, _ => s.setTs t { x with active := some d }
  | some _, none => s.setTs t { x with shadow := some d }
  | some _, some _ =>
    ((s.setTs t { x with shadow := some d, rearm := satInc x.rearm }).count Reg.stmRearmOvwCnt 1).setBits Reg.stmStat 2#32

/-- Arm a transfer stream: a completion that has come is taken first. -/
def State.arm (s0 : State) (t : Nat) (d : Desc) : State :=
  let s := s0.landed
  if (s.ts t).active.any (s.ts t).done then (s.finish t).armActive t d else s.armActive t d

def execArmDescriptor (ts : BitVec 6) (d : Desc) (s : State) : Out :=
  onlyIf (s.engineUp && ts.toNat < 35) s (s.arm ts.toNat d)

/-- DESCRIPTOR_COMPLETE: once every byte has been commanded, at the end of the last of them. -/
def execDescriptorComplete (ts : BitVec 6) (s : State) : Out :=
  let t := ts.toNat
  let u := (s.until (cycleStep (s.ts t).lastEnd)).landed
  onlyIf (s.engineUp && s.rbit Reg.stmCtl 0 && (u.ts t).active.any (u.ts t).done) s (u.finish t)

/-- Write STM_JRA_BASE with the value a register write gives it (R306, R316). (DEDUCED: log entry 46.) -/
def State.jraBase (s : State) (v : Word) : State :=
  let b := v &&& 0x07FFF800#32
  if !s.rbit Reg.stmCtl 0 then s.cfgIgn 9
  else (s.setReg Reg.stmJraBase b).arm 13
    { src := BitVec.ofNat 64 (2048 * rowJournal + b.toNat), dst := BitVec.ofNat 64 (2 ^ 41), length := 0x100000#32, pieces := 1,
      dflags := 1, srcStride := 0, dstStride := 0, rate := 0 }

def execJraBaseWrite (alias4 : BitVec 2) (v : Word) (s : State) : Out :=
  onlyIf s.engineUp s (s.jraBase (aliasValue alias4.toNat (s.reg Reg.stmJraBase) v))

/-! ## What a command moves (R293 to R297) -/

/-- `n` bytes of a row of the HBM from address `a` on. (DESIGN CHOICE: log entry 90.) -/
def State.hbmBytes (s : State) (a n : Nat) : List Byte :=
  let row := a / 2048
  if row < rowDir then
    let b := tget [] s.ctx.slots row
    (upto n).map (fun i => b.getD (a % 2048 + i) 0#8)
  else if row < rowImage then
    (upto n).map (fun i =>
      let o := a + i - 2048 * rowDir
      BitVec.ofNat 8 ((tget 0#128 s.ctx.dir (o / 16)).toNat / 256 ^ (o % 16)))
  else if row < rowJournal then Memory.bytes s.img.copy (a - 2048 * rowImage) n
  else if row < rowArea then Memory.bytes s.hbm.journal (a - 2048 * rowJournal) n
  else Memory.bytes s.hbm.area (a - 2048 * rowArea) n

/-- Put bytes into the HBM. The context store and its directory change with their own commands, which the transfers follow.
(DESIGN CHOICE: log entry 90.) -/
def State.hbmPut (s : State) (a : Nat) (bs : List Byte) : State :=
  let row := a / 2048
  if row < rowImage then s
  else if row < rowJournal then { s with img := { s.img with copy := Memory.putBytes s.img.copy (a - 2048 * rowImage) bs } }
  else if row < rowArea then { s with hbm := { s.hbm with journal := Memory.putBytes s.hbm.journal (a - 2048 * rowJournal) bs } }
  else { s with hbm := { s.hbm with area := Memory.putBytes s.hbm.area (a - 2048 * rowArea) bs } }

/-- The tile and the offset of a tile path address: [31:16] the packed address, [15:0] the offset. -/
def pathTile (a : Nat) : TileAddr := BitVec.ofNat 16 (a / 65536)

/-- Bytes `off` to `off + n - 1` of a descriptor as they come out of the HBM, and what they are put into: the tile path; a line of the
read-ahead as they arrive; another client's buffer holds them as OCC counts them. -/
def State.deliver (s : State) (d : Desc) (off : Nat) (bs : List Byte) : State :=
  if d.dstSpace = 1 then
    let t := pathTile (d.dstAt off)
    s.setTile t ((s.tile t).putPath (d.dstAt off % 65536) bs)
  else s

/-- Bytes `off` to `off + n - 1` of a descriptor as they are written into the HBM, from another of its rows or from the tile path. What
comes from a client's buffer stands in the HBM from the client's own command on. (DESIGN CHOICE: log entry 90.) -/
def State.store (s : State) (d : Desc) (off n : Nat) : State :=
  if d.srcSpace = 0 then s.hbmPut (d.dstAt off) (s.hbmBytes (d.srcAt off) n)
  else if d.srcSpace = 1 then
    s.hbmPut (d.dstAt off) ((s.tile (pathTile (d.srcAt off))).pathBytes (d.srcAt off % 65536) n)
  else s

/-! ## Commands and merging (R297, R299) -/

/-- The address of a ready part, while its stream has an active descriptor. -/
def State.readyAt (s : State) (r : Ready) : Nat :=
  match (s.ts r.ts.toNat).active with
  | some d => d.hbmAt r.ts.toNat r.toHbm r.off.toNat
  | none => 0

/-- A part that a stream can have ready for channel `c`: bytes of one piece of its active descriptor, in one row of the channel, that
have not been commanded, in a direction the descriptor moves them; to be copied, they have been read. -/
def State.readyOk (s : State) (c : Nat) (r : Ready) : Bool :=
  let t := r.ts.toNat
  let o := r.off.toNat
  let n := r.bytes.toNat
  let a := s.readyAt r
  match (s.ts t).active with
  | none => false
  | some d =>
    decide (t < 35) && d.crosses r.toHbm && decide (0 < n) && decide (o + n ≤ d.total) &&
    o / d.length.toNat == (o + n - 1) / d.length.toNat &&
    a / 2048 % 64 == c && decide (a / 2048 < rowEnd) && decide (a % 2048 + n ≤ 2048) &&
    (s.ts t).parts.all (fun p => p.toHbm != r.toHbm || decide (p.off + p.len ≤ o) || decide (o + n ≤ p.off)) &&
    (!r.toHbm || !d.crosses false ||
      (s.ts t).parts.any (fun p => !p.toHbm && p.landed && decide (p.off ≤ o) && decide (o + n ≤ p.off + p.len)))

/-- A part joins a command (R299): the same stream, direction and row, the next bytes, or a masked write of the same 64-byte burst, ready
within STM_MERGE_WIN of the first part, where merging is on. -/
def State.joins (s : State) (c : List Ready) (r : Ready) : Bool :=
  match c.head?, c.getLast? with
  | some f, some l =>
    let e := s.readyAt l + l.bytes.toNat
    let a := s.readyAt r
    f.ts == r.ts && f.toHbm == r.toHbm && s.readyAt f / 2048 == a / 2048 &&
    (a == e || (r.toHbm && decide (e ≤ a) && a / 64 == (e - 1) / 64)) &&
    decide (r.age ≤ f.age) && decide (f.age.toNat - r.age.toNat ≤ fld (s.reg Reg.stmMergeWin) 7 0) &&
    s.rbit Reg.stmCtl 1 && (s.ts r.ts.toNat).active.any (fun d => bit d.dflags 0)
  | _, _ => false

/-- Take a part into the first command it joins, or make it one of its own. -/
def State.takePart (s : State) (r : Ready) : List (List Ready) → List (List Ready)
  | [] => [[r]]
  | c :: cs => if s.joins c r then (c ++ [r]) :: cs else c :: s.takePart r cs

/-- The commands that ready parts make, each by its parts. -/
def State.commands (s : State) (rs : List Ready) : List (List Ready) := rs.foldl (fun cs r => s.takePart r cs) []

/-- The bytes of a command, and the 64-byte bursts it takes on the data bus: a burst that is not moved whole is masked (R297). -/
def cmdBytes (c : List Ready) : Nat := (c.map (·.bytes.toNat)).sum
def State.cmdBursts (s : State) (c : List Ready) : Nat :=
  match c.head?, c.getLast? with
  | some f, some l => (s.readyAt l + l.bytes.toNat - 1) / 64 - s.readyAt f / 64 + 1
  | _, _ => 0

/-! ## Arbitration (R300 to R303) -/

/-- The transfer stream of a command. -/
def cmdTs (c : List Ready) : BitVec 6 := match c with | r :: _ => r.ts | [] => 0
def cmdWrites (c : List Ready) : Bool := match c with | r :: _ => r.toHbm | [] => false

/-- A command may issue: its stream has a credit for each 64 bytes, the bytes to write, or the tokens it takes. -/
def State.eligible (s : State) (c : List Ready) : Bool :=
  let t := (cmdTs c).toNat
  let x := s.ts t
  let buf := (Config.bufBytes (cmdTs c)).toNat
  let n := cmdBytes c
  if t = 13 then true
  else if t < 16 then (if cmdWrites c then n ≤ x.occ else (n + 63) / 64 ≤ (buf - (x.occ + x.flying)) / 64)
  else 256 * n ≤ s.tokens t

/-- Slack in engine cycles (R301). (DESIGN CHOICE: log entry 49.) -/
def State.slack (s : State) (c : List Ready) : Nat :=
  let t := (cmdTs c).toNat
  let x := s.ts t
  let rate := match x.active with | some d => d.rate.toNat | none => 0
  if t = 13 then 8192
  else if t = 34 then 0xFFFFFFFF
  else if 16 ≤ t then (s.reg Reg.stmSpSlack).toNat
  else if rate = 0 then 0xFFFFFFFE
  else (if cmdWrites c then (Config.bufBytes (cmdTs c)).toNat - x.occ else x.occ) * 256 / rate

/-- Steps from the pointer to a stream, circularly, from 1 to 64. -/
def after (ptr t : Nat) : Nat := (t + 63 - ptr) % 64 + 1

/-- One command goes before another: the smaller slack, and on a tie the first after the pointer. -/
def State.sooner (s : State) (ptr : Nat) (c b : List Ready) : Bool :=
  decide (s.slack c < s.slack b) || s.slack c == s.slack b && decide (after ptr (cmdTs c).toNat < after ptr (cmdTs b).toNat)

/-- The winner: the first of those that no other goes before. (DESIGN CHOICE: log entry 49.) -/
def State.winner (s : State) (ptr : Nat) (cs : List (List Ready)) : Option (List Ready) :=
  cs.foldl (fun best c => match best with
    | none => some c
    | some b => if s.sooner ptr c b then some c else best) none

/-! ## Slots by their place -/

/-- The stream and list position that hold a stripe. -/
def State.stripeOwner (s : State) (n : Nat) : Option (Nat × Nat) :=
  let c := s.sctx (n / 512)
  if c.stripes.isNone then (if n % 512 < c.quota / 64 ∧ n / 512 < 1024 then some (n / 512, n % 512) else none)
  else s.ctx.streams.findSome? (fun p => match p.2.stripes with
    | some _ => ((upto (p.2.quota / 64)).find? (fun k => p.2.stripe p.1 k == n)).map (fun k => (p.1, k))
    | none => none)

/-- The stream and slot at a granule, and of a directory entry. -/
def State.slotAtGranule (s : State) (g : Nat) : Option (Nat × Nat) :=
  (s.stripeOwner (g / 64)).map (fun p => (p.1, 64 * p.2 + (g + 64 - p.1 % 64) % 64))
def State.slotAtEntry (s : State) (d : Nat) : Option (Nat × Nat) :=
  (s.stripeOwner (d / 64)).map (fun p => (p.1, 64 * p.2 + d % 64))

/-- A slot fails its check, if it is valid. -/
def State.failSlot (s : State) (p : Option (Nat × Nat)) : State :=
  match p with
  | some (st, j) => if s.slotValid st j then s.slotBad st j else s
  | none => s

/-! ## Relocation of a stripe (R144) -/

/-- A slot is lost for want of a free stripe: invalidated, counted, logged and journalled. (DEDUCED: log entry 64.) -/
def State.loseSlot (s : State) (st j : Nat) : State :=
  let q := dirSeq (s.dirAt st j)
  let u := ((s.invalidate st j).count Reg.plcSlotLostCnt 1).logEvent 8 (logArgs [(st, 2), (j, 2), (2, 1)])
  u.journal ⟨4, jBad, st, j, q, []⟩

/-- Move one slot of a stripe to the same place of another. (DEDUCED: log entry 64.) -/
def State.moveSlot (s : State) (st k i from_ dest : Nat) : State :=
  let j := 64 * k + i
  let e := tget 0 s.ctx.dir (64 * from_ + i)
  if !dirValid e then s
  else
    let g0 := 64 * from_ + (j + st) % 64
    let g1 := 64 * dest + (j + st) % 64
    let e' := dirEntry (dirKsum e) (dirSeq e) g1 j st (dirStaked e)
    { s with ctx := { s.ctx with
        dir := tset 0 (tset 0 s.ctx.dir (64 * from_ + i) 0) (64 * dest + i) e'
        slots := tset [] (tset [] s.ctx.slots g1 (tget [] s.ctx.slots g0)) g0 [] } }

/-- Withdraw the stripe of a row that found no spare granule. (DEDUCED: log entry 64.) -/
def State.withdraw (s : State) (row : Nat) : State :=
  let n := row / 64
  match s.stripeOwner n with
  | none => { s with ctx := { s.ctx with free := s.ctx.free.filter (· != n) } }
  | some (st, k) =>
    match s.ctx.free with
    | [] => ((upto 64).filter (fun i => s.slotValid st (64 * k + i))).foldl (fun u i => u.loseSlot st (64 * k + i)) s
    | m :: rest =>
      let u := (upto 64).foldl (fun u i => u.moveSlot st k i n m) s
      let c := u.sctx st
      let l := (c.stripeList st).set k m
      let v := u.setSctx st { c with stripes := some l }
      { v with ctx := { v.ctx with free := rest, near := tmap [] (fun _ l => l.filter (fun g => g / 64 != n)) v.ctx.near } }

/-! ## Retirement (R311, R312) -/

/-- Map a row to a spare; whether one was found. (DEDUCED: log entry 64.) -/
def State.mapRow (s : State) (row : Nat) : State × Bool :=
  let c := row % 64
  let x := s.chan c
  let put := fun (v : Nat) (y : Chan) => { s.setChan c { y with retired := y.retired + 1#32 } with
    hbm := { (s.setChan c { y with retired := y.retired + 1#32 }).hbm with map := tset 0 s.hbm.map row (v + 1) } }
  if row < rowDir then
    if x.granules < 16384 then (put (rowSpareGranules + 64 * x.granules + c) { x with granules := x.granules + 1 }, true)
    else (put row x, false)
  else if x.rows < 2048 then (put (rowSpareRows + 64 * x.rows + c) { x with rows := x.rows + 1 }, true)
  else (s, false)

/-- Retire a row with a cause: 1 uncorrectable, 2 corrected count. (DEDUCED: log entry 30.) -/
def State.retireRow (s : State) (row cause : Nat) : State :=
  if tget 0 s.hbm.map row ≠ 0 then s
  else
    let c := row % 64
    let r := s.mapRow row
    if !r.2 ∧ rowDir ≤ row then
      (s.setBits Reg.hbmStat 0x10#32).logEvent 0xA (logArgs [(c, 1)])
    else
      let u := (r.1.count Reg.hbmRetiredCnt 1).logEvent 9 (logArgs [(c, 1), (row / 64, 4), (cause, 1)])
      let v := u.retire ⟨2, BitVec.ofNat 8 cause, BitVec.ofNat 8 c, BitVec.ofNat 32 (row / 64)⟩
      if r.2 then v else v.withdraw row

/-- Apply the retirements of the flash table before the first access (R312). -/
def State.applyRetired (s : State) : State :=
  (s.flash.retired.filter (fun r => r.type == 2#8)).foldl (fun u r =>
    let row := 64 * r.addr.toNat + r.chan.toNat
    if tget 0 u.hbm.map row ≠ 0 then u else (u.mapRow row).1.count Reg.hbmRetiredCnt 1) s

/-! ## Errors (R310) -/

/-- What the loss of a 32-byte word of a row does to its region; words that could not be corrected become zero. -/
def State.regionLost (s : State) (row word ts : Nat) : State :=
  let reading := 16 ≤ ts && ts < 32
  if row < rowDir then s.failSlot (s.slotAtGranule row)
  else if row < rowImage then
    let d := 128 * (row - rowDir) + 2 * word
    (s.failSlot (s.slotAtEntry d)).failSlot (s.slotAtEntry (d + 1))
  else if row < rowJournal then
    let a := 2048 * (row - rowImage) + 32 * word
    let u := { s with img := { s.img with copy := Memory.clear s.img.copy a (a + 32), copyBad := true } }
    if reading && s.img.st == .loading then u.rejectImage 0xB 0xFFFF
    else if reading && s.img.st == .committed then u.deviceFault 6
    else u.setBits Reg.hbmStat 0x20#32
  else if row < rowArea then
    let a := 2048 * (row - rowJournal) + 32 * word
    let u := { s with hbm := { s.hbm with journal := Memory.clear s.hbm.journal a (a + 32) } }
    if u.journaling then u.jBreak else u
  else if rowScan ≤ row ∧ row < rowControl then
    (if reading || ts = 32 then (if s.remapping then s.deviceFault 6 else s) else s)
  else if rowControl ≤ row ∧ row < rowStaging then s.clearStream ((row - rowControl) / 48)
  else s

/-- A corrected error: counted per channel and in the row error table; the threshold retires the row (R311). -/
def State.corrected (s : State) (row : Nat) : State :=
  let c := row % 64
  let x := s.chan c
  let n := match x.errs.find? (fun e => e.1 == row) with | some e => e.2 + 1 | none => 1
  let rest := x.errs.filter (fun e => e.1 != row)
  let least := rest.foldl (fun m e => min m e.2) (2 ^ 32)
  let room := match rest.find? (fun e => e.2 == least) with
    | some e => if 256 ≤ rest.length then rest.erase e else rest
    | none => rest
  let u := (s.setChan c { x with ce := x.ce + 1#32, errs := room ++ [(row, n)] }).count Reg.hbmCeCnt 1
  if fld (s.reg Reg.hbmRetireCe) 7 0 ≤ n then u.retireRow row 2 else u

/-- An uncorrectable error in a word of a row, read by a transfer stream. -/
def State.uncorrected (s : State) (row word ts : Nat) : State :=
  let c := row % 64
  let x := s.chan c
  let u := (((s.setChan c { x with ue := x.ue + 1#32 }).count Reg.hbmUeCnt 1).setBits Reg.hbmStat 8#32).alert 3
  (u.regionLost row word ts).retireRow row 1

/-- What the check of a row's words finds. (DEDUCED: log entry 30.) -/
def State.hbmEcc (s : State) (row word ts : Nat) (e : Ecc) : State :=
  match e with
  | .ok => s
  | .corrected => s.corrected row
  | .uncorrectable => s.uncorrected row word ts

/-! ## HBM_COMMAND -/

/-- What the clients of the ready streams moved since the last command. (DESIGN CHOICE: log entry 61.) -/
def State.clientMoves (s : State) (rs : List Ready) : State :=
  rs.foldl (fun u r =>
    let t := r.ts.toNat
    let x := u.ts t
    if 16 ≤ t ∨ r.moved = 0 then u
    else u.setOcc t (if r.toHbm then min (x.occ + r.moved.toNat) (Config.bufBytes r.ts).toNat else x.occ - r.moved.toNat)) s

/-- One part of the winner is moved; its data end at engine cycle `e`, and the 32-byte word at `bad` could not be corrected. -/
def State.movePart (s : State) (r : Ready) (e : Nat) (bad : Option Nat) : State :=
  let t := r.ts.toNat
  let x := s.ts t
  let n := r.bytes.toNat
  let a := s.readyAt r
  match x.active with
  | none => s
  | some d =>
    let bs := if r.toHbm then [] else ((upto n).zip (s.hbmBytes a n)).map (fun p => if bad = some ((a + p.1) / 32) then 0#8 else p.2)
    let held := if d.dstSpace = 2 ∧ t = 13 then bs else []
    let u := s.setTs t { x with
      parts := x.parts ++ [⟨r.toHbm, r.off.toNat, n, e, false, held⟩], moved := x.moved + BitVec.ofNat 64 n }
    if r.toHbm then u.store d r.off.toNat n else u.deliver d r.off.toNat bs

/-- What a winning command takes from its stream at issue: bytes waiting to be written, or tokens; a read takes its credits by being on its
way. -/
def State.charge (s : State) (c : List Ready) : State :=
  let t := (cmdTs c).toNat
  if t < 16 then (if cmdWrites c then s.setOcc t ((s.ts t).occ - cmdBytes c) else s)
  else s.setTs t { s.ts t with tokens := s.tokens t - 256 * cmdBytes c, tokensAt := s.gained t }

/-- The winning command runs to its end on channel `ch`; `e` is what the check of its first word finds. -/
def State.runCommand (s : State) (ch : Nat) (c : List Ready) (e : Ecc) : State :=
  let a := match c with | r :: _ => s.readyAt r | [] => 0
  let cyc := (3 * s.cmdBursts c + 1) / 2
  let bad := if e = .uncorrectable then some (a / 32) else none
  let u := c.foldl (fun u r => u.movePart r (s.engineCycle + cyc) bad) (s.charge c)
  let x := u.chan ch
  let w := (u.setChan ch { x with
    moved := x.moved + BitVec.ofNat 64 (cmdBytes c), busyNow := x.busyNow + BitVec.ofNat 32 cyc
    freeAt := s.engineCycle + cyc, ptr := cmdTs c }).count Reg.stmMergedCnt (c.length - 1)
  w.hbmEcc (a / 2048) (a % 2048 / 32) (cmdTs c).toNat (if cmdWrites c then .ok else e)

/-- HBM_COMMAND: a channel, as soon as it is free to accept a command, arbitrates among what is ready; `ecc` is what the check of
the first word of the winner's data finds. -/
def execHbmCommand (ch : BitVec 6) (ready : List Ready) (ecc : Ecc) (s0 : State) : Out :=
  let c := ch.toNat
  let s := (s0.until (cycleStep (s0.chan c).freeAt)).openWindows.landed
  let u := s.clientMoves (ready.filter (s.readyOk c))
  let cs := (u.commands (ready.filter (u.readyOk c))).filter u.eligible
  let t := match u.winner (u.chan c).ptr.toNat cs with
    | some w => u.runCommand c w ecc
    | none => u
  onlyIf (s0.chanUp c && s0.rbit Reg.stmCtl 0) s0 t

/-! ## Scrub, refresh, recalibration (R313 to R315) -/

/-- The scrubber reads the next row; `word` is the word an error lies in. -/
def execHbmScrubRow (word : BitVec 6) (ecc : Ecc) (s : State) : Out :=
  let row := (s.reg Reg.hbmScrubPos).toNat
  let skip := tget 0 s.hbm.map row ≠ 0
  let s1 := if row = 0 then { s with hbm := { s.hbm with chans := tmap Chan.zero (fun _ x => { x with errs := [] }) s.hbm.chans } } else s
  let u := if skip then s1 else s1.hbmEcc row word.toNat 34 ecc
  let v := if row + 1 < rowEnd then u.setReg Reg.hbmScrubPos (BitVec.ofNat 32 (row + 1))
    else (u.setReg Reg.hbmScrubPos 0).count Reg.hbmScrubPass 1
  onlyIf (s.chanUp (row % 64) && s.rbit Reg.hbmCtl 1 && s.rbit Reg.stmCtl 0) s v

/-- Refresh is issued; `hot` names the stacks above 85 degrees. -/
def execHbmRefresh (hot : BitVec 4) (s : State) : Out :=
  onlyIf (s.engineUp && s.rbit Reg.hbmCtl 0) s (s.putBit Reg.hbmStat 2 (hot != 0))

/-- Recalibrate a channel: it is blocked for 2,700 engine cycles. -/
def State.recalibrate (s : State) (c : Nat) : State :=
  s.setChan c { s.chan c with recalAt := s.clock.now, freeAt := s.engineCycle + 2700 }

/-- A due recalibration starts after 360 idle cycles. -/
def execPhyRecalibration (ch : BitVec 6) (s : State) : Out :=
  let x := s.chan ch.toNat
  onlyIf (s.chanUp ch.toNat) s
    (((s.until (x.recalAt + msSteps 1000)).until (cycleStep (x.freeAt + 360))).recalibrate ch.toNat)

/-- No idle window for 1,100 ms: a recalibration is forced and counted. -/
def execForcedRecalibration (ch : BitVec 6) (s : State) : Out :=
  let x := s.chan ch.toNat
  onlyIf (s.chanUp ch.toNat) s
    (((s.until (x.recalAt + msSteps 1100)).recalibrate ch.toNat).count Reg.hbmRecalForcedCnt 1)

end Sys2Proof.Machine
end

