-- ==== Sys2Proof/Machine/Convert.lean ====
section
/-! DEFINITION. The conversion unit: CVT SCAN, SEAL, ENCODE, DECODE, XSL, WSL and CARRY (R203 to R207, R210 to R215). -/

namespace Sys2Proof.Machine

/-- Group states and sealed scales of a side. -/
def Tile.groups (x : Tile) (side : Bool) : Tbl GState := if side then x.ig else x.og
def Tile.setGroups (x : Tile) (side : Bool) (g : Tbl GState) : Tile := if side then { x with ig := g } else { x with og := g }
def Tile.sealed (x : Tile) (side : Bool) : Tbl Scale := if side then x.isc else x.osc
def Tile.setSealed (x : Tile) (side : Bool) (g : Tbl Scale) : Tile := if side then { x with isc := g } else { x with osc := g }

/-- SCAN: lane c into state c, or every lane into state K (R212). -/
def execScan (t : TileAddr) (h : Hdr) (c : CvtOps) (s : State) : Out :=
  s.tileCycle (.scan t h c) t h (needOf h) (fun u slot w =>
    let x := u.tile t
    let hd := u.hdrAt t slot
    let v := qinData w (x.vreg c.vs.toNat)
    let g := (upto 8).foldl (fun m i =>
      let k := if c.row then c.k.toNat else i
      tset GState.zero m k ((tget GState.zero m k).scan hd c.side (lane32 v i))) (x.groups c.side)
    (u.setTile t (x.setGroups c.side g), .on))

/-- Replace a byte of a burst, and an FP32 lane. -/
def putByte (v : Burst) (i : Nat) (b : Byte) : Burst := putElem 0 v i b.toNat
def putLane (v : Burst) (i : Nat) (w : Word) : Burst :=
  (v &&& ~~~(BitVec.ofNat 256 (0xFFFFFFFF * 2 ^ (32 * i)))) ||| BitVec.ofNat 256 (w.toNat * 2 ^ (32 * i))

/-- SEAL one state of a tile into the code and constant bursts being built. (DEDUCED: log entry 24.) -/
def sealOne (hd : NumHdr) (side guardEn : Bool) (limit : Word) (r : Tile × Burst × Burst) (k : Nat) : Tile × Burst × Burst :=
  let x := r.1
  let g := tget GState.zero (x.groups side) k
  let p := g.seal hd side guardEn limit
  let y := (x.setSealed side (tset Scale.zero (x.sealed side) k p.1)).setGroups side (tset GState.zero (x.groups side) k GState.zero)
  let z := if p.1.counted then { y with
      converted := y.converted + BitVec.ofNat 64 g.count
      sat := satAdd y.sat p.2.2.1, ufl := satAdd y.ufl p.2.2.2, trip := satAdd y.trip (b2n p.2.1) } else y
  (z, putByte r.2.1 k p.1.code, putLane r.2.2 k (if p.1.konst then p.1.c else 0#32))

/-- While NUM_CTL.EN is 0 a tile's statistics stand still (R219). -/
def Tile.withStats (x old : Tile) (on : Bool) : Tile :=
  if on then x
  else { x with converted := old.converted, sat := old.sat, ufl := old.ufl, sqerr := old.sqerr, trip := old.trip }

/-- SEAL (R212): with ROW 0 every state, VD and VD + 1 written whole; with ROW 1 the state, byte and lane K. -/
def execSeal (t : TileAddr) (h : Hdr) (c : CvtOps) (s : State) : Out :=
  s.tileCycle (.seal t h c) t h (needOf h) (fun u slot w =>
    let x := u.tile t
    let hd := u.hdrAt t slot
    let vd := c.vd.toNat
    let ks := if c.row then [c.k.toNat] else upto 8
    let start := if c.row then (x, x.vreg vd, x.vreg (vd + 1)) else (x, 0#256, 0#256)
    let r := ks.foldl (sealOne hd c.side (u.rbit Reg.numCtl 1) (u.reg Reg.numGuardLim)) start
    ((u.setTile t (((r.1.withStats x (u.blockEn 5)).setV vd r.2.1).setV (vd + 1) r.2.2)).sendOut t h slot (resultKind h w) r.2.1, .on))

/-- Encode lane `i` with sealed scale `k` into element `pos` of register `vd`, with the counts of R215. -/
def encodeOne (hd : NumHdr) (side : Bool) (v : Burst) (x : Tile) (i k vd pos : Nat) : Tile :=
  let sc := tget Scale.zero (x.sealed side) k
  let w := lane32 v i
  let e := encodeElem hd side sc w
  let y := (x.setSealed side (tset Scale.zero (x.sealed side) k { sc with idx := sc.idx + 1 })).setV vd
    (putElem (hd.fmt side) (x.vreg vd) pos e.1)
  if side then y
  else
    let z := { y with sqerr := addSq y.sqerr (f32 w) e.2.2.2 }
    if sc.counted then z
    else { z with converted := z.converted + 1#64, sat := satAdd z.sat (b2n e.2.1), ufl := satAdd z.ufl (b2n e.2.2.1) }

/-- ENCODE (R212). -/
def execEncode (t : TileAddr) (h : Hdr) (c : CvtOps) (s : State) : Out :=
  s.tileCycle (.encode t h c) t h (needOf h) (fun u slot w =>
    let x := u.tile t
    let hd := u.hdrAt t slot
    let v := qinData w (x.vreg c.vs.toNat)
    let y := (upto 8).foldl (fun y i =>
      if c.row then encodeOne hd c.side v y i c.k.toNat c.vd.toNat (c.pos.toNat + i)
      else encodeOne hd c.side v y i i (8 + i) c.pos.toNat) x
    let z := u.setTile t (y.withStats x (u.blockEn 5))
    (if c.row then z.sendOut t h slot (resultKind h w) (y.vreg c.vd.toNat) else z, .on))

/-- DECODE (R199, R200, R212): the scale code stands in S(SREG), a constant in S(SREG + 1). -/
def execDecode (t : TileAddr) (h : Hdr) (c : CvtOps) (s : State) : Out :=
  if 5 ≤ c.fmt.toNat then .fault (.reserved 212)
  else s.tileCycle (.decode t h c) t h (needOf h) (fun u slot w =>
    let x := u.tile t
    let hd := u.hdrAt t slot
    let fmt := c.fmt.toNat
    let v := qinData w (x.vreg c.vs.toNat)
    let sc := loadScale c.sf (BitVec.ofNat 8 (x.sreg c.sreg.toNat).toNat) (x.sreg (c.sreg.toNat + 1))
    let el := fun (i : Nat) => elemVal fmt (elemAt fmt v (c.pos.toNat + i))
    let q := fun (i : Nat) => Q.mul ⟨(el i).1, 65536⟩ (scaleVal sc hd.fine)
    let r := ofLanes (fun i => if sc.konst then sc.c else toF32 (q i) false)
    let bad := if sc.konst then 0 else ((upto 8).filter (fun i => (el i).2)).length
    let ovf := if sc.konst then 0 else ((upto 8).filter (fun i => overflows (q i))).length
    ((((u.setTile t (x.setV c.vd.toNat r)).countOvf t ovf).countNonfin bad).sendOut t h slot (resultKind h w) r, .on))

/-- Eight scales from code bytes and constants (R210). -/
def loadScales (sf : Bool) (codes consts : Burst) : Tbl Scale :=
  tfill Scale.zero 8 (fun k => loadScale sf (byteOf codes k) (lane32 consts k)) []

/-- XSL (R210, R212). -/
def execXsl (t : TileAddr) (h : Hdr) (c : CvtOps) (s : State) : Out :=
  s.tileCycle (.xsl t h c) t h (needOf h) (fun u slot w =>
    let x := u.tile t
    (u.setTile t { x with xsc := loadScales ((u.hdrAt t slot).sf true) (qinData w (x.vreg c.vs.toNat)) (x.vreg (c.vs.toNat + 1)) }, .on))

/-- WSL (R210, R212). -/
def execWsl (t : TileAddr) (h : Hdr) (c : CvtOps) (s : State) : Out :=
  s.tileCycle (.wsl t h c) t h (needOf h) (fun u slot w =>
    let x := u.tile t
    (u.setTile t { x with wsc := loadScales ((u.hdrAt t slot).sf true) (qinData w (x.vreg c.vs.toNat)) (x.vreg (c.vs.toNat + 1)) }, .on))

/-- CARRY: carried codes into the output-side states (R212). -/
def execCarry (t : TileAddr) (h : Hdr) (c : CvtOps) (s : State) : Out :=
  s.tileCycle (.carry t h c) t h (needOf h) (fun u _ w =>
    let x := u.tile t
    let lo := (qinData w (BitVec.ofNat 256 (x.sreg c.sreg.toNat).toNat)).toNat % 2 ^ 32
    let n := lo + 2 ^ 32 * (x.sreg (c.sreg.toNat + 1)).toNat
    let put := fun (m : Tbl GState) (k b : Nat) =>
      tset GState.zero m k { tget GState.zero m k with carried := BitVec.ofNat 8 b }
    let g := if c.row then put x.og c.k.toNat lo else (upto 8).foldl (fun m k => put m k (n / 2 ^ (8 * k))) x.og
    (u.setTile t { x with og := g }, .on))

end Sys2Proof.Machine
end

