-- ==== Sys2Proof/Machine/Capture.lean ====
section
/-! DEFINITION. Capture (R486 to R489) and the writing of the logs and the retirement table to flash (R483). -/

namespace Sys2Proof.Machine

/-- CAP_STATE: 0 IDLE, 1 ARMED, 2 SCANNING, 3 CAPTURED, 4 RELEASING, 5 DONE. -/
def State.capState (s : State) : Nat := fld (s.reg Reg.telStat) 2 0
def State.setCapState (s : State) (n : Nat) : State := s.putFld Reg.telStat 2 0 n

/-- Replace the capture. -/
def State.setCap (s : State) (c : Capture) : State := { s with tel := { s.tel with cap := c } }

/-- SECTORS, MODE and TRIG of TEL_CAP_CTL. -/
def State.capSectors (s : State) : Nat := fld (s.reg Reg.telCapCtl) 15 8
def State.capMode (s : State) : Nat := fld (s.reg Reg.telCapCtl) 5 4
def State.capTrig (s : State) : Nat := fld (s.reg Reg.telCapCtl) 3 1

/-- An ARM is accepted (R486). -/
def State.armOk (s : State) : Bool :=
  (s.capState == 0 || s.capState == 5) && s.capSectors != 0 && decide (s.capTrig ≤ 3) &&
  (s.capMode != 1 || ((upto 8).filter (fun i => s.capSectors / 2 ^ i % 2 == 1)).length == 1)

/-- ARM: accepted, with the set-up as it stands, or refused. -/
def State.captureArm (s : State) : State :=
  if s.armOk then
    let c := { s.tel.cap with
      prev := BitVec.ofNat 3 s.capState
      sectors := BitVec.ofNat 8 s.capSectors, mode := BitVec.ofNat 2 s.capMode, trig := BitVec.ofNat 3 s.capTrig
      matchTime := (s.reg Reg.telCapMatchHi) ++ (s.reg Reg.telCapMatchLo)
      event := BitVec.ofNat 16 (fld (s.reg Reg.telCapEvent) 15 0)
      seen := false, heldTrigger := false }
    ((s.setCap c).setCapState 1).leaveLow 151
  else s.setBits Reg.telStat 0x100#32

/-- DISARM, in ARMED only. -/
def State.captureDisarm (s : State) : State := if s.capState = 1 then s.setCapState s.tel.cap.prev.toNat else s

/-- The trigger condition holds; that of TRIG 1 is a time. -/
def State.triggerMet (s : State) : Bool :=
  match s.tel.cap.trig.toNat with
  | 0 => true
  | 1 => decide (s.tel.cap.matchTime.toNat ≤ s.devTime.toNat)
  | _ => s.tel.cap.seen

/-- The step at which device time reaches the match of TRIG 1; no time for another trigger. -/
def State.triggerAt (s : State) : Nat :=
  if s.tel.cap.trig = 1#3 then s.clock.base + (s.tel.cap.matchTime.toNat + 9) / 10 else 0

/-- The chosen sectors stop, and the scan copies their tiles (R487). -/
def State.captureStop (s : State) : State :=
  let c := s.tel.cap
  let d := { c with
    at_ := s.devTime
    tiles := s.fab.tiles.filter (fun p => bit c.sectors (p.1 / 2048))
    gated := (upto 128).filter (fun b => (s.dom b).st == 2)
    digest := s.plc.pitchShown
    valid := false, dSectors := c.sectors, dMode := c.mode, dTrig := c.trig, heldTrigger := false }
  let u := ({ s with clk := { s.clk with capture := c.sectors } }.setCap d).setCapState 2
  u.logEvent 0x14 (logArgs [(c.trig.toNat, 1), (c.sectors.toNat, 1), (c.mode.toNat, 1)])

/-- The trigger fires; after step 2 of a re-placement it is held (R489). -/
def State.captureTrigger (s : State) : State :=
  if s.remapping ∧ 2 ≤ fld (s.reg Reg.plcStat) 3 0 then s.setCap { s.tel.cap with heldTrigger := true }
  else s.captureStop

/-- A held trigger fires once the re-placement is over. -/
def State.heldTrigger (s : State) : State :=
  if s.tel.cap.heldTrigger && !s.remapping && s.capState == 1 then s.captureStop else s

/-! ## Release (R416, R488) -/

/-- A tile of a released sector: its registers are reset. Queue contents and the marks that the affected run is found by
stay until the re-placement edits them. (DEDUCED: log entry 56.) -/
def Tile.captureReset (x : Tile) : Tile :=
  { Tile.zero with queues := x.queues, sent := x.sent, taken := x.taken, slots := x.slots, active := x.active, counts := x.counts,
                   heldCounts := x.heldCounts }

/-- The stages with a tile in a captured sector. (DEDUCED: log entry 56.) -/
def State.capturedStages (s : State) (sectors : Byte) : List Nat :=
  (upto s.plc.pitch.length).filter (fun i => (s.plc.pitch.getD i []).any (fun t => bit sectors (sectorOf t)))

/-- RELEASE, in CAPTURED only and not after a device fault: the clocks start, held lifts are taken up, and with an image
in force a re-placement follows. (DEDUCED: log entry 56.) -/
def State.captureRelease (s : State) : State :=
  if s.capState ≠ 3 ∨ s.faulted then s
  else
    let secs := s.clk.capture
    let inForce := s.img.st == .committed || s.img.st == .releasing
    let u := { s with
      clk := { s.clk with capture := 0, lifts := [] }
      fab := { s.fab with
        tiles := tmap Tile.zero (fun k x =>
          if bit secs (k / 2048) then (if inForce then x.captureReset else Tile.zero) else x) s.fab.tiles } }
    let v := u.loseCrossings (fun t => bit secs (sectorOf t)) (fun _ => false)
    let w := s.clk.lifts.foldl (fun w d => w.leaveLow d.toNat) v
    if inForce then
      let b := (w.beginRemap w.clock.now).setCapState 4
      { b with plc := { b.plc with
          capture := true
          affected := (b.plc.affected ++ w.capturedStages secs).eraseDups } }
    else w.setCapState 5

/-! ## Commands -/

def execCaptureArm (s : State) : Out := onlyIf s.engineUp s s.captureArm
def execCaptureDisarm (s : State) : Out := onlyIf s.engineUp s s.captureDisarm

def execCaptureTrigger (s : State) : Out :=
  let t := s.until s.triggerAt
  onlyIf (s.engineUp && s.capState == 1 && t.triggerMet) s t.captureTrigger

def execCaptureScanEnd (s : State) : Out :=
  onlyIf (s.engineUp && s.capState == 2) s ((s.setCap { s.tel.cap with valid := true }).setCapState 3)

def execCaptureRelease (s : State) : Out := onlyIf s.engineUp s s.captureRelease

/-! ## Flash log (R481, R483) -/

/-- The bucket as it stands: it gains one entry a second, up to 16. (DEDUCED: log entry 68.) -/
def State.bucketNow (s : State) : Nat := min 16 (s.tel.bucket + (s.clock.now - s.tel.bucketAt) / msSteps 1000)

/-- Append an entry to the flash log; a new sector of 256 entries erases the oldest of the 40. -/
def Flash.append (f : Flash) (e : LogEntry) : Flash :=
  { f with log := (if f.log.length < 10240 then f.log else f.log.drop 256) ++ [e], logged := f.logged + 1 }

/-- The highest erase count of the flash-log sectors. -/
def Flash.logErases (f : Flash) : Nat := ((f.logged + 255) / 256 - 40 + 39) / 40

/-- Write the oldest waiting entry: CLASS 0 under the bucket, START always. (DEDUCED: log entry 68.) -/
def State.writeLogEntry (s : State) (e : LogEntry) (rest : List LogEntry) : State :=
  let b := s.bucketNow
  let free := e.cls != 0#8
  let at_ := s.tel.bucketAt + (s.clock.now - s.tel.bucketAt) / msSteps 1000 * msSteps 1000
  let u := { s with tel := { s.tel with toFlash := rest, bucket := if free then b else b - 1, bucketAt := at_ } }
  if free || e.kind == 1#16 || b != 0 then { u with flash := u.flash.append e }
  else (u.count Reg.telLogHeldCnt 1).setBits Reg.telStat 0x200#32

/-- FLASH_LOG_WRITE: the oldest waiting retirement, else the oldest waiting entry. (DEDUCED: log entry 68.) -/
def execFlashLogWrite (s : State) : Out :=
  .next (
    if !s.up then s
    else match s.tel.toRetire with
      | r :: rs => { s with flash := { s.flash with retired := s.flash.retired ++ [r] }, tel := { s.tel with toRetire := rs } }
      | [] => match s.tel.toFlash with
        | e :: es => s.writeLogEntry e es
        | [] => s)

end Sys2Proof.Machine
end

