-- ==== Sys2Proof/Machine/Lifecycle.lean ====
section
/-! DEFINITION. The life of an image (R37 to R46, R119 to R126, R257, R436, R523): the four image commands, the ends of
verification, placing, loading and release, and the commands held during a re-placement (R138). -/

namespace Sys2Proof.Machine

/-- An image command is ignored and counted (R38). -/
def State.ignoreImageCmd (s : State) : State := s.count Reg.admCmdIgnCnt 1

/-! ## VERIFY (R40, R41, R448) -/

/-- VERIFY is accepted: the result clears, the digest in force is taken, and the signature engine starts. -/
def State.beginVerify (s : State) : State :=
  let u := { s with img := { s.img with st := .verifying, result := 0, verifyDigest := s.dict.digest } }
  (u.setBits Reg.secStat 0x1#32).leaveLow 150

/-- The image is rejected in VERIFYING: the reason stays readable, the copy is left as it is. (DEDUCED: log entry 14.) -/
def State.failVerify (s : State) (code : Nat) : State :=
  ((s.count Reg.secVerifyFailCnt 1).setBits Reg.secStat 0x8#32).rejectImage code 0xFFFF

/-! ## COMMIT (R42, R121, R523) -/

/-- COMMIT is accepted: the placement engine starts, FRAME_RATE is taken (R34), and every tile block begins to leave its
low state. (DEDUCED: log entry 10.) (DEDUCED: log entry 13.) -/
def State.beginCommit (s : State) : State :=
  let u := { s.holdAll with
    img := { s.img with st := .placing, restarts := 0, rate := (s.reg Reg.admRate).toNat } }
  let v := { u with plc := { u.plc with pitch := [], cover := [], whole := false, dropped := [] } }
  (v.setBits Reg.plcCtl 0x1#32).autoPower

/-- Every tile block is on during PLACING and LOADING (R523): what is left of the exits has ended by then.
(DEDUCED: log entry 12.) -/
def State.finishExit (s : State) (d : Nat) : State :=
  let x := s.dom d
  if x.st = 0 then s
  else (s.setDom d { x with st := 0, lastExit := BitVec.ofNat 32 ((s.clock.now - x.at_) / 100) }).count Reg.pwrTransCnt 1

/-- The tile blocks that a map uses are on. (DEDUCED: log entry 12.) -/
def State.usedOn (s : State) : State :=
  (upto 128).foldl (fun u b => if u.blockUsed b then u.finishExit b else u) s

/-- A pitch map is accepted and LOADING begins (R119, R229). (DEDUCED: log entry 12.) -/
def State.acceptMap (s : State) (pitch : List (List TileAddr)) : State :=
  let v := { s with
    img := { s.img with st := .loading }
    plc := { s.plc with
      pitch := pitch, cover := coverAll s.retiredTiles
      pitchDigest := s.mapDigest pitch, pitchShown := s.mapDigest pitch } }
  v.applyQuotas

/-- The checks of PLACING, in the order of R123: the reason and the stage at fault, or the positions of the map. -/
def State.placeChecks (s : State) : (Nat × Nat) ⊕ List (List TileAddr) :=
  let c := s.img.copy
  match checks3to7 c s.img.rate s.img.digest with
  | some r => .inl r
  | none =>
    match layout c s.retiredTiles with
    | none => .inl (8, 0xFFFF)
    | some p =>
      match s.mapReject p with
      | some r => .inl r
      | none => .inr p

/-! ## LOADING (R42, R98, R156, R221, R257, R291) -/

/-- The store at a commit: kept where the image has no TEMPORAL_ATTENTION stage or the same CONTEXT_ID, else cleared.
(DEDUCED: log entry 26.) -/
def State.commitStore (s : State) : State :=
  let c := s.img.copy
  match stageOf c 0x10 with
  | none => s.setBits Reg.ctxStat 0x1#32
  | some st =>
    let id := BitVec.ofNat 32 (pay c (stgParams c st false + 0x18) 4)
    if id = s.reg Reg.ctxContextId then s.setBits Reg.ctxStat 0x1#32
    else (s.clearStore.clrBits Reg.ctxStat 0x1#32).setReg Reg.ctxContextId id

/-- The numeric headers and thresholds of the image, and no override of post-processing. -/
def State.commitNumerics (s : State) : State :=
  let c := s.img.copy
  let n := imgStages c
  { s with
    num := { s.num with
      hdrs := tfill NumHdr.zero n (numHdr c) []
      stats := tfill StageStat.zero n (fun i =>
        { tget StageStat.zero s.num.stats i with satThresh := hdrSat c i, uflThresh := hdrUfl c i }) [] }
    ppu := { s.ppu with overrides := [0, 0, 0, 0, 0], cands := [], rows := [], cropOwed := [] } }

/-- The blocks that the Y6 enables at commit. -/
def State.enableBlocks (s : State) : State :=
  let u := [Reg.admCtl, Reg.fabCtl, Reg.numCtl, Reg.ctxCtl, Reg.ppuCtl].foldl (fun u a => u.setBits a 0x1#32) s
  if (stageOf s.img.copy 0x21).isSome then u.setBits Reg.cruCtl 0x1#32 else u

/-- The last tile is loaded: the image is COMMITTED, wholly unused blocks are gated (R523), admission is enabled. -/
def State.commitDone (s : State) : State :=
  let u := ((s.usedOn.commitStore).commitNumerics).loadAll false
  let v := ((u.clrBits Reg.fabStat 0x40#32).clrBits Reg.hbmStat 0x20#32).enableBlocks
  let w := { v with
    img := { v.img with st := .committed, copyBad := false }
    adm := { v.adm with lastVariant := false } }
  w.autoPower

/-! ## RELEASE (R45, R121) -/

/-- RELEASE is accepted. -/
def State.beginRelease (s : State) : State :=
  let u := { (s.clrBits Reg.admCtl 0x1#32).clrBits Reg.plcCtl 0x1#32 with img := { s.img with st := .releasing } }
  if fld (s.reg Reg.admCtl) 2 1 = 1 then (u.endOutside (fun _ => true) .flush).flushAll else u

/-- The pipeline is empty: every record is written and no request of a frame waits (log entry 33). -/
def State.pipelineEmpty (s : State) : Bool := s.adm.frames.isEmpty && !s.ctx.reqs.any (·.complete)

/-- IMAGE_STATE leaves RELEASING: tiles held, bank 0, no map in force, uncommitted slot data discarded.
(DEDUCED: log entry 13.) -/
def State.releaseDone (s : State) : State :=
  let u := s.keepAllStats.holdAll.clearMap
  let v := [Reg.numCtl, Reg.ctxCtl, Reg.ppuCtl, Reg.cruCtl].foldl (fun u a => u.clrBits a 0x1#32) (u.clrBits Reg.fabStat 0x40#32)
  let streams := tmap StreamAdm.zero (fun _ (x : StreamAdm) => { x with slot0 := Slot.empty, slot1 := Slot.empty }) v.adm.streams
  let w := { v with
    img := { v.img with st := .verified }
    adm := { v.adm with streams := streams, lastVariant := false }
    ctx := { v.ctx with reqs := [], owed := [] } }
  w.autoPower

/-! ## Commands (R38, R138, R456) -/

/-- Carry out an IMAGE_COMMAND: 1 VERIFY, 2 COMMIT, 3 RELEASE, 4 DISCARD. It is held during a re-placement, and ignored
and counted in a state that is not its origin and after a device fault. -/
def State.imageCommand (s : State) (n : Nat) : State :=
  if s.faulted then s.ignoreImageCmd
  else if s.remapping then { s with img := { s.img with held := s.img.held ++ [BitVec.ofNat 8 n] } }
  else
    match n, s.img.st with
    | 1, .writing => s.beginVerify
    | 2, .verified => s.beginCommit
    | 3, .committed => s.beginRelease
    | 4, .writing => { s with img := { s.img with st := .empty } }
    | 4, .verified => { s with img := { s.img with st := .empty } }
    | 4, .rejected => { s with img := { s.img with st := .empty } }
    | _, _ => s.ignoreImageCmd

def execVerify (s : State) : Out := onlyIf s.engineUp s (s.imageCommand 1)
def execCommit (s : State) : Out := onlyIf s.engineUp s (s.imageCommand 2)
def execRelease (s : State) : Out := onlyIf s.engineUp s (s.imageCommand 3)
def execDiscard (s : State) : Out := onlyIf s.engineUp s (s.imageCommand 4)

/-- VERIFICATION_END: the checks of R40, then VERIFIED or REJECTED; after a soft reset COMMIT follows (R436).
(DEDUCED: log entry 14.) -/
def execVerificationEnd (s : State) : Out :=
  let r := verifyReason s
  let u := (s.putBit Reg.secStat 0 s.sec.fwVerify).count Reg.secVerifyCnt 1
  let v := { u with
    pwr := { u.pwr with sigIdleAt := u.clock.now }
    img := { u.img with autoCommit := false } }
  let ok := { v with img := { v.img with
    st := .verified, digest := envDigest v.img.copy, keySlot := BitVec.ofNat 8 (envKeySlot v.img.copy) } }
  onlyIf (s.engineUp && s.img.st == .verifying) s
    (if r ≠ 0 then v.failVerify r else if s.img.autoCommit then ok.imageCommand 2 else ok)

/-- PLACING_END: the commit checks and the new map (R122, R123). -/
def execPlacingEnd (s : State) : Out :=
  onlyIf (s.engineUp && s.img.st == .placing) s
    (match s.placeChecks with
     | .inl r => (s.rejectImage r.1 r.2).autoPower
     | .inr p => s.acceptMap p)

/-- Carry out what was held once no re-placement runs any more (R138). -/
def State.takeHeld (s : State) : State :=
  if s.remapping || s.faulted then s
  else s.img.held.foldl (fun u n => u.imageCommand n.toNat) { s with img := { s.img with held := [] } }

/-- The end of the LOADING that follows the exhaustion of a block's spares (R131): the other bank is in force. -/
def State.placedAgain (s : State) : State :=
  let bank := !s.bank
  let u := { s.usedOn with plc := { s.plc with
    pitchDigest := s.mapDigest s.plc.pitch, pitchShown := s.mapDigest s.plc.pitch } }
  let v := (u.loadAll bank).putBit Reg.fabStat 6 bank
  let w := { v with
    adm := { v.adm with lastVariant := false }
    ctx := { v.ctx with reqs := v.ctx.reqs.filter (·.complete), owed := [] } }
  let x := if w.plc.inBivouac then w else w.setBits Reg.fabCtl 0x1#32
  let y := if x.plc.capture then x.putFld Reg.telStat 2 0 5 else x
  (y.remapTimes.remapOver).takeHeld.heldTrigger.autoPower

/-- LOADING_END. `ue`: a read of the image copy was uncorrectable (R310): the commit is rejected, or, where a committed
image is placed again, the device has failed. (DEDUCED: log entry 12.) -/
def execLoadingEnd (ue : Bool) (s : State) : Out :=
  let bad := ue || s.img.copyBad
  if s.img.st = .loading then
    onlyIf s.engineUp s (if bad then (s.rejectImage 11 0xFFFF).autoPower else s.commitDone)
  else
    onlyIf (s.engineUp && s.plc.whole && s.remapping && !s.faulted) s (if bad then s.deviceFault 6 else s.placedAgain)

/-- RELEASE_END: the pipeline is empty. -/
def execReleaseEnd (s : State) : Out :=
  onlyIf (s.engineUp && s.img.st == .releasing && s.pipelineEmpty && !s.remapping) s s.releaseDone

/-- REMAP_SCAN_IN_DONE (R135 steps 7 and 8). An unreadable save area is a device fault (R310). -/
def execRemapScanInDone (ue : Bool) (s : State) : Out :=
  onlyIf (s.engineUp && s.remapping && fld (s.reg Reg.plcStat) 3 0 == 7) s
    (if ue then s.deviceFault 6 else s.remapFinish.takeHeld.heldTrigger)

end Sys2Proof.Machine
end

