-- ==== Sys2Proof/Machine/Window.lean ====
section
/-! DEFINITION. Snapshots by TAKE (R392 to R395), the commands of the window boundary and of SYNC_IN (R459), and the evaluation of
numeric events (R217). -/

namespace Sys2Proof.Machine

/-! ## Snapshots -/

/-- TAKE of a block's SNAP register: it joins a snapshot that is being copied. (DEDUCED: log entry 15.) -/
def State.snapTake (s : State) (b : Nat) : State :=
  if s.rbit (snapReg b) 1 then s else (s.snapCopy b).setBits (snapReg b) 0x2#32

/-- Every domain of the block has made its copy: SNAP_SEQ advances. (DEDUCED: log entry 15.) -/
def State.snapDone (s : State) (b : Nat) : State :=
  let w := s.reg (snapReg b)
  s.setReg (snapReg b) (setFld (w &&& ~~~0x2#32) 31 16 (fld w 31 16 + 1))

def execSnapTake (block : BitVec 5) (s : State) : Out :=
  onlyIf (s.engineUp && block.toNat < 18) s (s.snapTake block.toNat)

def execSnapComplete (block : BitVec 5) (s : State) : Out :=
  onlyIf (s.engineUp && block.toNat < 18 && s.rbit (snapReg block.toNat) 1) s (s.snapDone block.toNat)

/-! ## The boundary -/

/-- WINDOW_BOUNDARY: the boundary falls at its moment, or has fallen and is carried out now. -/
def execWindowBoundary (s : State) : Out :=
  onlyIf (s.engineUp && s.clock.frozen.isNone) s (s.until s.boundaryAt).windowBoundary

/-- An edge of SYNC_IN (R459); one exactly at a boundary belongs to the window that begins there (R7). -/
def State.syncEdge (s0 : State) : State :=
  let s := s0.openWindows
  let t := s.clock.now
  let w := msSteps s.clock.lenMs / 8
  let n := s.boundaryAt
  if s.clock.synced then s.count Reg.telSyncIgnCnt 1
  else if n ≤ t + w ∧ t < n then
    ({ s with clock := { s.clock with synced := true, early := some t } }).count Reg.telSyncAccCnt 1
  else if t ≤ s.clock.anchor + w ∧ s.clock.anchor ≤ t then
    ({ s with clock := { s.clock with synced := true, anchor := t } }).count Reg.telSyncAccCnt 1
  else s.count Reg.telSyncIgnCnt 1

def execSyncInEdge (s : State) : Out := onlyIf (s.up && s.clock.frozen.isNone) s s.syncEdge

/-! ## Numeric events (R217) -/

/-- The kinds of event a stage raises: bit 0 saturation, 1 underflow, 2 carry. -/
def State.stageEvents (s : State) (i : Nat) : Nat :=
  let g := tget StageStat.zero s.num.stats i
  let h := tget NumHdr.zero s.num.hdrs i
  b2n (g.satThresh != 0#32 && decide (g.satThresh.toNat < g.sat.toNat)) +
  2 * b2n (g.uflThresh != 0#32 && decide (g.uflThresh.toNat < g.ufl.toNat)) +
  4 * b2n (h.carry && g.trip != 0#32)

/-- Raise what a stage raises. -/
def State.raiseEvents (s : State) (i : Nat) : State :=
  let k := s.stageEvents i
  if k = 0 then s
  else
    let u := s.setBits Reg.numStat (BitVec.ofNat 32 k)
    let v := ((u.count Reg.numSatEvtCnt (k % 2)).count Reg.numUflEvtCnt (k / 2 % 2)).count Reg.numCarryEvtCnt (k / 4)
    (v.logEvent 0xB (logArgs [(i, 2), (k, 1), ((v.reg Reg.numWindow).toNat, 4)])).alert 4

/-- NUM_EVALUATION, once after each boundary, of a committed image with NUM_CTL.EN 1. -/
def execNumEvaluation (s : State) : Out :=
  let u := { s with num := { s.num with evalDue := false } }
  onlyIf (s.engineUp && s.num.evalDue) s
    (if s.blockEn 5 then (upto u.plc.pitch.length).foldl (fun v i => v.raiseEvents i) u else u)

end Sys2Proof.Machine
end

