-- ==== Sys2Proof/Machine/Indirect.lean ====
section
/-! DEFINITION. The indirect spaces of the blocks: what a word reads and what a write of it does (R65, R117, R118, R147, R220,
R260, R318, R320, R351, R426, R428, R476, R494). Words that are not listed read zero and ignore writes. -/

namespace Sys2Proof.Machine

/-! ## FAB: writes into the tile space (R103, R118) -/

/-- An offset whose writes follow the rule of R103 (R118). -/
def guarded (o : Nat) : Bool :=
  o < 0xC000 || (0xD010 ≤ o && o < 0xD024) || (0xD030 ≤ o && o < 0xD048) || (0xD100 ≤ o && o < 0xD200 && o % 16 == 0) ||
  (0xE000 ≤ o && o < 0xE420)

/-- TCTL: HOLD and FREEZE. A tile that holds a valid slot leaves reset as HOLD is cleared. -/
def Tile.tctl (x : Tile) (v : Word) : Tile :=
  let loaded := (upto 4).any x.slotValid
  { x with
    freeze := bit v 1
    hold := bit v 0
    held := if bit v 0 then true else if x.hold then !loaded else x.held }

/-- A write of word `k` of slot `c`. A one in a reserved bit, and a valid slot whose route tables then drive a wire or a queue
twice, name a queue of another network or send a word back the way it came, are host errors (R4, R5, R81, R100).
(DEDUCED: log entry 41.) -/
def State.writeSlotWord (s : State) (t : TileAddr) (c k : Nat) (v : Word) : State :=
  let y := (s.tile t).putSlot c k v
  if v &&& ~~~(slotMask k) ≠ 0#32 ∨ (y.slotValid c = true ∧ y.slotLegal c = false) then s.unpredictable
  else s.setTile t y

/-- A write into the tile space (R97, R103, R118). -/
def State.fabWrite (s : State) (t : TileAddr) (o : Nat) (v : Word) : State :=
  if guarded o then
    if s.blockEn 4 then s.cfgIgn 4 else s.setTile t ((s.tile t).putReg o v)
  else if 0xC000 ≤ o ∧ o < 0xC400 then
    let c := (o - 0xC000) / 256
    if s.tagLive c then s.count Reg.fabTagwRefusedCnt 1
    else s.writeSlotWord t c ((o - 0xC000) / 4 % 64) v
  else if o = 0xD000 then s.setTile t ((s.tile t).tctl v)
  else if 0xD100 ≤ o ∧ o < 0xD200 ∧ o % 16 = 4 ∧ bit v 31 then s.queueFlush t ((o - 0xD100) / 16)
  else s

/-! ## The other blocks -/

/-- PLC (R147). -/
def State.plcWord (s : State) (a : Nat) : Word :=
  if a < 0x10000 then
    let ts := s.plc.pitch.getD (a / 16) []
    match a % 16 with
    | 0 => BitVec.ofNat 32 ts.length
    | 4 => BitVec.ofNat 32 ((upto 8).foldl (fun n i => n + b2n (ts.any (fun t => sectorOf t == i)) * 2 ^ i) 0)
    | 8 => if ts.isEmpty then 0#32 else tget 0#32 s.plc.dropped (a / 16)
    | _ => 0#32
  else if a < 0x10200 then
    let b := (a - 0x10000) / 4
    let spare := fun (k : Nat) => packTile (b / 16) (b % 16) (64 + k)
    BitVec.ofNat 32 (256 * s.retiredActive b +
      (upto 4).foldl (fun n k => n + b2n (s.isRetired (spare k)) * 2 ^ (4 + k) + b2n (s.spareInUse (spare k) && !s.isRetired (spare k)) * 2 ^ k) 0)
  else if 0x100000 ≤ a ∧ a < 0x300000 then
    let i := (a - 0x100000) / 0x1000
    match (s.plc.pitch.getD i [])[(a % 0x1000) / 4]? with
    | some t => BitVec.ofNat 32 t.toNat
    | none => 0#32
  else 0#32

/-- NUM (R220). -/
def State.numWord (s : State) (a : Nat) : Word :=
  if 0x8000 ≤ a then 0#32
  else
    let g := tget StageStat.zero s.num.stats (a / 0x40)
    match a % 0x40 / 4 with
    | 0 => g.satThresh | 1 => g.uflThresh | 2 => g.sat | 3 => g.ufl
    | 4 => wordOf g.converted 0 | 5 => wordOf g.converted 1
    | 6 => wordOf g.sqerr 0 | 7 => wordOf g.sqerr 1
    | 8 => g.trip | 9 => g.accOvf | 10 => g.mse | _ => 0#32

/-- Set a threshold of a stage (R220, R221). -/
def State.setThresh (s : State) (stage : Nat) (ufl : Bool) (v : Word) : State :=
  let g := tget StageStat.zero s.num.stats stage
  let h := if ufl then { g with uflThresh := v } else { g with satThresh := v }
  { s with num := { s.num with stats := tset StageStat.zero s.num.stats stage h } }

/-- The eight words of a track table entry (R254). -/
def Track.words (x : Track) : List Word :=
  let w := fun (a b : Nat) => BitVec.ofNat 32 (a + 65536 * b)
  [ x.id, BitVec.ofNat 32 (x.cls.toNat + 256 * x.st.toNat + 65536 * x.misses.toNat), w x.x0.toNat x.y0.toNat,
    w x.x1.toNat x.y1.toNat, w x.vx.toNat x.vy.toNat, x.lastSeq, x.slot, BitVec.ofNat 32 x.score.toNat ]

/-- CTX (R249, R260). -/
def State.ctxWord (s : State) (a : Nat) : Word :=
  if a < 0x10000 then
    let st := a / 0x40
    let c := s.sctx st
    match a % 0x40 / 4 with
    | 0 => BitVec.ofNat 32 c.quota | 1 => BitVec.ofNat 32 c.limit | 2 => BitVec.ofNat 32 c.stake.length
    | 3 => BitVec.ofNat 32 (s.validCount st) | 4 => BitVec.ofNat 32 c.cursor | 5 => BitVec.ofNat 32 c.released.length
    | 6 => s.newestSeq st | 7 => c.appends | 8 => c.evicts | _ => 0#32
  else if a < 0x20000 then
    if a % 0x40 < 56 then (carryWords (s.sctx ((a - 0x10000) / 0x40)).carry).getD (a % 0x40 / 4) 0#32 else 0#32
  else if 0x10000000 ≤ a ∧ a < 0x30000000 then wordOf (tget 0#128 s.ctx.dir ((a - 0x10000000) / 16)) (a / 4 % 4)
  else if 0x40000000 ≤ a ∧ a < 0x41000000 then
    (tget Track.zero s.ctx.tracks ((a - 0x40000000) / 32)).words.getD (a / 4 % 8) 0#32
  else 0#32

/-- A descriptor as its eight words (R297). -/
def descWords (d : Desc) : List Word :=
  [ wordOf d.src 0, wordOf d.src 1, wordOf d.dst 0, wordOf d.dst 1, d.length,
    BitVec.ofNat 32 (d.pieces.toNat + 65536 * d.dflags.toNat), d.srcStride, d.dstStride ]

/-- STM (R318). -/
def State.stmWord (s : State) (a : Nat) : Word :=
  let t := a / 0x100
  if 35 ≤ t then 0#32
  else
    let x := s.landed.ts t
    let o := a % 0x100
    let of_ := fun (d : Option Desc) => match d with | some d => (descWords d).getD (o / 4 % 8) 0#32 | none => 0#32
    let wm := x.levels t
    if o < 0x20 then of_ x.active
    else if o < 0x40 then of_ x.shadow
    else match (o - 0x40) / 4 with
      | 0 => BitVec.ofNat 32 (b2n x.shadow.isSome * 2 ^ 31 + b2n x.active.isSome * 2 ^ 30 + b2n (decide (16 ≤ t)) * 2 ^ 29 +
          b2n x.hi * 2 ^ 28 + b2n x.lo * 2 ^ 27)
      | 1 => Config.bufBytes (BitVec.ofNat 6 t)
      | 2 => BitVec.ofNat 32 x.occ
      | 3 => (match x.active with | some d => BitVec.ofNat 32 d.rate.toNat | none => 0#32)
      | 4 => BitVec.ofNat 32 wm.1
      | 5 => BitVec.ofNat 32 wm.2
      | 6 => x.lows | 7 => x.highs | 8 => x.rearm
      | 9 => if t < 16 then 0#32 else BitVec.ofNat 32 (s.tokens t / 256)
      | 10 => wordOf x.moved 0 | 11 => wordOf x.moved 1 | _ => 0#32

/-- A write into the STM space: the watermarks, and ones to the sticky bits of TSTATE. -/
def State.stmWrite (s0 : State) (a : Nat) (v : Word) : State :=
  let t := a / 0x100
  if 35 ≤ t then s0
  else
    let s := s0.landed
    let x := s.ts t
    match a % 0x100 with
    | 0x40 => s.setTs t { x with hi := x.hi && !bit v 28, lo := x.lo && !bit v 27 }
    | 0x50 => s.setTs t { x with wmLo := some v }
    | 0x54 => s.setTs t { x with wmHi := some v }
    | _ => s

/-- HBM (R320). -/
def State.hbmWord (s : State) (a : Nat) : Word :=
  if 0x4000 ≤ a then 0#32
  else
    let x := s.chan (a / 0x100)
    match a % 0x100 / 4 with
    | 0 => x.ce | 1 => x.ue | 2 => x.retired
    | 3 => BitVec.ofNat 32 (16384 - x.granules) | 4 => BitVec.ofNat 32 (2048 - x.rows)
    | 5 => wordOf x.moved 0 | 6 => wordOf x.moved 1 | 7 => x.busy
    | 8 => BitVec.ofNat 32 ((x.recalAt - s.clock.resetAt) / 100000)
    | _ => 0#32

/-- A mode register of a port at a set point (R327, R329): the identifying registers read what R327 says, every other one
what was written last, or its reset value. (DESIGN CHOICE: log entry 65.) -/
def Port.mr (p : Port) (fsp : BitVec 2) (m : Nat) : Byte :=
  let v := tget 0#9 p.mrs (128 * fsp.toNat + m)
  if m = 5 then Config.mfr
  else if m = 6 then Config.siliconRev
  else if m = 7 then Config.packageRev
  else if m = 4 ∨ m = 8 ∨ v = 0 then Config.modeReset (BitVec.ofNat 7 m) else BitVec.ofNat 8 (v.toNat - 1)

/-- A host port. -/
def State.port (s : State) (p : Bool) : Port := if p then s.hp1 else s.hp0
def State.setPort (s : State) (p : Bool) (x : Port) : State := if p then { s with hp1 := x } else { s with hp0 := x }

/-- HPT (R351). -/
def State.hptWord (s : State) (a : Nat) : Word :=
  if 0x2000 ≤ a then 0#32
  else
    let p := s.port (decide (0x1000 ≤ a))
    let o := a % 0x1000
    if o < 0x200 then BitVec.ofNat 32 (p.mr p.fsp (o / 4)).toNat
    else match o with
      | 0x400 => wordOf p.wbursts 0 | 0x404 => wordOf p.wbursts 1
      | 0x408 => wordOf p.rbursts 0 | 0x40C => wordOf p.rbursts 1
      | 0x410 => p.training
      | 0x414 => BitVec.ofNat 32 p.fsp.toNat
      | _ => 0#32

/-- A sensor reading as a word. -/
def sensorWord (v : BitVec 16) : Word := BitVec.ofNat 32 v.toNat

/-- CLK (R426). -/
def State.clkWord (s : State) (a : Nat) : Word :=
  if a < 0x100 then sensorWord (s.clk.temps.getD (a / 4) 0)
  else if a < 0x180 then
    let n := (a - 0x100) / 16
    match a % 16 / 4 with
    | 0 => BitVec.ofNat 32 (s.sectFreq n)
    | 1 => sensorWord (BitVec.ofInt 16 (s.sectTemp n))
    | 2 => tget 0#32 s.clk.below n
    | _ => tget 0#32 s.clk.downs n
  else 0#32

/-- PWR (R428). -/
def State.pwrWord (s : State) (a : Nat) : Word :=
  let d := a / 16
  if 152 ≤ d then 0#32
  else
    let x := s.dom d
    match a % 16 / 4 with
    | 0 => BitVec.ofNat 32 (b2n x.reqLow)
    | 1 => BitVec.ofNat 32 (256 * x.refusal + 64 * s.policy d + x.st)
    | 2 => x.entries
    | _ => x.lastExit

/-- TEL (R494). -/
def State.telWord (s : State) (a : Nat) : Word :=
  let of_ := fun (x : Win3) => match a % 16 / 4 with
    | 0 => sensorWord x.lo | 1 => sensorWord x.hi | 2 => sensorWord x.last | _ => 0#32
  if a < 0x400 then of_ (tget Win3.zero s.tel.tempSum (a / 16))
  else if a < 0x600 then of_ (tget Win3.zero s.tel.voltSum ((a - 0x400) / 16))
  else 0#32

/-! ## The spaces -/

/-- The word at an address, a multiple of 4, of a block's indirect space. -/
def State.indRead (s : State) (block a : Nat) : Word :=
  match block with
  | 1 => if a < 0x10000 ∧ a % 0x40 < 32 then wordOf (BitVec.ofNat 256 (s.cellHigh (a / 0x40))) (a % 0x40 / 4) else 0#32
  | 2 => if a < 0x4000 then
      (match a % 16 / 4 with
       | 0 => BitVec.ofNat 32 (s.writeLine (a / 16))
       | 1 => tget 0#32 s.egr.lastSeq (a / 16)
       | 2 => tget 0#32 s.egr.records (a / 16)
       | _ => 0#32)
    else 0#32
  | 3 => s.plcWord a
  | 4 => let t := BitVec.ofNat 16 (a / 65536 % 16384)
         if isTile t then (s.tile t).word (a % 65536) else 0#32
  | 5 => s.numWord a
  | 6 => s.ctxWord a
  | 9 => s.stmWord a
  | 10 => s.hbmWord a
  | 11 => s.hptWord a
  | 12 => s.clkWord a
  | 13 => s.pwrWord a
  | 15 => s.telWord a
  | _ => 0#32

/-- A write of a word of a block's indirect space. -/
def State.indWrite (s : State) (block a : Nat) (v : Word) : State :=
  match block with
  | 4 => let t := BitVec.ofNat 16 (a / 65536 % 16384)
         if isTile t then s.fabWrite t (a % 65536) v else s
  | 5 => if a < 0x8000 ∧ a % 0x40 = 0 then s.setThresh (a / 0x40) false v
         else if a < 0x8000 ∧ a % 0x40 = 4 then s.setThresh (a / 0x40) true v else s
  | 9 => s.stmWrite a v
  | 13 => if a < 0x980 ∧ a % 16 = 0 then s.writeDctl (a / 16) (bit v 0) else s
  | _ => s

/-! ## The indirect pair (R396 to R398) -/

def indCtl (b : Nat) : Nat := b * 0x10000 + 0xFF00
def indAddr (b : Nat) : Nat := b * 0x10000 + 0xFF10
def indData (b : Nat) : Nat := b * 0x10000 + 0xFF20

/-- An access of an indirect space is in progress. -/
def State.indBusy (s : State) (b : Nat) : Bool := s.rbit (indCtl b) 1

/-- An access that meets BUSY is ignored and sets OVR. -/
def State.indOvr (s : State) (b : Nat) : State := s.setBits (indCtl b) 0x4#32

/-- Start an access: 1 a read, 2 a write. (DEDUCED: log entry 15.) -/
def State.indStart (s : State) (b kind : Nat) : State :=
  { s with ind := tset 0 s.ind b kind }.setBits (indCtl b) 0x2#32

/-- A write of IND_ADDR through one of its words. -/
def State.indAddrWrite (s : State) (b k : Nat) (v : Word) : State :=
  if s.indBusy b then s.indOvr b
  else (s.setReg (indAddr b) (aliasValue k (s.reg (indAddr b)) v &&& 0xFFFFFFFC#32)).indStart b 1

/-- A write of the value word of IND_DATA. (DEDUCED: log entry 15.) -/
def State.indDataWrite (s : State) (b : Nat) (v : Word) : State :=
  if s.indBusy b then s.indOvr b
  else ((s.setReg (indData b) v).indWrite b (s.reg (indAddr b)).toNat v).indStart b 2

/-- A read of the value word of IND_DATA: the word, and what the read does. -/
def State.indDataRead (s : State) (b : Nat) : Word × State :=
  let w := s.reg (indData b)
  if s.indBusy b then (w, s.indOvr b)
  else if s.rbit (indCtl b) 0 then (w, (s.setReg (indAddr b) (s.reg (indAddr b) + 4#32)).indStart b 1)
  else (w, s)

/-- A read of tile SRAM or of a context slot through the indirect space is checked as every other read: the counts of R74, a tile
fault for a slot that cannot be read, and a free value for an SRAM word (R74, R117). (DEDUCED: log entry 80.) -/
def State.indChecked (s : State) (a : Nat) (ecc : Ecc) (w : Word) : Word × State :=
  let t := BitVec.ofNat 16 (a / 65536 % 16384)
  let u := s.countEcc ecc
  if isTile t = false ∨ 0xC400 ≤ a % 65536 ∨ ecc = .ok then (w, s)
  else if ecc = .corrected then (w, u)
  else if a % 65536 < 0xC000 then (BitVec.ofNat 32 u.free.1.toNat, u.free.2)
  else (BitVec.ofNat 32 u.free.1.toNat, u.free.2.tileFault t 1)

/-- The access in progress ends: the word arrives, or the target has taken it. `ecc` is what the check of a tile's SRAM or slot
finds. -/
def State.indComplete (s : State) (b : Nat) (ecc : Ecc) : State :=
  let kind := tget 0 s.ind b
  let u := { s with ind := tset 0 s.ind b 0 }.clrBits (indCtl b) 0x2#32
  if kind = 1 then
    let a := (s.reg (indAddr b)).toNat
    let r := if b = 4 then u.indChecked a ecc (s.indRead b a) else (s.indRead b a, u)
    r.2.setReg (indData b) r.1
  else if s.rbit (indCtl b) 0 then u.setReg (indAddr b) (s.reg (indAddr b) + 4#32)
  else u

def execIndAddrWrite (block : BitVec 5) (alias4 : BitVec 2) (v : Word) (s : State) : Out :=
  onlyIf (s.engineUp && block.toNat < 18) s (s.indAddrWrite block.toNat alias4.toNat v)

def execIndDataWrite (block : BitVec 5) (v : Word) (s : State) : Out :=
  onlyIf (s.engineUp && block.toNat < 18) s (s.indDataWrite block.toNat v)

def execIndDataRead (block : BitVec 5) (s : State) : Out :=
  onlyIf (s.engineUp && block.toNat < 18) s (s.indDataRead block.toNat).2

/-- INDIRECT_ACCESS_COMPLETE: the access that the block's pair has begun is done; a word of a tile is checked as it is read (R74). -/
def execIndAccessComplete (block : Checked (BitVec 5)) (s : State) : Out :=
  let b := block.val.toNat
  onlyIf (s.engineUp && b < 18 && s.indBusy b) s (s.indComplete b block.check)

end Sys2Proof.Machine
end

