-- ==== Sys2Proof/Machine/Pair.lean ====
section
/-! DEFINITION. Paired operation (16): leases (R461, R462), enabling a role (R460), acknowledgement of the journal (R468), the
secondary's application of entries (R469 to R471, R522) and the resynchronisation walk (R473). -/

namespace Sys2Proof.Machine

/-- The signed difference of two 32-bit numbers is not negative. -/
def reached (a b : Word) : Bool := !(a - b).msb

/-! ## Leases -/

/-- A lease in force has ended without renewal (R462): counted only on a primary with EN 1. -/
def State.lapse (s : State) : State :=
  let u := { s with flt := { s.flt with leaseEnd := none } }
  if s.primary then
    (((u.count Reg.fltLapseCnt 1).setBits Reg.fltStat 0x40#32).logEvent 0xC (logArgs [(s.epoch.toNat, 4)])).alert 6
  else u

/-- The lease in force comes to its end. -/
def execLeaseLapse (s : State) : Out :=
  onlyIf (s.up && s.flt.leaseEnd.isSome) s (s.until (s.flt.leaseEnd.getD 0)).lapse

/-- A write of an epoch (R461, R475): a lease that ended before this moment has lapsed first. -/
def State.renewLease (s : State) (e : Word) : State :=
  let u := match s.flt.leaseEnd with
    | some t => if t < s.clock.now then s.lapse else s
    | none => s
  if e.toNat < u.epoch.toNat then (u.count Reg.fltLeaseRefusedCnt 1).setBits Reg.fltStat 0x100#32
  else
    let v := u.setReg Reg.fltEpoch e
    { v with flt := { v.flt with leaseEnd := some (v.clock.now + msSteps (fld (v.reg Reg.fltLeaseMs) 15 0)) } }

def execLeaseRenew (epoch : Word) (s : State) : Out := onlyIf s.up s (s.renewLease epoch)

/-! ## Roles -/

/-- MIRROR of FLT_STAT (R470). -/
def State.mirror (s : State) : Nat := fld (s.reg Reg.fltStat) 1 0
def State.setMirror (s : State) (m : Nat) : State := s.putFld Reg.fltStat 1 0 m

/-- What setting EN starts under the role in force (R460, R522). A break in force stays until a RESYNC (R468).
(DEDUCED: log entry 54.) -/
def State.startRole (s : State) : State :=
  if s.primary then
    let u := { s with
      hbm := { s.hbm with journal := [] }
      flt := { s.flt with nextJ := 1, live := [], walk := none, leaseEnd := none } }
    (u.setReg Reg.fltJrnHead 0).setReg Reg.fltJrnAck 0
  else if s.secondary then
    let u := { s with flt := { s.flt with written := [], lastJ := 0, nextUnit := 0, applyTo := none, clearing := false, walk := none } }
    u.setMirror 0
  else s

/-- Set FLT_CTL.EN with a role; ROLE is configuration, and 3 keeps the old one (R387 to R389). -/
def State.pairEnable (s : State) (role : Nat) : State :=
  if s.blockEn 14 then (if role < 3 ∧ role ≠ fld (s.reg Reg.fltCtl) 2 1 then s.cfgIgn 14 else s)
  else
    let u := if role < 3 then s.putFld Reg.fltCtl 2 1 role else s
    (u.setBits Reg.fltCtl 1#32).startRole

def execPairEnable (role : BitVec 2) (s : State) : Out := onlyIf s.engineUp s (s.pairEnable role.toNat)

/-! ## Acknowledgement -/

/-- A write of FLT_JRN_ACK frees the entries up to the acknowledged number (R468). -/
def State.ackJournal (s : State) (v : Word) : State :=
  let u := s.setReg Reg.fltJrnAck v
  { u with flt := { u.flt with live := u.flt.live.filter (fun e => !reached v (BitVec.ofNat 32 e.seq)) } }

def execJournalAck (v : Word) (s : State) : Out := onlyIf s.up s (s.ackJournal v)

/-! ## Entries on the secondary -/

/-- Fields of the entry at a unit (R465). -/
def State.jf (s : State) (u off size : Nat) : Nat := Memory.num s.hbm.journal (64 * u + off) size

/-- The host has written a unit. (DEDUCED: log entry 54.) -/
def State.jWritten (s : State) (u : Nat) : Bool := s.flt.written.any (fun r => r.1 ≤ u && u < r.1 + r.2)

/-- Every unit of the entry lies in the region and has been written. -/
def State.jWhole (s : State) (u : Nat) : Bool :=
  let n := s.jf u 0xA 2
  1 ≤ n && u + n ≤ jUnits && (upto n).all (fun i => s.jWritten (u + i))

/-- The checks of R470 on the entry at a unit. Kinds that R466 does not list, and streams past 1,023, are refused (log entry
31). (DEDUCED: log entry 31.) -/
def State.jAccepts (s : State) (u : Nat) : Bool :=
  let n := s.jf u 0xA 2
  let kind := s.jf u 8 1
  let st := s.jf u 0xC 2
  let bs := Memory.bytes s.hbm.journal (64 * u) 0x3C ++ Memory.bytes s.hbm.journal (64 * u + 64) (64 * (n - 1))
  s.jWhole u && (crc32c bs).toNat == s.jf u 0x3C 4 &&
  decide (s.epoch.toNat ≤ s.jf u 0x10 4) && (s.jf u 0x1C 4 == (s.reg Reg.ctxContextId).toNat) && s.committed &&
  (!(1 ≤ kind && kind ≤ 4) || (s.jf u 0xE 2 % 32768 < (s.sctx st).quota)) && decide (st < 1024) &&
  ((1 ≤ kind && kind ≤ 8) || kind == 15) &&
  (kind == 7 || (s.jf u 0 8 == s.flt.lastJ + 1 && (s.mirror == 1 || s.mirror == 2)))

/-- Refuse an entry (R470). (DEDUCED: log entry 31.) -/
def State.jRefuse (s : State) : State :=
  let u := (s.count Reg.fltJrnRefusedCnt 1).setBits Reg.fltStat 0x100#32
  if u.mirror = 0 then u else u.setMirror 3

/-- Give a slot the list membership of JFLAGS (R471). -/
def State.setLists (s : State) (st j flags : Nat) (seq : Word) : State :=
  let c := (s.sctx st).forget j
  let c1 := if flags % 2 = 1 then { c with stake := c.stake ++ [⟨j, seq, flags / 2 % 2 == 1⟩] } else c
  s.setSctx st (if flags / 4 % 2 = 1 then { c1 with released := insertReleased (j, seq) c1.released } else c1)

/-- The effect of an accepted entry (R471). (DEDUCED: log entry 32.) -/
def State.jApply (s : State) (u : Nat) : State :=
  let kind := s.jf u 8 1
  let flags := s.jf u 9 1
  let st := s.jf u 0xC 2
  let j := s.jf u 0xE 2 % 32768
  let seq := BitVec.ofNat 32 (s.jf u 0x14 4)
  let cursor := s.jf u 0x18 2
  let payload := Memory.bytes s.hbm.journal (64 * u + 64) (64 * (s.jf u 0xA 2 - 1))
  match kind with
  | 1 =>
    let v := (s.unlink st j).writeSlot st j seq (flags % 2 == 1) (payload.take 1920)
    let w := v.setLists st j flags seq
    let c := w.sctx st
    let c1 := { c with cursor := cursor }
    w.setSctx st (if flags / 16 % 2 = 1 then c1 else { c1 with carry := carryAfter c1.carry (payload.take 1920) })
  | 2 => if s.slotValid st j then (s.setStaked st j (flags % 2 == 1)).setLists st j flags (dirSeq (s.dirAt st j)) else s
  | 3 => if s.slotValid st j then (s.setStaked st j false).setLists st j flags (dirSeq (s.dirAt st j)) else s
  | 4 => if flags / 8 % 2 = 1 ∨ flags / 32 % 2 = 1 then s.invalidate st j else (s.evictSlot st j).1
  | 5 => s.evictAll st
  | 6 =>
    let c := s.sctx st
    s.setSctx st { c with
      cursor := cursor
      carry := (upto 56).foldl (fun m i => tset 0xFF#8 m i (payload.getD i 0xFF#8)) [] }
  | 7 =>
    let v := s.clearStore.setMirror 1
    { v with flt := { v.flt with clearing := true } }
  | 8 => s.setMirror 2
  | _ => s

/-- Accept the entry at a unit: H rises, it is applied, and the next one is found behind it (R461, R522). -/
def State.jAccept (s : State) (u : Nat) : State :=
  let v := (s.setReg Reg.fltEpoch (BitVec.ofNat 32 (s.jf u 0x10 4))).jApply u
  let next := if s.jf u 8 1 = 15 then 0 else (u + s.jf u 0xA 2) % jUnits
  { v with flt := { v.flt with lastJ := s.jf u 0 8, nextUnit := next } }

/-- The lowest written unit at which a JSEQ with the given low 32 bits stands. (DEDUCED: log entry 54.) -/
def State.jCandidate (s : State) (v : Word) : Option Nat :=
  s.flt.written.foldl (fun best r => ((upto r.2).map (r.1 + ·)).foldl (fun best u =>
    if s.jf u 0 4 = v.toNat ∧ best.all (fun b => u < b) then some u else best) best) none

/-- A write of FLT_JRN_APPLY (R469, R522). -/
def State.applyJournal (s : State) (v : Word) : State :=
  let u := s.setReg Reg.fltJrnApply v
  if !u.secondary then u
  else if u.mirror = 1 ∨ u.mirror = 2 then { u with flt := { u.flt with applyTo := some v } }
  else match u.jCandidate v with
    | none => u
    | some k =>
      let w := { u with flt := { u.flt with applyTo := some v } }
      if w.jf k 8 1 = 7 ∧ w.jAccepts k then w.jAccept k else u.jRefuse

def execJournalApply (v : Word) (s : State) : Out := onlyIf (s.engineUp && !s.faulted) s (s.applyJournal v)

/-- The next entry is due: the host has let it through. -/
def State.applyDue (s : State) : Bool :=
  s.secondary && (s.mirror == 1 || s.mirror == 2) && !s.flt.clearing &&
  (match s.flt.applyTo with
   | some v => reached v (BitVec.ofNat 32 (s.flt.lastJ + 1))
   | none => false)

/-- JOURNAL_ENTRY_APPLY. -/
def execJournalEntryApply (s : State) : Out :=
  let u := s.flt.nextUnit
  onlyIf (s.engineUp && !s.faulted && s.applyDue) s (if s.jAccepts u then s.jAccept u else s.jRefuse)

/-! ## Resynchronisation (R473) -/

/-- Start a walk; on a device that is no enabled primary a write has no effect. (DEDUCED: log entry 32.) -/
def State.resync (s : State) : State :=
  if !s.primary then s
  else
    let u := s.clrBits Reg.fltStat 0x10#32
    let v := ({ u with flt := { u.flt with walk := none } }).journal ⟨7, 0, 0, 0, 0, []⟩
    if v.rbit Reg.fltStat 4 then v else { v with flt := { v.flt with walk := some ⟨0, [], false⟩ } }

def execResync (s : State) : Out := onlyIf (s.engineUp && !s.faulted) s s.resync

/-- The valid slots of a stream in increasing SEQ. -/
def State.walkSlots (s : State) (st : Nat) : List Nat :=
  sortBy (fun a b => (dirSeq (s.dirAt st a)).toNat ≤ (dirSeq (s.dirAt st b)).toNat)
    ((upto (s.sctx st).quota).filter (s.slotValid st))

/-- Keep the walk in its next place, unless a break has ended it. -/
def State.walkOn (s : State) (w : Walk) : State :=
  if s.flt.walk.isSome then { s with flt := { s.flt with walk := some w } } else s

/-- The APPEND entry of a walked slot. -/
def State.walkSlot (s : State) (st j : Nat) : State :=
  let c := s.sctx st
  let e := c.stakeOf j
  let flags := jWalk + (if e.isSome then jStaked else 0) + (if e.any (·.skipped) then jSkipped else 0) +
    (if c.released.any (fun p => p.1 == j) then jReleased else 0)
  s.journal ⟨1, flags, st, j, dirSeq (s.dirAt st j), padTo 2048 (s.slotBytes (s.granule st j))⟩

/-- One entry of the walk. -/
def State.walkStep (s : State) (w : Walk) : State :=
  match ((upto (1024 - w.stream)).map (w.stream + ·)).find? (fun st => (s.sctx st).quota != 0) with
  | none =>
    let u := s.journal ⟨8, 0, 0, 0, 0, []⟩
    { u with flt := { u.flt with walk := none } }
  | some st =>
    let left := if w.listed && st == w.stream then w.left else s.walkSlots st
    match left.dropWhile (fun j => !s.slotValid st j) with
    | j :: rest => (s.walkSlot st j).walkOn ⟨st, rest, true⟩
    | [] =>
      let c := s.sctx st
      (s.journal ⟨6, 0, st, 0, 0, (upto 56).map (fun i => tget 0xFF#8 c.carry i) ++ leBytes 8 0⟩).walkOn ⟨st + 1, [], false⟩

/-- RESYNC_WALK_STEP: paused while fewer than 262,144 units are free. -/
def execResyncWalkStep (s : State) : Out :=
  match s.flt.walk with
  | none => .next s
  | some w => onlyIf (s.journaling && decide (262144 ≤ s.jFreeUnits)) s (s.walkStep w)

end Sys2Proof.Machine
end

