-- ==== Sys2Proof/Machine/PostProc.lean ====
section
/-! DEFINITION. The post-processing units (09): the box decoder (R263 to R270), suppression (R271 to R273), crop-and-resize
(R274 to R278) and track association (R279 to R283). Each unit takes the frame that stands before it with the lowest
admission ordinal (R13, R262). -/

namespace Sys2Proof.Machine

/-! ## The frame before a unit -/

/-- Among two frames the one with the lower ordinal. -/
def earlier (best : Option Frame) (f : Frame) : Option Frame :=
  match best with
  | none => some f
  | some b => if f.ordinal.getD 0 < b.ordinal.getD 0 then some f else some b

/-- The frame of a phase with the lowest ordinal. -/
def State.frameIn (s : State) (p : Phase → Bool) : Option Frame :=
  (s.adm.frames.filter (fun f => f.ordinal.isSome && p f.phase)).foldl earlier none

/-- An uncorrectable word of a unit's SRAM ends its frame with FRAME_ABORT, reason FAULT (R455). (DEDUCED: log entry 55.) -/
def State.unitFault (s : State) (block : Nat) (f : Frame) : State :=
  (s.contained block f.stream).abortFrame (f.ordinal.getD 0) 2

/-- The stages that feed the units. -/
def State.headStage (s : State) : Nat := (stageOf s.img.copy 0x20).getD 0
def State.cropStage (s : State) : Option Nat := stageOf s.img.copy 0x21

/-- The first tile of a stage, at which the overflows of the unit behind it are counted. (DEDUCED: log entry 28.) -/
def State.firstTile (s : State) (st : Nat) : TileAddr := (s.plc.pitch.getD st []).headD 0

/-- The DETECT_HEAD block of a frame's variant (R264). -/
def State.headPar (s : State) (wide : Bool) : Nat := stgParams s.img.copy s.headStage wide

/-- The values of R291 in force: SCORE_THRESH, IOU_THRESH, ASSOC_IOU, MAX_MISSES and OPEN_THRESH. -/
def State.thresholds (s : State) (wide : Bool) : List Nat :=
  let o := s.headPar wide
  ([0x12, 0x14, 0x18, 0x1C, 0x1A].zip (upto 5)).map (fun p =>
    match s.ppu.overrides.getD p.2 0 with
    | 0 => pay s.img.copy (o + p.1) 2
    | n + 1 => n)

/-! ## Boxes (R269, R272) -/

/-- A box in Q12.4. -/
structure Box where
  x0 : Nat
  y0 : Nat
  x1 : Nat
  y1 : Nat
  deriving DecidableEq, Repr

/-- Clamp a coordinate to 0 to `hi`. -/
def clampTo (hi : Nat) (v : Int) : Nat := min v.toNat hi

/-- Clamp four coordinates to the frame; whether a clamp changed one. (DEDUCED: log entry 28.) -/
def clampBox (w h : Nat) (x0 y0 x1 y1 : Int) : Box × Bool :=
  let b : Box := ⟨clampTo (16 * w) x0, clampTo (16 * h) y0, clampTo (16 * w) x1, clampTo (16 * h) y1⟩
  (b, (b.x0 : Int) != x0 || (b.y0 : Int) != y0 || (b.x1 : Int) != x1 || (b.y1 : Int) != y1)

def Box.empty (b : Box) : Bool := b.x1 ≤ b.x0 || b.y1 ≤ b.y0
def Box.area (b : Box) : Nat := (b.x1 - b.x0) * (b.y1 - b.y0)
/-- Intersection and union (R272). -/
def Box.inter (p q : Box) : Nat := (min p.x1 q.x1 - max p.x0 q.x0) * (min p.y1 q.y1 - max p.y0 q.y0)
def Box.union (p q : Box) : Nat := p.area + q.area - p.inter q
/-- IoU exceeds, and reaches, a threshold. -/
def Box.exceeds (p q : Box) (t : Nat) : Bool := t * p.union q < p.inter q * 65536
def Box.reaches (p q : Box) (t : Nat) : Bool := t * p.union q ≤ p.inter q * 65536

def Cand.box (c : Cand) : Box := ⟨c.x0.toNat, c.y0.toNat, c.x1.toNat, c.y1.toNat⟩
def Det.box (d : Det) : Box := ⟨d.x0.toNat, d.y0.toNat, d.x1.toNat, d.y1.toNat⟩

/-! ## BOX_DECODE (R265 to R270) -/

/-- The largest class logit and its class; a tie goes to the lower class. (DEDUCED: log entry 28.) -/
def bestClass (vs : List Word) : Nat × Word :=
  (vs.zip (upto vs.length)).foldl (fun (b : Nat × Word) p => if f32Le p.1 b.2 then b else (p.2, p.1)) (0, vs.headD 0)

/-- What decoding one anchor gives: a kept candidate or not, whether its box is empty, and overflows. -/
structure Decoded where
  cand : Option Cand
  empty : Bool
  ovf : Nat
  deriving DecidableEq, Repr

/-- The box terms of an anchor as edges in frame pixels, with the results that overflowed (R267, R268): `o` the parameter block,
`cx` and `cy` the cell centre. A value that two results use is one result. -/
def anchorBox (c : Memory) (o a : Nat) (cx cy : Word) (t : Nat → Word) : List Word × Nat :=
  let stride := fNum (Q.ofInt (pay c (o + 0x10) 1))
  let two := fNum (Q.ofInt 2)
  let four := fNum (Q.ofInt 4)
  let side := fun (m k : Nat) (n : Word) =>
    let size := fNum ⟨pay c (o + 0x20 + 4 * a + 2 * k) 2, 16⟩
    let sh := fMul (t m) size
    let mid := fAdd n sh.1
    let len := fMul size (fExp (fMin (t (m + 2)) four))
    let half := fDiv len.1 two
    let lo := fSub mid.1 half.1
    let hi := fAdd mid.1 half.1
    (lo.1, hi.1, sh.2 + mid.2 + len.2 + half.2 + lo.2 + hi.2)
  let edge := fun (m : Nat) (n : Word) =>
    let d := fMul stride (fMax (t m) 0)
    let r := if m < 2 then fSub n d.1 else fAdd n d.1
    (r.1, d.2 + r.2)
  if pay c (o + 0xC) 1 = 0 then
    let x := side 0 0 cx
    let y := side 1 1 cy
    ([x.1, y.1, x.2.1, y.2.1], x.2.2 + y.2.2)
  else
    let e := [edge 0 cx, edge 1 cy, edge 2 cx, edge 3 cy]
    (e.map (·.1), e.foldl (fun n p => n + p.2) 0)

/-- One anchor of a head position: `o` the parameter block, `w` and `h` the frame, `cx` and `cy` the cell centre, `v` the values
of its channels. -/
def decodeAnchor (c : Memory) (o w h score gy gx a : Nat) (cx cy : Word) (v : List Word) : Decoded :=
  let obj := pay c (o + 0xF) 1 % 2 == 1
  let cls := bestClass ((v.drop (if obj then 5 else 4)).take (pay c (o + 0xE) 1))
  let p : Ov := if obj then fMul (fSigma (v.getD 4 0)) (fSigma cls.2) else (fSigma cls.2, 0)
  let sc := fMul p.1 (fNum (Q.ofInt 65535))
  let scI := (min (f32 sc.1).near 65535).toNat
  let xy := anchorBox c o a cx cy (fun k => v.getD k 0)
  let sixteen := fNum (Q.ofInt 16)
  let q := xy.1.map (fun e => fMul e sixteen)
  let n := fun (k : Nat) => (f32 (q.getD k (0, 0)).1).near
  let b := clampBox w h (n 0) (n 1) (n 2) (n 3)
  let ovf := p.2 + sc.2 + xy.2 + q.foldl (fun m x => m + x.2) 0
  if b.1.empty then ⟨none, true, ovf⟩
  else if scI < score then ⟨none, false, ovf⟩
  else
    let idx := (gy * pay c (o + 6) 2 + gx) * pay c (o + 0xD) 1 + a
    ⟨some ⟨BitVec.ofNat 8 cls.1, BitVec.ofNat 16 scI, b.2, BitVec.ofNat 16 b.1.x0, BitVec.ofNat 16 b.1.y0,
           BitVec.ofNat 16 b.1.x1, BitVec.ofNat 16 b.1.y1, idx⟩, false, ovf⟩

/-- One head position: its candidates from the values of its channels, with the overflows of its centre (R266). -/
def decodeCell (c : Memory) (o w h score gy gx : Nat) (v : List Word) : List Decoded × Nat :=
  let stride := fNum (Q.ofInt (pay c (o + 0x10) 1))
  let per := 4 + pay c (o + 0xF) 1 % 2 + pay c (o + 0xE) 1
  let cx := fMul (fAdd (fNum (Q.ofInt gx)) f32Half).1 stride
  let cy := fMul (fAdd (fNum (Q.ofInt gy)) f32Half).1 stride
  ((upto (pay c (o + 0xD) 1)).map (fun a => decodeAnchor c o w h score gy gx a cx.1 cy.1 ((v.drop (per * a)).take per)), cx.2 + cy.2)

/-- Element (k, y, x) of an uncompressed map of `ch` channels and `w` columns, from its words as they came (R148, R204). -/
def mapElem (hd : NumHdr) (map : List Byte) (ch w k y x : Nat) : Elem :=
  rowElem hd w (map.drop ((y * ch + k) * rowBytes hd w)) x

/-- The suppression order: SCORE descending, class ascending, index ascending (R271). -/
def candBefore (a b : Cand) : Bool :=
  if a.score ≠ b.score then b.score.toNat < a.score.toNat
  else if a.cls ≠ b.cls then a.cls.toNat < b.cls.toNat
  else a.idx ≤ b.idx

/-- The positions of the head's grid in row order, from the words that the head stage has sent for a frame: the elements of each, its
anchors decoded with the threshold `score`, and the overflows of its centre (R265, R266). -/
def State.headCells (s : State) (f : Frame) (score : Nat) : List (List Elem × List Decoded × Nat) :=
  let c := s.img.copy
  let o := s.headPar f.wide
  let hd := tget NumHdr.zero s.num.hdrs s.headStage
  let ch := pay c (o + 2) 2
  let inW := pay c (o + 6) 2
  let map := wordsBytes (s.unitWords 7 s.headStage (f.ordinal.getD 0))
  (upto (pay c (o + 4) 2 * inW)).map (fun g =>
    let es := (upto ch).map (fun k => mapElem hd map ch inW k (g / inW) (g % inW))
    (es, decodeCell c o (imgW c f.wide) (imgH c f.wide) score (g / inW) (g % inW) (es.map (·.val))))

/-- BOX_DECODE of the oldest frame inside, once the head stage has sent its whole output: every element is decoded with its group
scale, and the candidates kept go to suppression (R262, R265 to R270). `words` is what the check of the head's words in the unit
found, `ecc` that of its other words (R455). -/
def execBoxDecode (words ecc : Ecc) (s : State) : Out :=
  match s.frameIn (fun p => p == .sending || p == .fabric) with
  | none => .next s
  | some f =>
    let n := f.ordinal.getD 0
    let th := s.thresholds f.wide
    let cells := s.headCells f (th.getD 0 0)
    let ds := (cells.map (·.2.1)).flatten
    let es := (cells.map (·.1)).flatten
    let kept := sortBy candBefore (ds.filterMap (·.cand))
    let many := decide (16384 < kept.length)
    let ovf := ds.foldl (fun n d => n + d.ovf) 0 + es.foldl (fun n e => n + e.ovf) 0 + cells.foldl (fun n p => n + p.2.2) 0
    let u := (s.count Reg.ppuEmptyBoxCnt (ds.filter (·.empty)).length).count Reg.ppuCandCnt kept.length
    let v := if many then (u.count Reg.ppuCandLimitCnt 1).setBits Reg.ppuStat 1#32 else u
    let w := (v.countNonfin (es.foldl (fun n e => n + e.bad) 0)).countOvf (s.firstTile s.headStage) ovf
    let x := (w.mapFrame f (fun g => { g with
      phase := .decoded, thresholds := th, candidates := BitVec.ofNat 32 kept.length, candLimit := many })).dropRows 7 s.headStage n
    let run := s.engineUp && s.blockEn 7 && !s.faulted && f.phase == .fabric && (s.frameIn (· == .decoded)).isNone &&
      s.unitHas 7 s.headStage (2 * b2n s.bank + b2n f.wide) n
    onlyIf run s (if words = .uncorrectable ∨ ecc = .uncorrectable then s.unitFault 7 f
      else { x with ppu := { x.ppu with cands := kept.take 16384 } })

/-! ## SUPPRESSION (R273) -/

/-- Keep candidates in order; `n` may still be kept. -/
def suppress (agnostic : Bool) (t : Nat) : Nat → List Cand → List Cand → List Cand
  | 0, kept, _ => kept
  | _, kept, [] => kept
  | n + 1, kept, c :: cs =>
    if kept.any (fun k => (agnostic || k.cls == c.cls) && k.box.exceeds c.box t) then suppress agnostic t (n + 1) kept cs
    else suppress agnostic t n (kept ++ [c]) cs

/-- A kept candidate as a detection. -/
def Cand.det (c : Cand) : Det :=
  ⟨c.cls, BitVec.ofNat 8 (b2n c.clipped), c.score, c.x0, c.y0, c.x1, c.y1, 0, 0, 0, c.idx⟩

def execSuppression (ecc : Ecc) (s : State) : Out :=
  match s.frameIn (· == .decoded) with
  | none => .next s
  | some f =>
    let c := s.img.copy
    let o := s.headPar f.wide
    let ds := suppress (pay c (o + 0xF) 1 / 2 % 2 == 1) (f.thresholds.getD 1 0) (pay c (o + 0x16) 2) [] s.ppu.cands
    let u := s.mapFrame f (fun g => { g with phase := .suppressed, dets := ds.map Cand.det })
    onlyIf (s.engineUp && s.blockEn 7 && !s.faulted) s
      (if ecc = .uncorrectable then s.unitFault 7 f else { u with ppu := { u.ppu with cands := [] } })

/-! ## Tracks (R254, R280) -/

/-- Entry `t` of a stream's track table. -/
def State.track (s : State) (st t : Nat) : Track := tget Track.zero s.ctx.tracks (512 * st + t)

/-- The predicted box of a track, clamped to the frame. -/
def Track.predict (t : Track) (w h : Nat) : Box :=
  let m : Int := t.misses.toNat + 1
  let vx := m * sInt 16 t.vx.toNat
  let vy := m * sInt 16 t.vy.toNat
  (clampBox w h (t.x0.toNat + vx) (t.y0.toNat + vy) (t.x1.toNat + vx) (t.y1.toNat + vy)).1

/-- A track entry in use, and confirmed or lost. -/
def Track.live (t : Track) : Bool := t.st != 0
def Track.held (t : Track) : Bool := t.st == 2 || t.st == 3

/-! ## CROP_AND_RESIZE (R275 to R277) -/

/-- A sampling coordinate (R276) from a box's low and high edge in Q12.4. Its steps stay far below the largest FP32 value, so
that none overflows. (DEDUCED: log entry 29.) -/
def coord (lo hi stride grid i : Nat) : Word :=
  let sN := fNum (Q.ofInt stride)
  let a := fNum ⟨lo, 16⟩
  let b := fNum ⟨hi, 16⟩
  let step := fDiv (fMul (fAdd (fNum (Q.ofInt i)) f32Half).1 (fSub b a).1).1 (fMul sN (fNum (Q.ofInt grid))).1
  (fSub (fAdd (fDiv a sN).1 step.1).1 f32Half).1

/-- A coordinate lies outside the map: below -1 or above its extent. -/
def outside (v : Word) (n : Nat) : Bool := Q.lt (f32 v) (Q.ofInt (-1)) || Q.lt (Q.ofInt n) (f32 v)

/-- The two neighbours of a clamped coordinate and its two weights (R172). (DEDUCED: log entry 29.) -/
def neighbours (v : Word) (n : Nat) : Nat × Nat × Word × Word :=
  let src := fMin (fMax v 0#32) (fNum (Q.ofInt ((n : Int) - 1)))
  let i0 := (f32 src).floor.toNat
  let w1 := (fSub src (fNum (Q.ofInt i0))).1
  (i0, min (i0 + 1) (n - 1), (fSub f32One w1).1, w1)

/-- What sampling gives: the value, the overflows and the NaN and infinity codes read (R199, R208). -/
structure Sample where
  val : Word
  ovf : Nat
  bad : Nat
  deriving DecidableEq, Repr

/-- One channel of one cell: columns first, then rows (R172, R276). (DEDUCED: log entry 29.) -/
def sample (hd : NumHdr) (map : List Byte) (ch h w k : Nat) (sy sx fill : Word) : Sample :=
  if outside sy h || outside sx w then ⟨fill, 0, 0⟩
  else
    let y := neighbours sy h
    let x := neighbours sx w
    let line := fun (r : Nat) =>
      let a := mapElem hd map ch w k r x.1
      let b := mapElem hd map ch w k r x.2.1
      let m := blend x.2.2.1 x.2.2.2 a.val b.val
      (m.1, m.2 + a.ovf + b.ovf, a.bad + b.bad)
    let p := line y.1
    let q := line y.2.1
    let r := blend y.2.2.1 y.2.2.2 p.1 q.1
    ⟨r.1, r.2 + p.2.1 + q.2.1, p.2.2 + q.2.2⟩

/-- A channel row of values in the stage's input format: its element words and its scale word (R163, R203, R204). A grid
row has at most 32 elements and is one group. -/
def inputRow (hd : NumHdr) (vs : List Word) : List Burst :=
  let r := convertRun hd true vs
  [burstOf (packElems hd.cfmt r.1), BitVec.ofNat 256 r.2.toNat]

/-- The header word of a box (R277). -/
def boxHeader (valid track : Bool) (b : Box) : Burst :=
  BitVec.ofNat 256 (b2n valid + 2 * b2n track + 2 ^ 16 * b.x0 + 2 ^ 32 * b.y0 + 2 ^ 48 * b.x1 + 2 ^ 64 * b.y1)

/-- The words of one box with the KIND of each, the samples filled, the overflows and the NaN and infinity codes read. -/
def boxWords (c : Memory) (o : Nat) (src hd : NumHdr) (map : List Byte) (b : Option (Bool × Box)) :
    List (Burst × Nat) × Nat × Nat × Nat :=
  let ch := pay c o 2
  let mh := pay c (o + 2) 2
  let mw := pay c (o + 4) 2
  let st := pay c (o + 6) 1
  let gh := pay c (o + 7) 1
  let gw := pay c (o + 8) 1
  let fill := BitVec.ofNat 32 (pay c (o + 0x10) 4)
  match b with
  | none =>
    let row := (upto ch).map (fun k => (0#256, 0) :: [(0#256, b2n (k + 1 = ch))])
    ((0#256, 0) :: ((upto gh).map (fun _ => row.flatten)).flatten, 0, 0, 0)
  | some (tr, bx) =>
    let sy := fun (i : Nat) => coord bx.y0 bx.y1 st gh i
    let sx := fun (j : Nat) => coord bx.x0 bx.x1 st gw j
    let vals := fun (i k : Nat) => (upto gw).map (fun j => sample src map ch mh mw k (sy i) (sx j) fill)
    let rows := (upto gh).map (fun i => ((upto ch).map (fun k =>
      let ws := inputRow hd ((vals i k).map (·.val))
      (ws.zip (upto ws.length)).map (fun p => (p.1, b2n (p.2 + 1 = ws.length && k + 1 = ch))))).flatten)
    let all := ((upto gh).map (fun i => ((upto ch).map (vals i)).flatten)).flatten
    let fills := ((upto gh).map (fun i => ((upto gw).filter (fun j => outside (sy i) mh || outside (sx j) mw)).length)).foldl (· + ·) 0
    ((boxHeader true tr bx, 0) :: rows.flatten, fills, all.foldl (fun n v => n + v.ovf) 0, all.foldl (fun n v => n + v.bad) 0)

/-- The box list of a frame (R275): detections, then predicted boxes of confirmed and lost tracks.
(DEDUCED: log entry 29.) -/
def State.boxList (s : State) (f : Frame) (o : Nat) : List ((Bool × Nat) × Box) :=
  let c := s.img.copy
  let src := pay c (o + 9) 1
  let ds := if src = 1 then [] else (f.dets.zip (upto f.dets.length)).map (fun p => ((false, p.2), p.1.box))
  let ts := if src = 0 then [] else ((upto 512).filter (fun t => (s.track f.stream t).held)).map
    (fun t => ((true, t), (s.track f.stream t).predict (imgW c f.wide) (imgH c f.wide)))
  (ds ++ ts).take (pay c (o + 10) 2)

/-- CROP_AND_RESIZE of the oldest suppressed frame once its source map is there (R275 to R277); the map buffer is free then. `words`
is what the check of the map found, `ecc` that of the unit's other words (R455). -/
def execCropAndResize (words ecc : Ecc) (s : State) : Out :=
  match s.frameIn (· == .suppressed), s.cropStage with
  | some f, some cs =>
    let c := s.img.copy
    let o := stgParams c cs f.wide
    let n0 := f.ordinal.getD 0
    let ps := (stgProducers c cs).headD 0
    let src := tget NumHdr.zero s.num.hdrs ps
    let hd := tget NumHdr.zero s.num.hdrs cs
    let list := s.boxList f o
    let count := pay c (o + 10) 2
    let map := wordsBytes (s.unitWords 8 ps n0)
    let boxes := (upto count).map (fun i => boxWords c o src hd map ((list[i]?).map (fun p => (p.1.1, p.2))))
    let ws := (boxes.map (·.1)).flatten
    let n := ws.length
    let tag := BitVec.ofNat 2 (2 * b2n s.bank + b2n f.wide)
    let sent := (ws.zip (upto n)).map (fun p => (p.1.1, if p.2 + 1 = n then 2 else p.1.2))
    let u := sent.foldl (fun (u : State) p => u.unitSend 8 0 (unitWord 0 tag p.2 p.1)) s
    let v := (u.count Reg.cruBoxCnt list.length).count Reg.cruFillCnt (boxes.foldl (fun m b => m + b.2.1) 0)
    let w := (v.countOvf (s.firstTile cs) (boxes.foldl (fun m b => m + b.2.2.1) 0)).countNonfin (boxes.foldl (fun m b => m + b.2.2.2) 0)
    let x := (w.mapFrame f (fun g => { g with phase := .cropped, boxes := list.map (·.1) })).dropRows 8 ps n0
    onlyIf (s.engineUp && s.blockEn 8 && !s.faulted && s.unitHas 8 ps (2 * b2n s.bank + b2n f.wide) n0) s
      (if words = .uncorrectable ∨ ecc = .uncorrectable then s.unitFault 8 f else x.sendCropOwed)
  | _, _ => .next s

/-! ## TRACK_ASSOCIATION (R278 to R283) -/

/-- Fields of a refinement word: RSCORE and the four deltas. -/
def rscore (w : BitVec 80) : Nat := fld w 15 0
def rdelta (w : BitVec 80) (k : Nat) : Int := sInt 16 (fld w (31 + 16 * k) (16 + 16 * k))

/-- A detection after refinement; none where it is removed (R278). (DEDUCED: log entry 28.) -/
def refineDet (w h thresh : Nat) (d : Det) (r : BitVec 80) : Option Det :=
  let b := clampBox w h (d.x0.toNat + rdelta r 0) (d.y0.toNat + rdelta r 1) (d.x1.toNat + rdelta r 2) (d.y1.toNat + rdelta r 3)
  if rscore r < thresh ∨ b.1.empty then none
  else some { d with
    score := BitVec.ofNat 16 (rscore r), dflags := d.dflags ||| 4#8 ||| BitVec.ofNat 8 (b2n b.2)
    x0 := BitVec.ofNat 16 b.1.x0, y0 := BitVec.ofNat 16 b.1.y0, x1 := BitVec.ofNat 16 b.1.x1, y1 := BitVec.ofNat 16 b.1.y1 }

/-- An eligible pair: detection, track entry, intersection and union. -/
structure Pair where
  d : Nat
  t : Nat
  i : Nat
  u : Nat
  deriving DecidableEq, Repr

/-- IoU descending, then detection, then entry (R281). -/
def pairBefore (a b : Pair) : Bool :=
  if a.i * b.u ≠ b.i * a.u then b.i * a.u < a.i * b.u
  else if a.d ≠ b.d then a.d < b.d else a.t ≤ b.t

/-- Match pairs in order. -/
def matchPairs : List Pair → List (Nat × Nat) → List (Nat × Nat)
  | [], m => m
  | p :: ps, m => if m.any (fun x => x.1 == p.d || x.2 == p.t) then matchPairs ps m else matchPairs ps (m ++ [(p.d, p.t)])

/-- VEL after a match (R282), from the sums of the new and the old edges. -/
def velStep (v : BitVec 16) (new old : Nat) (misses : Nat) : BitVec 16 :=
  let vm : Q := ⟨(new : Int) - old, 2 * (misses + 1)⟩
  let r := (((Q.ofInt (sInt 16 v.toNat)).add vm).mul ⟨1, 2⟩).near
  ofInt 16 (max (-32768) (min 32767 r))

/-- A matched track. -/
def Track.hit (t : Track) (d : Det) (seq : Word) : Track :=
  { t with
    vx := velStep t.vx (d.x0.toNat + d.x1.toNat) (t.x0.toNat + t.x1.toNat) t.misses.toNat
    vy := velStep t.vy (d.y0.toNat + d.y1.toNat) (t.y0.toNat + t.y1.toNat) t.misses.toNat
    x0 := d.x0, y0 := d.y0, x1 := d.x1, y1 := d.y1, cls := d.cls, score := d.score, lastSeq := seq, misses := 0, st := 2 }

/-- An unmatched track: kept by its crop score, freed, or lost by one more frame. -/
def Track.miss (t : Track) (w h maxMisses keep : Nat) (rs : Option Nat) : Track :=
  if t.held && keep != 0 && rs.any (fun r => keep ≤ r) then
    let b := t.predict w h
    { t with x0 := BitVec.ofNat 16 b.x0, y0 := BitVec.ofNat 16 b.y0, x1 := BitVec.ofNat 16 b.x1, y1 := BitVec.ofNat 16 b.y1 }
  else if t.st = 1 then Track.zero
  else if maxMisses < t.misses.toNat + 1 then Track.zero
  else { t with st := 3, misses := t.misses + 1 }

/-- The entry a new track takes: the lowest free one, else the lost one with the most misses. -/
def openEntry (ts : List Track) : Option Nat :=
  let n := ts.length
  match (upto n).find? (fun i => !(ts.getD i Track.zero).live) with
  | some i => some i
  | none => ((upto n).filter (fun i => (ts.getD i Track.zero).st == 3)).foldl (fun best i =>
      match best with
      | none => some i
      | some b => if (ts.getD b Track.zero).misses.toNat < (ts.getD i Track.zero).misses.toNat then some i else some b) none

/-- What association carries along as it opens tracks. -/
structure Assoc where
  ts : List Track
  dets : List Det
  nextId : Word
  opened : Nat
  full : Nat
  deriving DecidableEq, Repr

/-- The track fields of a detection (R286). -/
def Det.withTrack (d : Det) (t : Track) (new : Bool) : Det :=
  { d with trackId := t.id, slot := t.slot, trackState := t.st, dflags := d.dflags ||| BitVec.ofNat 8 (2 * b2n new) }

/-- A stream's track number after one (R254). -/
def trackIdAfter (n : Word) : Word := if n = 0xFFFFFFFF#32 then 1 else n + 1

/-- Detection `i` is matched, opens a track, or stays without one. -/
def Assoc.step (a : Assoc) (m : List (Nat × Nat)) (openT : Nat) (seq slot : Word) (d : Det) (i : Nat) : Assoc :=
  match m.find? (fun p => p.1 == i) with
  | some p => { a with dets := a.dets ++ [d.withTrack (a.ts.getD p.2 Track.zero) false] }
  | none =>
    if d.score.toNat < openT then { a with dets := a.dets ++ [d] }
    else match openEntry a.ts with
      | none => { a with dets := a.dets ++ [d], full := a.full + 1 }
      | some e =>
        let t : Track := { Track.zero with
          id := a.nextId, st := 1, cls := d.cls, score := d.score, lastSeq := seq, slot := slot
          x0 := d.x0, y0 := d.y0, x1 := d.x1, y1 := d.y1 }
        { a with ts := a.ts.set e t, dets := a.dets ++ [d.withTrack t true], nextId := trackIdAfter a.nextId, opened := a.opened + 1 }

/-- The SLOT link a frame's tracks take (R283). -/
def Frame.link (f : Frame) : Option Word := f.appended.map (fun j => BitVec.ofNat 32 (2 ^ 31 + j.toNat))

/-- A detection with the refinement word of its box, where the crop unit sent one. -/
def Frame.refined (f : Frame) (refine : List (BitVec 80)) (w h : Nat) : List (Option Det) :=
  (f.dets.zip (upto f.dets.length)).map (fun p =>
    match (upto f.boxes.length).find? (fun j => f.boxes.getD j (true, 0) == (false, p.2)) with
    | some j => refineDet w h (f.thresholds.getD 0 0) p.1 (refine.getD j 0)
    | none => some p.1)

/-- Association over a stream's 512 entries. -/
def associate (f : Frame) (dets : List Det) (ts : List Track) (ids : Word) (w h keep : Nat) (rs : Nat → Option Nat) : Assoc :=
  let th := f.thresholds
  let pairs := ((upto 512).map (fun t =>
    let x := ts.getD t Track.zero
    if !x.live then []
    else
      let b := x.predict w h
      (dets.zip (upto dets.length)).filterMap (fun p =>
        let i := p.1.box.inter b
        if p.1.cls = x.cls ∧ 0 < i ∧ p.1.box.reaches b (th.getD 2 0) then some (Pair.mk p.2 t i (p.1.box.union b)) else none))).flatten
  let m := matchPairs (sortBy pairBefore pairs) []
  let after := (upto 512).map (fun t =>
    let x := ts.getD t Track.zero
    if !x.live then x
    else match m.find? (fun p => p.2 == t) with
      | some p =>
        let y := x.hit (dets.getD p.1 ⟨0, 0, 0, 0, 0, 0, 0, 0, 0, 0, 0⟩) f.seq
        { y with slot := f.link.getD y.slot }
      | none => x.miss w h (th.getD 3 0) keep (rs t))
  (dets.zip (upto dets.length)).foldl
    (fun a p => a.step m (th.getD 4 0) f.seq (f.link.getD 0) p.1 p.2) ⟨after, [], ids, 0, 0⟩

/-- The refinement words that the CROP_FEATURES stage has sent for a frame, in the order of its boxes (R278). -/
def State.refineWords (s : State) (f : Frame) : List (BitVec 80) :=
  match s.cropStage with
  | some cs => (s.unitWords 7 cs (f.ordinal.getD 0)).map (fun w => BitVec.ofNat 80 w.toNat)
  | none => []

/-- TRACK_ASSOCIATION: where the image has a CROP_FEATURES stage, once its words for the frame are there; `bad` names the track
entries that hold an uncorrectable word, which are freed; `words` is what the check of the refinement words found, `ecc` that of the
unit's other words (R455). -/
def execTrackAssociation (words : Ecc) (bad : List (BitVec 9)) (ecc : Ecc) (s : State) : Out :=
  match s.frameIn (fun p => if s.cropStage.isSome then p == .cropped else p == .suppressed) with
  | none => .next s
  | some f =>
    let c := s.img.copy
    let st := f.stream
    let w := imgW c f.wide
    let h := imgH c f.wide
    let keep := match s.cropStage with
      | some cs => pay c (stgParams c cs f.wide + 0xC) 2
      | none => 0
    let refine := s.refineWords f
    let ref := f.refined refine w h
    let dets := ref.filterMap id
    let dropped := (ref.filter (·.isNone)).length
    let on := s.rbit Reg.ppuCtl 1
    let hurt := (bad.eraseDups.filter (fun t => (s.track st t.toNat).live)).length
    let u0 := times (fun u => u.contained 7 st) (if on then hurt else 0) s
    let rs := fun (t : Nat) => ((upto f.boxes.length).find? (fun j => f.boxes.getD j (false, 0) == (true, t))).map
      (fun j => rscore (refine.getD j 0))
    let ts := (upto 512).map (fun t => if bad.contains (BitVec.ofNat 9 t) then Track.zero else s.track st t)
    let a := associate f dets ts (s.sctx st).nextTrack w h keep rs
    let b : Assoc := if on then a else ⟨(upto 512).map (s.track st), dets, (s.sctx st).nextTrack, 0, 0⟩
    let u := u0.setSctx st { u0.sctx st with nextTrack := b.nextId }
    let table := (b.ts.zip (upto 512)).foldl (fun m p => tset Track.zero m (512 * st + p.2) p.1) u.ctx.tracks
    let v := (({ u with ctx := { u.ctx with tracks := table } }).count Reg.ppuRefineDropCnt dropped).count Reg.ppuTrackOpenCnt b.opened
    let x := if b.full = 0 then v else (v.count Reg.ppuTrackFullCnt b.full).setBits Reg.ppuStat 2#32
    let y := x.mapFrame f (fun g => { g with
      phase := .ended, dets := b.dets, trackFull := b.full != 0, tracks := BitVec.ofNat 16 (b.ts.filter Track.live).length })
    let ready := s.cropStage.all (fun cs => s.unitHas 7 cs (2 * b2n s.bank + b2n f.wide) (f.ordinal.getD 0))
    let z := (s.cropStage.map (fun cs => y.dropRows 7 cs (f.ordinal.getD 0))).getD y
    onlyIf (s.engineUp && s.blockEn 7 && !s.faulted && ready) s
      (if words = .uncorrectable ∨ ecc = .uncorrectable then s.unitFault 7 f else z)

end Sys2Proof.Machine
end

