-- ==== Sys2Proof/Machine/RegWrite.lean ====
section
/-! DEFINITION. A write of one register word through its value, set, clear or toggle word (R384 to R390), with the actions
that registers start, and a read of one (R385, R397). -/

namespace Sys2Proof.Machine

/-! ## Soft reset request (R363, R403) -/

/-- Accept a soft reset with its cause, unless one is pending. -/
def State.requestReset (s : State) (cause : Nat) : State :=
  if s.dev.pendingReset.isSome then s
  else { s.putFld Reg.devStat 3 0 2 with dev := { s.dev with pendingReset := some (BitVec.ofNat 4 cause) } }

def resetKey : Word := 0xB0070001#32

/-- SOFT_RESET: the key written to DEV_RESET or to object 0x1000:07. -/
def execSoftReset (viaObject : Bool) (key : Word) (s : State) : Out :=
  onlyIf (s.up && key == resetKey && (viaObject || s.engineUp)) s (s.requestReset (if viaObject then 2 else 1))

/-! ## Mailbox (R373) -/

/-- Byte `i` of MBX_REQ_DATA. -/
def State.reqByte (s : State) (i : Nat) : Byte := if i < 1040 then byteOf (s.reg (Reg.mbxReqData + 16 * (i / 4))) (i % 4) else 0

/-- A write of MBX_SUBMIT: taken while EN is 1 and BUSY is 0. (DEDUCED: log entry 42.) -/
def State.submit (s : State) (v : Word) : State :=
  if s.blockEn 17 && !s.rbit Reg.mbxStat 0 then
    let u := (s.setReg Reg.mbxSubmit (v &&& 0x7FF#32)).putFld Reg.mbxStat 1 0 1
    { u with dict := { u.dict with queue := u.dict.queue ++ [(.mailbox, (upto (fld v 10 0)).map s.reqByte)], mbxAt := u.clock.now } }
  else s.count Reg.mbxIgnCnt 1

def execMbxSubmit (v : Word) (s : State) : Out := onlyIf s.engineUp s (s.submit v)

/-! ## Action registers -/

/-- The WO bits that a write of `v` through word `k` sets: none through the clear word (R385). -/
def actions (k : Nat) (v : Word) : Word := if k = 2 then 0#32 else v

/-- FAB_DRAIN_CTL (R521): one action at most; METHOD is taken in any case, and first. R521 does not say whether a write with
several action bits counts once or once a bit: the model counts it once. (DESIGN CHOICE: log entry 85.) -/
def State.drainCtl (s : State) (k : Nat) (v : Word) : State :=
  let old := s.reg Reg.fabDrainCtl
  let u := s.setReg Reg.fabDrainCtl (aliasValue k old v &&& 0x1#32)
  match fld (actions k v) 4 1 with
  | 0 => u
  | 1 => u.start
  | 2 => u.resume
  | 4 => u.scanIn
  | 8 => u.flushAll
  | _ => u.cfgIgn 4

/-- TEL_CAP_CTL: the fields, then ARM, DISARM and RELEASE. A reserved TRIG keeps the old one and refuses an ARM of the same
write (R387, R486). (DEDUCED: log entry 56.) -/
def State.capCtl (s : State) (k : Nat) (v : Word) : State :=
  let old := s.reg Reg.telCapCtl
  let asked := aliasValue k old v &&& 0xFF3E#32
  let u := s.setReg Reg.telCapCtl (keepReserved (codedFields Reg.telCapCtl) old asked)
  let a := actions k v
  let w := if bit a 0 then (if 3 < fld asked 3 1 then u.setBits Reg.telStat 0x100#32 else u.captureArm) else u
  let x := if bit a 6 then w.captureDisarm else w
  if bit a 7 then x.captureRelease else x

/-! ## Fields (R384 to R390) -/

/-- The register's fields after a write of `v` through word `k`, and whether a configuration field kept its value. -/
def State.fields (s : State) (a k : Nat) (v : Word) : Word × Bool :=
  let d := regDesc a
  let old := s.reg a
  let en := s.blockEn (a / 0x10000)
  let asked := (old &&& ~~~d.rw) ||| (aliasValue k old v &&& d.rw)
  let coded := keepReserved (codedFields a) old asked
  let ign := en && ((coded ^^^ old) &&& d.cfg) != 0#32
  let w := if en then (coded &&& ~~~d.cfg) ||| (old &&& d.cfg) else coded
  (if k = 2 then w &&& ~~~(v &&& d.sticky) else w, ign)

/-- What the chapters add to EN: ADM_CTL.EN is set only in COMMITTED, STM_CTL.EN cleared only in EMPTY, VERIFIED and
REJECTED (R390). -/
def State.enRule (s : State) (a : Nat) (w : Word) : Word :=
  let was := s.rbit a 0
  if a = Reg.admCtl ∧ ¬ was ∧ ¬ s.committed then w &&& ~~~1#32
  else if a = Reg.stmCtl ∧ was ∧ ¬ (s.img.st = .empty ∨ s.img.st = .verified ∨ s.img.st = .rejected) then w ||| 1#32
  else w

/-- A write of a plain register. -/
def State.fieldWrite (s : State) (a k : Nat) (v : Word) : State :=
  let r := s.fields a k v
  let u := s.setReg a (s.enRule a r.1)
  if r.2 then u.cfgIgn (a / 0x10000) else u

/-- CTX_CTL: CLEAR_ALL is a configuration action, tested with the other fields against EN as it was (R259, R389). -/
def State.ctxCtlWrite (s : State) (k : Nat) (v : Word) : State :=
  let clear := bit (actions k v) 2
  let r := s.fields Reg.ctxCtl k v
  let u := s.setReg Reg.ctxCtl r.1
  if s.blockEn 6 then (if r.2 || clear then u.cfgIgn 6 else u)
  else if clear then u.clearStore else u

/-- ADM_CTL: the fields, then FLUSH_WAIT. -/
def State.admCtlWrite (s : State) (k : Nat) (v : Word) : State :=
  let u := s.fieldWrite Reg.admCtl k v
  if bit (actions k v) 3 then u.flushWait else u

/-- FLT_CTL: what a change of EN starts or ends (R460). (DEDUCED: log entry 32.) -/
def State.fltCtlWrite (s : State) (k : Nat) (v : Word) : State :=
  let u := s.fieldWrite Reg.fltCtl k v
  if s.blockEn 14 then (if u.blockEn 14 then u else { u with flt := { u.flt with walk := none } })
  else if u.blockEn 14 then u.startRole else u

/-! ## A register write -/

/-- The common registers of a block (R382): SNAP and the indirect pair. -/
def State.commonWrite (s : State) (b off k : Nat) (v : Word) : State :=
  if off = 0xFE00 then (if bit (actions k v) 0 then s.snapTake b else s)
  else if off = 0xFF00 then
    let old := s.reg (indCtl b)
    let w := setFld old 0 0 (fld (aliasValue k old v) 0 0)
    s.setReg (indCtl b) (if k = 2 then w &&& ~~~(v &&& 0x4#32) else w)
  else if off = 0xFF10 then s.indAddrWrite b k v
  else if off = 0xFF20 then (if k = 0 then s.indDataWrite b v else s)
  else s

/-- A write of `v` through word `k` (0 value, 1 set, 2 clear, 3 toggle) of the register whose value word stands at `a`. -/
def State.regWrite (s : State) (a k : Nat) (v : Word) : State :=
  let b := a / 0x10000
  let off := a % 0x10000
  if 18 ≤ b then s
  else if 0xFE00 ≤ off then s.commonWrite b off k v
  else if 0x8000 ≤ off then s
  else if a = Reg.devReset then (if k = 0 ∧ v = resetKey then s.requestReset 1 else s)
  else if a = Reg.admCtl then s.admCtlWrite k v
  else if a = Reg.fabDrainCtl then s.drainCtl k v
  else if a = Reg.ctxCtl then s.ctxCtlWrite k v
  else if a = Reg.stmJraBase then s.jraBase (aliasValue k (s.reg a) v)
  else if a = Reg.stmStat then s.landed.fieldWrite a k v
  else if a = Reg.stmSpBurst then s.settleTokens.fieldWrite a k v
  else if a = Reg.fltCtl then s.fltCtlWrite k v
  else if a = Reg.fltLease then (if k = 0 then s.renewLease v else s)
  else if a = Reg.fltJrnAck then s.ackJournal (aliasValue k (s.reg a) v)
  else if a = Reg.fltJrnApply then s.applyJournal (aliasValue k (s.reg a) v)
  else if a = Reg.fltJrnCmd then (if bit (actions k v) 0 && !s.faulted then s.resync else s)
  else if a = Reg.telCapCtl then s.capCtl k v
  else if a = Reg.mbxSubmit then s.submit (aliasValue k (s.reg a) v)
  else if Reg.mbxReqData ≤ a ∧ a < Reg.mbxReqData + 16 * 260 then
    if s.rbit Reg.mbxStat 0 then s.count Reg.mbxIgnCnt 1 else s.setReg a (aliasValue k (s.reg a) v)
  else (s.fieldWrite a k v).driveAlert

/-! ## A register read -/

/-- The word a read of word `k` of a register returns, and what the read does (R385, R397). -/
def State.regRead (s : State) (a k : Nat) : Word × State :=
  let b := a / 0x10000
  if 18 ≤ b then (0#32, s)
  else if a % 0x10000 = 0xFF20 then (if k = 0 then s.indDataRead b else (0#32, s))
  else if a = Reg.fltLease ∨ a = Reg.devReset then (0#32, s)
  else (s.readReg a, s)

end Sys2Proof.Machine
end

