-- ==== Sys2Proof/Machine/Objects.lean ====
section
/-! DEFINITION. The object dictionary as data (R353 to R362 and each chapter's object table): which objects exist, their
types, access classes, defaults and owning blocks, what a read of each gives, and a write of each object that starts no
action. -/

namespace Sys2Proof.Machine

/-! ## Object descriptions -/

/-- An object: type code of R354, access as INFO gives it (0 RO, 1 RW, 2 WO, 3 RWD, 4 CONST), default, persist flag, owning
block and, for OCTETS, the size. `dflt` none: the default is what the object shows ("per part", "from the profile"). -/
structure Obj where
  type : Nat
  access : Nat
  dflt : Option Nat
  persist : Bool
  block : Nat
  octets : Nat
  deriving DecidableEq, Repr

/-- Size in bytes of a type of fixed size. -/
def typeSize (t : Nat) : Nat :=
  if t = 1 ∨ t = 2 ∨ t = 6 then 1 else if t = 3 ∨ t = 7 then 2 else if t = 4 ∨ t = 8 ∨ t = 10 then 4
  else if t = 5 ∨ t = 9 then 8 else 0

/-- A read-only, read-write, write-only and RWD object of a simple type. (DEDUCED: log entry 47.) -/
def oRo (t b : Nat) (d : Option Nat := some 0) : Obj := ⟨t, 0, d, false, b, 0⟩
def oRw (t b d : Nat) (p : Bool := true) : Obj := ⟨t, 1, some d, p, b, 0⟩
def oWo (t b : Nat) : Obj := ⟨t, 2, some 0, false, b, 0⟩
def oRwd (t b d : Nat) (p : Bool := true) : Obj := ⟨t, 3, some d, p, b, 0⟩
/-- OCTETS of a size. -/
def oOct (a b n : Nat) : Obj := ⟨11, a, none, false, b, n⟩

/-- Objects of the ranges from 0x1000 to 0x3030, by increasing subindex from 1. -/
def objectsLow (i : Nat) : List Obj :=
  if i = 0x1000 then
    [⟨12, 4, none, false, 0, 0⟩, ⟨12, 4, none, false, 0, 0⟩, ⟨2, 4, none, false, 0, 0⟩, oOct 4 0 16, oRo 4 0 none, oRo 5 0,
     oWo 4 0, oRw 4 0 0]
  else if i = 0x1010 then
    [oRw 4 0 0, oRw 4 0 0, oRw 4 0 0, oOct 4 0 6, oRw 2 0 2, oRo 2 0, oRo 4 0, oRo 4 0]
  else if i = 0x1100 then
    [oRo 3 11, oRo 3 11, oRo 4 11, oRo 4 11, oRo 3 11, oRo 3 11, oRo 4 11, oRo 4 11]
  else if i = 0x2000 then
    [oRw 2 0 0xFF false, oRo 2 0 none, oRo 2 0 none, oWo 2 0, oRo 2 0, oRo 3 0, oRw 2 0 0 false]
  else if 0x2010 ≤ i ∧ i < 0x2014 then
    [oOct 1 0 64, oRo 2 0 none, oRo 4 0 none, oRo 3 0 none, oRo 4 0 none, oRo 3 0]
  else if i = 0x3000 then
    [oRo 2 1, oWo 2 1, oOct 0 1 64, oRo 3 1, oRwd 2 1 0, oRw 2 4 0, oOct 0 3 64, oRw 1 1 0]
  else if i = 0x3010 then [oRwd 4 1 20480, oRo 4 1 (some 126953), oRwd 4 1 0]
  else if i = 0x3020 then (upto 5).map (fun _ => ⟨3, 1, none, false, 7, 0⟩)
  else if i = 0x3030 then [oRw 3 9 0x1000, oRw 3 9 0xFFFF, oRw 4 9 2048, oRwd 1 9 1]
  else []

/-- Objects of the ranges from 0x4000 to 0x6100. -/
def objectsMid (i : Nat) : List Obj :=
  if 0x4000 ≤ i ∧ i < 0x4400 then [oRwd 1 1 1, oRwd 1 1 0, oRo 5 1, oRo 4 1, oRo 4 1]
  else if i = 0x5000 then [oRwd 1 5 1, oRwd 2 5 1, oRwd 2 5 8, oRo 4 5]
  else if 0x5200 ≤ i ∧ i < 0x5400 then
    [⟨4, 1, none, false, 5, 0⟩, ⟨4, 1, none, false, 5, 0⟩, oRo 4 5, oRo 4 5, oRo 5 5, oRo 10 5, oRo 4 5, oRo 4 5]
  else if i = 0x6000 then [oRwd 1 6 1, oRo 4 6, oRwd 1 6 0 false, oRo 4 6, oRo 5 6, oRo 5 6, oRo 4 6]
  else if 0x6100 ≤ i ∧ i < 0x6500 then
    [oRwd 3 6 32768, oRwd 3 6 1024, oRo 3 6, oRo 3 6, oWo 1 6, oRo 4 6, oRo 3 6]
  else []

/-- Objects of the ranges from 0x7000 upward. -/
def objectsHigh (i : Nat) : List Obj :=
  if i = 0x7000 then [oRwd 2 14 0, oRwd 3 14 50, oRo 4 14, oWo 4 14, oRo 4 14, oRo 2 14, oRo 4 14]
  else if i = 0x7010 then [oRo 4 3, oRo 3 3 (some 512), oRo 4 3, oRo 3 3]
  else if i = 0x7020 then
    [oRo 5 10, oRo 4 10, oRo 4 10, oRo 3 10 (some 16384), oRo 3 10 (some 2048), oRw 2 10 8, oRo 4 10, oRo 4 9]
  else if i = 0x7030 then [oRo 5 14, oRw 4 14 0 false, oWo 1 14, oRo 4 14, oRo 4 14, oRo 2 14]
  else if i = 0x8000 then [oRw 3 15 10, oRo 4 15, oRo 4 15, oRo 4 15, oRo 7 15]
  else if i = 0x8100 then [oRw 4 15 0 false, oRw 5 15 0 false, oRw 3 15 0 false, oRo 2 15, oRo 13 15]
  else if i = 0x8200 then [oRo 4 15, oRo 13 15, oRo 13 15, oRo 13 15, oRo 4 15, oRo 4 15 none]
  else if i = 0x8300 then [oRo 2 15 (some 48), ⟨2, 4, none, false, 15, 0⟩]
  else if i = 0xA000 then
    [⟨4, 1, none, false, 16, 0⟩, oRo 2 16 none, oRo 4 16 none, oRo 4 16 none, oOct 4 16 64, oRo 13 16]
  else if i = 0xA010 then [⟨13, 2, none, false, 16, 0⟩, oWo 2 16, oRo 2 16, oRo 3 16]
  else if i = 0xA020 then [oOct 1 16 32, oWo 2 16, oRo 2 16, oRo 13 16]
  else if 0xA030 ≤ i ∧ i < 0xA036 then [oOct (if i < 0xA032 then 4 else 1) 16 64, oRo 2 16 none, oWo 1 16]
  else []

/-- The objects of an index, subindex 1 first; empty where the index does not exist (R361). (DEDUCED: log entry 47.) -/
def objects (i : Nat) : List Obj := if i < 0x4000 then objectsLow i else if i < 0x7000 then objectsMid i else objectsHigh i

/-- An object; subindex 0 holds the highest subindex in use (R353). -/
def objAt (i sub : Nat) : Option Obj :=
  match objects i with
  | [] => none
  | o :: os => if sub = 0 then some ⟨2, 4, none, false, o.block, 0⟩ else (o :: os)[sub - 1]?

/-- Every persisted object: index, subindex and description, in increasing order (R357, R375). -/
def persisted : List (Nat × Nat × Obj) :=
  let at_ := fun (i : Nat) => ((upto 8).filterMap (fun n => (objAt i (n + 1)).map (fun o => (i, n + 1, o)))).filter (fun p => p.2.2.persist)
  ([0x1000, 0x1010, 0x3000, 0x3010, 0x3030].map at_).flatten ++ ((upto 1024).map (fun s => at_ (0x4000 + s))).flatten ++
  at_ 0x5000 ++ at_ 0x6000 ++ ((upto 1024).map (fun s => at_ (0x6100 + s))).flatten ++
  ([0x7000, 0x7020, 0x8000].map at_).flatten

/-! ## Profiles as a read shows them (R374 to R376) -/

def Profile.positions (p : Profile) : List PPos := [p.p0, p.p1, p.p2]

/-- The newest valid record of a profile, with its position. -/
def Profile.newest (p : Profile) : Option (Nat × PRecord) :=
  (p.positions.zip (upto 3)).foldl (fun best q =>
    match q.1, best with
    | .valid r, some b => if b.2.gen < r.gen then some (q.2, r) else best
    | .valid r, none => some (q.2, r)
    | _, _ => best) none

/-- STATE as it is worked out at reset: 0 EMPTY, 1 VALID, 2 DAMAGED. -/
def Profile.found (p : Profile) : Nat :=
  if p.newest.isSome then 1 else if p.positions.all (· == .erased) then 0 else 2

/-- The profiles in flash. -/
def State.profile (s : State) (p : Nat) : Profile := tget Profile.blank s.flash.profiles p

/-- The IMAGE_DIGEST a profile's records give (R376). -/
def Profile.digest (p : Profile) : BitVec 512 :=
  match p.newest with
  | some r => r.2.digest
  | none => if p.found = 0 then 0 else BitVec.allOnes 512

/-! ## Values of objects of numeric types -/

/-- Slots valid over every stream. -/
def State.slotsValid (s : State) : Nat := (upto 1024).foldl (fun n st => n + s.validCount st) 0

/-- Track entries of a stream whose TRACK_ID is not 0 (R254, R261). -/
def State.trackCount (s : State) (st : Nat) : Nat :=
  (s.ctx.tracks.filter (fun p => p.1 / 512 == st && p.2.id != 0#32)).length

/-- The smallest of a channel figure over the 64 channels. -/
def State.chanMin (s : State) (f : Chan → Nat) : Nat :=
  (upto 64).foldl (fun m c => min m (f (s.chan c))) (f (s.chan 0))

/-- JOURNAL_SEQ (R477, R478). -/
def State.journalSeq (s : State) : Nat := if s.secondary then s.flt.lastJ else s.flt.nextJ

/-- TEMP_MAX: the highest reading of the last window (R495). -/
def State.tempMax (s : State) : BitVec 16 :=
  match s.tel.tempSum with
  | [] => 0
  | p :: ps => ps.foldl (fun m q => if sInt 16 m.toNat < sInt 16 q.2.hi.toNat then q.2.hi else m) p.2.hi

/-- The address in use on the management port, if any (R363, R369). -/
def State.ipInUse (s : State) : Option (BitVec 32) :=
  let a := s.objVal (okey 0x1010 1) 0
  if a = 0 then s.dict.localIp else some (BitVec.ofNat 32 a)

/-- LINK_STATE (R363). -/
def State.linkState (s : State) : Nat := if s.dict.link then (if s.ipInUse.isSome then 2 else 1) else 0

/-- The first failed check of a firmware bank, coded as FW_UPDATE_RESULT: 0 none, 1 signature or key, 2 format or length, 3
VERSION below FW_MIN_VERSION (R432, R441, R451). -/
def State.bankCheck (s : State) (bs : List Byte) : Nat :=
  let r := envCheck s (Memory.putBytes [] 0 bs) 1 bs.length
  if r = 1 then 1 else if r ≠ 0 then 2 else if fwVersion bs < s.flash.fwMin then 3 else 0

/-- A firmware bank: false A, true B. -/
def State.bankBytes (s : State) (b : Bool) : List Byte := if b then s.flash.bankB else s.flash.bankA

/-- VERSION of a bank, 0 where it is not valid. -/
def State.bankVersion (s : State) (b : Bool) : Nat :=
  if s.bankCheck (s.bankBytes b) = 0 then (fwVersion (s.bankBytes b)).toNat else 0

/-- Values of the identity, port and profile objects. -/
def State.numLow (s : State) (i sub : Nat) : Nat :=
  match i, sub with
  | 0x1000, 3 => Config.siliconRev.toNat
  | 0x1000, 5 => s.fwRunning.toNat
  | 0x1000, 6 => (s.clock.now - s.clock.base) / 100000
  | 0x1010, 5 => s.objVal (okey 0x1010 5) 2
  | 0x1010, 6 => s.linkState
  | 0x1100, 1 => (Config.portRate false).toNat
  | 0x1100, 2 => (Config.portRate true).toNat
  | 0x1100, 3 => (s.reg Reg.hptRefCnt0).toNat
  | 0x1100, 4 => (s.reg Reg.hptRefCnt1).toNat
  | 0x1100, 5 => fld (s.reg Reg.hptSrCnt) 15 0
  | 0x1100, 6 => fld (s.reg Reg.hptSrCnt) 31 16
  | 0x1100, 7 => (s.reg Reg.hptWdiscCnt).toNat
  | 0x1100, 8 => (s.readReg Reg.hptStat).toNat
  | 0x2000, 1 => s.objVal (okey 0x2000 1) 0xFF
  | 0x2000, 2 => s.dict.active.toNat
  | 0x2000, 3 => s.dict.source
  | 0x2000, 5 => s.dict.pstate
  | 0x2000, 6 => s.dict.presult
  | 0x3000, 1 => s.img.st.code
  | 0x3000, 4 => s.img.result.toNat
  | 0x3000, 5 => fld (s.reg Reg.admCtl) 2 1
  | 0x3000, 6 => fld (s.reg Reg.fabDrainCtl) 0 0
  | 0x3010, 1 => (s.reg Reg.admRate).toNat
  | 0x3010, 2 => (s.readReg Reg.admInterval).toNat
  | 0x3010, 3 => (s.reg Reg.admMaxWait).toNat
  | 0x3020, n => (s.thresholds false).getD (n - 1) 0
  | 0x3030, 1 => fld (s.reg Reg.stmSpRate) 31 16
  | 0x3030, 2 => fld (s.reg Reg.stmSpRate) 15 0
  | 0x3030, 3 => (s.reg Reg.stmSpSlack).toNat
  | 0x3030, 4 => b2n (s.rbit Reg.stmCtl 2)
  | _, _ =>
    if 0x2010 ≤ i ∧ i < 0x2014 then
      let p := s.profile (i - 0x2010)
      match sub with
      | 2 => tget 0 s.dict.pfound (i - 0x2010)
      | 3 => match p.newest with | some r => r.2.gen.toNat | none => 0
      | 4 => match p.newest with | some r => r.2.entries.length | none => 0
      | 5 => max p.e0.toNat (max p.e1.toNat p.e2.toNat)
      | _ => tget 0 s.dict.skipped (i - 0x2010)
    else s.objVal (okey i sub) 0

/-- Values of the stream, numeric and context objects. -/
def State.numMid (s : State) (i sub : Nat) : Nat :=
  if i < 0x4400 then
    match sub with
    | 1 => s.objVal (okey i 1) 1
    | 2 => s.objVal (okey i 2) 0
    | 3 => tget 0 s.dict.ext (okey i 3)
    | 4 => (s.stream (i - 0x4000)).refused.toNat
    | _ => (s.stream (i - 0x4000)).overruns.toNat
  else if i = 0x5000 then
    match sub with
    | 1 => b2n (s.rbit Reg.numCtl 1)
    | 2 => fld (s.reg Reg.numGuardLim) 7 0
    | 3 => fld (s.reg Reg.numGuardLim) 15 8
    | _ => (s.reg Reg.numSatEvtCnt + s.reg Reg.numUflEvtCnt + s.reg Reg.numCarryEvtCnt).toNat
  else if i < 0x5400 then
    let g := tget StageStat.zero s.num.stats (i - 0x5200)
    match sub with
    | 1 => g.satThresh.toNat | 2 => g.uflThresh.toNat | 3 => g.sat.toNat | 4 => g.ufl.toNat
    | 5 => g.converted.toNat | 6 => g.mse.toNat | 7 => g.trip.toNat | _ => g.accOvf.toNat
  else if i = 0x6000 then
    match sub with
    | 1 => b2n (s.rbit Reg.ctxCtl 1)
    | 2 => (s.reg Reg.ctxContextId).toNat
    | 3 => 0
    | 4 => s.slotsValid
    | 5 => tget 0 s.dict.ext (okey 0x6000 5)
    | 6 => tget 0 s.dict.ext (okey 0x6000 6)
    | _ => (s.reg Reg.ctxSlotBadCnt).toNat
  else
    let st := i - 0x6100
    match sub with
    | 1 => s.quotaObj st
    | 2 => s.stakeMaxObj st
    | 3 => s.validCount st
    | 4 => (s.sctx st).stake.length
    | 6 => (s.newestSeq st).toNat
    | _ => s.trackCount st

/-- Values of the fault, telemetry and security objects. -/
def State.numHigh (s : State) (i sub : Nat) : Nat :=
  match i, sub with
  | 0x7000, 1 => fld (s.reg Reg.fltCtl) 2 1
  | 0x7000, 2 => (s.reg Reg.fltLeaseMs).toNat
  | 0x7000, 3 => (s.reg Reg.fltEpoch).toNat
  | 0x7000, 5 => s.leaseLeft
  | 0x7000, 6 => fld (s.reg Reg.fltDevfault) 7 0
  | 0x7000, 7 => (s.reg Reg.fltContainedCnt).toNat
  | 0x7010, 1 => (s.reg Reg.plcRemapCnt).toNat
  | 0x7010, 2 => s.sparesFree
  | 0x7010, 3 => (s.reg Reg.plcRemapTime).toNat
  | 0x7010, 4 => s.retiredTiles.eraseDups.length
  | 0x7020, 1 => tget 0 s.dict.ext (okey 0x7020 1)
  | 0x7020, 2 => (s.reg Reg.hbmUeCnt).toNat
  | 0x7020, 3 => (s.reg Reg.hbmRetiredCnt).toNat
  | 0x7020, 4 => s.chanMin (fun x => 16384 - x.granules)
  | 0x7020, 5 => s.chanMin (fun x => 2048 - x.rows)
  | 0x7020, 6 => fld (s.reg Reg.hbmRetireCe) 7 0
  | 0x7020, 7 => (s.reg Reg.hbmScrubPass).toNat
  | 0x7020, 8 => (s.reg Reg.stmWdogCnt).toNat
  | 0x7030, 1 => s.journalSeq
  | 0x7030, 2 => (s.reg Reg.fltJrnAck).toNat
  | 0x7030, 4 => (s.reg Reg.fltJrnBreakCnt).toNat
  | 0x7030, 5 => (s.reg Reg.fltJrnRefusedCnt).toNat
  | 0x7030, 6 => s.mirror
  | 0x8000, 1 => fld (s.reg Reg.telWindow) 9 0
  | 0x8000, 2 => (s.reg Reg.telWindowNum).toNat
  | 0x8000, 3 => (s.reg Reg.telSyncAccCnt).toNat
  | 0x8000, 4 => (s.reg Reg.telSyncIgnCnt).toNat
  | 0x8000, 5 => s.tempMax.toNat
  | 0x8100, 1 => (s.reg Reg.telCapCtl).toNat
  | 0x8100, 2 => (s.reg Reg.telCapMatchLo).toNat + 2 ^ 32 * (s.reg Reg.telCapMatchHi).toNat
  | 0x8100, 3 => fld (s.reg Reg.telCapEvent) 15 0
  | 0x8100, 4 => s.capState
  | 0x8200, 1 => (s.reg Reg.telLogCnt).toNat
  | 0x8200, 5 => (s.reg Reg.telLogHeldCnt).toNat
  | 0x8200, 6 => s.flash.logErases
  | 0x8300, 1 => s.pins.vid.toNat
  | 0x8300, 2 => Config.fusedVid.toNat
  | 0xA000, 1 => s.flash.fwMin.toNat
  | 0xA000, 2 => b2n (s.rbit Reg.secBoot 8)
  | 0xA000, 3 => s.bankVersion false
  | 0xA000, 4 => s.bankVersion true
  | 0xA010, 3 => s.sec.fwState
  | 0xA010, 4 => s.sec.fwResult
  | 0xA020, 3 => s.sec.attest
  | _, 2 => s.keyState (i - 0xA030)
  | _, _ => 0

/-- The value of an object of a type BOOL to F32, as the number its bytes spell. (DEDUCED: log entry 47.) -/
def State.objNum (s : State) (i sub : Nat) : Nat :=
  if sub = 0 then (objects i).length
  else if i < 0x4000 then s.numLow i sub else if i < 0x7000 then s.numMid i sub else s.numHigh i sub

/-! ## Values of the other types -/

/-- ASCII bytes. -/
def asciiBytes (t : String) : List Byte := t.toList.map (fun c => BitVec.ofNat 8 c.toNat)

/-- OCTETS and VSTRING objects. -/
def State.objOctets (s : State) (i sub : Nat) : List Byte :=
  match i, sub with
  | 0x1000, 1 => asciiBytes "CRS-Y6"
  | 0x1000, 2 => asciiBytes "Brodden Microsystems"
  | 0x1000, 4 => leBytes 16 Config.serial.toNat
  | 0x1010, 4 => leBytes 6 Config.mac.toNat
  | 0x3000, 3 => leBytes 64 s.img.digest.toNat
  | 0x3000, 7 => leBytes 64 s.plc.pitchShown.toNat
  | 0xA000, 5 => leBytes 64 Config.devicePk.toNat
  | 0xA020, 1 => leBytes 32 s.sec.nonce.toNat
  | _, _ =>
    if i < 0x3000 then
      leBytes 64 (if i - 0x2010 = s.dict.active.toNat then s.dict.digest else (s.profile (i - 0x2010)).digest).toNat
    else leBytes 64 (if s.keyState (i - 0xA030) = 0 then 0 else (s.keyOf (i - 0xA030)).toNat)

/-- A retirement record (R483). -/
def Retire.bytes (r : Retire) : List Byte := [r.type, r.cause, r.chan, 0#8] ++ leBytes 4 r.addr.toNat

/-- A scale and a group state as lists of values. -/
def Scale.part (c : Scale) : List Nat := [c.code.toNat, b2n c.sf, b2n c.konst, c.c.toNat, b2n c.counted, c.idx]
def GState.part (g : GState) : List Nat :=
  [g.amax.toNat, g.first.toNat, b2n g.allEq, g.count, g.carried.toNat, g.predSat, g.predUfl]

/-- The numeric state of R213: group registers with their MMA counts, the loaded and sealed scales, and both sides' group
states. -/
def Tile.numPart (x : Tile) : List Nat :=
  (upto 64).map (fun i => (BitVec.ofInt 128 (tget 0 x.g i)).toNat) ++ (upto 8).map (tget 0 x.mmas) ++
  ((upto 8).map (fun i => (tget Scale.zero x.xsc i).part ++ (tget Scale.zero x.wsc i).part ++ (tget Scale.zero x.osc i).part ++
    (tget Scale.zero x.isc i).part ++ (tget GState.zero x.og i).part ++ (tget GState.zero x.ig i).part)).flatten

/-- The words of the scalar and control pools, queue by queue. -/
def Tile.poolPart (x : Tile) : List Nat :=
  ((upto 8).map (fun i => (upto 64).map (fun k => match (x.queue (8 + i)).words[k]? with
    | some w => 1 + w.tag.toNat + 4 * w.kind.toNat + 32 * w.data.toNat
    | none => 0))).flatten

/-- The registers and the state that R113 names, in the model's order. (DESIGN CHOICE: log entry 63.) -/
def Tile.regPart (x : Tile) : List Nat :=
  (upto 64).map (fun i => (tget 0#32 x.s i).toNat) ++ (upto 16).map (fun i => (tget 0#256 x.v i).toNat) ++
  (upto 64).map (fun i => (tget 0#32 x.a i).toNat) ++ (upto 8).map (fun i => (tget 0#16 x.c i).toNat) ++
  [x.w0.toNat, x.w1.toNat] ++ (upto 6).map (fun i => (tget 0#32 x.counts i).toNat) ++
  (upto 4).map (fun i => (tget 0#13 x.steps i).toNat) ++ [x.rulePtr.toNat] ++ (upto 6).map (fun i => (tget 0#7 x.credits i).toNat) ++
  [x.converted.toNat, x.sat.toNat, x.ufl.toNat, x.sqerr.toNat, x.trip.toNat, x.accOvf.toNat] ++ x.poolPart ++ x.numPart

/-- Bytes of a tile's record in a capture: 4 KiB of registers, and 48 KiB of SRAM in MODE FULL (R487). -/
def Capture.recLen (c : Capture) : Nat := if c.dMode = 0#2 then 4096 else 53248

/-- The captured blocks in increasing order, with where each starts in the capture area. -/
def Capture.blocks (c : Capture) : List (Nat × Nat) × Nat :=
  ((upto 128).filter (fun b => bit c.dSectors (b / 16))).foldl
    (fun a b => (a.1 ++ [(b, a.2)], a.2 + 68 * (8 + if c.gated.contains b then 0 else c.recLen))) ([], 65536)

/-- Byte `o` of a tile's record. (DESIGN CHOICE: log entry 63.) -/
def Capture.recByte (c : Capture) (t : TileAddr) (gated : Bool) (o : Nat) : Byte :=
  let x := tget Tile.zero c.tiles t.toNat
  if o < 8 then (leBytes 4 t.toNat ++ leBytes 4 (if gated then 0 else c.recLen)).getD o 0
  else if o < 4104 then Config.captureRegs x.regPart (o - 8)
  else byteOf (tget 0#64 x.sram ((o - 4104) / 8)) ((o - 4104) % 8)

/-- Byte `o` of the header (R487). (DESIGN CHOICE: log entry 63.) -/
def Capture.headByte (c : Capture) (o : Nat) : Byte :=
  let stops := ((upto 8).map (fun i => leBytes 8 (if bit c.dSectors i then c.at_.toNat else 0))).flatten
  (leBytes 4 0x50435943 ++ [BitVec.ofNat 8 c.dTrig.toNat, c.dSectors, BitVec.ofNat 8 c.dMode.toNat, 0#8] ++
    leBytes 8 c.at_.toNat ++ stops ++ leBytes 64 c.digest.toNat).getD o 0

/-- Byte `o` of CAP_DATA. -/
def Capture.byte (c : Capture) (o : Nat) : Byte :=
  if o < 65536 then c.headByte o
  else
    match (c.blocks.1.filter (fun p => p.2 ≤ o)).getLast? with
    | none => 0
    | some p =>
      let gated := c.gated.contains p.1
      let len := 8 + if gated then 0 else c.recLen
      c.recByte (BitVec.ofNat 16 (p.1 * 128 + (o - p.2) / len)) gated ((o - p.2) % len)

/-- The present size of a DOMAIN object. -/
def State.domainSize (s : State) (i sub : Nat) : Nat :=
  match i, sub with
  | 0x8100, _ => if s.tel.cap.valid then s.tel.cap.blocks.2 else 0
  | 0x8200, 2 => 32 * s.tel.log.length
  | 0x8200, 3 => 32 * s.flash.log.length
  | 0x8200, _ => 8 * s.flash.retired.length
  | 0xA000, _ => Config.identityCert.length
  | 0xA020, _ => s.sec.report.length
  | _, _ => 0

/-- The bytes of a DOMAIN object from `off`, at most `n`. -/
def State.domainBytes (s : State) (i sub off n : Nat) : List Byte :=
  let part := fun (bs : List Byte) => (bs.drop off).take n
  match i, sub with
  | 0x8100, _ => (upto (min n (s.domainSize i sub - off))).map (fun k => s.tel.cap.byte (off + k))
  | 0x8200, 2 => part (s.tel.log.reverse.map LogEntry.bytes).flatten
  | 0x8200, 3 => part (s.flash.log.map LogEntry.bytes).flatten
  | 0x8200, _ => part (s.flash.retired.map Retire.bytes).flatten
  | 0xA000, _ => part Config.identityCert
  | 0xA020, _ => part s.sec.report
  | _, _ => []

/-- The size of an object in bytes. -/
def State.objSize (s : State) (i sub : Nat) (o : Obj) : Nat :=
  if o.type = 13 then s.domainSize i sub
  else if o.type = 12 then (s.objOctets i sub).length
  else if o.type = 11 then o.octets else typeSize o.type

/-- The bytes of an object from `off`, at most `n`. -/
def State.objBytes (s : State) (i sub : Nat) (o : Obj) (off n : Nat) : List Byte :=
  if o.type = 13 then s.domainBytes i sub off n
  else if o.type = 11 ∨ o.type = 12 then ((s.objOctets i sub).drop off).take n
  else ((leBytes (typeSize o.type) (s.objNum i sub)).drop off).take n

/-- The default that INFO gives (R356, R365): an object whose default is the image's value gives that of the image in force.
(DEDUCED: log entry 47.) -/
def State.infoDefault (s : State) (i sub : Nat) (o : Obj) : Nat :=
  if 10 < o.type then 0
  else
    match o.dflt with
    | some d => d
    | none =>
      if i = 0x3020 then ({ s with ppu := { s.ppu with overrides := [] } }.thresholds false).getD (sub - 1) 0
      else if 0x5200 ≤ i ∧ i < 0x5400 then (if sub = 1 then hdrSat s.img.copy (i - 0x5200) else hdrUfl s.img.copy (i - 0x5200)).toNat
      else s.objNum i sub

/-! ## Writes that start no action -/

/-- The image copy holds an image whose header has passed VERIFY. -/
def State.imageKnown (s : State) : Bool := 3 ≤ s.img.st.code && s.img.st.code ≤ 7

/-- The value lies in the object's range or encoding (R354, R367 and the rule of each object). `force`: a profile is being
applied (R377). -/
def State.objAccepts (s : State) (i sub : Nat) (o : Obj) (force : Bool) (v : Nat) : Bool :=
  if o.type = 1 ∧ 1 < v then false
  else
    match i, sub with
    | 0x1010, 5 => v ≤ 2
    | 0x2000, 1 => v ≤ 3 || v == 0xFF
    | 0x2000, 7 => v ≤ 3
    | 0x3000, 5 => v ≤ 1
    | 0x3000, 6 => v ≤ 1
    | 0x3010, 1 => 1 ≤ v && v ≤ 24576
    | 0x3020, 1 => 1 ≤ v
    | 0x3020, 3 => 1 ≤ v
    | 0x3020, 4 => 1 ≤ v && v ≤ 65534
    | 0x7000, 1 => v ≤ 2
    | 0x7000, 2 => 1 ≤ v && v ≤ 10000
    | 0x7020, 6 => 1 ≤ v
    | 0x8000, 1 => 1 ≤ v && v ≤ 1000
    | 0x8100, 1 => v / 2 % 8 ≤ 3 && v / 16 % 4 ≤ 1
    | _, _ =>
      if 0x4000 ≤ i ∧ i < 0x4400 ∧ sub = 2 then
        v == 0 || ((i - 0x4000) % 8 == 0 && (force || (s.imageKnown && imgWide s.img.copy)))
      else if 0x6100 ≤ i ∧ i < 0x6500 ∧ sub = 1 then v % 64 == 0 && v ≤ 32768
      else true

/-- Write an accepted value of an object that is held in a register field or in management memory (R358). -/
def State.objPut (s : State) (i sub v : Nat) : State :=
  let w := BitVec.ofNat 32 v
  match i, sub with
  | 0x3000, 5 => s.putFld Reg.admCtl 2 1 v
  | 0x3000, 6 => s.putFld Reg.fabDrainCtl 0 0 v
  | 0x3010, 1 => s.setReg Reg.admRate w
  | 0x3010, 3 => s.setReg Reg.admMaxWait w
  | 0x3020, n => { s with ppu := { s.ppu with overrides := s.ppu.overrides.set (n - 1) (v + 1) } }
  | 0x3030, 1 => s.putFld Reg.stmSpRate 31 16 v
  | 0x3030, 2 => s.putFld Reg.stmSpRate 15 0 v
  | 0x3030, 3 => s.setReg Reg.stmSpSlack w
  | 0x3030, 4 => s.putFld Reg.stmCtl 2 2 v
  | 0x5000, 1 => s.putFld Reg.numCtl 1 1 v
  | 0x5000, 2 => s.putFld Reg.numGuardLim 7 0 v
  | 0x5000, 3 => s.putFld Reg.numGuardLim 15 8 v
  | 0x6000, 1 => s.putFld Reg.ctxCtl 1 1 v
  | 0x6000, 3 => if v = 1 then s.clearAll else s
  | 0x7000, 1 => s.putFld Reg.fltCtl 2 1 v
  | 0x7000, 2 => s.putFld Reg.fltLeaseMs 15 0 v
  | 0x7020, 6 => s.putFld Reg.hbmRetireCe 7 0 v
  | 0x7030, 2 => s.ackJournal w
  | 0x8000, 1 => s.putFld Reg.telWindow 9 0 v
  | 0x8100, 1 => s.capCtl 0 w
  | 0x8100, 2 => (s.setReg Reg.telCapMatchLo w).setReg Reg.telCapMatchHi (BitVec.ofNat 32 (v / 2 ^ 32))
  | 0x8100, 3 => s.setReg Reg.telCapEvent (w &&& 0xFFFF#32)
  | _, _ =>
    if 0x5200 ≤ i ∧ i < 0x5400 then s.setThresh (i - 0x5200) (decide (sub = 2)) w
    else s.setObj (okey i sub) v

end Sys2Proof.Machine
end

