-- ==== Sys2Proof/Machine/Profiles.lean ====
section
/-! DEFINITION. Stored profiles (R374 to R380): saving, defaults, erasing, the image digest of a profile, and applying a
record at reset. -/

namespace Sys2Proof.Machine

/-- Replace a profile in flash. -/
def State.setProfile (s : State) (p : Nat) (x : Profile) : State :=
  { s with flash := { s.flash with profiles := tset Profile.blank s.flash.profiles p x } }

def Profile.at_ (x : Profile) (i : Nat) : PPos := if i = 0 then x.p0 else if i = 1 then x.p1 else x.p2
def Profile.set (x : Profile) (i : Nat) (v : PPos) : Profile :=
  if i = 0 then { x with p0 := v } else if i = 1 then { x with p1 := v } else { x with p2 := v }
/-! ## A record in the flash (R374, R375) -/

/-- The flash address of a record position of a profile (R374, R438). -/
def recordAt (p i : Nat) : Nat := 0x0E0000 + 0x30000 * p + 0x10000 * i

/-- The 12 bytes of a record entry. -/
def entryBytes (e : Nat × Nat × BitVec 64) : List Byte :=
  leBytes 2 (e.1 / 256) ++ leBytes 1 (e.1 % 256) ++ leBytes 1 e.2.1 ++ leBytes 8 e.2.2.toNat

/-- The bytes of a record of profile `p`. (DEDUCED: log entry 92.) -/
def PRecord.bytes (p : Nat) (r : PRecord) : List Byte :=
  let es := (r.entries.map entryBytes).flatten
  let h := leBytes 4 0x52505943 ++ leBytes 2 1 ++ leBytes 1 p ++ leBytes 1 0 ++ leBytes 4 r.gen.toNat ++ leBytes 4 r.fw.toNat ++
    leBytes 2 r.entries.length ++ leBytes 2 0 ++ leBytes 64 r.digest.toNat ++ leBytes 40 0
  h ++ leBytes 4 (crc32c (h ++ es)).toNat ++ es

/-- Every sector of a record position is erased once. -/
def Profile.wear (x : Profile) (i : Nat) : Profile :=
  if i = 0 then { x with e0 := x.e0 + 1#32 } else if i = 1 then { x with e1 := x.e1 + 1#32 } else { x with e2 := x.e2 + 1#32 }

/-- Where the next record goes (R374). -/
def Profile.next (x : Profile) : Nat := match x.newest with | some r => (r.1 + 1) % 3 | none => 0

/-- The persisted objects whose live value differs from the default, as record entries (R375). -/
def State.liveEntries (s : State) : List (Nat × Nat × BitVec 64) :=
  persisted.filterMap (fun p =>
    let v := s.objNum p.1 p.2.1
    if some v = p.2.2.dflt then none else some (okey p.1 p.2.1, p.2.2.type, BitVec.ofNat 64 v))

/-- A save of profile `p` is accepted: its record is taken now; it waits where the last save ended less than 1 s ago. -/
def State.beginSave (s : State) (p : BitVec 2) (digest : BitVec 512) (entries : List (Nat × Nat × BitVec 64)) : State :=
  let gen := match (s.profile p.toNat).newest with | some r => r.2.gen + 1#32 | none => 1#32
  let wait := match s.dict.savedAt with | some t => decide (s.clock.now < t + msSteps 1000) | none => false
  let r : PRecord := ⟨gen, s.fwRunning, digest, entries⟩
  { s with dict := { s.dict with saving := some (p, r), deferred := wait, pstate := 1 } }

/-- SAVE of the active profile. -/
def State.saveActive (s : State) : State := s.beginSave s.dict.active s.dict.digest s.liveEntries

/-- A persisted object held in management memory. -/
def heldPersisted (key : Nat) : Bool :=
  match objAt (key / 256) (key % 256) with
  | some o => o.persist
  | none => false

/-- DEFAULTS: every persisted object takes its default (R377, R379). (DESIGN CHOICE: log entry 51.) -/
def State.takeDefaults (s : State) : State :=
  let mapped := persisted.filter (fun p => !(decide (0x4000 ≤ p.1 ∧ p.1 < 0x4400) || decide (0x6100 ≤ p.1 ∧ p.1 < 0x6500)))
  let u := mapped.foldl (fun (u : State) p => u.objPut p.1 p.2.1 (p.2.2.dflt.getD 0)) s
  { u with dict := { u.dict with objs := u.dict.objs.filter (fun p => !heldPersisted p.1), pstate := 3 } }

/-- ERASE of a profile begins. -/
def State.beginErase (s : State) : State :=
  { s with dict := { s.dict with erasing := BitVec.ofNat 2 (s.objVal (okey 0x2000 7) 0), pstate := 2 } }

/-- PROFILE_COMMAND: the abort code, 0 for OK, and the state. -/
def State.profileCommand (s : State) (v : Nat) : Nat × State :=
  if v = 0 ∨ 3 < v then (0x0607, s)
  else if s.dict.pstate ≠ 0 then (0x0608, s)
  else (0, if v = 1 then s.saveActive else if v = 2 then s.takeDefaults else s.beginErase)

/-- A write of the IMAGE_DIGEST of profile `p` (R380). -/
def State.writeDigest (s : State) (p : BitVec 2) (d : BitVec 512) : Nat × State :=
  if s.dict.pstate ≠ 0 then (0x0608, s)
  else if p = s.dict.active then
    let u := s.beginSave p d s.liveEntries
    (0, { u with dict := { u.dict with digest := d } })
  else
    let old := match (s.profile p.toNat).newest with | some r => r.2.entries | none => []
    (0, s.beginSave p d old)

/-- DEV_STAT.PROFILE_DAMAGED shows the state of the active profile (R400). -/
def State.showDamaged (s : State) : State := s.putBit Reg.devStat 5 (decide (tget 0 s.dict.pfound s.dict.active.toNat = 2))

/-- The record write ends. A record with too many entries is not written. A failed write leaves its position erased or
damaged, whichever the flash holds (a free value), and the record before it in place. (DESIGN CHOICE: log entry 51.) -/
def State.endSave (s : State) (p : BitVec 2) (r : PRecord) (failed : Bool) : State :=
  let x := s.profile p.toNat
  let i := x.next
  let d := { s with dict := { s.dict with saving := none, pstate := 0, savedAt := some s.clock.now } }
  if 5450 < r.entries.length then { d with dict := { d.dict with presult := 2 } }
  else if failed then
    let f := d.free
    let v := f.2.setProfile p.toNat ((x.wear i).set i (if bit f.1 0 then .damaged else .erased))
    { v with dict := { v.dict with presult := 1 } }
  else
    let v := d.setProfile p.toNat ((x.wear i).set i (.valid r))
    { v with dict := { v.dict with presult := 0, pfound := tset 0 v.dict.pfound p.toNat 1 } }.showDamaged

/-- The profile erase ends. What a failed erase leaves in each position is a free value. (DESIGN CHOICE: log entry 51.) -/
def State.endErase (s : State) (failed : Bool) : State :=
  let p := s.dict.erasing.toNat
  let x := (((s.profile p).wear 0).wear 1).wear 2
  let f := s.free
  let left := fun (i : Nat) => if !failed || bit f.1 (2 * i) then PPos.erased else if bit f.1 (2 * i + 1) then .damaged else x.at_ i
  let y := { x with p0 := left 0, p1 := left 1, p2 := left 2 }
  let u := (if failed then f.2 else s).setProfile p y
  { u with dict := { u.dict with pstate := 0, presult := b2n failed, pfound := tset 0 u.dict.pfound p y.found } }.showDamaged

/-- Apply a record (R377): each entry as a dictionary write with the owning block disabled, or it is skipped and counted. -/
def State.applyEntries (s : State) (p : Nat) (es : List (Nat × Nat × BitVec 64)) : State :=
  es.foldl (fun (u : State) e =>
    let i := e.1 / 256
    let sub := e.1 % 256
    let skip := { u with dict := { u.dict with skipped := tset 0 u.dict.skipped p ((tget 0 u.dict.skipped p + 1) % 65536) } }
    match objAt i sub with
    | none => skip
    | some o =>
      if o.persist && o.type == e.2.1 && decide (e.2.2.toNat < 2 ^ (8 * typeSize o.type)) && u.objAccepts i sub o true e.2.2.toNat then
        u.objPut i sub e.2.2.toNat
      else skip) s

/-! ## Commands -/

def execSave (s : State) : Out := onlyIf s.fwUp s (s.profileCommand 1).2
def execDefaults (s : State) : Out := onlyIf s.fwUp s (s.profileCommand 2).2
def execErase (s : State) : Out := onlyIf s.fwUp s (s.profileCommand 3).2

def execImageDigestWrite (p : BitVec 2) (digest : BitVec 512) (s : State) : Out :=
  onlyIf s.fwUp s (s.writeDigest p digest).2

def execDefaultsComplete (s : State) : Out :=
  onlyIf (s.fwUp && s.dict.pstate == 3) s { s with dict := { s.dict with pstate := 0, presult := 0 } }

def execSaveDeferredStart (s : State) : Out :=
  let u := s.until (s.dict.savedAt.getD 0 + msSteps 1000)
  onlyIf (s.fwUp && s.dict.deferred) s { u with dict := { u.dict with deferred := false } }

def execSaveComplete (failed : Bool) (s : State) : Out :=
  match s.dict.saving with
  | none => .next s
  | some p => onlyIf (s.fwUp && s.dict.pstate == 1 && !s.dict.deferred) s (s.endSave p.1 p.2 failed)

def execEraseComplete (failed : Bool) (s : State) : Out :=
  onlyIf (s.fwUp && s.dict.pstate == 2) s (s.endErase failed)

end Sys2Proof.Machine
end

