-- ==== Sys2Proof/Machine/Security.lean ====
section
/-! DEFINITION. Keys, firmware installation and attestation (R432, R440 to R449). Each write of a security object gives an
abort code, 0 for OK, and the state. -/

namespace Sys2Proof.Machine

/-- The boot ROM answers the dictionary in RECOVERY (R433). -/
def State.recovering (s : State) : Bool := s.up && s.stage == 8

/-! ## Firmware banks (R432, R444) -/

/-- The bank that is not running: false A. In RECOVERY BANK reads 0, and the bank is B. -/
def State.inactive (s : State) : Bool := !s.rbit Reg.secBoot 8

/-- Replace the content of a bank. -/
def State.setBank (s : State) (b : Bool) (bs : List Byte) : State :=
  { s with flash := if b then { s.flash with bankB := bs } else { s.flash with bankA := bs } }

/-- The same transport carries both requests (R366). -/
def Src.same : Src → Src → Bool
  | .mailbox, .mailbox => true
  | .udp _ _, .udp _ _ => true
  | _, _ => false

/-- Discard the segmented write in progress: nothing was installed. -/
def State.dropSeg (s : State) : State := { s with dict := { s.dict with seg := none }, sec := { s.sec with fwState := 0 } }

/-- The last segment is taken: the bank is written and its verification begins. (DEDUCED: log entry 52.) -/
def State.takeFirmware (s : State) (bs : List Byte) : State :=
  let u := { s.setBank s.inactive bs with
    dict := { s.dict with seg := none }
    sec := { s.sec with fwState := 2, fwVerify := true } }
  (u.setBits Reg.secStat 0x1#32).leaveLow 150

/-- A segment of FW_UPDATE (R366, R444): at most 425,984 bytes in all; the first erases the inactive bank. -/
def State.fwSegment (s : State) (src : Src) (off : Nat) (last : Bool) (bs : List Byte) : Nat × State :=
  match s.dict.seg with
  | some g =>
    if !g.src.same src then (0x0608, s)
    else if off ≠ g.bytes.length then (0x0609, s.dropSeg)
    else if 425984 < off + bs.length then (0x0606, s.dropSeg)
    else if last then (0, s.takeFirmware (g.bytes ++ bs))
    else (0, { s with dict := { s.dict with seg := some { g with bytes := g.bytes ++ bs, at_ := s.clock.now } } })
  | none =>
    if s.sec.fwVerify then (0x0608, s)
    else if off ≠ 0 then (0x0609, s)
    else if 425984 < bs.length then (0x0606, s)
    else
      let u := { s.setBank s.inactive [] with sec := { s.sec with fwState := 1, fwResult := 0 } }
      if last then (0, u.takeFirmware bs)
      else (0, { u with dict := { u.dict with seg := some ⟨src, okey 0xA010 1, bs, u.clock.now⟩ } })

/-- The verification of the written bank ends. (DEDUCED: log entry 14.) -/
def State.fwVerified (s : State) : State :=
  let r := s.bankCheck (s.bankBytes s.inactive)
  let u := (s.putBit Reg.secStat 0 (s.img.st == .verifying)).count Reg.secVerifyCnt 1
  let v := { u with
    sec := { u.sec with fwVerify := false, fwState := if r = 0 then 3 else 4, fwResult := r }
    pwr := { u.pwr with sigIdleAt := u.clock.now } }
  if r = 0 then v else (v.count Reg.secVerifyFailCnt 1).setBits Reg.secStat 0x8#32

/-- FW_COMMAND: 1 ACTIVATE, 2 ERASE_INACTIVE. (DEDUCED: log entry 52.) -/
def State.fwCommand (s : State) (v : Nat) : Nat × State :=
  if v = 1 then
    (if s.sec.fwState = 3 then (0, { s with flash := { s.flash with preferred := s.inactive } }) else (0x0607, s))
  else if v = 2 then
    (if s.sec.fwState = 1 ∨ s.sec.fwVerify then (0x0608, s)
     else (0, { s.setBank s.inactive [] with sec := { s.sec with fwState := 0 } }))
  else (0x0607, s)

/-- A write of FW_MIN_VERSION. -/
def State.writeFwMin (s : State) (v : Word) : Nat × State :=
  if s.flash.fwMin < v ∧ v ≤ s.fwRunning then (0, { s with flash := { s.flash with fwMin := v } }) else (0x0607, s)

/-! ## Keys (R442) -/

/-- A write of PUBLIC_KEY of an owner slot. -/
def State.writeKey (s : State) (k : Nat) (key : BitVec 512) : Nat × State :=
  if k < 2 then (0x0603, s)
  else if s.committed then (0x0608, s)
  else if s.keyState k ≠ 0 then (0x0607, s)
  else (0, { s with flash := { s.flash with
    keys := tset 0 s.flash.keys k key, keySt := tset 0 s.flash.keySt k 1 } })

/-- A slot becomes REVOKED; slot 0 never does. (DEDUCED: log entry 52.) -/
def State.revoke (s : State) (k : Nat) : Nat × State :=
  if k = 0 then (0x0607, s)
  else (0, { s with flash := { s.flash with keySt := tset 0 s.flash.keySt k (if k = 1 then 1 else 2) } })

/-! ## Attestation (R446, R447) -/

/-- One bit per slot in a state. -/
def State.keyBits (s : State) (st : Nat) : Nat := (upto 6).foldl (fun n k => n + b2n (s.keyState k == st) * 2 ^ k) 0

/-- The payload of a report. -/
def State.attestPayload (s : State) : List Byte :=
  let le := fun (n v : Nat) => leBytes n v
  le 2 1 ++ [Config.siliconRev, Config.packageRev] ++ le 4 s.fwRunning.toNat ++ le 16 Config.serial.toNat ++
  le 8 s.devTime.toNat ++ le 32 s.sec.nonce.toNat ++ padTo 64 (s.sec.running.drop 0x60) ++
  le 64 s.img.digest.toNat ++ le 64 s.plc.pitchShown.toNat ++ le 64 s.dict.digest.toNat ++
  [BitVec.ofNat 8 s.img.st.code, BitVec.ofNat 8 s.dict.active.toNat, s.img.keySlot,
   BitVec.ofNat 8 (s.keyBits 1), BitVec.ofNat 8 (s.keyBits 2), 0, 0, 0] ++
  le 4 (s.reg Reg.fltEpoch).toNat ++ le 4 (s.reg Reg.devResetCause).toNat ++ le 4 s.flash.fwMin.toNat ++
  le 4 s.retiredTiles.eraseDups.length ++
  ([2, 3, 4, 5].map (fun k => le 64 (if s.keyState k = 0 then 0 else (s.keyOf k).toNat))).flatten ++ le 40 0

/-- The 192-byte header of a report's envelope (R440). -/
def attestHeader (payload : List Byte) : List Byte :=
  leBytes 4 0x4F535943 ++ leBytes 2 1 ++ leBytes 2 4 ++ leBytes 4 640 ++ [0xFF#8, 0, 0, 0] ++ leBytes 4 0 ++ leBytes 12 0 ++
  leBytes 64 Config.devicePk.toNat ++ leBytes 64 (Config.shake256 payload).toNat ++ leBytes 32 0

/-- The report: header, payload, signature. -/
def attestReport (payload : List Byte) : List Byte :=
  let h := attestHeader payload
  h ++ payload ++ padTo 29792 (Config.deviceSign h)

/-- ATTEST_COMMAND 1. -/
def State.sign (s : State) : Nat × State :=
  if s.sec.attest = 1 then (0x0608, s)
  else (0, ({ s with sec := { s.sec with attest := 1, report := [], signing := s.attestPayload } }.setBits Reg.secStat 0x2#32).leaveLow 150)

/-- A verification runs, to which a signing yields (R448). -/
def State.verifying (s : State) : Bool := s.img.st == .verifying || s.sec.fwVerify

/-- Signing ends. -/
def State.signed (s : State) : State :=
  let u := (s.clrBits Reg.secStat 0x2#32).count Reg.secSignCnt 1
  { u with
    sec := { u.sec with attest := 2, report := attestReport u.sec.signing, signing := [] }
    pwr := { u.pwr with sigIdleAt := u.clock.now } }

/-! ## Commands -/

/-- The management controller answers the dictionary: its firmware, or the boot ROM in RECOVERY. -/
def State.dictUp (s : State) : Bool := s.fwUp || s.recovering

/-- FW_UPDATE as a direct command comes through the mailbox where that is in service, else over UDP. -/
def execFwUpdate (offset : BitVec 32) (last : Bool) (bytes : List Byte) (s : State) : Out :=
  onlyIf s.dictUp s (s.fwSegment (if s.blockEn 17 then .mailbox else .udp 0 0) offset.toNat last bytes).2

def execFwUpdateVerifyEnd (s : State) : Out := onlyIf (s.up && s.sec.fwVerify) s s.fwVerified
def execActivate (s : State) : Out := onlyIf s.dictUp s (s.fwCommand 1).2
def execEraseInactive (s : State) : Out := onlyIf s.dictUp s (s.fwCommand 2).2
def execFwMinVersionWrite (v : Word) (s : State) : Out := onlyIf s.dictUp s (s.writeFwMin v).2

def execPublicKeyWrite (k : BitVec 3) (key : BitVec 512) (s : State) : Out :=
  onlyIf (s.fwUp && decide (k.toNat < 6)) s (s.writeKey k.toNat key).2

def execRevoke (k : BitVec 3) (s : State) : Out := onlyIf (s.fwUp && decide (k.toNat < 6)) s (s.revoke k.toNat).2

def execSign (s : State) : Out := onlyIf s.fwUp s s.sign.2
def execSigningComplete (s : State) : Out := onlyIf (s.up && s.sec.attest == 1 && !s.verifying) s s.signed

end Sys2Proof.Machine
end

