-- ==== Sys2Proof/Machine/Dictionary.lean ====
section
/-! DEFINITION. Uhled requests (R363 to R373): the message format, reading, writing and describing objects, the two
transports, and segmented writes. -/

namespace Sys2Proof.Machine

/-! ## Messages (R364) -/

/-- The header of a request and its data. -/
structure Req where
  ver : Nat
  op : Nat
  txn : Nat
  index : Nat
  sub : Nat
  flags : Nat
  offset : Nat
  length : Nat
  status : Nat
  data : List Byte
  deriving DecidableEq, Repr

/-- Read a request; bytes that are not there read zero. (DEDUCED: log entry 50.) -/
def parseReq (bs : List Byte) : Req :=
  let n := fun (o k : Nat) => leNum ((bs.drop o).take k)
  ⟨n 0 1, n 1 1, n 2 2, n 4 2, n 6 1, n 7 1, n 8 4, n 0xC 2, n 0xE 2, bs.drop 16⟩

/-- The size that the header of a message gives: a WRITE carries LENGTH bytes of data. (DEDUCED: log entry 50.) -/
def Req.size (r : Req) : Nat := 16 + if r.op = 2 then r.length else 0

/-- A request of VER, OP, reserved bits, STATUS or LENGTH that R364 does not allow. (DEDUCED: log entry 50.) -/
def Req.malformed (r : Req) : Bool :=
  r.ver != 1 || r.op == 0 || decide (3 < r.op) || decide (1 < r.flags) || r.status != 0 || decide (1024 < r.length) ||
  (r.op == 1 && r.length == 0) || (r.op == 3 && r.length != 0)

/-- LAST. (DEDUCED: log entry 50.) -/
def Req.last (r : Req) : Bool := r.flags % 2 == 1

/-- A reply: abort code, LAST and data. -/
def Req.reply (r : Req) (code : Nat) (last : Bool) (data : List Byte) : List Byte :=
  [1#8, BitVec.ofNat 8 (r.op ||| 0x80)] ++ leBytes 2 r.txn ++ leBytes 2 r.index ++
  [BitVec.ofNat 8 r.sub, BitVec.ofNat 8 (b2n last)] ++ leBytes 4 r.offset ++ leBytes 2 data.length ++ leBytes 2 code ++ data

/-! ## Finding an object (R353, R361, R433) -/

/-- The object a request names: none with the abort code where it does not exist. In RECOVERY only the objects that the boot
ROM serves exist. -/
def State.find (s : State) (i sub : Nat) : Nat ⊕ Obj :=
  let served := !s.recovering || i == 0x1000 || i == 0xA000 || i == 0xA010
  if !served || (objects i).isEmpty then .inl 0x0601
  else if s.recovering && i == 0x1000 && decide (7 < sub) then .inl 0x0602
  else
    match objAt i sub with
    | some o => .inr o
    | none => .inl 0x0602

/-! ## READ and INFO (R365) -/

/-- READ: an object of fixed size, or a string, is read whole; a DOMAIN in segments. (DEDUCED: log entry 42.) -/
def State.readObj (s : State) (r : Req) : List Byte :=
  match s.find r.index r.sub with
  | .inl c => r.reply c false []
  | .inr o =>
    let size := s.objSize r.index r.sub o
    if o.access = 2 then r.reply 0x0604 false []
    else if o.type = 13 then
      (if size < r.offset then r.reply 0x0609 false []
       else
        let bs := s.objBytes r.index r.sub o r.offset r.length
        r.reply 0 (decide (size ≤ r.offset + bs.length)) bs)
    else if r.offset ≠ 0 then r.reply 0x0609 false []
    else if r.length < size then r.reply 0x0606 false []
    else r.reply 0 true (s.objBytes r.index r.sub o 0 size)

/-- INFO. -/
def State.infoObj (s : State) (r : Req) : List Byte :=
  match s.find r.index r.sub with
  | .inl c => r.reply c false []
  | .inr o =>
    r.reply 0 false ([BitVec.ofNat 8 o.type, BitVec.ofNat 8 o.access, BitVec.ofNat 8 (b2n o.persist), BitVec.ofNat 8 o.block] ++
      leBytes 4 (s.objSize r.index r.sub o) ++ leBytes 8 (s.infoDefault r.index r.sub o))

/-! ## WRITE -/

/-- An IMAGE_COMMAND given in its origin state, or one that a re-placement holds, is replied OK (R38, R138, R456). -/
def State.imageTakes (s : State) (n : Nat) : Bool :=
  !s.faulted && (s.remapping ||
    (match n, s.img.st with
     | 1, .writing => true
     | 2, .verified => true
     | 3, .committed => true
     | 4, .writing => true
     | 4, .verified => true
     | 4, .rejected => true
     | _, _ => false))

/-- A write of an object with an action of its own: the abort code and the state; none for every other object. -/
def State.actionWrite (s : State) (i sub v : Nat) (bs : List Byte) : Option (Nat × State) :=
  match i, sub with
  | 0x1000, 7 => some (if BitVec.ofNat 32 v = resetKey then (0, s.requestReset 2) else (0x0607, s))
  | 0x2000, 4 => some (s.profileCommand v)
  | 0x3000, 2 =>
    some (if v = 0 ∨ 4 < v then (0x0607, s) else ((if s.imageTakes v then 0 else 0x0607), s.imageCommand v))
  | 0x7000, 4 =>
    some ((if v < (s.reg Reg.fltEpoch).toNat then 0x0607 else 0), s.renewLease (BitVec.ofNat 32 v))
  | 0x7030, 3 =>
    some (if 1 < v then (0x0607, s) else if v = 0 then (0, s)
          else if s.primary && !s.faulted then (0, s.resync) else (0x0607, s))
  | 0xA000, 1 => some (s.writeFwMin (BitVec.ofNat 32 v))
  | 0xA010, 2 => some (s.fwCommand v)
  | 0xA020, 1 => some (0, { s with sec := { s.sec with nonce := BitVec.ofNat 256 (leNum bs) } })
  | 0xA020, 2 => some (if v = 1 then s.sign else (0x0607, s))
  | _, _ =>
    if 0x2010 ≤ i ∧ i < 0x2014 ∧ sub = 1 then some (s.writeDigest (BitVec.ofNat 2 (i - 0x2010)) (BitVec.ofNat 512 (leNum bs)))
    else if 0x6100 ≤ i ∧ i < 0x6500 ∧ sub = 5 then
      some (if 1 < v then (0x0607, s) else if v = 1 then (0, s.clearStream (i - 0x6100)) else (0, s))
    else if 0xA030 ≤ i ∧ i < 0xA036 ∧ sub = 1 then some (s.writeKey (i - 0xA030) (BitVec.ofNat 512 (leNum bs)))
    else if 0xA030 ≤ i ∧ i < 0xA036 ∧ sub = 3 then
      some (if 1 < v ∨ i = 0xA030 then (0x0607, s) else if v = 1 then s.revoke (i - 0xA030) else (0, s))
    else none

/-- WRITE of an object (R355, R359, R365 to R367): the abort code and the state. (DEDUCED: log entry 42.) -/
def State.writeObj (s : State) (src : Src) (r : Req) : Nat × State :=
  match s.find r.index r.sub with
  | .inl c => (c, s)
  | .inr o =>
    let v := leNum r.data
    if o.access = 0 ∨ o.access = 4 then (0x0603, s)
    else if o.type = 13 then s.fwSegment src r.offset r.last r.data
    else if !r.last ∨ r.offset ≠ 0 then (0x0609, s)
    else if r.length ≠ s.objSize r.index r.sub o then (0x0606, s)
    else if o.access = 3 ∧ s.blockEn o.block then (0x0605, s)
    else
      match s.actionWrite r.index r.sub v r.data with
      | some a => a
      | none => if s.objAccepts r.index r.sub o false v then (0, s.objPut r.index r.sub v) else (0x0607, s)

/-! ## Carrying a request out (R368 to R373) -/

/-- The last reply to the same WRITE request over UDP (R370). -/
def State.replayOf (s : State) (ip : BitVec 32) (port txn : BitVec 16) : Option (List Byte) :=
  (s.dict.replies.find? (fun x => x.1 == ip && x.2.1 == port && x.2.2.1 == txn)).map (fun x => x.2.2.2)

/-- Carry out a well-formed request: the reply and the state. -/
def State.carryOut (s : State) (src : Src) (r : Req) : List Byte × State :=
  if r.op = 1 then (s.readObj r, s)
  else if r.op = 3 then (s.infoObj r, s)
  else
    let w := s.writeObj src r
    (r.reply w.1 false [], w.2)

/-- Reply through the mailbox (R373). -/
def State.mbxReply (s : State) (reply : List Byte) : State :=
  let regs := (upto ((reply.length + 3) / 4)).foldl
    (fun m i => tset 0#32 m (Reg.mbxRspData + 16 * i) (BitVec.ofNat 32 (leNum ((reply.drop (4 * i)).take 4)))) s.regs
  let u := ({ s with regs := regs }.setReg Reg.mbxRspLen (BitVec.ofNat 32 reply.length)).putFld Reg.mbxStat 1 0 2
  (u.count Reg.mbxReqCnt 1).setReg Reg.mbxTime (BitVec.ofNat 32 ((u.clock.now - u.dict.mbxAt) / 100))

/-- The request is a message of the size its length gives (R373). -/
def State.mbxRequest (s : State) (bs : List Byte) : State :=
  let r := parseReq bs
  let n := fld (s.reg Reg.mbxSubmit) 10 0
  if n < 16 ∨ 1040 < n ∨ n ≠ r.size ∨ r.malformed then s.mbxReply (r.reply 0x060A false [])
  else
    let c := s.carryOut .mailbox r
    c.2.mbxReply c.1

/-- Count a refused datagram or request. -/
def State.udpRefused (s : State) : State := s.setObj (okey 0x1010 8) ((s.objVal (okey 0x1010 8) 0 + 1) % 2 ^ 32)

/-- Reply over UDP, and keep the reply of a WRITE. -/
def State.udpReply (s : State) (ip : BitVec 32) (port : BitVec 16) (r : Req) (reply : List Byte) : State :=
  let kept := if r.op = 2 then ((ip, port, BitVec.ofNat 16 r.txn, reply) :: s.dict.replies).take 16 else s.dict.replies
  { s with dict := { s.dict with udpOut := some (ip, port, reply), replies := kept } }

/-- A request over UDP: a repeated WRITE is answered again, UDP_ACCESS refuses what it names, and the rest is carried out. -/
def State.udpRequest (s : State) (ip : BitVec 32) (port : BitVec 16) (bs : List Byte) : State :=
  let r := parseReq bs
  let access := s.objVal (okey 0x1010 5) 2
  match (if r.op = 2 then s.replayOf ip port (BitVec.ofNat 16 r.txn) else none) with
  | some old => { s with dict := { s.dict with udpOut := some (ip, port, old) } }
  | none =>
    if access = 0 ∨ (access = 1 ∧ r.op = 2) then s.udpRefused.udpReply ip port r (r.reply 0x060B false [])
    else if r.malformed then s.udpReply ip port r (r.reply 0x060A false [])
    else
      let c := s.carryOut (.udp ip port) r
      c.2.udpReply ip port r c.1

/-- Carry out the oldest complete request. The mailbox is out of service while the engine clock is stopped. -/
def State.runRequest (s : State) (q : Src × List Byte) (rest : List (Src × List Byte)) : State :=
  let u := { s with dict := { s.dict with queue := rest } }
  match q.1 with
  | .mailbox => if u.engineUp then u.mbxRequest q.2 else u
  | .udp ip port => u.udpRequest ip port q.2

/-- The commands UHLED_READ, UHLED_WRITE and UHLED_INFO take the oldest request where it has their OP, or an OP that is
none of the three. (DESIGN CHOICE: log entry 39.) -/
def State.uhled (s : State) (op : Nat) : State :=
  match s.dict.queue with
  | [] => s
  | q :: rest =>
    let o := (parseReq q.2).op
    if o = op ∨ o = 0 ∨ 3 < o then s.runRequest q rest else s

def execUhledRead (s : State) : Out := onlyIf s.dictUp s (s.uhled 1)
def execUhledWrite (s : State) : Out := onlyIf s.dictUp s (s.uhled 2)
def execUhledInfo (s : State) : Out := onlyIf s.dictUp s (s.uhled 3)

/-- The 100BASE-T1 port carries datagrams (R369, R405). -/
def State.ethUp (s : State) : Bool := s.dictUp && !s.dev.ethDead && s.dict.link

/-- UDP_DATAGRAM (R369): one whole message is queued and counted in REQUESTS; anything else is discarded and counted. -/
def execUdpDatagram (ip : BitVec 32) (port : BitVec 16) (bytes : List Byte) (s : State) : Out :=
  let r := parseReq bytes
  let whole := decide (16 ≤ bytes.length) && bytes.length == r.size && decide (bytes.length ≤ 1040)
  let counted := s.setObj (okey 0x1010 7) ((s.objVal (okey 0x1010 7) 0 + 1) % 2 ^ 32)
  onlyIf (s.ethUp && s.linkState == 2) s
    (if whole then { counted with dict := { counted.dict with queue := counted.dict.queue ++ [(.udp ip port, bytes)] } } else s.udpRefused)

/-- SEGMENT_TIMEOUT: 10 s without a segment. -/
def execSegmentTimeout (s : State) : Out :=
  match s.dict.seg with
  | some g => onlyIf s.dictUp s (s.until (g.at_ + msSteps 10000)).dropSeg
  | none => .next s

end Sys2Proof.Machine
end

