-- ==== Sys2Proof/Machine/HostPort.lean ====
section
/-! DEFINITION. The memory-device host port (R322 to R352): what a write burst and a read burst of each address range do, the
register window, the doorbell cells, and the port's own commands. -/

namespace Sys2Proof.Machine

/-! ## The address map (R330) -/

/-- Which part of the map a port address lies in. -/
inductive Range where
  | registers | restOfWindow | cells | cellView | rings | journal | image | ingress | nothing
  deriving DecidableEq, Repr

/-- The range of an address. -/
def rangeOf (a : Nat) : Range :=
  if a < 0x120000 then .registers
  else if a < 0x1000000 then .restOfWindow
  else if a < 0x1008000 then .cells
  else if a < 0x1010000 then .cellView
  else if a < 0x4000000 then .nothing
  else if a < 0x8000000 then .rings
  else if a < 0x10000000 then .journal
  else if a < 0x20000000 then .image
  else if a < 0x40000000 then .nothing
  else if a < 0xC0000000 then .ingress
  else .nothing

/-! ## Where an address lies in the memory device (R328) -/

/-- A place in a port's LPDDR5X device: channel (false A, true B), row, bank address, byte offset in the row of that bank.
In bank-group mode the bank address is the bank within its group, then the group; in 16-bank mode it is the bank. -/
structure DramPlace where
  channel : Bool
  row : BitVec 16
  bank : BitVec 4
  column : BitVec 11
  deriving DecidableEq, Repr

/-- The place of a port address. -/
def dramPlace (a : BitVec 32) : DramPlace :=
  ⟨a.getLsbD 8, a.extractLsb' 16 16, a.extractLsb' 12 4, a.extractLsb' 9 3 ++ a.extractLsb' 0 8⟩

/-- The bank within its group, and the bank group, in bank-group mode. -/
def DramPlace.bankInGroup (d : DramPlace) : BitVec 2 := d.bank.extractLsb' 2 2
def DramPlace.group (d : DramPlace) : BitVec 2 := d.bank.extractLsb' 0 2

/-- The port address of a place. -/
def DramPlace.addr (d : DramPlace) : BitVec 32 :=
  d.row ++ (d.bank ++ (d.column.extractLsb' 8 3 ++ (BitVec.ofBool d.channel ++ d.column.extractLsb' 0 8)))

/-- The 32-byte bursts of a write: address, data and byte mask (R335). -/
def burstsOf (w : HostWrite) : List (Nat × Burst × Nat) :=
  let part := fun (a i : Nat) => (a + 32 * i, BitVec.ofNat 256 (w.data.toNat / 2 ^ (256 * i)), w.mask.toNat / 2 ^ (32 * i) % 2 ^ 32)
  if w.bl32 then [part (w.addr.toNat / 64 * 64) 0, part (w.addr.toNat / 64 * 64) 1] else [part (w.addr.toNat / 32 * 32) 0]

/-! ## Write bursts -/

/-- A burst into the register window: every word that is wholly unmasked, in increasing address order (R332).
(DEDUCED: log entry 43.) -/
def State.registerBurst (s : State) (a : Nat) (data : Burst) (mask : Nat) : State :=
  (upto 8).foldl (fun u i =>
    if mask / 2 ^ (4 * i) % 16 = 15 then
      u.regWrite ((a + 4 * i) / 16 * 16) ((a + 4 * i) / 4 % 4) (BitVec.ofNat 32 (data.toNat / 2 ^ (32 * i)))
    else u) s

/-- A burst into the doorbell cells: bytes 0 to 31 ring, bytes 32 to 63 are ignored (R55, R330). (DEDUCED: log entry 41.) -/
def State.cellBurst (s : State) (port : Bool) (a : Nat) (data : Burst) (mask : Nat) : Out :=
  if a % 64 = 32 ∨ mask = 0 then .next s
  else if mask ≠ 0xFFFFFFFF then .next s.unpredictable
  else .next (s.ring (512 * b2n port + (a - 0x1000000) / 64) (data.getLsbD 64) (BitVec.ofNat 64 data.toNat))

/-- The bytes of a mask written into a memory from `a` upward. -/
def Memory.putMasked (m : Memory) (a : Nat) (data : Burst) (mask : Nat) : Memory :=
  (upto 32).foldl (fun m i => if mask / 2 ^ i % 2 = 1 then Memory.write m (a + i) (byteOf data i) else m) m

/-- A burst into the image window (R37, R39, R430). (DEDUCED: log entry 43.) -/
def State.imageBurst (s : State) (a : Nat) (data : Burst) (mask : Nat) : State :=
  if (s.img.st = .empty ∨ s.img.st = .writing) ∧ s.rbit Reg.stmCtl 0 then
    { s with img := { s.img with st := .writing, copy := Memory.putMasked s.img.copy (a - 0x10000000) data mask } }
  else s.count Reg.admImgwDiscCnt 1

/-- Mark a unit of the journal region as written by the host (R522). -/
def markUnit (l : List (Nat × Nat)) (u : Nat) : List (Nat × Nat) :=
  match l with
  | [] => [(u, 1)]
  | r :: rs => if r.1 ≤ u ∧ u < r.1 + r.2 then r :: rs else if u = r.1 + r.2 then (r.1, r.2 + 1) :: rs else r :: markUnit rs u

/-- A burst into the mirror journal window (R330, R469). -/
def State.journalBurst (s : State) (a : Nat) (data : Burst) (mask : Nat) : State :=
  if s.secondary then
    let o := a - 0x8000000
    { s with
      hbm := { s.hbm with journal := Memory.putMasked s.hbm.journal o data mask }
      flt := { s.flt with written := if mask = 0 then s.flt.written else markUnit s.flt.written (o / 64) } }
  else s.wdisc

/-- One 32-byte write burst of a port. -/
def State.writeBurst (s : State) (port : Bool) (b : Nat × Burst × Nat) : Out :=
  match rangeOf b.1 with
  | .registers => .next (s.registerBurst b.1 b.2.1 b.2.2)
  | .restOfWindow => .next s
  | .cells => s.cellBurst port b.1 b.2.1 b.2.2
  | .cellView => .next s.wdisc
  | .rings => .next s.wdisc
  | .journal => .next (s.journalBurst b.1 b.2.1 b.2.2)
  | .image => .next (s.imageBurst b.1 b.2.1 b.2.2)
  | .ingress => s.ingressBurst port b.1 b.2.1 b.2.2
  | .nothing => .next s.wdisc

/-! ## When a port answers -/

/-- The port is initialised far enough to take commands, and awake (R329, R345, R346). -/
def State.portOpen (s : State) (p : Bool) : Bool := s.up && (s.port p).open_ && !(s.port p).pd && !(s.port p).sr

/-- The moment from which the port answers: tXP or tXSR after power-down or self-refresh was left. -/
def State.portTime (s : State) (p : Bool) : State := s.until (s.port p).exitAt

/-- Count the bursts received. -/
def State.countWrites (s : State) (p : Bool) (n : Nat) : State :=
  s.setPort p { s.port p with wbursts := (s.port p).wbursts + BitVec.ofNat 64 n }

/-- A write command of a port: its bursts in order. With the engine clock stopped every write is discarded (R456). -/
def State.hostWrite (s : State) (w : HostWrite) : Out :=
  let bs := burstsOf w
  let u := (s.portTime w.port).countWrites w.port bs.length
  if !s.portOpen w.port then .next s
  else if !s.engineUp then .next u
  else bs.foldl (fun (o : Out) b => match o with | .next v => v.writeBurst w.port b | x => x) (.next u)

/-- The range that a write command's address lies in. -/
def writeRange (w : HostWrite) : Range := rangeOf w.addr.toNat

/-- A write of the table's row for a range; an address of another range belongs to another row. -/
def State.writeIn (s : State) (rs : List Range) (w : HostWrite) : Out :=
  if rs.contains (writeRange w) then s.hostWrite w else .next s

def execIngressWrite (w : HostWrite) (s : State) : Out := s.writeIn [.ingress] w
def execDoorbell (w : HostWrite) (s : State) : Out := s.writeIn [.cells] w
def execImageWindowWrite (w : HostWrite) (s : State) : Out := s.writeIn [.image] w
def execJournalWindowWrite (w : HostWrite) (s : State) : Out := s.writeIn [.journal] w
def execRegisterWrite (w : HostWrite) (s : State) : Out := s.writeIn [.registers] w
def execDiscardedWrite (w : HostWrite) (s : State) : Out := s.writeIn [.restOfWindow, .cellView, .rings, .nothing] w

/-! ## Reads (R305, R330, R338 to R341) -/

/-- The two registers of a burst of the register window. -/
def State.readRegisters (s : State) (a : Nat) : Nat × State :=
  (upto 8).foldl (fun r i =>
    let x := r.2.regRead ((a + 4 * i) / 16 * 16) ((a + 4 * i) / 4 % 4)
    (r.1 + x.1.toNat * 2 ^ (32 * i), x.2)) (0, s)

/-- A burst of a result ring: an index line shows four entries, a record line half of its bytes. `ue`: a word is
uncorrectable; in a record line it is returned as stored (R455). -/
def State.readRing (s : State) (a : Nat) (ue : Bool) : Nat × State :=
  let o := a - 0x4000000
  let st := o / 0x10000
  let line := o % 0x10000 / 64
  if line < 64 then
    let k := 512 * st + o % 0x10000 / 8
    let v := (upto 4).foldl (fun n i => n + (tget 0#64 s.egr.index (k + i)).toNat * 2 ^ (64 * i)) 0
    (v, if ue then s.entryDamaged k else s)
  else
    let l := tget 0#512 s.egr.lines (1024 * st + line)
    (l.toNat / 2 ^ (256 * (a / 32 % 2)) % 2 ^ 256, if ue then s.lineDamaged st line else s)

/-- A burst of the mirror journal window comes from the read-ahead line, where its tag matches. -/
def State.readJournal (s : State) (a : Nat) : Nat :=
  let o := a - 0x8000000
  let l := tget (0, []) s.landed.stm.jra (o / 2048 % 512)
  if l.1 = o / 2048 + 1 then leNum ((l.2.drop (o % 2048)).take 32) else 0

/-- One 32-byte read burst of a port: its data, as a number, and the state. -/
def State.readBurst (s : State) (port : Bool) (a : Nat) (ue : Bool) : Nat × State :=
  match rangeOf a with
  | .registers => s.readRegisters a
  | .cells =>
    let x := a - 0x1000000
    (if x % 64 = 32 then s.cellHigh (512 * b2n port + x / 64) else 0, s)
  | .cellView =>
    let x := a - 0x1008000
    (if x % 64 = 32 then s.cellHigh (512 * b2n (!port) + x / 64) else 0, s)
  | .rings => s.readRing a ue
  | .journal => (s.readJournal a, s)
  | _ => (0, s)

/-- HOST_READ: one burst, or two in consecutive sampling cycles; zero while the engine clock is stopped (R456). -/
def execHostRead (port : Bool) (addr : BitVec 32) (bl32 : Bool) (ue : Bool) (s : State) : Out :=
  let u := s.portTime port
  let a := if bl32 then addr.toNat / 64 * 64 else addr.toNat / 32 * 32
  let r := if u.engineUp then u.readBurst port a ue else (0, u)
  let q := if !bl32 then (0, r.2) else if u.engineUp then r.2.readBurst port (a + 32) ue else (0, u)
  let x := q.2.port port
  onlyIf (s.portOpen port) s
    (q.2.setPort port { x with
      out := BitVec.ofNat 512 (r.1 % 2 ^ 256 + 2 ^ 256 * q.1), rbursts := x.rbursts + BitVec.ofNat 64 (if bl32 then 2 else 1) })

/-! ## The port's own commands (R323, R327, R329, R344 to R347) -/

/-- Raise a 16-bit half of a counter register, wrapping: the low half is HP0's. -/
def State.countHalf (s : State) (a : Nat) (p : Bool) : State :=
  let lo := if p then 16 else 0
  s.putFld a (lo + 15) lo (fld (s.reg a) (lo + 15) lo + 1)

/-- The level of a port reset pin. -/
def State.portPin (s : State) (p : Bool) : Bool := if p then s.pins.hp1ResetN else s.pins.hp0ResetN

/-- Drive a port reset pin. -/
def State.setPortPin (s : State) (p : Bool) (v : Bool) : State :=
  { s with pins := if p then { s.pins with hp1ResetN := v } else { s.pins with hp0ResetN := v } }

/-- The port's PHY, mode registers and training results at their reset values; its burst counts stay.
(DEDUCED: log entry 43.) -/
def Port.cleared (x : Port) : Port := { Port.zero with wbursts := x.wbursts, rbursts := x.rbursts, training := x.training }

/-- PORT_RESET: the pin falls, or rises. A port in self-refresh leaves it. (DEDUCED: log entry 43.) -/
def execPortReset (port : Bool) (level : Bool) (s : State) : Out :=
  let u := s.setPortPin port level
  let fall := ((u.setPort port (u.port port).cleared).clrBits Reg.hptStat (bmask (b2n port))).countHalf Reg.hptPrstCnt port
  let fall2 := if (s.port port).sr then (fall.leaveLow (144 + b2n port)).leaveLow 149 else fall
  let rise := u.setPort port { u.port port with highAt := u.clock.now }
  onlyIf (s.pins.power && s.portPin port != level) s (if level then rise else if s.up then fall2 else u)

/-- PORT_INIT_READY: 1.5 ms after both reset pins are high. -/
def execPortInitReady (port : Bool) (s : State) : Out :=
  let u := s.until ((s.port port).highAt + usSteps 1500)
  onlyIf (s.up && s.portPin port && !(s.port port).open_) s
    ((u.setPort port { u.port port with open_ := true }).setBits Reg.hptCtl 0x1#32)

/-- Change a port at the moment from which it answers. -/
def State.onPort (s : State) (p : Bool) (f : Port → Port) : State :=
  let u := s.portTime p
  u.setPort p (f (u.port p))

/-- MODE_REGISTER_WRITE: stored at the current set point; the first one makes the port READY. Link ECC enabled in mode
register 22 is recorded (R348; PRESUMED: the place of its fields, log entry 40). -/
def execModeRegisterWrite (port : Bool) (mr : BitVec 7) (v : Byte) (s : State) : Out :=
  let u := s.onPort port (fun x => { x with mrs := tset 0#9 x.mrs (128 * x.fsp.toNat + mr.toNat) (BitVec.ofNat 9 (v.toNat + 1)) })
  let w := u.setBits Reg.hptStat (bmask (b2n port))
  onlyIf (s.portOpen port) s
    (if mr = 22#7 ∧ 16 ≤ v.toNat then w.setBits Reg.hptStat (bmask (6 + b2n port)) else w)

/-- MODE_REGISTER_READ. (DESIGN CHOICE: log entry 65.) -/
def execModeRegisterRead (port : Bool) (mr : BitVec 7) (s : State) : Out :=
  onlyIf (s.portOpen port) s (s.onPort port (fun x => { x with out := BitVec.ofNat 512 (x.mr x.fsp mr.toNat).toNat }))

/-- TRAINING_COMMAND: counted, and kept for the set point. -/
def execTrainingCommand (port : Bool) (_kind : BitVec 3) (s : State) : Out :=
  onlyIf (s.portOpen port) s
    (s.onPort port (fun x => { x with training := x.training + 1#32, trained := tmod 0 x.trained x.fsp.toNat (· + 1) }))

/-- ZQ_CALIBRATION. -/
def execZqCalibration (port : Bool) (s : State) : Out :=
  onlyIf (s.portOpen port) s (s.onPort port (fun x => { x with zq := x.zq + 1 }))

/-- REFRESH of any kind. -/
def execRefresh (port : Bool) (_kind : BitVec 2) (s : State) : Out :=
  onlyIf (s.portOpen port) s ((s.portTime port).count (if port then Reg.hptRefCnt1 else Reg.hptRefCnt0) 1)

def execPowerDownEntry (port : Bool) (s : State) : Out :=
  onlyIf (s.portOpen port) s (s.onPort port (fun x => { x with pd := true }))

/-- POWER_DOWN_EXIT: the port answers again tXP later, 7.5 ns. -/
def execPowerDownExit (port : Bool) (s : State) : Out :=
  onlyIf (s.up && (s.port port).pd && !(s.port port).sr) s
    (s.onPort port (fun x => { x with pd := false, exitAt := s.clock.now + 1 }))

/-- SELF_REFRESH_ENTRY: counted; the port's domain, and with both ports asleep domain 149, follow. -/
def execSelfRefreshEntry (port : Bool) (withPd : Bool) (s : State) : Out :=
  let u := s.onPort port (fun x => { x with sr := true, pd := withPd })
  onlyIf (s.portOpen port) s (((u.countHalf Reg.hptSrCnt port).enterLow (144 + b2n port)).autoPower)

/-- SELF_REFRESH_EXIT: the domain comes back within 250 ns, and the host holds tXSR, 300 ns. -/
def execSelfRefreshExit (port : Bool) (s : State) : Out :=
  let u := s.onPort port (fun x => { x with sr := false, pd := false, exitAt := s.clock.now + 30 })
  onlyIf (s.up && (s.port port).sr) s ((u.leaveLow (144 + b2n port)).leaveLow 149)

/-- FSP_CHANGE: set points 0 to 2 exist; naming another enables a feature that is not supported (R323). -/
def execFspChange (port : Bool) (fsp : BitVec 2) (s : State) : Out :=
  if fsp = 3#2 then .next s.unpredictable
  else onlyIf (s.portOpen port) s (s.onPort port (fun x => { x with fsp := fsp }))

end Sys2Proof.Machine
end

