-- ==== Sys2Proof/Machine/Power.lean ====
section
/-! DEFINITION. Commands of clocks and power: sensors, thermal control and trips (R406 to R410, R480, R507, R511), lift
requests (R417), and the entries and exits of the power domains (R418 to R424, R523). -/

namespace Sys2Proof.Machine

/-! ## Clocks -/

/-- Stop the engine clock and record the device fault (R405, R410, R456): no record is written any more.
(DEDUCED: log entry 71.) -/
def State.engineStop (s : State) (cause : Nat) : State :=
  let u := s.deviceFault cause
  { u with dev := { u.dev with engineStopped := true, draining := false }, clk := { u.clk with stopped := true } }

/-- REFCLK stops: every clock taken from it, device time and the 100BASE-T1 port stop too (R405).
(DEDUCED: log entry 71.) -/
def execRefclkLost (s : State) : Out :=
  let l := (s.setBits Reg.clkStat 0x20#32).logEvent 0x13 0
  let u := l.engineStop 1
  onlyIf (s.up && !s.dev.refclkDead) s { u with
    clock := { u.clock with frozen := some (u.clock.frozen.getD u.clock.now) }
    dev := { u.dev with refclkDead := true, ethDead := true }
    pins := { u.pins with uart0 := (BitVec.ofNat 8 u.stage, 1#8) :: u.pins.uart0 } }

/-- A PLL reports loss of lock (R405): 0 to 7 sectors, 8 engine, 9 to 12 HBM PHYs, 13 the Ethernet PHY. -/
def execPllLockLost (pll : BitVec 4) (s : State) : Out :=
  let l := (s.setBits Reg.clkStat 0x20#32).logEvent 0x13 0
  let u := l.engineStop 1
  onlyIf (s.up && pll.toNat ≤ 13) s { u with
    dev := { u.dev with ethDead := u.dev.ethDead || pll.toNat == 13 }
    pins := { u.pins with uart0 := (BitVec.ofNat 8 u.stage, 1#8) :: u.pins.uart0 } }

/-- The measurement of the relaxation oscillator and its trim, once a second (R406); none while REFCLK is lost. -/
def execOscillatorTrim (err : BitVec 16) (s0 : State) : Out :=
  let u := s0.until (s0.clk.trimAt + msSteps 1000)
  let s := { u with clk := { u.clk with trimAt := u.clock.now } }
  let old := BitVec.ofNat 16 (fld (s.reg Reg.clkRoscTrim) 15 0)
  onlyIf (s0.up && !s0.dev.refclkDead) s0
    (s.setReg Reg.clkRoscTrim (BitVec.ofNat 32 (err.toNat * 65536 + (Config.trimCode old err).toNat)))

/-- Minimum, maximum and last reading of a window (R480); readings are compared as signed numbers. -/
def Win3.take (x : Win3) (v : BitVec 16) : Win3 :=
  let i := fun (w : BitVec 16) => sInt 16 w.toNat
  if x.n = 0 then ⟨1, v, v, v⟩
  else ⟨x.n + 1, if i v < i x.lo then v else x.lo, if i x.hi < i v then v else x.hi, v⟩

/-- Take a reading of every sensor into a table of windows. -/
def takeAll (t : Tbl Win3) (vs : List (BitVec 16)) : Tbl Win3 :=
  (vs.zip (upto vs.length)).foldl (fun m p => tset Win3.zero m p.2 ((tget Win3.zero m p.2).take p.1)) t

/-- A sensor reads 110 degrees or more (R410). -/
def tripLevel (v : BitVec 16) : Bool := 440 ≤ sInt 16 v.toNat

/-- The code driven for a wanted one: 20 to 80 only (R507). (DEDUCED: log entry 36.) -/
def vidCode (n : Nat) : Byte := BitVec.ofNat 8 (max 20 (min 80 n))

/-- The core voltage code under R507: 4 codes higher from 95 degrees on the hottest sector sensor, back below 90.
(DEDUCED: log entry 36.) -/
def State.vidStep (s : State) : State :=
  let h := ((s.clk.temps.take 48).map (fun v => sInt 16 v.toNat)).foldl max (-32768)
  let set := fun (hot : Bool) (v : Byte) =>
    { s with pins := { s.pins with vidHot := hot, vid := v, vidAt := s.clock.now } }
  if 380 ≤ h ∧ ¬ s.pins.vidHot then set true (vidCode (Config.fusedVid.toNat + 4))
  else if h < 360 ∧ s.pins.vidHot then set false (vidCode Config.fusedVid.toNat)
  else s

/-- Every 100 microseconds the sensors and monitors are read (R408, R480); two consecutive readings of 110 degrees trip
the part (R410); the core voltage code follows (R507). -/
def execSensorReading (temps volts : List (BitVec 16)) (s0 : State) : Out :=
  let s := (s0.until (s0.clk.sensedAt + usSteps 100)).openWindows
  let ts := temps.take 64
  let hot := (upto ts.length).filter (fun n => tripLevel (ts.getD n 0))
  let again := hot.filter (fun n => s.clk.hot.contains n)
  let u := { s with
    clk := { s.clk with temps := ts ++ s.clk.temps.drop ts.length, hot := hot, sensedAt := s.clock.now }
    tel := { s.tel with temps := takeAll s.tel.temps ts, volts := takeAll s.tel.volts (volts.take 32) } }
  let v := u.vidStep
  let t := match again with
    | [] => v
    | n :: _ =>
      let l := v.logEvent 0x12 (logArgs [(n, 1), ((sInt 16 (ts.getD n 0).toNat / 4).toNat, 1)])
      let w := ((l.setBits Reg.clkStat 0x10#32).alert 7).engineStop 2
      { w with hbm := { w.hbm with selfRef := 0xF#4 } }
  onlyIf s0.up s0 t

/-- Set a sector's clock. -/
def State.setFreq (s : State) (n v : Nat) : State :=
  s.putFld (if n < 4 then Reg.clkSectFreq0 else Reg.clkSectFreq1) (8 * (n % 4) + 7) (8 * (n % 4)) v

/-- One sector under R409, with the entry of R484 for a step. -/
def State.thermalSector (s : State) (n : Nat) : State :=
  let t := s.sectTemp n
  let lim : Int := fld (s.reg Reg.clkThermLim) 7 0
  let hyst : Int := fld (s.reg Reg.clkThermLim) 15 8
  let f := s.sectFreq n
  let log := fun (u : State) (g : Nat) => u.logEvent 0x11 (logArgs [(n, 1), (g, 1), ((t / 4 % 256).toNat, 1)])
  let u :=
    if 4 * lim ≤ t ∧ 13 < f then
      let d := ((s.setFreq n (f - 1)).count Reg.clkThrottleCnt 1)
      let d := { d with clk := { d.clk with downs := tset 0#32 d.clk.downs n (tget 0#32 d.clk.downs n + 1#32) } }
      log (if f = 26 then (d.setBits Reg.clkStat 0x2#32).alert 7 else d) (f - 1)
    else if t < 4 * (lim - hyst) ∧ f < 26 then log (s.setFreq n (f + 1)) (f + 1)
    else s
  if s.sectFreq n < 26 then
    { u with clk := { u.clk with below := tset 0#32 u.clk.below n (tget 0#32 u.clk.below n + 1#32) } }
  else u

/-- The evaluation of every millisecond (R407, R409). -/
def execThermalEvaluation (s : State) : Out :=
  let u := s.until (s.clk.evalAt + msSteps 1)
  onlyIf (s.up && !s.clk.stopped) s
    ((upto 8).foldl (fun u n => u.thermalSector n) { u with clk := { u.clk with evalAt := u.clock.now } })

/-- A request to start a stopped clock (R417): 248 to 255 name the sector clocks 0 to 7, any other number the clock of
that power domain. A sector stopped by a capture holds the lift; a domain in its low state begins its exit where its
policy lets it leave. (DESIGN CHOICE: log entry 37.) -/
def execLiftRequest (clock : BitVec 8) (s : State) : Out :=
  let d := clock.toNat
  let held := 248 ≤ d && bit s.clk.capture (d - 248)
  let may := if s.policy d = 1 then s.autoHigh d else if s.policy d = 0 then !(s.dom d).reqLow && !s.blockUsed d else false
  .next (
    if !s.up then s
    else if held then ({ s with clk := { s.clk with lifts := s.clk.lifts ++ [clock] } }).count Reg.clkLiftHeldCnt 1
    else if d < 152 && may then s.leaveLow d
    else s)

/-! ## Power domains -/

/-- A write of REQ_LOW (R419, R423, R428). -/
def execReqLow (d : BitVec 8) (v : Bool) (s : State) : Out :=
  onlyIf (s.up && s.blockEn 13) s (s.writeDctl d.toNat v)

/-- The end of an entry sequence (R420): what the low state does not keep is lost; a lift held meanwhile begins the exit
(R424). -/
def execPowerEntryComplete (d : BitVec 8) (s : State) : Out :=
  let n := d.toNat
  let x := s.dom n
  let u := (s.setDom n { x with st := 2, entries := x.entries + 1#32 }).count Reg.pwrTransCnt 1
  let w := u.loseDomain n
  let t := if w.pwr.liftHeld.contains n then
      ({ w with pwr := { w.pwr with liftHeld := w.pwr.liftHeld.filter (· != n) } }).leaveLow n
    else w
  onlyIf (s.moving && n < 152 && x.st == 1) s t

/-- The dual-clock queues that an exit resets: those of a tile block, of a sector's spine, of post-processing and of
crop-and-resize (R416, R418). -/
def State.resyncDomain (s : State) (d : Nat) : State :=
  s.loseCrossings (fun t => gblockOf t == d || (decide (128 ≤ d) && sectorOf t == d - 128)) (fun u => d == u + 140 && (u == 7 || u == 8))

/-- The end of an exit sequence (R421): the dual-clock queues it touches discard their words (R416). `lost` is what the queue
before a host port held, of which the port domains alone have one. (DEDUCED: log entry 76.) -/
def execPowerExitComplete (d : BitVec 8) (lost : BitVec 32) (s : State) : Out :=
  let n := d.toNat
  let x := s.dom n
  let us := (s.clock.now - x.at_) / 100
  let u := (s.setDom n { x with st := 0, lastExit := BitVec.ofNat 32 us }).count Reg.pwrTransCnt 1
  let l := if lost = 0 ∨ (n ≠ 144 ∧ n ≠ 145) then u.resyncDomain n
    else (u.count Reg.clkDcqLostCnt lost.toNat).setBits Reg.clkStat 0x4#32
  let w := if 136 ≤ n ∧ n < 140 then
      { l with hbm := { l.hbm with
          selfRef := l.hbm.selfRef &&& ~~~(BitVec.ofNat 4 (2 ^ (n - 136)))
          chans := (upto 16).foldl (fun m i => tmod Chan.zero m (16 * (n - 136) + i) (fun c => { c with recalAt := l.clock.now })) l.hbm.chans } }
    else l
  let t := if n < 128 && w.pwr.gating && w.gatedBlocks.isEmpty then { w with pwr := { w.pwr with reloading := true } }
    else if n < 128 && !(w.blockUsed n) && w.autoLow n then w.enterLow n else w
  onlyIf (s.moving && n < 152 && x.st == 3) s t

/-- A wave of R422: up to eight queued tile blocks, lowest numbers first, close their switches; a block waits for the
spine of its sector. Waves are 8 microseconds apart. -/
def execInrushWave (s0 : State) : Out :=
  let s := s0.until (match s0.pwr.waveAt with | some t => t + usSteps 8 | none => 0)
  let ready := (upto 128).filter (fun b => (s.dom b).st == 4 && (s.dom (128 + b / 16)).st == 0)
  let u := (ready.take 8).foldl (fun u b => u.setDom b { u.dom b with st := 3, at_ := u.clock.now }) s
  onlyIf (s.moving && !ready.isEmpty) s0 { u with pwr := { u.pwr with waveAt := some s.clock.now } }

/-- Ten milliseconds without a request: the signature engine enters its low state (R418). -/
def execSignatureIdleTimeout (s : State) : Out :=
  onlyIf (s.up && (s.dom 150).st == 0 && !s.sigBusy) s ((s.until (s.pwr.sigIdleAt + msSteps 10)).enterLow 150)

/-- The used blocks that were gated have reloaded from the image copy in snowplough mode, so that no load stream of a sector is
still at work (R28, R296, R423): the Y6 resumes. An unreadable copy is a device fault (R310). -/
def execBlockReloadComplete (ue : Bool) (s : State) : Out :=
  let tiles := (mapTiles s.plc.pitch).filter (fun p => (s.tile p.2.2).held && !(s.tile p.2.2).hold)
  let u := tiles.foldl (fun u p =>
    let x := loadTile s.img.copy s.img.digest s.plc.pitchDigest p.1 p.2.1 p.2.2 (b2n s.bank)
    u.setTile p.2.2 ({ x with active := BitVec.ofNat 2 s.admissionSlot }.loadCounters s.admissionSlot)) s
  let v := ({ u with pwr := { u.pwr with reloading := false } }).rebase.loadCredits
  let t := if ue then s.deviceFault 6 else v.gateBlocks
  let still := (upto 8).any (fun i => (tget TStream.zero s.stm.ts (16 + i)).active.isSome)
  onlyIf (s.engineUp && s.pwr.reloading && !still) s t

end Sys2Proof.Machine
end

