-- ==== Sys2Proof/Machine/Boot.lean ====
section
/-! DEFINITION. Start-up, soft reset, restarts of the management controller, and power (R429 to R439, R504 to R510). A
start runs through every stage of R430 in one command; how long it takes is a free value within its bound. -/

namespace Sys2Proof.Machine

/-! ## What a reset leaves (R376, R435, R504, R510) -/

/-- Flash work that a reset or a restart cuts short: a save leaves its position unwritten, an erase leaves what it leaves
(free values); the record before stays. (DESIGN CHOICE: log entry 51.) -/
def State.abandonFlash (s : State) : State :=
  match s.dict.saving with
  | some p => if s.dict.deferred then { s with dict := { s.dict with saving := none, deferred := false, pstate := 0 } }
              else s.endSave p.1 p.2 true
  | none => if s.dict.pstate = 2 then s.endErase true else s

/-- Every state lost but the flash, the TAP, the levels of the pins, the clock of the model and its queue (R349). -/
def State.lostAll (s : State) : State :=
  let u := s.abandonFlash
  { State.reset with
    pending := u.pending
    pins := { resetPins with
      power := u.pins.power, powerAt := u.pins.powerAt, lowAt := u.clock.now
      hp0ResetN := u.pins.hp0ResetN, hp1ResetN := u.pins.hp1ResetN, uart0 := u.pins.uart0 }
    clock := { State.reset.clock with now := u.clock.now, base := u.clock.now, resetAt := u.clock.now, anchor := u.clock.now }
    flash := u.flash, tap := u.tap, freeCtr := u.freeCtr }

/-- RESET_N_ASSERT. (DEDUCED: log entry 71.) -/
def execResetNAssert (s : State) : Out := onlyIf (s.pins.power && s.pins.resetN) s s.lostAll

/-- LOSS_OF_POWER: every rail at once; the TAP stops too. -/
def execLossOfPower (s : State) : Out :=
  let u := s.lostAll
  onlyIf s.pins.power s { u with pins := { u.pins with power := false }, tap := State.reset.tap }

/-- POWER_ON: VDD_AON and VDDIO come into range with RESET_N low; the TAP works and VID drives code 48. -/
def execPowerOn (s : State) : Out :=
  onlyIf (!s.pins.power) s { s with
    pins := { s.pins with power := true, powerAt := s.clock.now, resetN := false, lowAt := s.clock.now, vid := 48 } }

/-! ## Stage 4: a firmware bank (R432, R433) -/

/-- Show a stage. -/
def State.setStage (s : State) (n : Nat) : State := s.putFld Reg.secBoot 3 0 n

/-- A boot check ends: it is a verification (R448). (DEDUCED: log entry 14.) -/
def State.bootCheck (s : State) (b : Bool) : Nat × State :=
  let r := s.bankCheck (s.bankBytes b)
  let u := s.count Reg.secVerifyCnt 1
  let v := { u with pwr := { u.pwr with sigIdleAt := u.clock.now } }
  (r, if r = 0 then v else (v.count Reg.secVerifyFailCnt 1).setBits Reg.secStat 0x8#32)

/-- The firmware of a bank runs. -/
def State.runBank (s : State) (b : Bool) : State :=
  let u := { s with sec := { s.sec with running := s.bankBytes b } }
  ((u.putBit Reg.secBoot 8 b).setBits Reg.devStat 0x10#32).setBits Reg.mbxCtl 0x1#32

/-- Neither bank is accepted: RECOVERY, reported on UART0. (DEDUCED: log entry 52.) -/
def State.recover (s : State) (code : Nat) : State :=
  let u := (((s.setStage 8).setBits Reg.secStat 0x4#32).clrBits Reg.devStat 0x10#32).clrBits Reg.mbxCtl 0x1#32
  { (u.putBit Reg.secBoot 8 false) with
    sec := { u.sec with running := [] }
    pins := { u.pins with uart0 := (8, BitVec.ofNat 8 code) :: u.pins.uart0 } }

/-- Stage 4: the preferred bank, else the other one with FALLBACK and an entry in the fault log. (DEDUCED: log entry 70.) -/
def State.bootFirmware (s : State) : State :=
  let p := s.flash.preferred
  let a := (s.setStage 4).bootCheck p
  if a.1 = 0 then (a.2.putBit Reg.secBoot 9 false).runBank p
  else
    let f := (a.2.setBits Reg.secBoot 0x200#32).logEvent 0xF (logArgs [(b2n (!p), 1), (a.1, 2)])
    let b := f.bootCheck (!p)
    if b.1 = 0 then b.2.runBank (!p) else b.2.recover a.1

/-! ## Stage 5: the active profile (R376 to R378) -/

/-- The states of the four profiles, and the entries for damaged ones. -/
def State.findProfiles (s : State) : State :=
  (upto 4).foldl (fun (u : State) p =>
    let n := (u.profile p).found
    let v := { u with dict := { u.dict with pfound := tset 0 u.dict.pfound p n } }
    if n = 2 then (v.logEvent 0xE (logArgs [(p, 1)])).alert 8 else v) s

/-- Apply the active profile, and take its image digest in force. -/
def State.takeProfile (s : State) : State :=
  let p := s.dict.active.toNat
  let x := s.profile p
  let u := s.findProfiles
  let v := { u with dict := { u.dict with digest := x.digest, skipped := tset 0 u.dict.skipped p 0 } }
  (v.applyEntries p (match x.newest with | some r => r.2.entries | none => [])).showDamaged

/-- The firmware has started: START is entered, and the profile is applied. -/
def State.startFirmware (s : State) : State :=
  let u := (s.setStage 5).setBits Reg.telCtl 0x1#32
  (u.logEvent 1 (logArgs [((u.reg Reg.devResetCause).toNat, 4), (u.fwRunning.toNat, 4)])).takeProfile

/-! ## Stages 6 and 7 (R430, R431) -/

/-- The march test retires every tile with a failing word, with cause 5. (DEDUCED: log entry 45.) -/
def State.march (s : State) (failing : List TileAddr) : State :=
  failing.foldl (fun (u : State) t =>
    if isTile t && !u.isRetired t then
      (u.logEvent 2 (logArgs [(t.toNat, 2), (0xFFFF, 2), (5, 1)])).retireTile t 5
    else u) s

/-- HBM, stream engine and power control are in service; READY. -/
def State.ready (s : State) : State :=
  let u := s.applyRetired
  let v := (((u.setBits Reg.hbmStat 0x1#32).setBits Reg.hbmCtl 0x1#32).setBits Reg.stmCtl 0x1#32).setBits Reg.pwrCtl 0x1#32
  ((v.setStage 7).setBits Reg.egrCtl 0x1#32).autoPower

/-- The time a start takes in milliseconds, at most `most`; the clock moves on by it.
(DESIGN CHOICE: log entry 53.) (DESIGN CHOICE: log entry 59.) -/
def State.bootTime (s : State) (most : Nat) : State :=
  let ms := min (Config.bootMs s.freeCtr).toNat most
  let t := s.clock.now + msSteps ms
  let u := { s with
    freeCtr := s.freeCtr + 1
    clock := { s.clock with now := t, anchor := t } }
  u.setReg Reg.secBootTime (BitVec.ofNat 32 ms)

/-- BOOT and LOG_SEQ as the flash log gives them (R481). -/
def State.logStart (s : State) : State :=
  { s with tel := { s.tel with
    boot := BitVec.ofNat 32 ((s.flash.log.filter (fun e => e.kind == 1#16)).length + 1)
    seq := s.flash.log.foldl (fun m e => if m < e.seq then e.seq else m) 0, bucketAt := s.clock.now } }

/-- Pins, clock, ports and TAP at the rising edge of RESET_N (R402, R507, R518). -/
def State.coldPins (s : State) (prof : BitVec 2) : State :=
  let t := s.clock.now
  let p := { s.pins with resetN := true, vid := vidCode Config.fusedVid.toNat, vidAt := t, psDriven := true }
  let c := { s.clock with base := t, resetAt := t }
  let h0 := { s.hp0 with highAt := t }
  let h1 := { s.hp1 with highAt := t }
  let j := { s.tap with ir := 1#8 }
  let d := { s.dict with pins := prof, active := prof, source := 0 }
  let v := { s.dev with superAt := t }
  { s with pins := p, clock := c, hp0 := h0, hp1 := h1, tap := j, dict := d, dev := v }

/-- A start at the rising edge of RESET_N, in the state that reset left.
(DESIGN CHOICE: log entry 2.) (DESIGN CHOICE: log entry 53.) -/
def State.coldStart (s : State) (prof : BitVec 2) (failing : List TileAddr) : State :=
  let a := s.coldPins prof
  let b := ((a.bootTime 200).logStart).setReg Reg.devResetCause (BitVec.ofNat 32 (256 * prof.toNat))
  let c := ((b.setBits Reg.secCtl 0x1#32).setBits Reg.clkCtl 0x1#32).bootFirmware
  if c.stage = 8 then c else (c.startFirmware.march failing).ready

/-- RESET_N_RELEASE. RESET_N has been low for at least 10 us (R504). (DESIGN CHOICE: log entry 2.) -/
def execResetNRelease (prof : BitVec 2) (failing : List TileAddr) (s : State) : Out :=
  onlyIf (s.pins.power && !s.pins.resetN) s ((s.until (s.pins.lowAt + usSteps 10)).coldStart prof failing)

/-! ## Soft reset (R435, R436) -/

/-- What waits for flash is written before the units are reset. (DEDUCED: log entry 38.) -/
def State.flushLogs (s : State) : State :=
  let u := { s with
    flash := { s.flash with retired := s.flash.retired ++ s.tel.toRetire }
    tel := { s.tel with toRetire := [], toFlash := [] } }
  s.tel.toFlash.foldl (fun v e => v.writeLogEntry e []) u

/-- A host port keeps its mode registers, training and set points; its counters restart. (DEDUCED: log entry 38.) -/
def Port.kept (x : Port) : Port := { x with wbursts := 0, rbursts := 0, training := 0, zq := 0 }

/-- The state after step 2: what R435 keeps, and every other field at its reset value.
(DEDUCED: log entry 38.) (DEDUCED: log entry 71.) -/
def State.softCleared (s : State) : State :=
  let r := State.reset
  let keep := 3 ≤ s.img.st.code ∧ s.img.st.code ≤ 7
  let next := s.objVal (okey 0x2000 1) 0xFF
  let regs := [Reg.devScratch0, Reg.devScratch1, Reg.fltEpoch].foldl (fun m a => tset 0#32 m a (s.reg a)) r.regs
  let u := { r with
    pending := s.pending, freeCtr := s.freeCtr, flash := s.flash, tap := s.tap, i3c := s.i3c
    regs := tset 0#32 (tset 0#32 regs Reg.hptStat (s.reg Reg.hptStat &&& 0x3#32)) Reg.hptCtl (s.reg Reg.hptCtl)
    pins := { s.pins with alert := false }
    clock := { r.clock with now := s.clock.now, base := s.clock.now, resetAt := s.clock.resetAt, anchor := s.clock.now }
    dev := { r.dev with faultResets := s.dev.faultResets, superAt := s.clock.now }
    img := if keep then { r.img with copy := s.img.copy, copyBad := s.img.copyBad, digest := s.img.digest, keySlot := s.img.keySlot,
                                     st := .writing } else r.img
    hp0 := s.hp0.kept, hp1 := s.hp1.kept
    clk := { r.clk with temps := s.clk.temps, hot := s.clk.hot }
    pwr := { r.pwr with doms := tset Dom.on (tset Dom.on r.pwr.doms 144 (s.dom 144)) 145 (s.dom 145), sigIdleAt := s.clock.now }
    dict := { r.dict with active := s.dict.active, pins := s.dict.pins } }
  u.setObj (okey 0x2000 1) next

/-- The profile a soft reset takes (R378): NEXT_PROFILE, or the pins. -/
def State.softProfile (s : State) (prof : BitVec 2) : State :=
  let next := s.objVal (okey 0x2000 1) 0xFF
  { s with dict := if next < 4 then { s.dict with active := BitVec.ofNat 2 next, source := 1 }
                   else { s.dict with pins := prof, active := prof, source := 0 } }

/-- Step 5: a kept image is verified with the digest of the profile now active; COMMIT follows under AUTO_COMMIT (R436). -/
def State.verifyKept (s : State) : State :=
  if s.img.st = .writing then
    let u := { s with img := { s.img with autoCommit := s.objVal (okey 0x3000 8) 0 != 0 } }
    u.beginVerify
  else s

/-- Steps 2 to 5 of a soft reset. (DEDUCED: log entry 38.) (DESIGN CHOICE: log entry 53.) -/
def State.softStart (s : State) (prof : BitVec 2) : State :=
  let cause := (s.dev.pendingReset.getD 0).toNat
  let a := (s.flushLogs.softCleared).softProfile prof
  let b := ((a.bootTime 120).logStart).setReg Reg.devResetCause (BitVec.ofNat 32 (256 * a.dict.active.toNat + cause))
  let c := ((b.setBits Reg.secCtl 0x1#32).setBits Reg.clkCtl 0x1#32).bootFirmware
  if c.stage = 8 then { c with img := State.reset.img, hbm := { c.hbm with selfRef := 15 } }
  else
    let d := c.startFirmware
    let e := { d with hbm := { d.hbm with
      chans := tfill Chan.zero 64 (fun _ => { Chan.zero with recalAt := d.clock.now }) [] } }
    e.ready.verifyKept

/-- SOFT_RESET_START: after any SAVE or ERASE in progress (R379, R403). -/
def execSoftResetStart (prof : BitVec 2) (s : State) : Out :=
  onlyIf (s.up && s.dev.pendingReset.isSome && s.dict.pstate != 1 && s.dict.pstate != 2) s (s.softStart prof)

/-- Milliseconds in an hour. -/
def hourMs : Nat := 3600000

/-- FAULT_RESET_TIMER (R437): at most 3 within any hour. -/
def execFaultResetTimer (s : State) : Out :=
  let ms := s.objVal (okey 0x1000 8) 0
  match s.dev.faultAt with
  | none => .next s
  | some t =>
    let u := s.until (t + msSteps ms)
    let recent := u.dev.faultResets.filter (fun x => decide (u.clock.now < x + msSteps hourMs))
    onlyIf (s.fwUp && s.faulted && ms != 0 && decide (recent.length < 3) && s.dev.pendingReset.isNone) s
      ({ u with dev := { u.dev with faultResets := u.clock.now :: recent } }.requestReset 3)

/-! ## Restart of the management controller (R434) -/

/-- Objects held in management memory take their values from the active profile again. (DEDUCED: log entry 70.) -/
def State.restartObjects (s : State) : State :=
  let es := match (s.profile s.dict.active.toNat).newest with | some r => r.2.entries | none => []
  let mem := es.filter (fun e =>
    let i := e.1 / 256
    decide (0x4000 ≤ i ∧ i < 0x4400) || decide (0x6100 ≤ i ∧ i < 0x6500) || decide (i = 0x1000 ∨ i = 0x1010) || decide (e.1 = okey 0x3000 8))
  let u := { s with dict := { s.dict with
    objs := [], queue := [], seg := none, replies := [], saving := none, deferred := false, pstate := 0, presult := 0
    savedAt := none, ext := [] } }
  let v := { u with dict := { u.dict with skipped := tset 0 u.dict.skipped s.dict.active.toNat 0 } }
  v.applyEntries s.dict.active.toNat mem

/-- SUPERVISORY_TIMER_EXPIRY: stages 4 and 5 only, while the foreground runs on. (DEDUCED: log entry 70.) -/
def execSupervisoryTimerExpiry (s : State) : Out :=
  let a := s.abandonFlash
  let b := ((a.count Reg.secMgmtRestartCnt 1).setBits Reg.secStat 0x10#32).logEvent 0x15 0
  let c := if b.dict.seg.isSome then { b with sec := { b.sec with fwState := 0 } } else b
  let d := (c.restartObjects.clrBits Reg.mbxStat 0x1#32).bootFirmware
  let e := if d.stage = 8 then d else d.setStage s.stage
  onlyIf s.fwUp s { e with dev := { e.dev with superAt := e.clock.now } }

end Sys2Proof.Machine
end

