-- ==== Sys2Proof/Machine/Control.lean ====
section
/-! DEFINITION. The control instructions of a tile (R87, R91, R93, R94), the choice of a rule (R90) and the taking of end
markers without an instruction (R96). -/

namespace Sys2Proof.Machine

/-- An instruction without an effect of its own that goes on as `f` says. -/
def State.tileFlow (s : State) (i : Instr) (t : TileAddr) (h : Hdr) (f : Flow) : Out :=
  s.tileCycle i t h (needOf h) (fun u _ _ => (u, f))

/-- NOP (R87). -/
def execNop (t : TileAddr) (h : Hdr) (s : State) : Out := s.tileFlow (.nop t h) t h .on

/-- WAIT: issues once QIN holds a word of the context, which stays there (R87). -/
def execWait (t : TileAddr) (h : Hdr) (s : State) : Out :=
  s.tileCycle (.wait t h) t h (waitNeed h) (fun u _ _ => (u, .on))

/-- JMP (R87). -/
def execJmp (t : TileAddr) (h : Hdr) (target : BitVec 13) (s : State) : Out :=
  s.tileFlow (.jmp t h target) t h (.jump target.toNat)

/-- END: a static schedule starts again, a handler is over (R87). -/
def execEndOp (t : TileAddr) (h : Hdr) (s : State) : Out := s.tileFlow (.endOp t h) t h .done

/-- The kind and argument of a token taken from queue `q`; a word of another network has no effect as a token. -/
def tokenOf (q : Nat) (w : QWord) : Nat × Nat := if netOfQueue q = 2 then (w.kind.toNat, fld w.data 2 0) else (2, 0)

/-- TOKR applies the kind of the token it takes (R91, R93, R94). R94 has a tile that switches forward the CTX_SWITCH; it does not
say what becomes of one that names the slot already active: the model forwards it too. (DESIGN CHOICE: log entry 83.)
(DEDUCED: log entry 19.) -/
def execTokr (t : TileAddr) (h : Hdr) (base : BitVec 13) (mul : BitVec 8) (s : State) : Out :=
  s.tileCycle (.tokr t h base mul) t h (tokrNeed h) (fun u c w =>
    let q := h.qin.toNat
    match w with
    | none => (u, .on)
    | some k =>
      let tk := tokenOf q k
      let x := u.tile t
      if tk.1 = 0 then (u.setTile t (x.decCounter c tk.2), .on)
      else if tk.1 = 1 then (u, .jump ((base.toNat + tk.2 * mul.toNat) % 8192))
      else if tk.1 = 5 then
        let v := u.setTile t { x with delivered := x.delivered ++ [16 * c + q] }
        let f := (x.controlLanes c).foldl (fun v l => v.sendLane t l { k with src := noSrc }) v
        (f.switchTo t (tk.2 % 4), .on)
      else (u, .on))

/-- A KIND that the network of OUT's lane reserves (R77, R78). -/
def kindReserved (h : Hdr) (kind : BitVec 3) : Option Nat :=
  if h.out.toNat = 0 then none
  else if 5 ≤ h.out.toNat then (if kind.toNat = 7 then some 78 else none)
  else if 5 ≤ kind.toNat then some 77
  else none

/-- TOKW sends a token on OUT (R87); a KIND that the lane's network reserves is refused by name (R77, R78). -/
def execTokw (t : TileAddr) (h : Hdr) (kind arg : BitVec 3) (s : State) : Out :=
  match kindReserved h kind with
  | some r => .fault (.reserved r)
  | none => s.tileCycle (.tokw t h kind arg) t h (needOf h) (fun u c _ => (u.sendOut t h c kind (BitVec.ofNat 256 arg.toNat), .on))

/-- CTX makes the slot of the other variant active; the old slot retires (R93, R95). -/
def execCtx (t : TileAddr) (h : Hdr) (variant : Bool) (s : State) : Out :=
  s.tileCycle (.ctx t h variant) t h (needOf h) (fun u c _ => (u.switchTo t (2 * (c / 2) + b2n variant), .on))

/-- In rule mode with no handler running, the next ready rule after the pointer is chosen and its handler starts; its
first instruction may issue in the same cycle. With no ready rule the cycle counts as WAIT (R90, R95, R114). An
unreadable context slot is a tile fault (R74). (DEDUCED: log entry 19.) -/
def execRuleFire (at_ : Checked TileAddr) (s : State) : Out :=
  let t := at_.val
  let x := s.tile t
  let cs := x.contexts.filter (fun c => x.slotValid c && x.ruleMode c)
  let e := s.countEcc at_.check
  let idle := (e.countFull t).tileTick t cWait
  let held := x.freeze || s.fab.stopped || x.aborting.isSome || cs.any (fun c => !(x.abortHeads c).isEmpty)
  if !isTile t then .fault .noSuchTile
  else onlyIf (s.tileOn t && !cs.isEmpty && x.handler.isNone) s
    (if at_.check = .uncorrectable then e.tileFault t 1
     else if held then idle
     else match cs.filterMap (fun c => (issueNextRule x c).map (fun r => (c, r))) with
       | (c, r) :: _ =>
         let lo := x.slotWord c (0x20 + 8 * r)
         e.setTile t { x with rulePtr := BitVec.ofNat 3 r, handler := some (c, fld lo 28 16, fld lo 4 0 + 1) }
       | [] => idle)

/-- The counter of a cycle in which a tile only takes an entry without an instruction: that of the wait of the context that would
issue; none where that context issues in the same cycle, which then counts by its own command (R96, R114).
(DEDUCED: log entry 19.) -/
def State.waitCounter (s : State) (t : TileAddr) : Option Nat :=
  let x := s.tile t
  let c := issueSlot x
  let h := wordHdr (x.nextWord c)
  let n := wordNeed (x.nextWord c)
  let g := if ownGate x c = .none then Gate.none
    else if x.ruleMode c && !x.handler.any (fun k => k.1 == c) then ownGate x c
    else s.issueGate t h n c
  if x.freeze then some cWait
  else match g with
    | .go => none
    | .wait => some cWait
    | .stallIn => some cStallIn
    | .stallOut => some cStallOut
    | .hazard => some cHazard
    | .none => some cWait

/-- A CTX_END at the head of a queue is taken without an instruction; a slot that has every end marker has retired, and the cycle
counts the wait of the issuing context (R96, R114). -/
def execTakeCtxEnd (t : TileAddr) (q : BitVec 4) (s : State) : Out :=
  let x := s.tile t
  if !isTile t then .fault .noSuchTile
  else .next (
    if s.tileOn t && !s.fab.stopped then
      match x.head q.toNat with
      | some w =>
        if isCtxEnd (netOfQueue q.toNat) w then
          let u := s.takeHead t q.toNat
          let y := u.tile t
          let v := u.setTile t { y with delivered := y.delivered ++ [16 * w.tag.toNat + q.toNat] }
          match s.waitCounter t with
          | some k => (v.countFull t).tileTick t k
          | none => v.tryRetire t
        else s
      | none => s
    else s)

end Sys2Proof.Machine
end

