-- ==== Sys2Proof/Machine/Vector.lean ====
section
/-! DEFINITION. The vector ALU (R69, R87, R208) and the zero-compressed form of channel rows (R194, R196). -/

namespace Sys2Proof.Machine

/-- Code of a lane width for the open results: 8, 16 or 32 bits. -/
def laneCode (l : LaneW) : BitVec 2 := match l with | .w8 => 0 | .w16 => 1 | .w32 => 2

/-- Write a vector result, send it where OUT names a lane, and count results that overflowed (log entry 21). -/
def State.vecResult (s : State) (t : TileAddr) (h : Hdr) (c : Nat) (w : Option QWord) (vd : Nat) (r : Burst) (ovf : Nat) :
    State :=
  ((s.setTile t ((s.tile t).setV vd r)).countOvf t ovf).sendOut t h c (resultKind h w) r

/-- The largest or smallest of two FP32 words; equal values keep their value (log entry 11). -/
def f32Max2 (a b : Word) : Word := if f32Int a = f32Int b then f32Of (f32 a) a b else if f32Le a b then b else a
def f32Min2 (a b : Word) : Word := if f32Int a = f32Int b then f32Of (f32 a) a b else if f32Le a b then a else b

/-- A two-source instruction on FP32 lanes: the exact results where rounding can overflow, and the lane function. Other
lane widths are open (log entry 22). -/
def State.vec2 (s : State) (i : Instr) (t : TileAddr) (h : Hdr) (lw : LaneW) (op : BitVec 3) (vd va vb : BitVec 4)
    (exact_ : Q → Q → Q) (f : Word → Word → Word) : Out :=
  s.tileCycle i t h (needOf h) (fun u c w =>
    let x := u.tile t
    let a := x.vreg va.toNat
    let b := qinData w (x.vreg vb.toNat)
    match lw with
    | .w32 =>
      let r := ofLanes (fun i => f (lane32 a i) (lane32 b i))
      let ovf := ((upto 8).filter (fun i => overflows (exact_ (f32 (lane32 a i)) (f32 (lane32 b i))))).length
      (u.vecResult t h c w vd.toNat r ovf, .on)
    | _ => (u.vecResult t h c w vd.toNat (Config.vecOpen op (laneCode lw) a b 0) 0, .on))

/-- Vector ADD. -/
def execVectorAdd (t : TileAddr) (h : Hdr) (lw : LaneW) (vd va vb : BitVec 4) (s : State) : Out :=
  s.vec2 (.vectorAdd t h lw vd va vb) t h lw 0 vd va vb Q.add f32Add

/-- Vector SUB. -/
def execVectorSub (t : TileAddr) (h : Hdr) (lw : LaneW) (vd va vb : BitVec 4) (s : State) : Out :=
  s.vec2 (.vectorSub t h lw vd va vb) t h lw 1 vd va vb Q.sub f32Sub

/-- Vector MUL. -/
def execVectorMul (t : TileAddr) (h : Hdr) (lw : LaneW) (vd va vb : BitVec 4) (s : State) : Out :=
  s.vec2 (.vectorMul t h lw vd va vb) t h lw 2 vd va vb Q.mul f32Mul

/-- Vector MAX. -/
def execVectorMax (t : TileAddr) (h : Hdr) (lw : LaneW) (vd va vb : BitVec 4) (s : State) : Out :=
  s.vec2 (.vectorMax t h lw vd va vb) t h lw 3 vd va vb (fun _ _ => ⟨0, 1⟩) f32Max2

/-- Vector MIN. -/
def execVectorMin (t : TileAddr) (h : Hdr) (lw : LaneW) (vd va vb : BitVec 4) (s : State) : Out :=
  s.vec2 (.vectorMin t h lw vd va vb) t h lw 4 vd va vb (fun _ _ => ⟨0, 1⟩) f32Min2

/-- max(x, 0) of an FP32 word (R165). -/
def f32Relu (a : Word) : Word := if f32Int a < 0 then 0#32 else if f32Int a = 0 then f32Of (Q.ofInt 0) a 0#32 else a

/-- RELU: its one source is the last one. -/
def execRelu (t : TileAddr) (h : Hdr) (lw : LaneW) (vd va : BitVec 4) (s : State) : Out :=
  s.tileCycle (.relu t h lw vd va) t h (needOf h) (fun u c w =>
    let a := qinData w ((u.tile t).vreg va.toNat)
    let r := match lw with
      | .w32 => ofLanes (fun i => f32Relu (lane32 a i))
      | _ => Config.vecOpen 5 (laneCode lw) a 0 0
    (u.vecResult t h c w vd.toNat r 0, .on))

/-- SHUF: the spec gives no permutation (log entry 22). -/
def execShuf (t : TileAddr) (h : Hdr) (lw : LaneW) (vd va vb : BitVec 4) (s : State) : Out :=
  s.tileCycle (.shuf t h lw vd va vb) t h (needOf h) (fun u c w =>
    let x := u.tile t
    (u.vecResult t h c w vd.toNat (Config.shufOpen (laneCode lw) (x.vreg va.toNat) (qinData w (x.vreg vb.toNat))) 0, .on))

/-- Vector CMP: the spec gives no result (log entry 22). -/
def execVectorCmp (t : TileAddr) (h : Hdr) (lw : LaneW) (vd va vb : BitVec 4) (s : State) : Out :=
  s.tileCycle (.vectorCmp t h lw vd va vb) t h (needOf h) (fun u c w =>
    let x := u.tile t
    (u.vecResult t h c w vd.toNat (Config.vecOpen 6 (laneCode lw) (x.vreg va.toNat) (qinData w (x.vreg vb.toNat)) 0) 0, .on))

/-- Vector SEL: the spec gives no choice (log entry 22). -/
def execVectorSel (t : TileAddr) (h : Hdr) (lw : LaneW) (vd va vb vc : BitVec 4) (s : State) : Out :=
  s.tileCycle (.vectorSel t h lw vd va vb vc) t h (needOf h) (fun u c w =>
    let x := u.tile t
    (u.vecResult t h c w vd.toNat
      (Config.vecOpen 7 (laneCode lw) (x.vreg va.toNat) (x.vreg vb.toNat) (qinData w (x.vreg vc.toNat))) 0, .on))

/-! ## Zero compression -/

/-- ZPACK: the pack state of a row of `n` chunks from an SRAM word on (R196); an unreadable word is a contained error, as one
that LDV reads (R74). (DEDUCED: log entry 73.) -/
def execZpack (t : TileAddr) (h : Hdr) (word : BitVec 13) (n : Checked (BitVec 12)) (s : State) : Out :=
  let k := n.val.toNat
  if lastWord + 1 < word.toNat + 4 * k then .fault .noSuchWord
  else s.tileCycle (.zpack t h word n) t h (sramNeed h word.toNat (4 * k)) (fun u c _ =>
    let v := u.countEcc n.check
    let x := v.tile t
    if n.check = .uncorrectable then (v.tileContained t c, .on)
    else (v.setTile t { x with
      z := { x.z with out := compressRow ((upto k).map (fun i => x.readV (word.toNat + 4 * i))) } }, .on))

/-- Write the bytes `lo` to `hi - 1` of a row of `k` chunks from an SRAM word on. -/
def Tile.writeRow (x : Tile) (word k lo hi : Nat) (row : List Burst) : Tile :=
  (row.zip (upto k)).foldl (fun y p =>
    let old := burstBytes (y.readV (word + 4 * p.2))
    let new := burstBytes p.1
    y.writeV (word + 4 * p.2) (burstOf ((upto 32).map (fun b =>
      if lo ≤ 32 * p.2 + b ∧ 32 * p.2 + b < hi then new.getD b 0 else old.getD b 0)))) x

/-- What an issue of ZUNPACK does to its tile, given the word it took, if any: the word joins the row's bitmaps or data, and once
the bitmaps are there the bytes that it settles are written (R196). -/
def Tile.unpack (x : Tile) (word k : Nat) (w : Option QWord) : Tile :=
  let z0 := x.z
  let n := (k + 7) / 8
  let z1 := match w with
    | some q => if z0.maps.length < n then { z0 with maps := z0.maps ++ [q.data] }
                else { z0 with bytes := z0.bytes ++ burstBytes q.data }
    | none => z0
  let z2 := { z1 with issued := z1.issued + 1 }
  let bits := rowBits z1.maps k
  let lo := if z0.maps.length < n then 0 else settled bits z0.bytes.length
  let y := if w.isSome && decide (n ≤ z1.maps.length) then
      x.writeRow word k lo (settled bits z1.bytes.length) (expandRow z1.maps z1.bytes k)
    else x
  { y with z := if k + n ≤ z2.issued then { z2 with maps := [], bytes := [], issued := 0 } else z2 }

/-- ZUNPACK takes a bitmap or data word and writes the bytes it decodes; after the row's last word it takes nothing (R196). `ecc` is what
the check of the word found (R74). -/
def execZunpack (t : TileAddr) (h : Hdr) (word : BitVec 13) (n : BitVec 12) (ecc : Ecc) (s : State) : Out :=
  let k := n.toNat
  if lastWord + 1 < word.toNat + 4 * k then .fault .noSuchWord
  else s.tileCycle (.zunpack t h word n ecc) t (h.found ecc) (unpackNeed h word.toNat k) (fun u _ w =>
    (u.setTile t ((u.tile t).unpack word.toNat k w), .on))

end Sys2Proof.Machine
end

