-- ==== Sys2Proof/Machine/Links.lean ====
section
/-! DEFINITION. SRAM, queue and lane instructions (R73, R74, R87, R196, R233, R234), the return of credits (R83) and the
abort of a frame in a tile (R108, R109). -/

namespace Sys2Proof.Machine

/-- LDV: 32 bytes of SRAM into a vector register; an unreadable word is a contained error (R74). -/
def execLdv (t : TileAddr) (h : Hdr) (vd : BitVec 4) (word : BitVec 13) (ecc : Ecc) (s : State) : Out :=
  if lastWord < word.toNat + 3 then .fault .noSuchWord
  else s.tileCycle (.ldv t h vd word ecc) t h (sramNeed h word.toNat 4) (fun u c w =>
    let v := u.countEcc ecc
    if ecc = .uncorrectable then (v.tileContained t c, .on)
    else (v.vecResult t h c w vd.toNat ((v.tile t).readV word.toNat) 0, .on))

/-- STV. -/
def execStv (t : TileAddr) (h : Hdr) (vs : BitVec 4) (word : BitVec 13) (s : State) : Out :=
  if lastWord < word.toNat + 3 then .fault .noSuchWord
  else s.tileCycle (.stv t h vs word) t h (sramNeed h word.toNat 4) (fun u _ w =>
    let x := u.tile t
    (u.setTile t (x.writeV word.toNat (qinData w (x.vreg vs.toNat))), .on))

/-- One 32-bit half of an SRAM word. -/
def Tile.half (x : Tile) (word : Nat) (hi : Bool) : Word :=
  BitVec.ofNat 32 ((tget 0#64 x.sram word).toNat / 2 ^ (32 * b2n hi))
def Tile.setHalf (x : Tile) (word : Nat) (hi : Bool) (v : Word) : Tile :=
  let other := (x.half word (!hi)).toNat
  let w := BitVec.ofNat 64 (if hi then other + 2 ^ 32 * v.toNat else v.toNat + 2 ^ 32 * other)
  { x with sram := tset 0#64 x.sram word w }

/-- LDS: half an SRAM word into a scalar register; an unreadable word is a contained error (R74). -/
def execLds (t : TileAddr) (h : Hdr) (sd : BitVec 6) (word : BitVec 13) (hi : Bool) (ecc : Ecc) (s : State) : Out :=
  if lastWord < word.toNat then .fault .noSuchWord
  else s.tileCycle (.lds t h sd word hi ecc) t h (sramNeed h word.toNat 1) (fun u c w =>
    let v := u.countEcc ecc
    let x := v.tile t
    let r := x.half word.toNat hi
    if ecc = .uncorrectable then (v.tileContained t c, .on)
    else ((v.setTile t (x.setS sd.toNat r)).sendOut t h c (resultKind h w) (BitVec.ofNat 256 r.toNat), .on))

/-- STS. -/
def execSts (t : TileAddr) (h : Hdr) (ss : BitVec 6) (word : BitVec 13) (hi : Bool) (s : State) : Out :=
  if lastWord < word.toNat then .fault .noSuchWord
  else s.tileCycle (.sts t h ss word hi) t h (sramNeed h word.toNat 1) (fun u _ w =>
    let x := u.tile t
    let v := BitVec.ofNat 32 (qinData w (BitVec.ofNat 256 (x.sreg ss.toNat).toNat)).toNat
    (u.setTile t (x.setHalf word.toNat hi v), .on))

/-- RCV: the head word of QIN into a register of the queue's network, a vector register or a scalar one (log entry 23);
where OUT names a lane the word goes on. `ecc` is what the check of the word found (R74, R103). -/
def execRcv (t : TileAddr) (h : Hdr) (reg : BitVec 6) (ecc : Ecc) (s : State) : Out :=
  s.tileCycle (.rcv t h reg ecc) t (h.found ecc) (rcvNeed h) (fun u c w =>
    let d := qinData w 0#256
    let x := u.tile t
    let y := if h.qin.toNat < 8 then x.setV reg.toNat d else x.setS reg.toNat (BitVec.ofNat 32 d.toNat)
    ((u.setTile t y).sendOut t h c (resultKind h w) d, .on))

/-- SND: a register, or the next word of the packed row, on OUT (R87, R196); a KIND that the lane's network reserves is
refused by name (R77, R78). (DEDUCED: log entry 23.) -/
def execSnd (t : TileAddr) (h : Hdr) (reg : BitVec 6) (kind : BitVec 3) (packed : Bool) (s : State) : Out :=
  let vec := h.out.toNat ≤ 2
  match kindReserved h kind with
  | some r => .fault (.reserved r)
  | none => s.tileCycle (.snd t h reg kind packed) t h (sndNeed h packed) (fun u c w =>
      let x := u.tile t
      if packed then
        match x.z.out with
        | d :: ds => ((u.setTile t { x with z := { x.z with out := ds } }).sendOut t h c kind d, .on)
        | [] => (u, .on)
      else
        let d := if vec then x.vreg reg.toNat else BitVec.ofNat 256 (x.sreg reg.toNat).toNat
        (u.sendOut t h c kind (qinData w d), .on))

/-- The header word of a context operation (R234). -/
def copHeader (c : CopOps) (s62 : Word) : Word :=
  BitVec.ofNat 32 (c.op.toNat * 2 ^ 29 + c.mode.toNat * 2 ^ 26 + c.cnt.toNat * 2 ^ 20 + c.part.toNat * 2 ^ 18 +
    b2n c.ack * 2 ^ 17 + c.rc.toNat * 2 ^ 14 + s62.toNat % 2 ^ 14)

/-- COP sends the header of a context operation on its lane (R233, R234). -/
def execCop (t : TileAddr) (h : Hdr) (c : CopOps) (s : State) : Out :=
  if 6 ≤ c.op.toNat ∨ 4 ≤ c.mode.toNat then .fault (.reserved 233)
  else s.tileCycle (.cop t h c) t h (needOf h) (fun u slot _ =>
    (u.sendOut t h slot 0 (BitVec.ofNat 256 (copHeader c ((u.tile t).sreg 62)).toNat), .on))

/-! ## Credits (R83) -/

/-- Every destination of a lane under a slot, as credit keys. -/
def State.creditKeys (s : State) (t : TileAddr) (slot lane : Nat) : List Nat :=
  (s.laneDests t slot lane).map (fun d => 16 * d.1.toNat + d.2) ++ s.unitsFrom slot (lane / 2) 512 t (4 + lane % 2)

/-- CREDIT_RETURN: a lane regains a credit once every destination has returned one; a CTX_END that the lane owes then leaves
(R83, R96). -/
def execCreditReturn (t : TileAddr) (lane : BitVec 3) (s : State) : Out :=
  let l := lane.toNat
  let src := 8 * t.toNat + l
  let sets := (upto 4).map (fun c => s.creditKeys t c l)
  let ready := sets.find? (fun ks => !ks.isEmpty && ks.all (fun k => s.fab.creditBack.contains (src, k)))
  if !isTile t then .fault .noSuchTile
  else onlyIf (s.engineUp && l < 6) s (match ready with
    | some ks =>
      let x := s.tile t
      let u := s.setTile t (x.setCredit l (x.credit l + 1))
      let v := { u with fab := { u.fab with creditBack := ks.foldl (fun b k => b.erase (src, k)) u.fab.creditBack } }
      if v.tileOn t && !v.fab.stopped then v.sendCtxEnds t else v
    | none => s)

/-! ## Frame aborts (R108, R109) -/

/-- What a context has to abandon, if anything: the frame, and the highest reason among the tile's own contained error and every
abort for that frame in the queues the context reads (R108, R109). -/
def Tile.abortOf (x : Tile) (c : Nat) : Option (Nat × Nat) :=
  let own := x.aborting.toList.filter (fun a => a.1.toNat == c)
  let heads := (x.abortHeads c).map (fun q => x.takenOf q.1)
  match own.map (·.2.1) ++ heads with
  | [] => none
  | n :: ns =>
    let k := ns.foldl min n
    some (k, ((own.filter (fun a => a.2.1 == k)).map (·.2.2.toNat) ++ x.heldReasons c k).foldl max 0)

/-- The context, frame number and reason of the abort a tile meets, if any, the retiring context first. -/
def Tile.abortDue (x : Tile) : Option (Nat × Nat × Nat) :=
  (x.contexts.filterMap (fun c => (x.abortOf c).map (fun a => (c, a.1, a.2)))).head?

/-- FRAME_ABORT: the tile abandons the frame and sends one abort on every lane that has not ended it, once each holds a
credit. The cycle issues no instruction: it counts STALL_OUT while a credit lacks, else as a wait for a word.
(DEDUCED: log entry 19.) -/
def execFrameAbort (t : TileAddr) (s : State) : Out :=
  let x := s.tile t
  if !isTile t then .fault .noSuchTile
  else .next (
    if s.tileOn t && !s.fab.stopped && !x.freeze then
      match x.abortDue with
      | some (c, n, r) =>
        let ls := (x.lanes c).filter (fun l => x.sentOf l / 2 ≤ n)
        if x.creditsFor ls && !ls.any (s.laneHeld t c) then
          ((s.countFull t).abandonFrame t c n r).tileTick t (if x.ruleMode c then cWait else cStallIn)
        else (s.countFull t).tileTick t cStallOut
      | none => s
    else s)

end Sys2Proof.Machine
end

