-- ==== Sys2Proof/Machine/Package.lean ====
section
/-! DEFINITION. The package (R496 to R503, R511, R517): the names of the balls, what each ball carries, the direction of the signal
pins, and the cells of the boundary register in their order. (DEDUCED: log entry 93.) -/

namespace Sys2Proof.Machine

/-! ## Ball names (R497) -/

/-- The row letters: I, O, Q, R, S, X and Z are left out. -/
def rowLetters : List String := ["A", "B", "C", "D", "E", "F", "G", "H", "J", "K", "L", "M", "N", "P", "T", "U", "V", "W", "Y"]

/-- The name of row `r`, 1 to 80. -/
def rowName (r : Nat) : String :=
  let last := rowLetters.getD ((r - 1) % 19) ""
  if r ≤ 19 then last else rowLetters.getD ((r - 1) / 19 - 1) "" ++ last

/-- The name of the ball in row `r` and column `c`, as AB19. -/
def ballName (r c : Nat) : String := rowName r ++ toString c

/-! ## What a ball carries (R498 to R501) -/

/-- The supplies of R508 that balls carry. -/
inductive Rail where
  | vddCore | vddPhy | vddqHp | hbmVpp | hbmVdd | hbmVddq | vddPll | vddAon | vddio | vddaEth
  deriving DecidableEq, Repr

/-- The signal of a ball. A host-port signal carries its port, false HP0. -/
inductive Pin where
  | dq (port : Bool) (n : Nat) | dmi (port : Bool) (n : Nat)
  | wck (port : Bool) (n : Nat) (p : Bool) | rdqs (port : Bool) (n : Nat) (p : Bool)
  | ck (port : Bool) (b : Bool) (p : Bool) | ca (port : Bool) (b : Bool) (n : Nat) | cs (port : Bool) (b : Bool)
  | zq (port : Bool) | portResetN (port : Bool)
  | refclk (p : Bool) | mdi (p : Bool) | therm (p : Bool)
  | resetN | alertN | prof (n : Nat) | syncIn | psCk | psCsN | psDqs | psDq (n : Nat)
  | uartTx (n : Nat) | uartRx (n : Nat) | tck | tms | tdi | tdo | trstN | i3cScl | i3cSda | vid (n : Nat)
  deriving DecidableEq, Repr

/-- What a ball carries; `nc` has no connection inside the package (R502). -/
inductive Ball where
  | nc
  | vss
  | supply (r : Rail)
  | signal (p : Pin)
  deriving DecidableEq, Repr

/-- The signals of row A (channel A) or B (channel B) of a port, from its first column on (R499). -/
def portRow (port b : Bool) : List Pin :=
  let h := if b then 16 else 0
  let n := if b then 2 else 0
  (upto 16).map (fun i => .dq port (h + i)) ++ [.dmi port n, .dmi port (n + 1)] ++
  [.wck port n true, .wck port n false, .wck port (n + 1) true, .wck port (n + 1) false] ++
  [.rdqs port n true, .rdqs port n false, .rdqs port (n + 1) true, .rdqs port (n + 1) false] ++
  [.ck port b true, .ck port b false] ++ (upto 7).map (.ca port b) ++ [.cs port b] ++
  [if b then .portResetN port else .zq port]

/-- The six balls of row `i` of a stack area, from the package edge inwards or as R498 orders them (R500). -/
def stackRow (i j : Nat) : Rail :=
  if i = 0 then (if j < 2 then .hbmVpp else .hbmVdd)
  else if i = 1 then .hbmVdd
  else if i = 2 then (if j < 2 then .hbmVdd else .hbmVddq)
  else .hbmVddq

/-- Rows DA to DD from column 30 to column 51 (R501). -/
def managementRow (i : Nat) : List Ball :=
  let pll := List.replicate 6 (Ball.supply .vddPll)
  if i = 0 then
    [.vss, .signal (.refclk true), .signal (.refclk false), .vss] ++ pll ++
    [.vss, .signal (.mdi true), .signal (.mdi false), .vss] ++ List.replicate 4 (.supply .vddaEth) ++
    [.vss, .signal (.therm true), .signal (.therm false), .vss]
  else if i = 1 then pll ++ List.replicate 8 (.supply .vddAon) ++ List.replicate 8 (.supply .vddio)
  else if i = 2 then
    [.signal .resetN, .signal .alertN, .signal (.prof 0), .signal (.prof 1), .signal .syncIn, .vss,
     .signal .psCk, .signal .psCsN, .signal .psDqs] ++ (upto 8).map (fun n => .signal (.psDq n)) ++
    [.vss, .signal (.uartTx 0), .signal (.uartRx 0), .signal (.uartTx 1), .signal (.uartRx 1)]
  else
    [.signal .tck, .signal .tms, .signal .tdi, .signal .tdo, .signal .trstN, .vss, .signal .i3cScl, .signal .i3cSda, .vss] ++
    (upto 8).map (fun n => .signal (.vid n)) ++ List.replicate 5 .vss

/-- The ball in row `r` and column `c`, each 1 to 80 (R498). -/
def ballAt (r c : Nat) : Ball :=
  let within := fun (x a b : Nat) => decide (a ≤ x ∧ x ≤ b)
  let hp := fun (l : List Pin) (k : Nat) => match l[k]? with | some p => Ball.signal p | none => .nc
  if r = 1 ∨ r = 2 then
    (if within c 3 39 then hp (portRow false (r == 2)) (c - 3)
     else if within c 42 78 then hp (portRow true (r == 2)) (c - 42) else .vss)
  else if r = 3 then
    (if (within c 4 37 && c % 3 == 1) || (within c 43 76 && c % 3 == 1) then .supply .vddqHp else .vss)
  else if r = 4 ∨ r = 7 ∨ r = 8 then .vss
  else if r = 5 ∨ r = 6 then (if within c 9 32 || within c 49 72 then .supply .vddPhy else .vss)
  else if within r 21 60 && within c 19 62 then (if (r + c) % 2 = 0 then .supply .vddCore else .vss)
  else if (r = 20 ∨ r = 61) ∧ within c 19 62 then .vss
  else if within r 20 24 && within c 1 6 then .supply (stackRow (r - 20) (c - 1))
  else if within r 39 43 && within c 1 6 then .supply (stackRow (r - 39) (c - 1))
  else if within r 20 24 && within c 75 80 then .supply (stackRow (r - 20) (80 - c))
  else if within r 39 43 && within c 75 80 then .supply (stackRow (r - 39) (80 - c))
  else if within r 77 80 && within c 30 51 then (managementRow (r - 77)).getD (c - 30) .nc
  else .nc

/-- The balls that meet a condition. -/
def ballCount (p : Ball → Bool) : Nat :=
  (upto 80).foldl (fun n r => (upto 80).foldl (fun m c => m + b2n (p (ballAt (r + 1) (c + 1)))) n) 0

/-! ## The boundary register (R503, R517) -/

/-- What a cell does for its pin. -/
inductive Cell where
  | control | output | input
  deriving DecidableEq, Repr

/-- The cells of a pin, by its direction; a differential pair has them at its _P ball. -/
def pinCells : Pin → List Cell
  | .dq .. | .dmi .. | .psDqs | .psDq _ | .i3cSda => [.control, .output, .input]
  | .rdqs _ _ p => if p then [.control, .output] else []
  | .alertN | .psCk | .psCsN | .uartTx _ | .vid _ => [.control, .output]
  | .wck _ _ p | .ck _ _ p => if p then [.input] else []
  | .ca .. | .cs .. | .portResetN _ | .resetN | .prof _ | .syncIn | .uartRx _ | .i3cScl => [.input]
  | .zq _ | .refclk _ | .mdi _ | .therm _ | .tck | .tms | .tdi | .tdo | .trstN => []

/-- The cells of a ball. -/
def ballCells : Ball → List (Pin × Cell)
  | .signal p => (pinCells p).map (fun k => (p, k))
  | _ => []

/-- The cells of one row in increasing column. -/
def rowCells (r : Nat) : List (Pin × Cell) := ((upto 80).map (fun c => ballCells (ballAt r (c + 1)))).flatten

/-- The cells of the boundary register from TDI: rows A and B, then DA to DD. -/
def boundaryCells : List (Pin × Cell) := (([1, 2, 77, 78, 79, 80] : List Nat).map rowCells).flatten

/-- The output cell of VID[0]: the VID pins end the register, two cells each. Cell `k` is bit 340 - k (log entry 57). -/
def vidCell (n : Nat) : Nat := 341 - 16 + 2 * n + 1

/-- The code that the output cells of VID[7:0] hold. -/
def vidOf (cells : BitVec 341) : Nat := (upto 8).foldl (fun v n => v + b2n (cells.getLsbD (340 - vidCell n)) * 2 ^ n) 0

/-! ## Voltage monitors (R511) -/

/-- The rail that monitor `m` reads, and where: the sector, the stack, the port, or nothing to tell. -/
def monitorRail (m : Nat) : Rail × Nat :=
  if m < 16 then (.vddCore, m / 2)
  else if m < 20 then (.hbmVdd, m - 16)
  else if m < 24 then (.hbmVddq, m - 20)
  else if m = 24 then (.hbmVpp, 0)
  else if m = 25 then (.vddPhy, 0)
  else if m < 28 then (.vddqHp, m - 26)
  else if m = 28 then (.vddPll, 0)
  else if m = 29 then (.vddAon, 0)
  else if m = 30 then (.vddio, 0)
  else (.vddaEth, 0)

end Sys2Proof.Machine
end

