-- ==== Sys2Proof/Machine/Net.lean ====
section
/-! DEFINITION. The pins beside the host ports: the I3C target (R505), the boundary-scan TAP (R516 to R519), and what the
management port answers beside Uhled (R363, R369). -/

namespace Sys2Proof.Machine

/-! ## I3C (R505) -/

/-- The target answers from stage 5 on. (DEDUCED: log entry 69.) -/
def State.i3cUp (s : State) : Bool := s.fwUp

/-- Every access before stage 5, and every private write, is NACKed. (DEDUCED: log entry 69.) -/
def State.nack (s : State) : State := { s with i3c := { s.i3c with nacked := true } }

/-- The eight bytes of a private read. -/
def State.i3cBytes (s : State) : BitVec 64 :=
  BitVec.ofNat 64 (s.tempMax.toNat + 2 ^ 16 * s.devState + 2 ^ 32 * (s.reg Reg.devAlert).toNat)

def execI3cSetdasa (addr : BitVec 7) (s : State) : Out :=
  .next (if s.i3cUp then { s with i3c := { s.i3c with addr := some addr, nacked := false } } else s.nack)

/-- A private read by the dynamic address. (DEDUCED: log entry 69.) -/
def execI3cPrivateRead (s : State) : Out :=
  .next (if s.i3cUp && s.i3c.addr.isSome then { s with i3c := { s.i3c with out := s.i3cBytes, nacked := false } } else s.nack)

def execI3cPrivateWrite (_bytes : List Byte) (s : State) : Out := .next s.nack

/-! ## Boundary scan (R516 to R518) -/

/-- The identification register. -/
def idcodeWord : BitVec 32 :=
  BitVec.ofNat 32 (2 ^ 28 * (Config.siliconRev.toNat % 16) + 2 ^ 12 * 0xC906 + 2 * Config.jep106.toNat + 1)

/-- Cells of the data register that an instruction selects. Every code that R516 does not list acts as BYPASS. -/
def drLength (ir : Byte) : Nat := if ir = 1#8 then 32 else if ir = 0#8 ∨ ir = 2#8 then 341 else 1

/-- EXTEST, CLAMP and HIGHZ: loaded only while RESET_N is low. -/
def lowOnly (ir : Byte) : Bool := ir == 0#8 || ir == 3#8 || ir == 4#8

/-- What Capture-DR takes: the identification, the pins, or 0 for the bypass register. Cell 0 of R517, the nearest to TDI, is
the most significant bit. -/
def captureDr (ir : Byte) (pins : BitVec 341) : BitVec 341 :=
  if ir = 1#8 then BitVec.ofNat 341 idcodeWord.toNat else if ir = 0#8 ∨ ir = 2#8 then pins else 0

/-- One shift of a register of `n` cells: TDI enters at the top. (PRESUMED: log entry 57.) -/
def shiftIn (n v : Nat) (tdi : Bool) : Nat := v / 2 + b2n tdi * 2 ^ (n - 1)

/-- The next state of the TAP controller for TMS (IEEE 1149.1-2013). (PRESUMED: log entry 57.) -/
def TapSt.next : TapSt → Bool → TapSt
  | .reset, m => if m then .reset else .idle
  | .idle, m => if m then .selDr else .idle
  | .selDr, m => if m then .selIr else .capDr
  | .capDr, m => if m then .ex1Dr else .shDr
  | .shDr, m => if m then .ex1Dr else .shDr
  | .ex1Dr, m => if m then .updDr else .pauDr
  | .pauDr, m => if m then .ex2Dr else .pauDr
  | .ex2Dr, m => if m then .updDr else .shDr
  | .updDr, m => if m then .selDr else .idle
  | .selIr, m => if m then .reset else .capIr
  | .capIr, m => if m then .ex1Ir else .shIr
  | .shIr, m => if m then .ex1Ir else .shIr
  | .ex1Ir, m => if m then .updIr else .pauIr
  | .pauIr, m => if m then .ex2Ir else .pauIr
  | .ex2Ir, m => if m then .updIr else .shIr
  | .updIr, m => if m then .selDr else .idle

/-- A rising edge: the register of the present state captures or shifts, and the controller moves.
(PRESUMED: log entry 57.) -/
def Tap.rise (x : Tap) (tms tdi : Bool) (pins : BitVec 341) : Tap :=
  let y := match x.st with
    | .capDr => { x with dr := captureDr x.ir pins }
    | .shDr => { x with dr := BitVec.ofNat 341 (shiftIn (drLength x.ir) x.dr.toNat tdi) }
    | .capIr => { x with irShift := 1 }
    | .shIr => { x with irShift := BitVec.ofNat 8 (shiftIn 8 x.irShift.toNat tdi) }
    | _ => x
  { y with st := x.st.next tms }

/-- A falling edge: updates, and TDO, which is high-impedance outside the shift states. (PRESUMED: log entry 57.) -/
def Tap.fall (x : Tap) : Tap :=
  match x.st with
  | .reset => { x with ir := 1, tdo := none }
  | .updIr => { x with ir := x.irShift, tdo := none }
  | .updDr => { x with boundary := if x.ir = 0#8 ∨ x.ir = 2#8 then x.dr else x.boundary, tdo := none }
  | .shDr => { x with tdo := some (bit x.dr 0) }
  | .shIr => { x with tdo := some (bit x.irShift 0) }
  | _ => { x with tdo := none }

/-- What drives the output pins. -/
inductive Drive where
  | functional
  | boundary (cells : BitVec 341)
  | highZ
  deriving DecidableEq, Repr

/-- The pins are driven from the boundary register in EXTEST and CLAMP and not at all in HIGHZ. -/
def State.drive (s : State) : Drive :=
  if s.tap.ir = 0#8 ∨ s.tap.ir = 3#8 then .boundary s.tap.boundary else if s.tap.ir = 4#8 then .highZ else .functional

/-- Load an instruction with what its Capture-DR takes. -/
def State.loadTap (s : State) (ir : Byte) (pins : BitVec 341) : State :=
  { s with tap := { s.tap with ir := ir, dr := captureDr ir pins } }

/-- EXTEST would drive VID[7:0] with a code outside 20 to 80: the host has broken R508 (R512, R518). -/
def badVid (ir : Byte) (cells : BitVec 341) : Bool := ir == 0#8 && !(decide (20 ≤ vidOf cells) && decide (vidOf cells ≤ 80))

/-- Load an instruction that RESET_N must be low for. -/
def State.loadLow (s : State) (ir : Byte) : Out :=
  if !s.pins.power then .next s
  else if s.pins.resetN || badVid ir s.tap.boundary then .next s.unpredictable
  else .next (s.loadTap ir s.tap.boundary)

def execExtest (s : State) : Out := s.loadLow 0
def execClamp (s : State) : Out := s.loadLow 3
def execHighz (s : State) : Out := s.loadLow 4
def execIdcode (s : State) : Out := onlyIf s.pins.power s (s.loadTap 1 0)
def execSamplePreload (pins : BitVec 341) (s : State) : Out := onlyIf s.pins.power s (s.loadTap 2 pins)

/-- BYPASS and every reserved code. -/
def execBypass (code : Byte) (s : State) : Out := onlyIf (s.pins.power && decide (4 < code.toNat)) s (s.loadTap code 0)

def execTestLogicReset (s : State) : Out :=
  onlyIf s.pins.power s { s with tap := { s.tap with st := .reset, ir := 1, tdo := none } }

/-- TCK_EDGE. Loading EXTEST, CLAMP or HIGHZ with RESET_N high is a host error (R518), and so is EXTEST with a VID code that
the part never drives. -/
def execTckEdge (rising tms tdi : Bool) (pins : BitVec 341) (s : State) : Out :=
  if !s.pins.power then .next s
  else if rising then .next { s with tap := s.tap.rise tms tdi pins }
  else if s.tap.st == .updIr && lowOnly s.tap.irShift && s.pins.resetN then .next s.unpredictable
  else if badVid s.tap.fall.ir s.tap.fall.boundary then .next s.unpredictable
  else .next { s with tap := s.tap.fall }

/-! ## The management port (R363, R369) -/

def execLinkUp (s : State) : Out :=
  onlyIf (s.dictUp && !s.dev.ethDead) s { s with dict := { s.dict with link := true } }

def execLinkDown (s : State) : Out := .next { s with dict := { s.dict with link := false, localIp := none } }

/-- An address of RFC 3927: 169.254.1.0 to 169.254.254.255. -/
def linkLocal (ip : BitVec 32) : Bool := decide (0xA9FE0100 ≤ ip.toNat) && decide (ip.toNat ≤ 0xA9FEFEFF)

def execLinkLocalAddressTaken (ip : BitVec 32) (s : State) : Out :=
  onlyIf (s.ethUp && s.objVal (okey 0x1010 1) 0 == 0 && linkLocal ip) s { s with dict := { s.dict with localIp := some ip } }

/-- ARP_REQUEST for an address: answered with MAC_ADDRESS where it is the address in use. -/
def execArpRequest (ip : BitVec 32) (s : State) : Out :=
  onlyIf (s.ethUp && s.ipInUse == some ip) s
    { s with dict := { s.dict with netOut := some (ip, leBytes 6 Config.mac.toNat) } }

/-- ICMP_ECHO_REQUEST from an address: the reply carries the same bytes. -/
def execIcmpEchoRequest (ip : BitVec 32) (bytes : List Byte) (s : State) : Out :=
  onlyIf (s.ethUp && s.linkState == 2) s { s with dict := { s.dict with netOut := some (ip, bytes) } }

end Sys2Proof.Machine
end

