-- ==== Sys2Proof/Machine/Scalar.lean ====
section
/-! DEFINITION. The scalar ALU (R69, R87): a 32-bit ALU over S0 to S63. -/

namespace Sys2Proof.Machine

/-- A scalar instruction: the result of its two sources, the last of which is the word of QIN where QIN_EN is 1, goes to
its destination and on OUT (log entry 21). -/
def State.scalar2 (s : State) (i : Instr) (t : TileAddr) (h : Hdr) (sd sa sb : BitVec 6) (f : Word → Word → Word) : Out :=
  s.tileCycle i t h (needOf h) (fun u c w =>
    let x := u.tile t
    let b := BitVec.ofNat 32 (qinData w (BitVec.ofNat 256 (x.sreg sb.toNat).toNat)).toNat
    let r := f (x.sreg sa.toNat) b
    ((u.setTile t (x.setS sd.toNat r)).sendOut t h c (resultKind h w) (BitVec.ofNat 256 r.toNat), .on))

/-- Scalar ADD, modulo 2^32. -/
def execScalarAdd (t : TileAddr) (h : Hdr) (sd sa sb : BitVec 6) (s : State) : Out :=
  s.scalar2 (.scalarAdd t h sd sa sb) t h sd sa sb (· + ·)

/-- Scalar SUB, modulo 2^32. -/
def execScalarSub (t : TileAddr) (h : Hdr) (sd sa sb : BitVec 6) (s : State) : Out :=
  s.scalar2 (.scalarSub t h sd sa sb) t h sd sa sb (· - ·)

/-- Scalar MUL, the low 32 bits. -/
def execScalarMul (t : TileAddr) (h : Hdr) (sd sa sb : BitVec 6) (s : State) : Out :=
  s.scalar2 (.scalarMul t h sd sa sb) t h sd sa sb (· * ·)

/-- Scalar AND. -/
def execScalarAnd (t : TileAddr) (h : Hdr) (sd sa sb : BitVec 6) (s : State) : Out :=
  s.scalar2 (.scalarAnd t h sd sa sb) t h sd sa sb (· &&& ·)

/-- Scalar OR. -/
def execScalarOr (t : TileAddr) (h : Hdr) (sd sa sb : BitVec 6) (s : State) : Out :=
  s.scalar2 (.scalarOr t h sd sa sb) t h sd sa sb (· ||| ·)

/-- Scalar XOR. -/
def execScalarXor (t : TileAddr) (h : Hdr) (sd sa sb : BitVec 6) (s : State) : Out :=
  s.scalar2 (.scalarXor t h sd sa sb) t h sd sa sb (· ^^^ ·)

/-- Scalar SHL; an amount of 32 or more gives an open result (log entry 22). -/
def execScalarShl (t : TileAddr) (h : Hdr) (sd sa sb : BitVec 6) (s : State) : Out :=
  s.scalar2 (.scalarShl t h sd sa sb) t h sd sa sb (fun a b => if b.toNat < 32 then a <<< b.toNat else Config.shlOpen a b)

/-- Scalar SHR; its kind is open, so a first source with its top bit set, and an amount of 32 or more, give an open
result (log entry 22). -/
def execScalarShr (t : TileAddr) (h : Hdr) (sd sa sb : BitVec 6) (s : State) : Out :=
  s.scalar2 (.scalarShr t h sd sa sb) t h sd sa sb (fun a b => if b.toNat < 32 ∧ ¬ bit a 31 then a >>> b.toNat else Config.shrOpen a b)

/-- Scalar CMP: the spec gives no result (log entry 22). -/
def execScalarCmp (t : TileAddr) (h : Hdr) (sd sa sb : BitVec 6) (s : State) : Out :=
  s.scalar2 (.scalarCmp t h sd sa sb) t h sd sa sb Config.cmpOpen

/-- Scalar SEL: one of its first two sources; by which value of the third is open (log entry 22). -/
def execScalarSel (t : TileAddr) (h : Hdr) (sd sa sb sc : BitVec 6) (s : State) : Out :=
  s.tileCycle (.scalarSel t h sd sa sb sc) t h (needOf h) (fun u c w =>
    let x := u.tile t
    let k := BitVec.ofNat 32 (qinData w (BitVec.ofNat 256 (x.sreg sc.toNat).toNat)).toNat
    let r := if Config.selOpen k then x.sreg sa.toNat else x.sreg sb.toNat
    ((u.setTile t (x.setS sd.toNat r)).sendOut t h c (resultKind h w) (BitVec.ofNat 256 r.toNat), .on))

/-- The first word is the smaller one: open where the signed and unsigned orders differ (log entry 22). -/
def scalarLess (a b : Word) : Bool := if bit a 31 = bit b 31 then decide (a.toNat < b.toNat) else Config.lessOpen a b

/-- Scalar MIN. -/
def execScalarMin (t : TileAddr) (h : Hdr) (sd sa sb : BitVec 6) (s : State) : Out :=
  s.scalar2 (.scalarMin t h sd sa sb) t h sd sa sb (fun a b => if scalarLess a b then a else b)

/-- Scalar MAX. -/
def execScalarMax (t : TileAddr) (h : Hdr) (sd sa sb : BitVec 6) (s : State) : Out :=
  s.scalar2 (.scalarMax t h sd sa sb) t h sd sa sb (fun a b => if scalarLess a b then b else a)

end Sys2Proof.Machine
end

