-- ==== Sys2Proof/Machine/Dispatch.lean ====
section
/-! DEFINITION. One arm per command: the direct call of its meaning. -/

namespace Sys2Proof.Machine

open Sys2Proof

/-- The effect of a command on everything but the queue. -/
def exec (i : Instr) (s : State) : Host.Outcome State Fault Refusal :=
  match i with
  | .resetNAssert => Sys2Proof.Machine.execResetNAssert s
  | .resetNRelease prof failing => Sys2Proof.Machine.execResetNRelease prof failing s
  | .softReset viaObject key => Sys2Proof.Machine.execSoftReset viaObject key s
  | .softResetStart prof => Sys2Proof.Machine.execSoftResetStart prof s
  | .supervisoryTimerExpiry => Sys2Proof.Machine.execSupervisoryTimerExpiry s
  | .faultResetTimer => Sys2Proof.Machine.execFaultResetTimer s
  | .deviceFaultDrainEnd => Sys2Proof.Machine.execDeviceFaultDrainEnd s
  | .refclkLost => Sys2Proof.Machine.execRefclkLost s
  | .pllLockLost pll => Sys2Proof.Machine.execPllLockLost pll s
  | .oscillatorTrim err => Sys2Proof.Machine.execOscillatorTrim err s
  | .sensorReading temps volts => Sys2Proof.Machine.execSensorReading temps volts s
  | .thermalEvaluation => Sys2Proof.Machine.execThermalEvaluation s
  | .liftRequest clock => Sys2Proof.Machine.execLiftRequest clock s
  | .reqLow d v => Sys2Proof.Machine.execReqLow d v s
  | .powerEntryComplete d => Sys2Proof.Machine.execPowerEntryComplete d s
  | .powerExitComplete d lost => Sys2Proof.Machine.execPowerExitComplete d lost s
  | .inrushWave => Sys2Proof.Machine.execInrushWave s
  | .signatureIdleTimeout => Sys2Proof.Machine.execSignatureIdleTimeout s
  | .blockReloadComplete ue => Sys2Proof.Machine.execBlockReloadComplete ue s
  | .portReset port level => Sys2Proof.Machine.execPortReset port level s
  | .portInitReady port => Sys2Proof.Machine.execPortInitReady port s
  | .hostRead port addr bl32 ue => Sys2Proof.Machine.execHostRead port addr bl32 ue s
  | .modeRegisterWrite port mr v => Sys2Proof.Machine.execModeRegisterWrite port mr v s
  | .modeRegisterRead port mr => Sys2Proof.Machine.execModeRegisterRead port mr s
  | .trainingCommand port kind => Sys2Proof.Machine.execTrainingCommand port kind s
  | .zqCalibration port => Sys2Proof.Machine.execZqCalibration port s
  | .refresh port kind => Sys2Proof.Machine.execRefresh port kind s
  | .powerDownEntry port => Sys2Proof.Machine.execPowerDownEntry port s
  | .powerDownExit port => Sys2Proof.Machine.execPowerDownExit port s
  | .selfRefreshEntry port withPd => Sys2Proof.Machine.execSelfRefreshEntry port withPd s
  | .selfRefreshExit port => Sys2Proof.Machine.execSelfRefreshExit port s
  | .fspChange port fsp => Sys2Proof.Machine.execFspChange port fsp s
  | .ingressWrite w => Sys2Proof.Machine.execIngressWrite w s
  | .doorbell w => Sys2Proof.Machine.execDoorbell w s
  | .imageWindowWrite w => Sys2Proof.Machine.execImageWindowWrite w s
  | .journalWindowWrite w => Sys2Proof.Machine.execJournalWindowWrite w s
  | .discardedWrite w => Sys2Proof.Machine.execDiscardedWrite w s
  | .registerWrite w => Sys2Proof.Machine.execRegisterWrite w s
  | .snapTake block => Sys2Proof.Machine.execSnapTake block s
  | .snapComplete block => Sys2Proof.Machine.execSnapComplete block s
  | .indAddrWrite block alias4 v => Sys2Proof.Machine.execIndAddrWrite block alias4 v s
  | .indDataWrite block v => Sys2Proof.Machine.execIndDataWrite block v s
  | .indDataRead block => Sys2Proof.Machine.execIndDataRead block s
  | .indAccessComplete block => Sys2Proof.Machine.execIndAccessComplete block s
  | .mbxSubmit v => Sys2Proof.Machine.execMbxSubmit v s
  | .udpDatagram ip port bytes => Sys2Proof.Machine.execUdpDatagram ip port bytes s
  | .uhledRead => Sys2Proof.Machine.execUhledRead s
  | .uhledWrite => Sys2Proof.Machine.execUhledWrite s
  | .uhledInfo => Sys2Proof.Machine.execUhledInfo s
  | .segmentTimeout => Sys2Proof.Machine.execSegmentTimeout s
  | .verify => Sys2Proof.Machine.execVerify s
  | .verificationEnd => Sys2Proof.Machine.execVerificationEnd s
  | .commit => Sys2Proof.Machine.execCommit s
  | .placingEnd => Sys2Proof.Machine.execPlacingEnd s
  | .loadingEnd ue => Sys2Proof.Machine.execLoadingEnd ue s
  | .release => Sys2Proof.Machine.execRelease s
  | .releaseEnd => Sys2Proof.Machine.execReleaseEnd s
  | .discard => Sys2Proof.Machine.execDiscard s
  | .flushWait => Sys2Proof.Machine.execFlushWait s
  | .slotStart ue => Sys2Proof.Machine.execSlotStart ue s
  | .maxWaitExpiry stream slot => Sys2Proof.Machine.execMaxWaitExpiry stream slot s
  | .rowGroupSend ecc => Sys2Proof.Machine.execRowGroupSend ecc s
  | .nop t h => Sys2Proof.Machine.execNop t h s
  | .wait t h => Sys2Proof.Machine.execWait t h s
  | .jmp t h target => Sys2Proof.Machine.execJmp t h target s
  | .tokr t h base mul => Sys2Proof.Machine.execTokr t h base mul s
  | .tokw t h kind arg => Sys2Proof.Machine.execTokw t h kind arg s
  | .ctx t h variant => Sys2Proof.Machine.execCtx t h variant s
  | .endOp t h => Sys2Proof.Machine.execEndOp t h s
  | .ldw t h bank word ecc => Sys2Proof.Machine.execLdw t h bank word ecc s
  | .mma t h vreg off bank k fmt diag zero => Sys2Proof.Machine.execMma t h vreg off bank k fmt diag zero s
  | .acc t h k vd bias => Sys2Proof.Machine.execAcc t h k vd bias s
  | .vectorAdd t h lw vd va vb => Sys2Proof.Machine.execVectorAdd t h lw vd va vb s
  | .vectorSub t h lw vd va vb => Sys2Proof.Machine.execVectorSub t h lw vd va vb s
  | .vectorMul t h lw vd va vb => Sys2Proof.Machine.execVectorMul t h lw vd va vb s
  | .vectorMax t h lw vd va vb => Sys2Proof.Machine.execVectorMax t h lw vd va vb s
  | .vectorMin t h lw vd va vb => Sys2Proof.Machine.execVectorMin t h lw vd va vb s
  | .relu t h lw vd va => Sys2Proof.Machine.execRelu t h lw vd va s
  | .shuf t h lw vd va vb => Sys2Proof.Machine.execShuf t h lw vd va vb s
  | .vectorCmp t h lw vd va vb => Sys2Proof.Machine.execVectorCmp t h lw vd va vb s
  | .vectorSel t h lw vd va vb vc => Sys2Proof.Machine.execVectorSel t h lw vd va vb vc s
  | .zpack t h word n => Sys2Proof.Machine.execZpack t h word n s
  | .zunpack t h word n ecc => Sys2Proof.Machine.execZunpack t h word n ecc s
  | .scalarAdd t h sd sa sb => Sys2Proof.Machine.execScalarAdd t h sd sa sb s
  | .scalarSub t h sd sa sb => Sys2Proof.Machine.execScalarSub t h sd sa sb s
  | .scalarMul t h sd sa sb => Sys2Proof.Machine.execScalarMul t h sd sa sb s
  | .scalarAnd t h sd sa sb => Sys2Proof.Machine.execScalarAnd t h sd sa sb s
  | .scalarOr t h sd sa sb => Sys2Proof.Machine.execScalarOr t h sd sa sb s
  | .scalarXor t h sd sa sb => Sys2Proof.Machine.execScalarXor t h sd sa sb s
  | .scalarShl t h sd sa sb => Sys2Proof.Machine.execScalarShl t h sd sa sb s
  | .scalarShr t h sd sa sb => Sys2Proof.Machine.execScalarShr t h sd sa sb s
  | .scalarCmp t h sd sa sb => Sys2Proof.Machine.execScalarCmp t h sd sa sb s
  | .scalarSel t h sd sa sb sc => Sys2Proof.Machine.execScalarSel t h sd sa sb sc s
  | .scalarMin t h sd sa sb => Sys2Proof.Machine.execScalarMin t h sd sa sb s
  | .scalarMax t h sd sa sb => Sys2Proof.Machine.execScalarMax t h sd sa sb s
  | .ldv t h vd word ecc => Sys2Proof.Machine.execLdv t h vd word ecc s
  | .stv t h vs word => Sys2Proof.Machine.execStv t h vs word s
  | .lds t h sd word hi ecc => Sys2Proof.Machine.execLds t h sd word hi ecc s
  | .sts t h ss word hi => Sys2Proof.Machine.execSts t h ss word hi s
  | .rcv t h reg ecc => Sys2Proof.Machine.execRcv t h reg ecc s
  | .snd t h reg kind packed => Sys2Proof.Machine.execSnd t h reg kind packed s
  | .cop t h c => Sys2Proof.Machine.execCop t h c s
  | .scan t h c => Sys2Proof.Machine.execScan t h c s
  | .seal t h c => Sys2Proof.Machine.execSeal t h c s
  | .encode t h c => Sys2Proof.Machine.execEncode t h c s
  | .decode t h c => Sys2Proof.Machine.execDecode t h c s
  | .xsl t h c => Sys2Proof.Machine.execXsl t h c s
  | .wsl t h c => Sys2Proof.Machine.execWsl t h c s
  | .carry t h c => Sys2Proof.Machine.execCarry t h c s
  | .ruleFire t => Sys2Proof.Machine.execRuleFire t s
  | .takeCtxEnd t q => Sys2Proof.Machine.execTakeCtxEnd t q s
  | .linkWordArrival t net wire syn => Sys2Proof.Machine.execLinkWordArrival t net wire syn s
  | .creditReturn t lane => Sys2Proof.Machine.execCreditReturn t lane s
  | .frameAbort t => Sys2Proof.Machine.execFrameAbort t s
  | .queueFlush t q => Sys2Proof.Machine.execQueueFlush t q s
  | .flushAll => Sys2Proof.Machine.execFlushAll s
  | .start => Sys2Proof.Machine.execStart s
  | .drainComplete => Sys2Proof.Machine.execDrainComplete s
  | .scanIn => Sys2Proof.Machine.execScanIn s
  | .scanInComplete => Sys2Proof.Machine.execScanInComplete s
  | .resume => Sys2Proof.Machine.execResume s
  | .tileScrubAccess t ecc held => Sys2Proof.Machine.execTileScrubAccess t ecc held s
  | .tileNoResponseTimeout t => Sys2Proof.Machine.execTileNoResponseTimeout t s
  | .tileFault t cause => Sys2Proof.Machine.execTileFault t cause s
  | .remapScanOutDone ue => Sys2Proof.Machine.execRemapScanOutDone ue s
  | .remapScanInDone ue => Sys2Proof.Machine.execRemapScanInDone ue s
  | .stallFault stage => Sys2Proof.Machine.execStallFault stage s
  | .unitNoProgress unit => Sys2Proof.Machine.execUnitNoProgress unit s
  | .append stream found => Sys2Proof.Machine.execAppend stream found s
  | .gather stream found => Sys2Proof.Machine.execGather stream found s
  | .attend stream found => Sys2Proof.Machine.execAttend stream found s
  | .stake stream => Sys2Proof.Machine.execStake stream s
  | .unstake stream => Sys2Proof.Machine.execUnstake stream s
  | .evict stream => Sys2Proof.Machine.execEvict stream s
  | .streamClear stream => Sys2Proof.Machine.execStreamClear stream s
  | .clearAll => Sys2Proof.Machine.execClearAll s
  | .storeClearComplete => Sys2Proof.Machine.execStoreClearComplete s
  | .boxDecode words ecc => Sys2Proof.Machine.execBoxDecode words ecc s
  | .suppression ecc => Sys2Proof.Machine.execSuppression ecc s
  | .cropAndResize words ecc => Sys2Proof.Machine.execCropAndResize words ecc s
  | .trackAssociation words bad ecc => Sys2Proof.Machine.execTrackAssociation words bad ecc s
  | .recordWrite ue => Sys2Proof.Machine.execRecordWrite ue s
  | .armDescriptor ts d => Sys2Proof.Machine.execArmDescriptor ts d s
  | .descriptorComplete ts => Sys2Proof.Machine.execDescriptorComplete ts s
  | .hbmCommand ch ready ecc => Sys2Proof.Machine.execHbmCommand ch ready ecc s
  | .jraBaseWrite alias4 v => Sys2Proof.Machine.execJraBaseWrite alias4 v s
  | .hbmScrubRow word ecc => Sys2Proof.Machine.execHbmScrubRow word ecc s
  | .hbmRefresh hot => Sys2Proof.Machine.execHbmRefresh hot s
  | .phyRecalibration ch => Sys2Proof.Machine.execPhyRecalibration ch s
  | .forcedRecalibration ch => Sys2Proof.Machine.execForcedRecalibration ch s
  | .windowBoundary => Sys2Proof.Machine.execWindowBoundary s
  | .numEvaluation => Sys2Proof.Machine.execNumEvaluation s
  | .syncInEdge => Sys2Proof.Machine.execSyncInEdge s
  | .leaseRenew epoch => Sys2Proof.Machine.execLeaseRenew epoch s
  | .leaseLapse => Sys2Proof.Machine.execLeaseLapse s
  | .pairEnable role => Sys2Proof.Machine.execPairEnable role s
  | .journalAck v => Sys2Proof.Machine.execJournalAck v s
  | .journalApply v => Sys2Proof.Machine.execJournalApply v s
  | .journalEntryApply => Sys2Proof.Machine.execJournalEntryApply s
  | .resync => Sys2Proof.Machine.execResync s
  | .resyncWalkStep => Sys2Proof.Machine.execResyncWalkStep s
  | .save => Sys2Proof.Machine.execSave s
  | .saveDeferredStart => Sys2Proof.Machine.execSaveDeferredStart s
  | .saveComplete failed => Sys2Proof.Machine.execSaveComplete failed s
  | .defaults => Sys2Proof.Machine.execDefaults s
  | .erase => Sys2Proof.Machine.execErase s
  | .eraseComplete failed => Sys2Proof.Machine.execEraseComplete failed s
  | .imageDigestWrite p digest => Sys2Proof.Machine.execImageDigestWrite p digest s
  | .fwUpdate offset last bytes => Sys2Proof.Machine.execFwUpdate offset last bytes s
  | .fwUpdateVerifyEnd => Sys2Proof.Machine.execFwUpdateVerifyEnd s
  | .activate => Sys2Proof.Machine.execActivate s
  | .eraseInactive => Sys2Proof.Machine.execEraseInactive s
  | .fwMinVersionWrite v => Sys2Proof.Machine.execFwMinVersionWrite v s
  | .publicKeyWrite k key => Sys2Proof.Machine.execPublicKeyWrite k key s
  | .revoke k => Sys2Proof.Machine.execRevoke k s
  | .sign => Sys2Proof.Machine.execSign s
  | .signingComplete => Sys2Proof.Machine.execSigningComplete s
  | .captureArm => Sys2Proof.Machine.execCaptureArm s
  | .captureDisarm => Sys2Proof.Machine.execCaptureDisarm s
  | .captureTrigger => Sys2Proof.Machine.execCaptureTrigger s
  | .captureScanEnd => Sys2Proof.Machine.execCaptureScanEnd s
  | .captureRelease => Sys2Proof.Machine.execCaptureRelease s
  | .flashLogWrite => Sys2Proof.Machine.execFlashLogWrite s
  | .i3cSetdasa addr => Sys2Proof.Machine.execI3cSetdasa addr s
  | .i3cPrivateRead => Sys2Proof.Machine.execI3cPrivateRead s
  | .i3cPrivateWrite bytes => Sys2Proof.Machine.execI3cPrivateWrite bytes s
  | .extest => Sys2Proof.Machine.execExtest s
  | .idcode => Sys2Proof.Machine.execIdcode s
  | .samplePreload pins => Sys2Proof.Machine.execSamplePreload pins s
  | .clamp => Sys2Proof.Machine.execClamp s
  | .highz => Sys2Proof.Machine.execHighz s
  | .bypass code => Sys2Proof.Machine.execBypass code s
  | .testLogicReset => Sys2Proof.Machine.execTestLogicReset s
  | .defaultsComplete => Sys2Proof.Machine.execDefaultsComplete s
  | .linkUp => Sys2Proof.Machine.execLinkUp s
  | .linkDown => Sys2Proof.Machine.execLinkDown s
  | .linkLocalAddressTaken ip => Sys2Proof.Machine.execLinkLocalAddressTaken ip s
  | .arpRequest ip => Sys2Proof.Machine.execArpRequest ip s
  | .icmpEchoRequest ip bytes => Sys2Proof.Machine.execIcmpEchoRequest ip bytes s
  | .lossOfPower => Sys2Proof.Machine.execLossOfPower s
  | .powerOn => Sys2Proof.Machine.execPowerOn s
  | .tckEdge rising tms tdi pins => Sys2Proof.Machine.execTckEdge rising tms tdi pins s

end Sys2Proof.Machine
end

