-- ==== Sys2Proof/Machine/Step.lean ====
section
/-! DEFINITION. One step: the command at the front of the queue, or, with none waiting, the passing of 10 ns (log entry 1). -/

namespace Sys2Proof.Machine

open Sys2Proof

/-- Carry out the command at the front with the queue's rest, or idle. (DESIGN CHOICE: log entry 1.) -/
def step (s : State) : Host.Outcome State Fault Refusal :=
  match s.pending with
  | [] => .next s.idle
  | c :: rest => exec c { s with pending := rest }

/-- The state with the command that a word spells put at the front of its queue: no word spells one.
(DESIGN CHOICE: log entry 4.) -/
def State.withFetchWord (s : State) (nbits w : Nat) : State :=
  match decodeTableWord nbits w with
  | none => s
  | some c => { s with pending := c :: s.pending }

end Sys2Proof.Machine
end

