-- ==== Sys2Proof/WellFormed.lean ====
section
/-! DEFINITION. Which commands are well formed: their operands name things that exist and carry no code that the spec calls
reserved. A command outside it is one that no well-behaved sender forms; `exec` still answers it, mostly by a fault. -/

namespace Sys2Proof

/-- A packed address names a tile (R9, R10). -/
def wfTile (t : TileAddr) : Bool := decide (t.toNat < 16384) && decide (t.toNat % 128 < 68)

/-- PRED 3 and OUT 7 are reserved (R86). -/
def Hdr.wf (h : Hdr) : Bool := h.pred != 3#2 && h.out != 7#3

/-- A KIND that the network of OUT's lane does not reserve: 0 to 4 in words, 0 to 6 in tokens (R77, R78). -/
def Hdr.kindOk (h : Hdr) (kind : BitVec 3) : Bool :=
  h.out == 0#3 || (if 5 ≤ h.out.toNat then kind != 7#3 else decide (kind.toNat < 5))

/-- A block of the register window, 0 to 17 (R381). -/
def wfBlock (b : BitVec 5) : Bool := decide (b.toNat < 18)

/-- SRAM words that an access reaches (R69). -/
def wfWord (w : BitVec 13) (n : Nat) : Bool := decide (w.toNat + n ≤ 6144)

/-- FMT codes 5 to 7 are reserved (R201). -/
def wfFmt (f : BitVec 3) : Bool := decide (f.toNat < 5)

/-- COP codes (R233). -/
def CopOps.wf (c : CopOps) : Bool := decide (c.op.toNat < 6) && decide (c.mode.toNat < 4)

/-- One end of a descriptor: SPACE 0 to 2 and reserved bits zero (R297). -/
def wfEnd (e : BitVec 64) : Bool :=
  decide (e.toNat / 2 ^ 40 < 3) && decide (e.toNat / 2 ^ 37 % 8 = 0)

/-- A stream descriptor within R297. -/
def Desc.wf (d : Desc) : Bool :=
  wfEnd d.src && wfEnd d.dst && decide (16 ≤ d.length.toNat) && decide (d.length.toNat ≤ 16777216) &&
  decide (d.length.toNat % 16 = 0) && decide (1 ≤ d.pieces.toNat) && decide (d.dflags.toNat < 4)

/-- A port write lies in the address range of its row (R330). -/
def wfWrite (lo hi : Nat) (w : HostWrite) : Bool := decide (lo ≤ w.addr.toNat) && decide (w.addr.toNat < hi)

/-- A doorbell leaves no byte of its burst masked (R55). -/
def wfDoorbell (w : HostWrite) : Bool :=
  wfWrite 0x1000000 0x1008000 w && (w.addr.toNat / 32 % 2 == 1 || w.mask.toNat % 2 ^ 32 == 2 ^ 32 - 1)

/-- A range that takes no writes. -/
def wfDiscarded (w : HostWrite) : Bool :=
  wfWrite 0x120000 0x1000000 w || wfWrite 0x1008000 0x8000000 w || wfWrite 0x20000000 0x40000000 w || wfWrite 0xC0000000 0x100000000 w

/-- Well-formed commands. -/
def Instr.wf : Instr → Bool
  | .resetNRelease _ failing => failing.all wfTile
  | .reqLow d _ => decide (d.toNat < 152)
  | .powerEntryComplete d => decide (d.toNat < 152)
  | .powerExitComplete d _ => decide (d.toNat < 152)
  | .fspChange _ fsp => fsp != 3#2
  | .ingressWrite w => wfWrite 0x40000000 0xC0000000 w
  | .doorbell w => wfDoorbell w
  | .imageWindowWrite w => wfWrite 0x10000000 0x20000000 w
  | .journalWindowWrite w => wfWrite 0x8000000 0x10000000 w
  | .discardedWrite w => wfDiscarded w
  | .registerWrite w => wfWrite 0 0x120000 w
  | .snapTake b => wfBlock b
  | .snapComplete b => wfBlock b
  | .indAddrWrite b _ _ => wfBlock b
  | .indDataWrite b _ => wfBlock b
  | .indDataRead b => wfBlock b
  | .indAccessComplete b => wfBlock b.val
  | .nop t h => wfTile t && h.wf
  | .wait t h => wfTile t && h.wf
  | .jmp t h _ => wfTile t && h.wf
  | .tokr t h _ _ => wfTile t && h.wf
  | .tokw t h kind _ => wfTile t && h.wf && h.kindOk kind
  | .ctx t h _ => wfTile t && h.wf
  | .endOp t h => wfTile t && h.wf
  | .ldw t h _ word _ => wfTile t && h.wf && wfWord word 8
  | .mma t h vreg off _ _ fmt diag _ => wfTile t && h.wf && wfFmt fmt && (!diag || (vreg.toNat % 2 == 0 && off == 0#2))
  | .acc t h _ _ _ => wfTile t && h.wf
  | .vectorAdd t h _ _ _ _ => wfTile t && h.wf
  | .vectorSub t h _ _ _ _ => wfTile t && h.wf
  | .vectorMul t h _ _ _ _ => wfTile t && h.wf
  | .vectorMax t h _ _ _ _ => wfTile t && h.wf
  | .vectorMin t h _ _ _ _ => wfTile t && h.wf
  | .relu t h _ _ _ => wfTile t && h.wf
  | .shuf t h _ _ _ _ => wfTile t && h.wf
  | .vectorCmp t h _ _ _ _ => wfTile t && h.wf
  | .vectorSel t h _ _ _ _ _ => wfTile t && h.wf
  | .zpack t h word n => wfTile t && h.wf && wfWord word (4 * n.val.toNat)
  | .zunpack t h word n _ => wfTile t && h.wf && wfWord word (4 * n.toNat)
  | .scalarAdd t h _ _ _ => wfTile t && h.wf
  | .scalarSub t h _ _ _ => wfTile t && h.wf
  | .scalarMul t h _ _ _ => wfTile t && h.wf
  | .scalarAnd t h _ _ _ => wfTile t && h.wf
  | .scalarOr t h _ _ _ => wfTile t && h.wf
  | .scalarXor t h _ _ _ => wfTile t && h.wf
  | .scalarShl t h _ _ _ => wfTile t && h.wf
  | .scalarShr t h _ _ _ => wfTile t && h.wf
  | .scalarCmp t h _ _ _ => wfTile t && h.wf
  | .scalarSel t h _ _ _ _ => wfTile t && h.wf
  | .scalarMin t h _ _ _ => wfTile t && h.wf
  | .scalarMax t h _ _ _ => wfTile t && h.wf
  | .ldv t h _ word _ => wfTile t && h.wf && wfWord word 4
  | .stv t h _ word => wfTile t && h.wf && wfWord word 4
  | .lds t h _ word _ _ => wfTile t && h.wf && wfWord word 1
  | .sts t h _ word _ => wfTile t && h.wf && wfWord word 1
  | .rcv t h _ _ => wfTile t && h.wf
  | .snd t h _ kind _ => wfTile t && h.wf && h.kindOk kind
  | .cop t h c => wfTile t && h.wf && c.wf
  | .scan t h _ => wfTile t && h.wf
  | .seal t h _ => wfTile t && h.wf
  | .encode t h _ => wfTile t && h.wf
  | .decode t h c => wfTile t && h.wf && wfFmt c.fmt
  | .xsl t h _ => wfTile t && h.wf
  | .wsl t h _ => wfTile t && h.wf
  | .carry t h _ => wfTile t && h.wf
  | .ruleFire t => wfTile t.val
  | .takeCtxEnd t _ => wfTile t
  | .linkWordArrival t _ wire _ => wfTile t && wire.toNat < 12 && wire.toNat != 6 && wire.toNat != 7
  | .creditReturn t _ => wfTile t
  | .frameAbort t => wfTile t
  | .queueFlush t _ => wfTile t
  | .tileScrubAccess t _ _ => wfTile t
  | .tileNoResponseTimeout t => wfTile t
  | .tileFault t _ => wfTile t
  | .armDescriptor ts d => decide (ts.toNat < 35) && d.wf
  | .descriptorComplete ts => decide (ts.toNat < 35)
  | .publicKeyWrite k _ => decide (2 ≤ k.toNat) && decide (k.toNat < 6)
  | .revoke k => decide (1 ≤ k.toNat) && decide (k.toNat < 6)
  | .samplePreload _ => true
  | .bypass code => decide (4 < code.toNat)
  | .linkLocalAddressTaken ip => decide (0xA9FE0100 ≤ ip.toNat) && decide (ip.toNat ≤ 0xA9FEFEFF)
  | .resetNAssert => true
  | .softReset _ _ => true
  | .softResetStart _ => true
  | .supervisoryTimerExpiry => true
  | .faultResetTimer => true
  | .deviceFaultDrainEnd => true
  | .refclkLost => true
  | .pllLockLost _ => true
  | .oscillatorTrim _ => true
  | .sensorReading _ _ => true
  | .thermalEvaluation => true
  | .liftRequest _ => true
  | .inrushWave => true
  | .signatureIdleTimeout => true
  | .blockReloadComplete _ => true
  | .portReset _ _ => true
  | .portInitReady _ => true
  | .hostRead _ _ _ _ => true
  | .modeRegisterWrite _ _ _ => true
  | .modeRegisterRead _ _ => true
  | .trainingCommand _ _ => true
  | .zqCalibration _ => true
  | .refresh _ _ => true
  | .powerDownEntry _ => true
  | .powerDownExit _ => true
  | .selfRefreshEntry _ _ => true
  | .selfRefreshExit _ => true
  | .mbxSubmit _ => true
  | .udpDatagram _ _ _ => true
  | .uhledRead => true
  | .uhledWrite => true
  | .uhledInfo => true
  | .segmentTimeout => true
  | .verify => true
  | .verificationEnd => true
  | .commit => true
  | .placingEnd => true
  | .loadingEnd _ => true
  | .release => true
  | .releaseEnd => true
  | .discard => true
  | .flushWait => true
  | .slotStart _ => true
  | .maxWaitExpiry _ _ => true
  | .rowGroupSend _ => true
  | .flushAll => true
  | .start => true
  | .drainComplete => true
  | .scanIn => true
  | .scanInComplete => true
  | .resume => true
  | .remapScanOutDone _ => true
  | .remapScanInDone _ => true
  | .stallFault _ => true
  | .unitNoProgress _ => true
  | .append _ _ => true
  | .gather _ _ => true
  | .attend _ _ => true
  | .stake _ => true
  | .unstake _ => true
  | .evict _ => true
  | .streamClear _ => true
  | .clearAll => true
  | .storeClearComplete => true
  | .boxDecode _ _ => true
  | .suppression _ => true
  | .cropAndResize _ _ => true
  | .trackAssociation _ _ _ => true
  | .recordWrite _ => true
  | .hbmCommand _ _ _ => true
  | .jraBaseWrite _ _ => true
  | .hbmScrubRow _ _ => true
  | .hbmRefresh _ => true
  | .phyRecalibration _ => true
  | .forcedRecalibration _ => true
  | .windowBoundary => true
  | .numEvaluation => true
  | .syncInEdge => true
  | .leaseRenew _ => true
  | .leaseLapse => true
  | .pairEnable _ => true
  | .journalAck _ => true
  | .journalApply _ => true
  | .journalEntryApply => true
  | .resync => true
  | .resyncWalkStep => true
  | .save => true
  | .saveDeferredStart => true
  | .saveComplete _ => true
  | .defaults => true
  | .erase => true
  | .eraseComplete _ => true
  | .imageDigestWrite _ _ => true
  | .fwUpdate off _ bytes => decide (off.toNat + bytes.length ≤ 425984)
  | .fwUpdateVerifyEnd => true
  | .activate => true
  | .eraseInactive => true
  | .fwMinVersionWrite _ => true
  | .sign => true
  | .signingComplete => true
  | .captureArm => true
  | .captureDisarm => true
  | .captureTrigger => true
  | .captureScanEnd => true
  | .captureRelease => true
  | .flashLogWrite => true
  | .i3cSetdasa _ => true
  | .i3cPrivateRead => true
  | .i3cPrivateWrite _ => true
  | .extest => true
  | .idcode => true
  | .clamp => true
  | .highz => true
  | .testLogicReset => true
  | .defaultsComplete => true
  | .linkUp => true
  | .linkDown => true
  | .arpRequest _ => true
  | .icmpEchoRequest _ _ => true
  | .lossOfPower => true
  | .powerOn => true
  | .tckEdge _ _ _ _ => true

end Sys2Proof
end

