-- ==== Sys2Proof/Safety.lean ====
section
/-! DEFINITION. What counts as a safe run, and the terms that claims use: when a tile issues an instruction, and what a
command leaves alone. -/

namespace Sys2Proof.Machine

open Sys2Proof

/-! ## Runs -/

/-- The state after a number of steps, where every one of them answers a next state. -/
def runFor : Nat → State → Option State
  | 0, s => some s
  | n + 1, s =>
    match step s with
    | .next t => runFor n t
    | _ => none

/-- A run of `n` steps is safe: no step faults or is refused. -/
def safeFor (n : Nat) (s : State) : Prop := (runFor n s).isSome = true

/-- The command answers a next state of which `p` holds. -/
def Completes (i : Instr) (s : State) (p : State → Prop) : Prop := ∃ u, exec i s = .next u ∧ p u

/-! ## Host ports -/

/-- The state beside the two host ports and what time alone moves (the clock, the token buckets, the watch): a command of a port may
have to wait before it acts. -/
def State.besidePorts (s : State) : State :=
  { s with
    hp0 := Port.zero, hp1 := Port.zero, clock := State.reset.clock
    stm := { s.stm with gain := 0 }, plc := { s.plc with watch := [] } }

/-! ## Tiles -/

/-- The word that an instruction takes from QIN passes its check: the vector queues correct an error, the pools have parity only
(R74, R103). -/
def Hdr.checkPasses (h : Hdr) : Prop := h.qecc ≠ .uncorrectable ∧ (8 ≤ h.qin.toNat → h.qecc = .ok)

/-- Tile `t` meets an instruction with header `h` and need `n` in a cycle in which slot `c` issues it (R74, R86 to R90, R95): the
tile exists and runs, no window boundary is due, no abort stands in the way, and the checks of R89 hold nothing back. -/
structure Issues (s : State) (t : TileAddr) (h : Hdr) (n : Need) (c : Nat) : Prop where
  tile : isTile t = true
  predCode : h.pred ≠ 3#2
  outCode : h.out ≠ 7#3
  fetch : h.fetch ≠ .uncorrectable
  window : s.boundaryDue = false
  running : s.tileOn t = true
  freeze : (s.tile t).freeze = false
  going : s.fab.stopped = false
  ownAbort : (s.tile t).aborting = none
  noAbort : (s.tile t).abortHeads c = []
  slot : issueSlot (s.tile t) = c
  valid : (s.tile t).slotValid c = true
  status : s.issueGate t h n c = .go
  holds : (s.tile t).predHolds h = true
  check : (sourceWord (s.tile t) h n c).isSome = true → n.isWait = false → Hdr.checkPasses h

/-- The content of a tile that only the instructions written for it change: everything but the queues, credits, counters,
steps, line buffers and the bookkeeping that every issue may move. -/
def Tile.content (x : Tile) : Tile :=
  { x with queues := [], credits := [], steps := [], handler := none, retiring := none, delivered := [], ctxEnds := [], counts := [],
           cycle := 0, qbanks := 0, c := [], sent := [], taken := [], work := [] }

/-- The state beside the fabric and the register words. -/
def State.besideFabric (s : State) : State := { s with fab := State.reset.fab, regs := [] }

/-- The fabric beside its tiles, the words on links and the credits on their way back. -/
def Fab.besideTraffic (f : Fab) : Fab := { f with tiles := [], links := [], creditBack := [] }

/-- A tile instruction has left alone whatever is not its own tile, apart from the register words at the addresses `rs`. -/
def TileFrame (s u : State) (t : TileAddr) (rs : List Nat) : Prop :=
  u.besideFabric = s.besideFabric ∧ u.fab.besideTraffic = s.fab.besideTraffic ∧ (∀ a, a ∉ rs → u.reg a = s.reg a) ∧
  ∀ t', t' ≠ t → (u.tile t').content = (s.tile t').content

/-- The part of a tile that says where it stands: steps, handler, counters, cycle counts. -/
def Tile.course (x : Tile) : Tile :=
  { Tile.zero with steps := x.steps, handler := x.handler, c := x.c, counts := x.counts, cycle := x.cycle, qbanks := x.qbanks }

/-- The cycle is counted as RETIRE (R95): the retiring slot issues while the active one could. -/
def countsRetire (x : Tile) : Bool := issuesRetiring x && issueCouldIssue x x.active.toNat

/-- Where the word that slot `c` of tile `t` issues next spells the command (R86, R89): the command completes; it leaves the tile
with the content of `y`, moves its step, handler, counters and counts on from `y` as an issue with flow `f` does (R86, R89, R91,
R114), and leaves alone whatever is not tile `t`, apart from the register words at `rs`. -/
def TileDoes (s : State) (t : TileAddr) (h : Hdr) (c : Nat) (i : Instr) (rs : List Nat) (f : Flow) (y : Tile)
    (p : State → Prop) : Prop :=
  (s.tile t).meets c i = true →
  Completes i s (fun u => TileFrame s u t rs ∧ (u.tile t).content = y.content ∧
    (u.tile t).course = (y.advance h c f (countsRetire (s.tile t))).course ∧ p u)

/-- The words a tile instruction put on the links: the word named, if any, on its lane as the lane's network carries it (R76), and
after it only CTX_END words that a retired slot owes (R96). -/
def Sends (s u : State) (t : TileAddr) (c : Nat) (out : BitVec 3) (kind : BitVec 3) (data : Burst) : Prop :=
  let l := out.toNat - 1
  ∃ ends, u.fab.links = s.fab.links ++ (if out = 0#3 then [] else
    [⟨wireKey t.toNat (l / 2) (4 + l % 2), ⟨BitVec.ofNat 2 c, kind, laneData (l / 2) c kind data, 8 * t.toNat + l⟩⟩]) ++ ends ∧
    ∀ e ∈ ends, isCtxEnd (keyNet e.wire) e.w = true

/-- The registers of a tile instruction's cycle that its fetch and operand checks count in. -/
def eccRegs : List Nat := [Reg.fabEccCorrCnt]

/-- The word a scalar instruction reads as its last source: the low bits of the word taken from QIN, else its register. -/
def scalarSource (w : Option QWord) (r : Word) : Word := match w with | some q => q.data.setWidth 32 | none => r

/-- The last source of a vector instruction. -/
def vectorSource (w : Option QWord) (r : Burst) : Burst := match w with | some q => q.data | none => r

/-! ## The context engine -/

/-- A word on the circuit of a unit on a network. -/
def State.unitLink (s : State) (unit net : Nat) (w : QWord) : LinkWord :=
  let p := Config.unitWire s.plc.pitchDigest (BitVec.ofNat 5 unit) (BitVec.ofNat 2 net)
  ⟨wireKey p.1.toNat net p.2.toNat, w⟩

/-- Units have offered these words to their circuits in this order, and between them only end markers of frames (R238); a word
stays with its unit while the crossing's queue raises HOLD (R415). -/
def Offers (s u : State) (ws : List LinkWord) : Prop :=
  ∃ all : List LinkWord, all.filter (fun l => !isEnd (keyNet l.wire) l.w) = ws ∧
    u.fab.links = (all.foldl State.offer s).fab.links ∧ u.fab.unsent = (all.foldl State.offer s).fab.unsent

/-- The oldest request of a stream that has not run gets these reply words, and every reply that none before it holds back goes out
in the order of the requests (R238). -/
def Answered (s u : State) (st : Nat) (ws : List (Nat × Burst)) : Prop :=
  let reqs := answer st ws s.ctx.reqs
  u.ctx.reqs = reqs.dropWhile (·.reply.isSome) ∧
  Offers s u ((reqs.takeWhile (·.reply.isSome)).map (fun q =>
    (q.reply.getD []).map (fun w => s.unitLink 6 w.1 (unitWord w.1 q.tag 0 w.2)))).flatten

/-- The request is answered: a frame of a fabric that was emptied since gets nothing (R106). -/
def Replies (s u : State) (r : CtxReq) (status arg : Nat) (scalars : List Word) (vecs : List Burst) : Prop :=
  Answered s u r.stream (if r.ordinal < s.fab.base then [] else replyWords r status arg scalars vecs)

/-- The request is answered where its ACK asks for it (R235). -/
def AckReplies (s u : State) (r : CtxReq) (status arg : Nat) : Prop :=
  if r.ack then Replies s u r status arg [] [] else Answered s u r.stream []

/-- The directory, the slots, the lists and the tracks are as they were. -/
def SameStore (s u : State) : Prop :=
  u.ctx.dir = s.ctx.dir ∧ u.ctx.slots = s.ctx.slots ∧ u.ctx.streams = s.ctx.streams ∧ u.ctx.tracks = s.ctx.tracks

end Sys2Proof.Machine
end

