-- ==== Sys2Proof/Certificates/Slice0/Obligations.lean ====
section
/-! DEFINITION. The statements for the provers, chapter by chapter. A statement with several parts is the conjunction of the claims
named in it, each of which stands above it. -/

open Sys2Proof Sys2Proof.Machine

/-! ## Steps, the queue, and what every step keeps -/

/-- A step carries out the command at the front of the queue on the state with the queue's rest. With none waiting one step of device
time passes, in which power domains may move, what watches for progress looks, and every token bucket gains what its rate gives (the
model's choice, log entry 1). -/
def Obligations.StepRunsTheFrontCommand : Prop :=
  (∀ (c : Instr) (s : State) (rest : List Instr), step { s with pending := c :: rest } = exec c { s with pending := rest }) ∧
  (∀ s : State, s.pending = [] → ∃ (p : Pwr) (w : Tbl Watch), step s = .next { s with
    clock := { s.clock with now := s.clock.now + 1 }, pwr := p, plc := { s.plc with watch := w }
    stm := { s.stm with gain := s.stm.gain + 18 * s.spRate } })

/-- No command looks at or changes what waits behind it, and none takes the clock back (the queue and the clock of the model, log
entries 1 and 3). -/
def Obligations.CommandsLeaveQueueAndTime : Prop :=
  ∀ (c : Instr) (s u : State), exec c s = .next u → u.pending = s.pending ∧ s.clock.now ≤ u.clock.now

/-- What is for the life of the part (R442, R444, R483): through every step a revoked key slot stays revoked and an active one active or
revoked, with its key; FW_MIN_VERSION never falls; the retirement table keeps every record in its place; the flash log only counts up. -/
def Obligations.RevocationsAndRetirementsAreForLife : Prop :=
  ∀ s u : State, step s = .next u →
    (∀ k, k < 6 → s.keyState k = 2 → u.keyState k = 2 ∧ u.keyOf k = s.keyOf k) ∧
    (∀ k, k < 6 → s.keyState k = 1 → (u.keyState k = 1 ∨ u.keyState k = 2) ∧ u.keyOf k = s.keyOf k) ∧
    s.flash.fwMin ≤ u.flash.fwMin ∧ s.flash.retired <+: u.flash.retired ∧ s.flash.logged ≤ u.flash.logged

/-- The canonical form of the register words, the tiles, the streams of admission, the image copy, the journal region and the HBM area
that descriptors move data in: equal contents are equal data, and no entry equals what an unlisted one reads as. -/
def Sys2Proof.Claims.Canonical (s : State) : Prop :=
  twf 0#32 s.regs = true ∧ twf Tile.zero s.fab.tiles = true ∧ twf StreamAdm.zero s.adm.streams = true ∧
  Memory.wf s.img.copy = true ∧ Memory.wf s.hbm.journal = true ∧ Memory.wf s.hbm.area = true

/-- Every step keeps the canonical form: the invariant under which the statements about all tiles and all streams are made. -/
def Obligations.CanonicalFormIsKept : Prop :=
  ∀ s u : State, Claims.Canonical s → step s = .next u → Claims.Canonical u

/-- ALERT_N stands as R401 says, and with RESET_N low or without power DEV_CTL.EN is 0. -/
def Sys2Proof.Claims.AlertPinRight (s : State) : Prop :=
  (s.pins.alert = true ↔ s.up = true ∧ s.rbit Reg.devCtl 0 = true ∧ s.reg Reg.devAlert &&& s.reg Reg.devAlertMask ≠ 0#32) ∧
  (s.up = false → s.rbit Reg.devCtl 0 = false)

/-- Through every step, whatever sets a cause, clears it through the clear word, masks it or resets the part, ALERT_N is asserted exactly
while EN is 1 and a cause stands under the mask (R401); in the model it follows at once. -/
def Obligations.AlertPinFollowsItsCauses : Prop :=
  ∀ s u : State, Claims.AlertPinRight s → step s = .next u → Claims.AlertPinRight u

/-- The part after reset (R37, R382, R400, R479, R523): canonical, no command waiting, RESET_N low, and the values the register tables give; every
counter is zero, IMAGE_STATE is EMPTY, no frame, ring entry, track or valid slot exists, the owner's key slots are EMPTY, and every tile block
is low. -/
def Obligations.ResetHoldsTheStatedValues : Prop :=
  let s := State.reset
  Claims.Canonical s ∧ Claims.AlertPinRight s ∧ s.pending = [] ∧ s.up = false ∧ s.img.st = .empty ∧ s.adm.frames = [] ∧ s.adm.streams = [] ∧ s.egr.index = [] ∧ s.egr.lines = [] ∧ s.ctx.tracks = [] ∧ s.committed = false ∧ s.faulted = false ∧
  s.reg Reg.devStat = 1#32 ∧ s.reg Reg.devAlertMask = 1#32 ∧ s.reg Reg.admRate = 20480#32 ∧ s.reg Reg.fabCtl = 2#32 ∧
  s.reg Reg.numCtl = 2#32 ∧ s.reg Reg.numGuardLim = 0x801#32 ∧ s.reg Reg.ctxCtl = 2#32 ∧ s.reg Reg.ppuCtl = 2#32 ∧ s.reg Reg.stmCtl = 6#32 ∧
  s.reg Reg.stmSpRate = 0x1000FFFF#32 ∧ s.reg Reg.stmSpSlack = 2048#32 ∧ s.reg Reg.hbmCtl = 2#32 ∧ s.reg Reg.hbmRetireCe = 8#32 ∧
  s.reg Reg.clkSectFreq0 = 0x1A1A1A1A#32 ∧ s.reg Reg.clkSectFreq1 = 0x1A1A1A1A#32 ∧ s.reg Reg.fltLeaseMs = 50#32 ∧
  s.reg Reg.telWindow = 10#32 ∧ s.stage = 1 ∧
  (∀ b, b < 18 → ∀ a ∈ counters b, s.reg a = 0#32) ∧ (∀ d, d < 128 → (s.dom d).st = 2) ∧ (∀ d, 128 ≤ d → d < 140 → (s.dom d).st = 0) ∧
  (∀ st n, s.slotValid st n = false) ∧
  (∀ k, 2 ≤ k → k < 6 → s.keyState k = 0) ∧ s.keyState 0 = 1 ∧ s.keyState 1 = 1 ∧ s.pins.vid = 48#8 ∧ s.pins.alert = false

/-! ## Tiles: what one issuing cycle does (03_tile_fabric) -/

/-- How an issue moves a tile on (R86, R89, R90, R91): DEC first; in static mode the step goes on, jumps or returns to 0; in
rule mode the handler goes on, jumps or ends with its last instruction; one cycle count advances by one and no other. -/
def Obligations.IssueMovesTileOn : Prop :=
  ∀ (x : Tile) (h : Hdr) (c : Nat) (f : Flow) (r : Bool),
    let y := x.advance h c f r
    let step := tget 0#13 x.steps c
    let k := h.csel.toNat
    (∀ j, tget 0#16 y.c j = if h.dec = true ∧ j = k then
      (if tget 0#16 x.c k = 0#16 then x.reload c k - 1#16 else tget 0#16 x.c k - 1#16) else tget 0#16 x.c j) ∧
    (x.ruleMode c = false → y.handler = x.handler ∧ (∀ j, j ≠ c → tget 0#13 y.steps j = tget 0#13 x.steps j) ∧
      tget 0#13 y.steps c = (match f with | .on => step + 1#13 | .jump n => BitVec.ofNat 13 n | .done => 0#13)) ∧
    (x.ruleMode c = true → y.steps = x.steps ∧
      ∀ slot at_ left, x.handler = some (slot, at_, left) →
        y.handler = (if left ≤ 1 then none else
          match f with | .on => some (slot, at_ + 1, left - 1) | .jump n => some (slot, n, left - 1) | .done => none)) ∧
    (∀ j, tget 0#32 y.counts j = tget 0#32 x.counts j + if j = (if r then cRetire else cIssue) then 1#32 else 0#32) ∧
    y.content = x.content ∧ y.queues = x.queues ∧ y.credits = x.credits

/-- NOP, WAIT, JMP and END change nothing in their tile but where it stands (R87): NOP and WAIT go on, JMP goes to its target,
END returns a static schedule to step 0 and ends a handler; WAIT takes no word. -/
def Sys2Proof.Claims.ControlInstructionsMoveStepOnly : Prop :=
  ∀ (s : State) (t : TileAddr) (h : Hdr) (c : Nat) (target : BitVec 13),
    let quiet := fun (u : State) => Sends s u t c 0#3 0#3 0#256
    (Issues s t h (needOf h) c →
      let x := (s.afterSource t h (needOf h) c).tile t
      TileDoes s t h c (.nop t h) eccRegs .on x quiet ∧
      TileDoes s t h c (.jmp t h target) eccRegs (.jump target.toNat) x quiet ∧
      TileDoes s t h c (.endOp t h) eccRegs .done x quiet) ∧
    (Issues s t h (waitNeed h) c →
      TileDoes s t h c (.wait t h) eccRegs .on (s.tile t)
        (fun u => quiet u ∧ ∀ q, ((u.tile t).queue q).words = ((s.tile t).queue q).words))

/-- TOKR takes the head token of QIN and applies its kind (R91, R93, R94): STEP decrements a counter, SELECT sets the step,
CTX_SWITCH makes the slot it names active and goes out again unchanged on every control lane; any other kind is consumed. -/
def Sys2Proof.Claims.TokrAppliesTokenKind : Prop :=
  ∀ (s : State) (t : TileAddr) (h : Hdr) (base : BitVec 13) (mul : BitVec 8) (c : Nat) (w : QWord),
    Issues s t h (tokrNeed h) c → (s.tile t).present h.qin.toNat c = some w → 12 ≤ h.qin.toNat →
    let x := (s.afterSource t h (tokrNeed h) c).tile t
    let arg := fld w.data 2 0
    let does := TileDoes s t h c (.tokr t h base mul) eccRegs
    let quiet := fun (u : State) => Sends s u t c 0#3 0#3 0#256
    (w.kind = 0#3 → does .on (x.decCounter c arg) quiet) ∧
    (w.kind = 1#3 → does (.jump ((base.toNat + arg * mul.toNat) % 8192)) x quiet) ∧
    (w.kind = 5#3 → (s.tile t).meets c (.tokr t h base mul) = true → Completes (.tokr t h base mul) s (fun u =>
      TileFrame s u t eccRegs ∧ (u.tile t).content = { x.content with active := BitVec.ofNat 2 arg } ∧
      ∃ ends, u.fab.links = s.fab.links ++
        (x.controlLanes c).map (fun l => ⟨wireKey t.toNat 2 (4 + l % 2), { w with src := 8 * t.toNat + l }⟩) ++ ends)) ∧
    (w.kind ≠ 0#3 → w.kind ≠ 1#3 → w.kind ≠ 5#3 → does .on x quiet)

/-- CTX makes the slot of variant OPERANDS[0] of the current bank active (R87, R93), and nothing else of the tile's content
changes; where the slot changes, its counters are loaded and the old slot retires (R91, R95). -/
def Sys2Proof.Claims.CtxSwitchesVariant : Prop :=
  ∀ (s : State) (t : TileAddr) (h : Hdr) (variant : Bool) (c : Nat), Issues s t h (needOf h) c →
    let x := (s.afterSource t h (needOf h) c).tile t
    let b := 2 * (c / 2) + b2n variant
    c < 4 → (s.tile t).meets c (.ctx t h variant) = true → Completes (.ctx t h variant) s (fun u =>
      TileFrame s u t eccRegs ∧ (u.tile t).content = { x.content with active := BitVec.ofNat 2 b } ∧
      (x.active.toNat ≠ b → (h.dec = false → ∀ k, k < 8 → tget 0#16 (u.tile t).c k = x.reload b k) ∧
        ((u.tile t).retiring = some x.active ∨ ((u.tile t).retiring = none ∧ x.allDelivered x.active.toNat = true))))

/-- Scalar ADD, SUB, MUL, AND, OR and XOR (R69, R87): the 32-bit result of S(sa) and the last source, which is the word
taken from QIN where QIN_EN is 1 (log entry 21), stands in S(sd) and goes out on OUT with the KIND of the word taken. -/
def Sys2Proof.Claims.ScalarArithmeticResults : Prop :=
  ∀ (s : State) (t : TileAddr) (h : Hdr) (sd sa sb : BitVec 6) (c : Nat), Issues s t h (needOf h) c →
    let w := sourceWord (s.tile t) h (needOf h) c
    let x := (s.afterSource t h (needOf h) c).tile t
    let a := x.sreg sa.toNat
    let b := scalarSource w (x.sreg sb.toNat)
    let gives := fun (i : Instr) (r : Word) => TileDoes s t h c i eccRegs .on (x.setS sd.toNat r)
      (fun u => Sends s u t c h.out (resultKind h w) (r.setWidth 256))
    gives (.scalarAdd t h sd sa sb) (a + b) ∧ gives (.scalarSub t h sd sa sb) (a - b) ∧
    gives (.scalarMul t h sd sa sb) (a * b) ∧ gives (.scalarAnd t h sd sa sb) (a &&& b) ∧
    gives (.scalarOr t h sd sa sb) (a ||| b) ∧ gives (.scalarXor t h sd sa sb) (a ^^^ b)

/-- Scalar SHL and SHR by less than 32 (SHR of a word whose top bit is clear), MIN and MAX of words with equal top bits, SEL
and CMP. What the spec leaves open is left open here (log entry 22): SEL takes one of its first two sources, and CMP writes
some word. -/
def Sys2Proof.Claims.ScalarShiftAndChoice : Prop :=
  ∀ (s : State) (t : TileAddr) (h : Hdr) (sd sa sb sc : BitVec 6) (c : Nat), Issues s t h (needOf h) c →
    let w := sourceWord (s.tile t) h (needOf h) c
    let x := (s.afterSource t h (needOf h) c).tile t
    let a := x.sreg sa.toNat
    let b := scalarSource w (x.sreg sb.toNat)
    let gives := fun (i : Instr) (r : Word) => TileDoes s t h c i eccRegs .on (x.setS sd.toNat r)
      (fun u => Sends s u t c h.out (resultKind h w) (r.setWidth 256))
    (b.toNat < 32 → gives (.scalarShl t h sd sa sb) (a <<< b.toNat)) ∧
    (b.toNat < 32 → bit a 31 = false → gives (.scalarShr t h sd sa sb) (a >>> b.toNat)) ∧
    (bit a 31 = bit b 31 → gives (.scalarMin t h sd sa sb) (if a.toNat < b.toNat then a else b)) ∧
    (bit a 31 = bit b 31 → gives (.scalarMax t h sd sa sb) (if a.toNat < b.toNat then b else a)) ∧
    (gives (.scalarSel t h sd sa sb sc) a ∨ gives (.scalarSel t h sd sa sb sc) (x.sreg sb.toNat)) ∧
    ∃ r, gives (.scalarCmp t h sd sa sb) r

/-- Vector ADD, SUB, MUL, MAX, MIN and RELU on FP32 lanes (R69, R87, R208): lane i of V(vd) is the result on lane i of V(va)
and of the last source; results that took the largest finite value are counted in the tile's ACC_OVF while NUM_CTL.EN is 1 and
flagged in NUM_STAT (R208, R215); the vector goes out on OUT. -/
def Sys2Proof.Claims.VectorFloatResults : Prop :=
  ∀ (s : State) (t : TileAddr) (h : Hdr) (vd va vb : BitVec 4) (c : Nat), Issues s t h (needOf h) c →
    let w := sourceWord (s.tile t) h (needOf h) c
    let x := (s.afterSource t h (needOf h) c).tile t
    let a := x.vreg va.toNat
    let b := vectorSource w (x.vreg vb.toNat)
    let gives := fun (i : Instr) (f : Nat → Word) (over_ : Nat → Bool) =>
      let n := ((upto 8).filter over_).length
      let y := x.setV vd.toNat (ofLanes f)
      TileDoes s t h c i (Reg.numStat :: eccRegs) .on
        (if s.blockEn 5 then { y with accOvf := times satInc n y.accOvf } else y)
        (fun u => Sends s u t c h.out (resultKind h w) (ofLanes f) ∧
          u.reg Reg.numStat = if n = 0 then s.reg Reg.numStat else s.reg Reg.numStat ||| 0x10#32)
    gives (.vectorAdd t h .w32 vd va vb) (fun i => f32Add (lane32 a i) (lane32 b i))
      (fun i => overflows ((f32 (lane32 a i)).add (f32 (lane32 b i)))) ∧
    gives (.vectorSub t h .w32 vd va vb) (fun i => f32Sub (lane32 a i) (lane32 b i))
      (fun i => overflows ((f32 (lane32 a i)).sub (f32 (lane32 b i)))) ∧
    gives (.vectorMul t h .w32 vd va vb) (fun i => f32Mul (lane32 a i) (lane32 b i))
      (fun i => overflows ((f32 (lane32 a i)).mul (f32 (lane32 b i)))) ∧
    gives (.vectorMax t h .w32 vd va vb) (fun i => f32Max2 (lane32 a i) (lane32 b i)) (fun _ => false) ∧
    gives (.vectorMin t h .w32 vd va vb) (fun i => f32Min2 (lane32 a i) (lane32 b i)) (fun _ => false) ∧
    gives (.relu t h .w32 vd vb) (fun i => f32Relu (lane32 b i)) (fun _ => false)

/-- The vector instructions whose result the spec leaves open (log entry 22) complete, write V(vd) and send what they wrote:
SHUF, CMP and SEL in every lane width, and the arithmetic ones in 8-bit and 16-bit lanes. -/
def Sys2Proof.Claims.VectorOpenResultsComplete : Prop :=
  ∀ (s : State) (t : TileAddr) (h : Hdr) (vd va vb vc : BitVec 4) (lw : LaneW) (c : Nat), Issues s t h (needOf h) c →
    let w := sourceWord (s.tile t) h (needOf h) c
    let x := (s.afterSource t h (needOf h) c).tile t
    let writes := fun (i : Instr) => ∃ r, TileDoes s t h c i eccRegs .on (x.setV vd.toNat r)
      (fun u => Sends s u t c h.out (resultKind h w) r)
    writes (.shuf t h lw vd va vb) ∧ writes (.vectorCmp t h lw vd va vb) ∧ writes (.vectorSel t h lw vd va vb vc) ∧
    (lw ≠ .w32 → writes (.vectorAdd t h lw vd va vb) ∧ writes (.vectorSub t h lw vd va vb) ∧
      writes (.vectorMul t h lw vd va vb) ∧ writes (.vectorMax t h lw vd va vb) ∧ writes (.vectorMin t h lw vd va vb) ∧
      writes (.relu t h lw vd va))

/-- LDV, STV, LDS and STS move 32 bytes, or half a 64-bit word, between SRAM and a register (R69, R73, R87): nothing but the
register, or the SRAM words written, changes. They need the banks of their SRAM words free of a queue write in this cycle (R73). -/
def Sys2Proof.Claims.SramInstructionsMoveData : Prop :=
  ∀ (s : State) (t : TileAddr) (h : Hdr) (vreg : BitVec 4) (sr : BitVec 6) (word : BitVec 13) (hi : Bool) (ecc : Ecc) (c : Nat),
    ecc ≠ .uncorrectable →
    let quiet := fun (u : State) => Sends s u t c 0#3 0#3 0#256
    (wfWord word 4 = true → Issues s t h (sramNeed h word.toNat 4) c →
      let w := sourceWord (s.tile t) h (sramNeed h word.toNat 4) c
      let x := (s.afterSource t h (sramNeed h word.toNat 4) c).tile t
      TileDoes s t h c (.ldv t h vreg word ecc) eccRegs .on (x.setV vreg.toNat (x.readV word.toNat))
        (fun u => Sends s u t c h.out (resultKind h w) (x.readV word.toNat)) ∧
      TileDoes s t h c (.stv t h vreg word) eccRegs .on
        (x.writeV word.toNat (vectorSource w (x.vreg vreg.toNat))) quiet) ∧
    (wfWord word 1 = true → Issues s t h (sramNeed h word.toNat 1) c →
      let w := sourceWord (s.tile t) h (sramNeed h word.toNat 1) c
      let x := (s.afterSource t h (sramNeed h word.toNat 1) c).tile t
      TileDoes s t h c (.lds t h sr word hi ecc) eccRegs .on (x.setS sr.toNat (x.half word.toNat hi))
        (fun u => Sends s u t c h.out (resultKind h w) ((x.half word.toNat hi).setWidth 256)) ∧
      TileDoes s t h c (.sts t h sr word hi) eccRegs .on
        (x.setHalf word.toNat hi (scalarSource w (x.sreg sr.toNat))) quiet)

/-- An SRAM word reads back what was written to it, in 32-byte and in half-word accesses, and an access leaves every word
beside it alone (R69). -/
def Sys2Proof.Claims.SramReadsBackWrites : Prop :=
  ∀ (x : Tile) (word other : Nat) (hi : Bool) (v : Burst) (r : Word),
    (x.writeV word v).readV word = v ∧ (x.setHalf word hi r).half word hi = r ∧
    (x.setHalf word hi r).half word (!hi) = x.half word (!hi) ∧
    (other ≠ word → tget 0#64 (x.setHalf word hi r).sram other = tget 0#64 x.sram other) ∧
    (other < word ∨ word + 4 ≤ other → tget 0#64 (x.writeV word v).sram other = tget 0#64 x.sram other)

/-- RCV takes the head word of QIN into a register of its network and passes it on where OUT names a lane; SND sends a register
with the KIND given, or the next word of the packed row; TOKW sends a token; COP sends the header word of a context operation
(R78, R87, R196, R233, R234; log entries 21 and 23). -/
def Sys2Proof.Claims.QueueAndLaneInstructions : Prop :=
  ∀ (s : State) (t : TileAddr) (h : Hdr) (reg : BitVec 6) (kind arg : BitVec 3) (o : CopOps) (c : Nat),
    (∀ w ecc, Issues s t (h.found ecc) (rcvNeed h) c → (s.tile t).present h.qin.toNat c = some w →
      let x := (s.afterSource t (h.found ecc) (rcvNeed h) c).tile t
      TileDoes s t h c (.rcv t h reg ecc) eccRegs .on
        (if h.qin.toNat < 8 then x.setV reg.toNat w.data else x.setS reg.toNat (w.data.setWidth 32))
        (fun u => Sends s u t c h.out (resultKind h (some w)) w.data)) ∧
    (Issues s t h (sndNeed h false) c → h.kindOk kind = true →
      let w := sourceWord (s.tile t) h (sndNeed h false) c
      let x := (s.afterSource t h (sndNeed h false) c).tile t
      TileDoes s t h c (.snd t h reg kind false) eccRegs .on x (fun u => Sends s u t c h.out kind
        (vectorSource w (if h.out.toNat ≤ 2 then x.vreg reg.toNat else (x.sreg reg.toNat).setWidth 256)))) ∧
    (Issues s t h (sndNeed h true) c → h.kindOk kind = true →
      let x := (s.afterSource t h (sndNeed h true) c).tile t
      (∀ d ds, x.z.out = d :: ds → TileDoes s t h c (.snd t h reg kind true) eccRegs .on
        { x with z := { x.z with out := ds } } (fun u => Sends s u t c h.out kind d)) ∧
      (x.z.out = [] → TileDoes s t h c (.snd t h reg kind true) eccRegs .on x
        (fun u => Sends s u t c 0#3 0#3 0#256))) ∧
    (Issues s t h (needOf h) c →
      let x := (s.afterSource t h (needOf h) c).tile t
      (h.kindOk kind = true → TileDoes s t h c (.tokw t h kind arg) eccRegs .on x
        (fun u => Sends s u t c h.out kind (arg.setWidth 256))) ∧
      (o.wf = true → TileDoes s t h c (.cop t h o) eccRegs .on x
        (fun u => Sends s u t c h.out 0#3 ((copHeader o (x.sreg 62)).setWidth 256))))

/-- The header word of a context operation (R234): its fields stand at their places. -/
def Sys2Proof.Claims.CopHeaderFields : Prop :=
  ∀ (o : CopOps) (v : Word), let w := copHeader o v
    fld w 31 29 = o.op.toNat ∧ fld w 28 26 = o.mode.toNat ∧ fld w 25 20 = o.cnt.toNat ∧ fld w 19 18 = o.part.toNat ∧
    bit w 17 = o.ack ∧ fld w 16 14 = o.rc.toNat ∧ fld w 13 0 = fld v 13 0

/-- ZPACK forms the compressed row in the pack state; ZUNPACK takes one word of a row at a time (R194, R196). -/
def Sys2Proof.Claims.ZeroCompressionInstructions : Prop :=
  ∀ (s : State) (t : TileAddr) (h : Hdr) (word : BitVec 13) (n : BitVec 12) (ecc : Ecc) (c : Nat),
    wfWord word (4 * n.toNat) = true →
    let quiet := fun (u : State) => Sends s u t c 0#3 0#3 0#256
    (Issues s t h (sramNeed h word.toNat (4 * n.toNat)) c → ecc ≠ .uncorrectable →
      let x := (s.afterSource t h (sramNeed h word.toNat (4 * n.toNat)) c).tile t
      TileDoes s t h c (.zpack t h word ⟨n, ecc⟩) eccRegs .on
        { x with z := { x.z with out := compressRow ((upto n.toNat).map (fun i => x.readV (word.toNat + 4 * i))) } } quiet) ∧
    (Issues s t (h.found ecc) (unpackNeed h word.toNat n.toNat) c →
      let w := sourceWord (s.tile t) h (unpackNeed h word.toNat n.toNat) c
      let x := (s.afterSource t (h.found ecc) (unpackNeed h word.toNat n.toNat) c).tile t
      TileDoes s t h c (.zunpack t h word n ecc) eccRegs .on (x.unpack word.toNat n.toNat w) quiet)

/-- Unpacking the packed form of a row of chunks gives the row again (R194): the bitmap words come first, then the bytes that
are not zero. -/
def Sys2Proof.Claims.ZeroCompressionRoundTrip : Prop :=
  ∀ chunks : List Burst,
    let words := compressRow chunks
    let maps := words.take ((chunks.length + 7) / 8)
    let bytes := ((words.drop ((chunks.length + 7) / 8)).map burstBytes).flatten
    expandRow maps bytes chunks.length = chunks ∧ bytes.length = (mapBits maps chunks.length + 31) / 32 * 32

/-- An uncorrectable word read by LDV, LDS or ZPACK from SRAM, or by RCV or ZUNPACK from a vector queue, is a contained error
(R74): it is counted, the frame being worked is marked to be abandoned for the reason FAULT, and no register and no SRAM word takes
the data. A parity error of a scalar or control queue word is a contained error too: it is counted in FAB_LINK_PAR_CNT, and an
abort of reason FAULT stands at the queue's head in place of the word (R103). -/
def Sys2Proof.Claims.UnreadableDataIsContained : Prop :=
  ∀ (s : State) (t : TileAddr) (h : Hdr) (vreg : BitVec 4) (sr : BitVec 6) (word : BitVec 13) (hi : Bool) (n : BitVec 12) (c : Nat),
    let contained := fun (nd : Need) (i : Instr) => (s.tile t).meets c i = true →
      Completes i s (fun u =>
        let x := (s.afterSource t h nd c).tile t
        (u.tile t).content = { x.content with aborting := some (BitVec.ofNat 2 c, x.frameNo c, 2#8) } ∧
        u.reg Reg.fabEccUncorrCnt = s.reg Reg.fabEccUncorrCnt + 1#32 ∧ u.reg Reg.fltContainedCnt = s.reg Reg.fltContainedCnt + 1#32 ∧
        u.rbit Reg.fabStat 9 = true)
    (wfWord word 4 = true → Issues s t h (sramNeed h word.toNat 4) c →
      contained (sramNeed h word.toNat 4) (.ldv t h vreg word .uncorrectable)) ∧
    (wfWord word 1 = true → Issues s t h (sramNeed h word.toNat 1) c →
      contained (sramNeed h word.toNat 1) (.lds t h sr word hi .uncorrectable)) ∧
    (wfWord word (4 * n.toNat) = true → Issues s t h (sramNeed h word.toNat (4 * n.toNat)) c →
      contained (sramNeed h word.toNat (4 * n.toNat)) (.zpack t h word ⟨n, .uncorrectable⟩)) ∧
    (h.qin.toNat < 8 → Issues s t (h.found .ok) (rcvNeed h) c → contained (rcvNeed h) (.rcv t h sr .uncorrectable)) ∧
    (wfWord word (4 * n.toNat) = true → (s.tile t).z.wants n.toNat = true → h.qin.toNat < 8 →
      Issues s t (h.found .ok) (unpackNeed h word.toNat n.toNat) c →
      contained (unpackNeed h word.toNat n.toNat) (.zunpack t h word n .uncorrectable)) ∧
    (∀ w ecc, 8 ≤ h.qin.toNat → ecc ≠ .ok → Issues s t (h.found .ok) (rcvNeed h) c → (s.tile t).present h.qin.toNat c = some w →
      (s.tile t).meets c (.rcv t h sr ecc) = true → Completes (.rcv t h sr ecc) s (fun u =>
        (u.tile t).content = (s.tile t).content ∧ u.rbit Reg.fabStat 8 = true ∧
        u.reg Reg.fabLinkParCnt = s.reg Reg.fabLinkParCnt + 1#32 ∧ u.reg Reg.fltContainedCnt = s.reg Reg.fltContainedCnt + 1#32 ∧
        ((u.tile t).queue h.qin.toNat).words.head? = some (abortWord (netOfQueue h.qin.toNat) w.tag.toNat 2 w.src)))

/-- LDW loads a weight bank; MMA adds one chunk into row k; ACC closes the row and moves it to a vector register through bias
and activation, and sends it where it stands inside the output row (R70, R71, R72, R162, R165, R209). -/
def Sys2Proof.Claims.ArrayInstructions : Prop :=
  ∀ (s : State) (t : TileAddr) (h : Hdr) (bank diag zero : Bool) (word : BitVec 13) (ecc : Ecc) (vreg vd : BitVec 4)
    (off : BitVec 2) (k fmt : BitVec 3) (c : Nat),
    let quiet := fun (u : State) => Sends s u t c 0#3 0#3 0#256
    (Issues s t h (ldwNeed h bank word.toNat) c → wfWord word 8 = true → ecc ≠ .uncorrectable →
      let x := (s.afterSource t h (ldwNeed h bank word.toNat) c).tile t
      let w := BitVec.ofNat 512 ((x.readV word.toNat).toNat + 2 ^ 256 * (x.readV (word.toNat + 4)).toNat)
      TileDoes s t h c (.ldw t h bank word ecc) eccRegs .on
        (if bank then { x with w1 := w } else { x with w0 := w }) quiet) ∧
    (Issues s t h (needOf h) c → wfFmt fmt = true → (diag = true → vreg.toNat % 2 = 0 ∧ off = 0#2) →
      let w := sourceWord (s.tile t) h (needOf h) c
      let b := s.afterSource t h (needOf h) c
      let x := b.tile t
      let r := x.mma (b.hdrAt t c) (vectorSource w (x.vreg vreg.toNat)) (x.vreg (vreg.toNat + 1)) off.toNat bank k.toNat
        fmt.toNat diag zero
      TileDoes s t h c (.mma t h vreg off bank k fmt diag zero) (Reg.numStat :: Reg.numNonfinCnt :: eccRegs) .on
        (if s.blockEn 5 then { r.1 with accOvf := times satInc r.2.1 r.1.accOvf } else r.1)
        (fun u => quiet u ∧ u.reg Reg.numNonfinCnt = s.reg Reg.numNonfinCnt + BitVec.ofNat 32 r.2.2)) ∧
    (Issues s t h (accNeed h k.toNat) c →
      let w := sourceWord (s.tile t) h (accNeed h k.toNat) c
      let b := s.afterSource t h (accNeed h k.toNat) c
      let x := b.tile t
      let hd := b.hdrAt t c
      let y := if tget 0 x.mmas k.toNat % (groupSize hd.gsel / chunkLen hd.cfmt) = 0 then (x, 0) else x.closeRow hd k.toNat
      let r := accLanes hd y.1 k.toNat (vectorSource w (y.1.vreg vreg.toNat))
      let z := y.1.setV vd.toNat r.1
      TileDoes s t h c (.acc t h k vd vreg) (Reg.numStat :: eccRegs) .on
        (if s.blockEn 5 then { z with accOvf := times satInc (y.2 + r.2) z.accOvf } else z)
        (fun u => Sends s u t c (if b.accInside t c k.toNat then h.out else 0#3) (resultKind h w) r.1))

/-- The sum an MMA adds into column c of row k (R70), for INT8 and INT4 without constant scales while the group is still open:
the group register, which counts in units of 2^-32, gains x[0] * W[0][c] + x[1] * W[1][c] + ..., where x is the 8 bytes at
byte 8 OFF of the vector, eight bytes or sixteen nibbles, and W[j][c] stands at byte, or nibble, 8j + c of the bank; with ZERO
the row starts from zero. No other row changes. -/
def Sys2Proof.Claims.MmaAddsIntegerProducts : Prop :=
  ∀ (x : Tile) (hd : NumHdr) (v0 v1 : Burst) (off : Nat) (bank zero : Bool) (k c : Nat),
    off < 4 → k < 8 → c < 8 → (tget Scale.zero x.xsc k).konst = false → (tget Scale.zero x.wsc c).konst = false →
    let n := (if zero then 0 else tget 0 x.mmas k) + 1
    let w := if bank then x.w1 else x.w0
    let old := if zero then 0 else tget 0 x.g (8 * c + k)
    let y8 := (x.mma hd v0 v1 off bank k 2 false zero).1
    let y4 := (x.mma hd v0 v1 off bank k 4 false zero).1
    (n % (groupSize hd.gsel / 8) ≠ 0 →
      tget 0 y8.g (8 * c + k) = old + 2 ^ 32 *
        ((upto 8).map (fun j => sInt 8 (byteOf v0 (8 * off + j)).toNat * sInt 8 (byteOf w (8 * j + c)).toNat)).sum) ∧
    (n % (groupSize hd.gsel / 16) ≠ 0 →
      tget 0 y4.g (8 * c + k) = old + 2 ^ 32 *
        ((upto 16).map (fun j => sInt 4 (v0.toNat / 2 ^ (64 * off + 4 * j) % 16) *
          sInt 4 (w.toNat / 2 ^ (4 * (8 * j + c)) % 16))).sum) ∧
    ∀ k' c', k' < 8 → c' < 8 → k' ≠ k → tget 0 y8.g (8 * c' + k') = tget 0 x.g (8 * c' + k') ∧
      tget 0#32 y8.a (8 * c' + k') = tget 0#32 x.a (8 * c' + k')

/-- CVT SCAN, XSL, WSL, CARRY, DECODE, SEAL and ENCODE (R210, R212): each writes its own part of the tile and sends its result
where it has one. -/
def Obligations.ConversionInstructions : Prop :=
  ∀ (s : State) (t : TileAddr) (h : Hdr) (o : CvtOps) (c : Nat), Issues s t h (needOf h) c →
    let w := sourceWord (s.tile t) h (needOf h) c
    let b := s.afterSource t h (needOf h) c
    let x := b.tile t
    let hd := b.hdrAt t c
    let v := vectorSource w (x.vreg o.vs.toNat)
    let quiet := fun (u : State) => Sends s u t c 0#3 0#3 0#256
    let does := fun (i : Instr) (rs : List Nat) (y : Tile) (p : State → Prop) =>
      TileDoes s t h c i (rs ++ eccRegs) .on y p
    does (.scan t h o) [] (x.setGroups o.side ((upto 8).foldl (fun m i =>
      let k := if o.row then o.k.toNat else i
      tset GState.zero m k ((tget GState.zero m k).scan hd o.side (lane32 v i))) (x.groups o.side))) quiet ∧
    does (.xsl t h o) [] { x with xsc := loadScales (hd.sf true) v (x.vreg (o.vs.toNat + 1)) } quiet ∧
    does (.wsl t h o) [] { x with wsc := loadScales (hd.sf true) v (x.vreg (o.vs.toNat + 1)) } quiet ∧
    (∃ og, does (.carry t h o) [] { x with og := og } (fun u => quiet u ∧
      ∀ k, k < 8 →
        let lo := scalarSource w (x.sreg o.sreg.toNat)
        let code := if o.row then (if k = o.k.toNat then byteOf lo 0 else (tget GState.zero x.og k).carried)
          else if k < 4 then byteOf lo k else byteOf (x.sreg (o.sreg.toNat + 1)) (k - 4)
        tget GState.zero og k = { tget GState.zero x.og k with carried := code })) ∧
    (wfFmt o.fmt = true → ∃ r n, does (.decode t h o) [Reg.numStat, Reg.numNonfinCnt]
      { x.setV o.vd.toNat r with accOvf := n } (fun u => Sends s u t c h.out (resultKind h w) r ∧
        ∀ i, i < 8 → lane32 r i =
          let sc := loadScale o.sf (BitVec.ofNat 8 (x.sreg o.sreg.toNat).toNat) (x.sreg (o.sreg.toNat + 1))
          if sc.konst then sc.c else toF32 (Q.mul ⟨(elemVal o.fmt.toNat (elemAt o.fmt.toNat v (o.pos.toNat + i))).1, 65536⟩
            (scaleVal sc hd.fine)) false)) ∧
    (let start := if o.row then (x, x.vreg o.vd.toNat, x.vreg (o.vd.toNat + 1)) else (x, 0#256, 0#256)
     let r := (if o.row then [o.k.toNat] else upto 8).foldl
        (sealOne hd o.side (s.rbit Reg.numCtl 1) (s.reg Reg.numGuardLim)) start
     does (.seal t h o) [] (((r.1.withStats x (s.blockEn 5)).setV o.vd.toNat r.2.1).setV (o.vd.toNat + 1) r.2.2)
       (fun u => Sends s u t c h.out (resultKind h w) r.2.1)) ∧
    (let y := (upto 8).foldl (fun y i =>
        if o.row then encodeOne hd o.side v y i o.k.toNat o.vd.toNat (o.pos.toNat + i)
        else encodeOne hd o.side v y i i (8 + i) o.pos.toNat) x
     does (.encode t h o) [] (y.withStats x (s.blockEn 5)) (fun u =>
       if o.row then Sends s u t c h.out (resultKind h w) (y.vreg o.vd.toNat) else quiet u))

/-- The checks of R89 in order: an instruction waits for its word, then for a credit and for the crossings on its lane's circuit to
lower HOLD (R415), then for a hazard to pass; the cycle counts as WAIT for a WAIT instruction and as STALL_IN, STALL_OUT or HAZARD
otherwise (R114), and nothing else of the tile's content or course changes. Shown for NOP, WAIT, RCV, LDW and ACC, which between
them have every kind of need. -/
def Sys2Proof.Claims.StallsHoldTheStep : Prop :=
  ∀ (s : State) (t : TileAddr) (h : Hdr) (bank : Bool) (word : BitVec 13) (ecc : Ecc) (k : BitVec 3) (vd bias : BitVec 4)
    (reg : BitVec 6),
    isTile t = true → h.wf = true → s.boundaryDue = false → s.tileOn t = true → (s.tile t).freeze = false → s.fab.stopped = false →
    (s.tile t).aborting = none → wfWord word 8 = true →
    let holds := fun (n : Need) (i : Instr) =>
      let x := s.tile t
      let c := issueSlot x
      x.abortHeads c = [] → x.slotValid c = true → x.meets c i = true → ∀ g m, s.issueGate t h n c = g →
        (g = .wait ∧ m = cWait ∨ g = .stallIn ∧ m = cStallIn ∨ g = .stallOut ∧ m = cStallOut ∨ g = .hazard ∧ m = cHazard) →
        Completes i s (fun u => TileFrame s u t [] ∧ (u.tile t).content = x.content ∧
          (u.tile t).course = { (x.bump m).course with cycle := x.cycle + 1, qbanks := 0#8 } ∧ Sends s u t c 0#3 0#3 0#256)
    holds (needOf h) (.nop t h) ∧ holds (waitNeed h) (.wait t h) ∧ holds (rcvNeed h) (.rcv t h reg ecc) ∧
    holds (ldwNeed h bank word.toNat) (.ldw t h bank word ecc) ∧ holds (accNeed h k.toNat) (.acc t h k vd bias)

/-- What holds an instruction back (R89): with its slot valid and, in rule mode, a handler of the slot running, an instruction
whose PRED is false issues at once; otherwise it waits for a present word of QIN, and for the row group before it to be worked where
that word begins the next one (R159, R180), then for a credit of every lane it needs, then for a hazard, and issues when none of
them holds it. -/
def Sys2Proof.Claims.IssueChecksInOrder : Prop :=
  ∀ (x : Tile) (h : Hdr) (n : Need) (c : Nat), x.slotValid c = true →
    (x.ruleMode c = false ∨ ∃ k, x.handler = some k ∧ k.1 = c) →
    (x.predHolds h = false → issueStatus x h n c = .go) ∧
    (x.predHolds h = true →
      let waits := n.word x c = true ∧
        (x.present h.qin.toNat c = none ∨ (n.isWait = false ∧ x.rowsWait c h.qin.toNat = true))
      (waits → issueStatus x h n c = if n.isWait then .wait else .stallIn) ∧
      (¬ waits → (∃ l, l ∈ n.lanes x c ∧ x.credit l = 0) → issueStatus x h n c = .stallOut) ∧
      (¬ waits → (∀ l ∈ n.lanes x c, x.credit l ≠ 0) → issueStatus x h n c = if n.hazard x then .hazard else .go))

/-- An instruction whose PRED is false issues as a no-operation; it still applies DEC, and it counts as ISSUE (R86). Shown for
one instruction of each family. -/
def Sys2Proof.Claims.FalsePredicateIssuesAsNop : Prop :=
  ∀ (s : State) (t : TileAddr) (h : Hdr) (a b d : BitVec 6) (va vb vd : BitVec 4) (word : BitVec 13) (target : BitVec 13)
    (reg : BitVec 6),
    isTile t = true → h.wf = true → h.fetch = .ok → s.boundaryDue = false → s.tileOn t = true → (s.tile t).freeze = false →
    s.fab.stopped = false → (s.tile t).aborting = none → (s.tile t).retiring = none →
    let x := s.tile t
    let c := x.active.toNat
    x.abortHeads c = [] → x.slotValid c = true → (x.ruleMode c = true → ∃ k, x.handler = some k ∧ k.1 = c) →
    x.predHolds h = false → wfWord word 4 = true →
    ∀ i ∈ [Instr.scalarAdd t h d a b, .vectorAdd t h .w32 vd va vb, .jmp t h target, .ldv t h vd word .ok, .stv t h vd word,
           .rcv t h reg .ok],
      x.meets c i = true → Completes i s (fun u => TileFrame s u t [] ∧ (u.tile t).content = x.content ∧
        (u.tile t).course = (x.advance h c .on false).course ∧ Sends s u t c 0#3 0#3 0#256 ∧
        ∀ q, ((u.tile t).queue q).words = (x.queue q).words)

/-- PRED 3 and OUT 7 are reserved (R86), KIND 5 to 7 of a word and KIND 7 of a token too (R77, R78), and so are FMT 5 to 7, a COP
operation above 5 and the SRAM words from 6,144 on (R69, R201, R233): an instruction that carries one stops with a fault of that
name. A command for a packed address that is no tile stops too (R9). The spec gives such an instruction no effect. -/
def Sys2Proof.Claims.ReservedCodesStop : Prop :=
  ∀ (s : State) (t : TileAddr) (h : Hdr) (reg : BitVec 6) (kind arg : BitVec 3) (vreg vd : BitVec 4) (word : BitVec 13) (o : CopOps),
    (isTile t = false → exec (.nop t h) s = .fault .noSuchTile) ∧
    (isTile t = true → (h.pred = 3#2 ∨ h.out = 7#3) → exec (.nop t h) s = .fault (.reserved 86)) ∧
    (5 ≤ h.out.toNat → exec (.tokw t h 7#3 arg) s = .fault (.reserved 78)) ∧
    (1 ≤ h.out.toNat → h.out.toNat ≤ 4 → 5 ≤ kind.toNat → exec (.snd t h reg kind false) s = .fault (.reserved 77)) ∧
    (5 ≤ kind.toNat → exec (.mma t h vreg 0 false arg kind false false) s = .fault (.reserved 164)) ∧
    (6 ≤ o.op.toNat → exec (.cop t h o) s = .fault (.reserved 233)) ∧
    (6140 < word.toNat → exec (.ldv t h vd word .ok) s = .fault .noSuchWord)

/-- The instructions that say where a tile goes on. -/
def Obligations.SequenceInstructions : Prop :=
  Claims.ControlInstructionsMoveStepOnly ∧ Claims.TokrAppliesTokenKind ∧ Claims.CtxSwitchesVariant

/-- Every scalar instruction: arithmetic and logic, then shifts, comparisons and choice (R86, R87). -/
def Obligations.ScalarInstructions : Prop :=
  Claims.ScalarArithmeticResults ∧ Claims.ScalarShiftAndChoice

/-- Every vector instruction: FP32 results, and completion where the spec states no result (log entry 22). -/
def Obligations.VectorInstructions : Prop :=
  Claims.VectorFloatResults ∧ Claims.VectorOpenResultsComplete

/-- Loads, stores and moves between registers and SRAM (R69, R87). -/
def Obligations.SramInstructions : Prop :=
  Claims.SramInstructionsMoveData ∧ Claims.SramReadsBackWrites

/-- Words between tiles, tokens and requests to the context engine. -/
def Obligations.LaneInstructions : Prop :=
  Claims.QueueAndLaneInstructions ∧ Claims.CopHeaderFields

/-- Zero compression of a row (R196). -/
def Obligations.CompressionInstructions : Prop :=
  Claims.ZeroCompressionInstructions ∧ Claims.ZeroCompressionRoundTrip

/-- What a tile does with data it cannot read and with codes the spec reserves. -/
def Obligations.BadDataAndCodes : Prop :=
  Claims.UnreadableDataIsContained ∧ Claims.ReservedCodesStop

/-- What a kernel position reads (R154 to R156): the element of the map at the coordinates of R154, else the fill value; a window
of padding only does not look at the map, neither in a convolution nor in a maximum. -/
def Sys2Proof.Claims.KernelPositionsReadTheMap : Prop :=
  ∀ (p : Spatial) (m m' : FMap) (g ci oy ox kh kw : Nat),
    (∀ y x : Nat, p.tap oy ox kh kw = some (y, x) ↔
      (y : Int) = (p.sH : Int) * oy - p.padT + (p.dH : Int) * kh ∧ (x : Int) = (p.sW : Int) * ox - p.padL + (p.dW : Int) * kw ∧
      y < p.inH ∧ x < p.inW) ∧
    (∀ y x, p.tap oy ox kh kw = some (y, x) → p.element m ci oy ox kh kw = m ci y x) ∧
    (p.tap oy ox kh kw = none → p.element m ci oy ox kh kw = if p.fillMode = 1 then BitVec.ofNat 32 p.fill else 0#32) ∧
    ((∀ i j, i < p.kH → j < p.kW → p.tap oy ox i j = none) →
      (∀ wt bias, p.conv m wt bias g oy ox = p.conv m' wt bias g oy ox) ∧
      p.poolMax m ci oy ox = if p.fillMode = 1 then BitVec.ofNat 32 p.fill else 0#32)

/-- The expanded row (R158, R160, R162, R167): element `L ci + K_W kh + kw` is the one kernel position (kh, kw) reads of input channel ci
of the group, zero past the last; under DIAG the eight channels interleave in chunks of eight; a block row past OUT_W is zero; a row
that some output row still to come reads is wanted, and it is covered if the first one or a later one reads it. -/
def Sys2Proof.Claims.ExpandedRowsFollowTheKernel : Prop :=
  ∀ (p : Spatial) (m : FMap) (g ci oy ox kh kw : Nat), kh < p.kH → kw < p.kW →
    (p.diag = false → ci < p.cIn / max p.groups 1 →
      p.expanded m g oy ox (p.kH * p.kW * ci + p.kW * kh + kw) = p.element m (g * (p.cIn / max p.groups 1) + ci) oy ox kh kw) ∧
    (p.diag = false → ∀ e, p.cIn / max p.groups 1 * (p.kH * p.kW) ≤ e → p.expanded m g oy ox e = 0#32) ∧
    (p.diag = true → ci < 8 → 8 * g + ci < p.cIn →
      let i := p.kW * kh + kw
      p.expanded m g oy ox (64 * (i / 8) + 8 * ci + i % 8) = p.element m (8 * g + ci) oy ox kh kw) ∧
    (∀ gs, (p.blockRow gs m g oy ox).length = p.rowLen gs ∧ (p.outW ≤ ox → ∀ v ∈ p.blockRow gs m g oy ox, v = 0#32)) ∧
    (∀ op y o, o ≤ oy → p.wanted op oy y = true → p.wanted op o y = true) ∧
    (∀ op y, p.covered op y = p.wanted op 0 y)

/-- Pooling and resampling look at the map alone (R169 to R172): an average over padding only, not counted, is the fill value; nearest
and bilinear resampling of a map of `inH` by `inW` read positions of it, two neighbours on an axis at most; an axis with F = 1 passes its
input unchanged. -/
def Sys2Proof.Claims.OperatorsStayOnTheMap : Prop :=
  ∀ (p : Spatial) (m m' : FMap) (c oy ox f n o : Nat),
    (p.countPad = false → (∀ i j, i < p.kH → j < p.kW → p.tap oy ox i j = none) →
      p.poolAvg m c oy ox = (if p.fillMode = 1 then BitVec.ofNat 32 p.fill else 0#32, 0)) ∧
    (0 < f → 0 < n → let l := lerp f n o; l.i0 < n ∧ l.i1 < n ∧ l.i0 ≤ l.i1 ∧ l.i1 ≤ l.i0 + 1) ∧
    (0 < p.fH → 0 < p.fW → oy < p.inH * p.fH → ox < p.inW * p.fW → (∀ y x, y < p.inH → x < p.inW → m c y x = m' c y x) →
      p.nearest m c oy ox = p.nearest m' c oy ox ∧ p.bilinear m c oy ox = p.bilinear m' c oy ox) ∧
    (p.fH = 1 → p.fW = 1 → p.bilinear m c oy ox = (m c oy ox, 0) ∧ p.nearest m c oy ox = m c oy ox)

/-- The matrix array and what it works on (R71, R72, R154 to R162, R209, R210). -/
def Obligations.ArrayCommands : Prop :=
  Claims.ArrayInstructions ∧ Claims.MmaAddsIntegerProducts ∧ Claims.KernelPositionsReadTheMap ∧ Claims.ExpandedRowsFollowTheKernel ∧
  Claims.OperatorsStayOnTheMap

/-- Stalls and their order (R89, R114). -/
def Obligations.IssueStalls : Prop :=
  Claims.StallsHoldTheStep ∧ Claims.IssueChecksInOrder ∧ Claims.FalsePredicateIssuesAsNop

/-! ## Words, queues, aborts, drain and re-placement (03_tile_fabric, 04_placement) -/

/-- The command is ignored as a configuration write of a block is (R388, R521): CFGIGN set, its counter up by one, nothing
else changed. -/
def Sys2Proof.Claims.Ignored (s : State) (i : Instr) (block : Nat) : Prop :=
  Completes i s (fun u => u.rbit (block * 0x10000 + 0x10) 31 = true ∧
    u.reg (block * 0x10000 + 0x20) = s.reg (block * 0x10000 + 0x20) + 1#32 ∧
    (∀ a, a ≠ block * 0x10000 + 0x10 → a ≠ block * 0x10000 + 0x20 → u.reg a = s.reg a) ∧
    { u with regs := [] } = { s with regs := [] })

/-- A rule handler starts (R90): with no handler running, the first ready rule after the rule pointer is taken; with none ready
the cycle counts as WAIT. -/
def Sys2Proof.Claims.RuleFireStartsNextReadyRule : Prop :=
  ∀ (s : State) (t : TileAddr), let x := s.tile t
    let c := x.active.toNat
    isTile t = true → s.tileOn t = true → x.retiring = none → x.slotValid c = true → x.ruleMode c = true →
    x.handler = none → x.freeze = false → s.fab.stopped = false → x.aborting = none → x.abortHeads c = [] →
    (∀ r, issueNextRule x c = some r → r < 8 →
      exec (.ruleFire ⟨t, .ok⟩) s = .next (s.setTile t { x with
        rulePtr := BitVec.ofNat 3 r
        handler := some (c, fld (x.slotWord c (0x20 + 8 * r)) 28 16, fld (x.slotWord c (0x20 + 8 * r)) 4 0 + 1) })) ∧
    (issueNextRule x c = none → Completes (.ruleFire ⟨t, .ok⟩) s (fun u => TileFrame s u t [] ∧ (u.tile t).content = x.content ∧
      (u.tile t).course = { (x.bump cWait).course with cycle := x.cycle + 1, qbanks := 0#8 } ∧ Sends s u t c 0#3 0#3 0#256))

/-- A CTX_END at the head of a queue is taken without an instruction (R96): it leaves the queue, and the slot of its tag has that
queue's end marker, or has retired with it; at most one counter of the cycle advances, by one (R114). -/
def Sys2Proof.Claims.CtxEndIsTaken : Prop :=
  ∀ (s : State) (t : TileAddr) (q : BitVec 4) (w : QWord) (ws : List QWord), let x := s.tile t
    isTile t = true → s.tileOn t = true → s.fab.stopped = false → (x.queue q.toNat).words = w :: ws →
    (x.queue q.toNat).pend = [] → isCtxEnd (netOfQueue q.toNat) w = true →
    Completes (.takeCtxEnd t q) s (fun u => ((u.tile t).queue q.toNat).words = ws ∧ (u.tile t).content = x.content ∧
      TileFrame s u t [] ∧ Sends s u t 0 0#3 0#3 0#256 ∧
      (∃ k, ∀ j, tget 0#32 (u.tile t).counts j = tget 0#32 x.counts j + if k = some j then 1#32 else 0#32) ∧
      (16 * w.tag.toNat + q.toNat ∈ (u.tile t).delivered ∨ (x.retiring ≠ none ∧ (u.tile t).retiring = none)))

/-- A switch can route the word it meets: its tile and its sector run, and the route entry of the word's tag ends in a queue of the
word's own network and does not lead back the way the word came (R81, R100, R118). -/
def Sys2Proof.Claims.Routable (s : State) (t : TileAddr) (net : BitVec 2) (wire : BitVec 4) (l : LinkWord) : Prop :=
  let x := s.tile t
  let e := x.route l.w.tag.toNat net.toNat wire.toNat
  isTile t = true ∧ wire.toNat < 8 ∧ s.fab.links.find? (fun k => k.wire == wireKey t.toNat net.toNat wire.toNat) = some l ∧
  s.engineUp = true ∧ x.held = false ∧ s.clk.stopped = false ∧ bit s.clk.capture (sectorOf t) = false ∧ (s.dom (gblockOf t)).st = 0 ∧
  (routeTerm e = true → netOfQueue (routeQueue e) = net.toNat) ∧ ¬(wire.toNat < 4 ∧ routeOut e wire.toNat = true)

/-- Nothing makes the word wait: its queue has room (R83), no crossing that it drives raises HOLD (R415), and it gives way to no
word of the retiring context (R82). -/
def Sys2Proof.Claims.Unhindered (s : State) (t : TileAddr) (net : BitVec 2) (wire : BitVec 4) (l : LinkWord) : Prop :=
  let x := s.tile t
  let e := x.route l.w.tag.toNat net.toNat wire.toNat
  (routeTerm e = true → (x.queue (routeQueue e)).room = true) ∧ s.outHeld t net.toNat e = false ∧
  s.yields t net.toNat wire.toNat l.w = false

/-- A word that arrives on an input wire (R79, R80, R100, R102, R115): it goes on to every neighbour, and to the crossing into every
engine-domain unit, that the route entry of its tag's slot names and, where the entry terminates, stands at the tail of the queue
named. -/
def Sys2Proof.Claims.LinkWordGoesOn : Prop :=
  ∀ (s : State) (t : TileAddr) (net : BitVec 2) (wire : BitVec 4) (l : LinkWord) (syn : Byte) (slot : Ecc), let x := s.tile t
    let e := x.route l.w.tag.toNat net.toNat wire.toNat
    let q := routeQueue e
    Claims.Routable s t net wire l → Claims.Unhindered s t net wire l → linkParity net.toNat syn = false → slot ≠ .uncorrectable →
    Completes (.linkWordArrival t net wire ⟨syn, slot⟩) s (fun u =>
      (∀ d t' w', d < 4 → routeOut e d = true → neighbour t d = some (t', w') →
        ⟨wireKey t'.toNat net.toNat w'.toNat, l.w⟩ ∈ u.fab.links) ∧
      (∀ d unit, d < 4 → routeOut e d = true → neighbour t d = none → Config.edgeUnit t (BitVec.ofNat 2 d) = some unit →
        ⟨wireKey t.toNat net.toNat (8 + d), l.w⟩ ∈ u.fab.links) ∧
      (routeTerm e = true → (x.queue q).discard + (x.queue q).drop = 0 → ¬ (isAbort net.toNat l.w = true ∧ brokenMark l.w = true) →
        ((u.tile t).queue q).words = (x.queue q).words ++ [l.w] ∧ ((u.tile t).queueWords q).getLast? = some l.w ∧
        ((u.tile t).queue q).wordsIn = (x.queue q).wordsIn + 1#32) ∧
      (u.tile t).content = { x.content with sram := (u.tile t).sram } ∧ (routeTerm e = false → u.tile t = x))

/-- A word with a parity error is counted and contained, and reaches its queue as a FRAME_ABORT of reason FAULT (R76, R79). -/
def Sys2Proof.Claims.DamagedLinkWordIsAborted : Prop :=
  ∀ (s : State) (t : TileAddr) (net : BitVec 2) (wire : BitVec 4) (l : LinkWord) (syn : Byte) (slot : Ecc), let x := s.tile t
    let e := x.route l.w.tag.toNat net.toNat wire.toNat
    let q := routeQueue e
    Claims.Routable s t net wire l → Claims.Unhindered s t net wire l → linkParity net.toNat syn = true → slot ≠ .uncorrectable →
    s.boundaryDue = false → (∀ d, drivingTile t wire.toNat = some d → (s.tile d).linkErrs + 1 ≠ 16) →
    Completes (.linkWordArrival t net wire ⟨syn, slot⟩) s (fun u =>
      u.reg Reg.fabLinkParCnt = s.reg Reg.fabLinkParCnt + 1#32 ∧ u.rbit Reg.fabStat 8 = true ∧
      u.reg Reg.fltContainedCnt = s.reg Reg.fltContainedCnt + 1#32 ∧
      (routeTerm e = true → (x.queue q).discard + (x.queue q).drop = 0 →
        ((u.tile t).queue q).words = (x.queue q).words ++ [abortWord net.toNat l.w.tag.toNat 2 l.w.src]))

/-- A word at the crossing into an engine-domain unit is taken by it, and its credit goes back (R18, R83); crop-and-resize leaves
the word of a third frame where it is (R275). -/
def Sys2Proof.Claims.UnitTakesItsWord : Prop :=
  ∀ (s : State) (t : TileAddr) (net : BitVec 2) (wire : BitVec 4) (l : LinkWord) (syn : Byte) (slot : Ecc),
    isTile t = true → 8 ≤ wire.toNat → s.engineUp = true →
    s.fab.links.find? (fun k => k.wire == wireKey t.toNat net.toNat wire.toNat) = some l →
    (Config.edgeUnit t (BitVec.ofNat 2 (wire.toNat - 8))).isSome = true → l.w.src ≠ noSrc →
    (s.mapsFull t (wire.toNat - 8) net.toNat l.w = false → Completes (.linkWordArrival t net wire ⟨syn, slot⟩) s (fun u =>
      (l.w.src, 2 ^ 20 + 4 * t.toNat + (wire.toNat - 8)) ∈ u.fab.creditBack)) ∧
    (s.mapsFull t (wire.toNat - 8) net.toNat l.w = true → exec (.linkWordArrival t net wire ⟨syn, slot⟩) s = .next s)

/-- A word waits on its link whose queue has no room, whose crossing raises HOLD, or which gives way to the retiring context (R82,
R83, R415); with no word on the wire nothing happens; a word on a circuit that R81 or R100 forbids is a host error, of which the
model says nothing (R4; log entry 41). -/
def Sys2Proof.Claims.LinkWordWaits : Prop :=
  ∀ (s : State) (t : TileAddr) (net : BitVec 2) (wire : BitVec 4) (l : LinkWord) (syn : Byte) (slot : Ecc), slot ≠ .uncorrectable →
    (Claims.Routable s t net wire l → ¬ Claims.Unhindered s t net wire l →
      exec (.linkWordArrival t net wire ⟨syn, slot⟩) s = .next s) ∧
    (isTile t = true → s.fab.links.find? (fun k => k.wire == wireKey t.toNat net.toNat wire.toNat) = none →
      exec (.linkWordArrival t net wire ⟨syn, slot⟩) s = .next s) ∧
    (let x := s.tile t
     let e := x.route l.w.tag.toNat net.toNat wire.toNat
     isTile t = true → wire.toNat < 8 → s.fab.links.find? (fun k => k.wire == wireKey t.toNat net.toNat wire.toNat) = some l →
     s.engineUp = true → x.held = false → s.clk.stopped = false → bit s.clk.capture (sectorOf t) = false →
     (s.dom (gblockOf t)).st = 0 → (routeTerm e = true ∧ netOfQueue (routeQueue e) ≠ net.toNat) ∨ (wire.toNat < 4 ∧ routeOut e wire.toNat = true) →
     exec (.linkWordArrival t net wire ⟨syn, slot⟩) s = .next s.unpredictable)

/-- A word that arrives at a switch or at an engine-domain unit (R76, R79 to R83, R100, R102, R115, R415). -/
def Obligations.LinkWordIsRouted : Prop :=
  Claims.LinkWordGoesOn ∧ Claims.DamagedLinkWordIsAborted ∧ Claims.UnitTakesItsWord ∧ Claims.LinkWordWaits

/-- A lane regains a credit once every destination has returned one (R83), and no other lane does; where a retired slot still owes
the lane a CTX_END, that leaves with it (R96). -/
def Obligations.CreditReturnsFromEveryDestination : Prop :=
  ∀ (s : State) (t : TileAddr) (lane : BitVec 3), isTile t = true → s.engineUp = true → lane.toNat < 6 →
    let back := fun (c : Nat) => s.creditKeys t c lane.toNat ≠ [] ∧
      ∀ k ∈ s.creditKeys t c lane.toNat, (8 * t.toNat + lane.toNat, k) ∈ s.fab.creditBack
    ((∃ c, c < 4 ∧ back c) → Completes (.creditReturn t lane) s (fun u =>
      ((s.tile t).ctxEnds = [] → tget 0 (u.tile t).credits lane.toNat = tget 0 (s.tile t).credits lane.toNat + 1 ∧
        (∀ k, k ≠ lane.toNat → tget 0 (u.tile t).credits k = tget 0 (s.tile t).credits k)) ∧
      Sends s u t 0 0#3 0#3 0#256 ∧
      (u.tile t).content = (s.tile t).content ∧ u.fab.creditBack.length < s.fab.creditBack.length)) ∧
    ((∀ c, c < 4 → ¬ back c) → exec (.creditReturn t lane) s = .next s)

/-- A tile that meets a FRAME_ABORT, or has a contained error of its own, abandons the frame (R108, R109, R213): its step returns to
0, its counters reload, any handler ends, its accumulators are cleared, and one FRAME_ABORT of the highest reason met goes out on
every lane that has not yet ended the frame, once each of them holds a credit; until then the cycle counts as STALL_OUT (R92). With
nothing to abandon nothing happens. -/
def Sys2Proof.Claims.FrameAbortAbandonsFrame : Prop :=
  ∀ (s : State) (t : TileAddr), let x := s.tile t
    isTile t = true → s.tileOn t = true → s.fab.stopped = false → x.freeze = false →
    let counted := fun (u : State) (k : Nat) =>
      ∀ j, tget 0#32 (u.tile t).counts j = tget 0#32 x.counts j + if j = k then 1#32 else 0#32
    (∀ c n r, x.abortDue = some (c, n, r) →
      let ls := (x.lanes c).filter (fun l => x.sentOf l / 2 ≤ n)
      (x.creditsFor ls = true → ls.any (s.laneHeld t c) = false → Completes (.frameAbort t) s (fun u =>
        tget 0#13 (u.tile t).steps c = 0#13 ∧ (u.tile t).handler = none ∧
        (∀ a, (u.tile t).aborting = some a → x.aborting = some a ∧ ¬(a.1.toNat = c ∧ a.2.1 = n)) ∧
        (∀ k, k < 8 → tget 0#16 (u.tile t).c k = x.reload c k) ∧ (u.tile t).a = [] ∧ (u.tile t).g = [] ∧
        (u.tile t).s = x.s ∧ (u.tile t).v = x.v ∧ ((∀ q, (x.queue q).pend = []) → (u.tile t).sram = x.sram) ∧
        counted u (if x.ruleMode c then cWait else cStallIn) ∧
        ∃ ends, u.fab.links = s.fab.links ++ ls.map (fun l =>
          ⟨wireKey t.toNat (l / 2) (4 + l % 2), { abortWord (l / 2) c r noSrc with src := 8 * t.toNat + l }⟩) ++ ends ∧
          ∀ e ∈ ends, isCtxEnd (keyNet e.wire) e.w = true)) ∧
      (x.creditsFor ls = false ∨ ls.any (s.laneHeld t c) = true → Completes (.frameAbort t) s (fun u =>
        (u.tile t).content = x.content ∧ (u.tile t).steps = x.steps ∧ counted u cStallOut ∧ Sends s u t c 0#3 0#3 0#256))) ∧
    (x.abortDue = none → exec (.frameAbort t) s = .next s)

/-- A flush of one queue (R104): CTX_END and CTX_SWITCH entries stay in their order, every other word, and every abort that waits
behind a full queue, is counted as flushed in the queue and in FAB_FLUSH_WORD_CNT, and what stands before the entries is one
FRAME_ABORT of reason FLUSH for each frame touched. A flush during a re-placement is ignored (R138), and so is one of a packed
address that is no tile (R10). -/
def Sys2Proof.Claims.QueueFlushKeepsContextEntries : Prop :=
  ∀ (s : State) (t : TileAddr) (q : BitVec 4), s.engineUp = true →
    let v := (s.tile t).queue q.toNat
    let net := netOfQueue q.toNat
    let keeps := fun (w : QWord) => isCtxEnd net w || isCtxSwitch net w
    let gone := (v.words.filter (fun w => !keeps w)).length + v.pend.length
    (isTile t = true → s.remapping = false → Completes (.queueFlush t q) s (fun u =>
      u.reg Reg.fabFlushWordCnt = s.reg Reg.fabFlushWordCnt + BitVec.ofNat 32 gone ∧
      ((u.tile t).queue q.toNat).flushed = v.flushed + BitVec.ofNat 32 gone ∧ ((u.tile t).queue q.toNat).pend = [] ∧
      ∃ aborts, ((u.tile t).queue q.toNat).words = aborts ++ v.words.filter keeps ∧
        ∀ w ∈ aborts, isAbort net w = true ∧ abortReason net w = 1)) ∧
    (isTile t = true → s.remapping = true → Claims.Ignored s (.queueFlush t q) 4) ∧
    (isTile t = false → exec (.queueFlush t q) s = .next s)

/-- START begins a drain by METHOD, SCAN_IN begins the restore, RESUME leaves bivouac and lets the units send again what found no
room as the links landed (R110, R111; log entry 34); each of them is ignored, and
counted, where the fabric's state does not allow it (R138, R521), and so is FLUSH_ALL in a re-placement. -/
def Sys2Proof.Claims.DrainCommandsByFabricState : Prop :=
  ∀ s : State, s.engineUp = true →
    (s.remapping = false → s.draining = false → s.bivouac = false → Completes .start s (fun u =>
      u.draining = true ∧ (∀ a, a ≠ Reg.fabStat → u.reg a = s.reg a) ∧ u.besideFabric = s.besideFabric ∧
      u.fab = { s.fab with drainAt := s.clock.now, drainScan := s.rbit Reg.fabDrainCtl 0, drainGate := false,
                           stopped := s.rbit Reg.fabDrainCtl 0 })) ∧
    (s.remapping = false → s.scanHeld = true → s.fab.scanning = false →
      exec .scanIn s = .next { s with fab := { s.fab with scanning := true, drainAt := s.clock.now } }) ∧
    (s.remapping = false → s.bivouac = true → s.scanHeld = false → Completes .resume s (fun u =>
      u.rbit Reg.fabCtl 0 = true ∧ u.bivouac = false ∧ (∀ a, a ≠ Reg.fabStat → a ≠ Reg.fabCtl → u.reg a = s.reg a) ∧
      u.besideFabric = s.besideFabric ∧ u.fab.tiles = s.fab.tiles ∧ u.fab.stopped = false ∧ u.fab.drainGate = false ∧
      (s.fab.unsent = [] → u.fab = { s.fab with stopped := false, drainGate := false }))) ∧
    (s.remapping = true ∨ s.draining = true ∨ s.bivouac = true → Claims.Ignored s .start 4) ∧
    (s.remapping = true ∨ s.scanHeld = false ∨ s.fab.scanning = true → Claims.Ignored s .scanIn 4) ∧
    (s.remapping = true ∨ s.bivouac = false ∨ s.scanHeld = true → Claims.Ignored s .resume 4) ∧
    (s.remapping = true → Claims.Ignored s .flushAll 4)

/-- The end of a drain clears EN and sets BIVOUAC, with the duration in FAB_DRAIN_TIME; a scan-out leaves SCAN_HELD set and every
queue empty (R110, R113). The end of a scan-in clears SCAN_HELD and FAB_SCAN_SIZE (R111). -/
def Sys2Proof.Claims.DrainAndScanInEnd : Prop :=
  ∀ s : State, s.engineUp = true →
    let us := BitVec.ofNat 32 ((s.clock.now - s.fab.drainAt) / 100)
    (s.draining = true → s.remapping = false → s.pwr.gating = false → (s.fab.drainScan = true ∨ s.runEmpty = true) →
      Completes .drainComplete s (fun u =>
        u.rbit Reg.fabCtl 0 = false ∧ u.bivouac = true ∧ u.draining = false ∧ u.reg Reg.fabDrainTime = us ∧
        (s.fab.drainScan = false → u.fab = { s.fab with stopped := false }) ∧
        (s.fab.drainScan = true → u.scanHeld = true ∧ ∀ t q, ((u.tile t).queue q).words = []))) ∧
    (s.fab.scanning = true → s.scanHeld = true → s.remapping = false → Completes .scanInComplete s (fun u =>
      u.scanHeld = false ∧ u.reg Reg.fabScanSize = 0#32 ∧ u.fab.scan = [] ∧ u.fab.scanning = false ∧
      u.reg Reg.fabDrainTime = us ∧ u.besideFabric = s.besideFabric))

/-- A record of the scan-out gives a tile back its registers, its counters, its steps, its context and its queues' words (R111,
R113); its slots, TCTL, performance counters and statistics are the tile's own. -/
def Sys2Proof.Claims.ScanRecordRestoresTile : Prop :=
  ∀ (x r : Tile), let y := x.restore r
    y.s = r.s ∧ y.v = r.v ∧ y.a = r.a ∧ y.g = r.g ∧ y.c = r.c ∧ y.steps = r.steps ∧ y.active = r.active ∧ y.retiring = r.retiring ∧
    y.handler = r.handler ∧ y.w0 = r.w0 ∧ y.w1 = r.w1 ∧ y.slots = x.slots ∧ y.counts = x.counts ∧ y.hold = x.hold ∧
    ∀ q, q < 16 → (r.queue q).pend = [] → (y.queue q).words = (r.queue q).words

/-- A flush of every queue (R106, R107): queues and links are empty, held records are gone, every tile that is not held stands at
step 0 of the slot that admission uses with nothing retiring, one held by TCTL too, and every frame that had entered stage 0 has ended; those still to
end then carry DROPPED_FLUSH. -/
def Sys2Proof.Claims.FlushAllEmptiesFabric : Prop :=
  ∀ s : State, s.engineUp = true → s.remapping = false → twf Tile.zero s.fab.tiles = true → Completes .flushAll s (fun u =>
    u.fab.links = [] ∧ u.fab.scan = [] ∧ u.scanHeld = false ∧ u.reg Reg.fabScanSize = 0#32 ∧
    (∀ t, (s.tile t).held = false ∨ (s.tile t).hold = true → (∀ q, ((u.tile t).queue q).words = []) ∧ (u.tile t).retiring = none ∧
      (u.tile t).active = BitVec.ofNat 2 s.admissionSlot ∧ tget 0#13 (u.tile t).steps s.admissionSlot = 0#13 ∧ (u.tile t).a = []) ∧
    ∀ f ∈ u.adm.frames, f.inside = true → f.phase = .ended ∧ f.status = .flush)

/-- A tile fault (R126, R132, R135, R452, R454, R520): it is counted and the tile is retired; on a tile that the map in force does
not use nothing more happens; on one that it uses, a re-placement begins with HOLD on the tile while PLC_CTL.EN is 1, and a
device fault of cause 7 is recorded while it is 0. Commands that report one: TILE_FAULT, a tile's missing answer, an
uncorrectable scrub access. -/
def Sys2Proof.Claims.TileFaultByUse : Prop :=
  ∀ (s : State) (t : TileAddr) (cause : BitVec 3), isTile t = true → s.engineUp = true → s.isRetired t = false →
    s.retireCount < 8192 →
    let all := fun (i : Instr) =>
      (s.img.st = .committed → s.stageOfTile t = none → Completes i s (fun u =>
        u.reg Reg.fltTileFaultCnt = s.reg Reg.fltTileFaultCnt + 1#32 ∧ u.isRetired t = true ∧ u.plc = s.plc ∧
        u.adm = s.adm ∧ u.remapping = s.remapping ∧ u.reg Reg.devAlert = s.reg Reg.devAlert)) ∧
      (∀ st, s.img.st = .committed → s.stageOfTile t = some st → s.faulted = false → s.remapping = false → s.plc.whole = false →
        s.rbit Reg.plcCtl 0 = true → s.usableSpares (gblockOf t) ≠ [] → gblockOf t < 128 → posOf t < 64 →
        Completes i s (fun u => u.remapping = true ∧ (u.tile t).hold = true ∧ u.plc.affected = [st] ∧
          u.reg Reg.plcRemapCnt = s.reg Reg.plcRemapCnt + 1#32 ∧ u.fab.stopped = true ∧ u.isRetired t = true)) ∧
      (∀ st, s.img.st = .committed → s.stageOfTile t = some st → s.faulted = false → s.rbit Reg.plcCtl 0 = false →
        Completes i s (fun u => u.reg Reg.fltDevfault = 7#32 ∧ u.devState = 3 ∧ u.isRetired t = true))
    all (.tileFault t cause) ∧
    (bit s.clk.capture (sectorOf t) = false → all (.tileNoResponseTimeout t)) ∧
    (s.rbit Reg.fabCtl 1 = true → (s.dom (gblockOf t)).st = 0 → all (.tileScrubAccess t .uncorrectable false))

/-- A scrub access of a tile counts a corrected error, holds an instruction where no idle cycle was left (R74, R490), and changes
nothing else of the tile. -/
def Sys2Proof.Claims.TileScrubCountsAndGoesOn : Prop :=
  ∀ (s : State) (t : TileAddr) (held : Bool), isTile t = true → s.engineUp = true → s.rbit Reg.fabCtl 1 = true →
    (s.dom (gblockOf t)).st = 0 → let x := s.tile t
    let after := fun (u : State) => (u.tile t).sram = x.sram ∧ (u.tile t).scrubPos = (x.scrubPos + 1) % 1536 ∧
      tget 0#32 (u.tile t).counts cHazard = tget 0#32 x.counts cHazard +
        (if held = true ∧ s.rbit Reg.fabCtl 0 = true ∧ x.held = false then 1#32 else 0#32) ∧ u.besideFabric = s.besideFabric
    Completes (.tileScrubAccess t .ok held) s (fun u => after u ∧ u.regs = s.regs) ∧
    Completes (.tileScrubAccess t .corrected held) s (fun u => after u ∧
      u.reg Reg.fabEccCorrCnt = s.reg Reg.fabEccCorrCnt + 1#32)

/-- A stage that holds a word or a frame and in which nothing moves until its 250 microseconds are over is counted, shown and
re-placed, with every stage that is stuck at that moment and with no tile retired; a second stall of the stage within 10 s is a
device fault of cause 4 (R307, R308, R309). A unit that holds a frame and makes no progress for as long is a device fault of
cause 5. -/
def Sys2Proof.Claims.StuckStageIsReplaced : Prop :=
  ∀ (s : State) (stage : BitVec 9) (unit : BitVec 5), s.engineUp = true → s.watching = true →
    let n := stage.toNat
    let v := s.until (s.stuckAt n (tget Watch.zero s.plc.watch n))
    (n < s.plc.pitch.length → s.stageWatched n = true → s.stageHolds n = true →
      (tget 0 s.plc.lastStall n = 0 → Completes (.stallFault stage) s (fun u =>
        u.reg Reg.stmWdogCnt = s.reg Reg.stmWdogCnt + 1#32 ∧ u.reg Reg.stmWdogLast = BitVec.ofNat 32 n ∧ u.remapping = true ∧
        n ∈ u.plc.affected ∧ (∀ m ∈ v.stuckStages, m ∈ u.plc.affected) ∧ u.plc.failed = [] ∧ u.retiredTiles = s.retiredTiles ∧
        u.clock = v.clock)) ∧
      (tget 0 s.plc.lastStall n ≠ 0 → v.clock.now + 1 - tget 0 s.plc.lastStall n ≤ msSteps 10000 →
        Completes (.stallFault stage) s (fun u => u.reg Reg.fltDevfault = 4#32 ∧ u.devState = 3))) ∧
    (s.clk.capture = 0#8 → s.unitHolds unit.toNat = true →
      Completes (.unitNoProgress unit) s (fun u => u.reg Reg.fltDevfault = 5#32 ∧ u.devState = 3))

/-- The end of the scan-out of a re-placement (R134, R135): step 7 follows, no slot placed in the context store, no directory
entry, no track moves, and the active bank stays; an unreadable copy or save area is a device fault (R310). The end of the
scan-in changes the active bank, and outside bivouac enables the fabric (R121, R135 step 8, R138). -/
def Sys2Proof.Claims.ReplacementSteps : Prop :=
  ∀ s : State, s.engineUp = true → s.remapping = true → s.plc.whole = false → s.clk.capture = 0#8 →
    (fld (s.reg Reg.plcStat) 3 0 ≤ 4 →
      Completes (.remapScanOutDone false) s (fun u => fld (u.reg Reg.plcStat) 3 0 = 7 ∧ u.remapping = true ∧ u.bank = s.bank ∧
        u.ctx.streams = s.ctx.streams ∧ u.ctx.dir = s.ctx.dir ∧ u.ctx.slots = s.ctx.slots ∧ u.ctx.tracks = s.ctx.tracks) ∧
      (s.faulted = false → Completes (.remapScanOutDone true) s (fun u => u.reg Reg.fltDevfault = 6#32 ∧ u.devState = 3))) ∧
    (fld (s.reg Reg.plcStat) 3 0 = 7 → s.plc.waiting = [] → s.img.held = [] → s.pwr.heldReq = [] →
      s.tel.cap.heldTrigger = false → Completes (.remapScanInDone false) s (fun u =>
        u.bank = !s.bank ∧ u.remapping = false ∧ (s.plc.inBivouac = false → u.rbit Reg.fabCtl 0 = true) ∧
        u.plc.pitchShown = s.plc.pitchDigest ∧ u.ctx.dir = s.ctx.dir ∧ u.ctx.tracks = s.ctx.tracks))

/-- What a tile does without an instruction (R90, R96). -/
def Obligations.TileTransitions : Prop :=
  Claims.RuleFireStartsNextReadyRule ∧ Claims.CtxEndIsTaken

/-- Words of frames that do not reach their end (R105 to R109). -/
def Obligations.AbortsAndFlushes : Prop :=
  Claims.FrameAbortAbandonsFrame ∧ Claims.QueueFlushKeepsContextEntries ∧ Claims.FlushAllEmptiesFabric

/-- The fabric empties, scans out, scans in and runs again (R110 to R113). -/
def Obligations.DrainStates : Prop :=
  Claims.DrainCommandsByFabricState ∧ Claims.DrainAndScanInEnd ∧ Claims.ScanRecordRestoresTile

/-- Faults of tiles and the scrub that finds them (R126, R453, R490). -/
def Obligations.TileFaults : Prop :=
  Claims.TileFaultByUse ∧ Claims.TileScrubCountsAndGoesOn

/-- Re-placement (R133 to R139, R309). -/
def Obligations.Replacement : Prop :=
  Claims.StuckStageIsReplaced ∧ Claims.ReplacementSteps

/-! ## Clocks and power (14_clocks_power) -/

/-- REQ_LOW (R419, R423): refused with reason 2 for a domain whose policy is not HOST and with reason 1 where its condition does
not hold; else a spine or an HBM group begins its entry, or its exit on 0, and for a tile block of the map the condition of R44
holds from the write on and the fabric drains. -/
def Sys2Proof.Claims.ReqLowByPolicy : Prop :=
  ∀ (s : State) (d : BitVec 8), s.up = true → s.blockEn 13 = true → d.toNat < 152 →
    let n := d.toNat
    let refused := fun (v : Bool) (reason : Nat) => Completes (.reqLow d v) s (fun u =>
      (u.dom n).reqLow = false ∧ (u.dom n).refusal = reason ∧ (u.dom n).st = (s.dom n).st ∧
      u.reg Reg.pwrRefusedCnt = s.reg Reg.pwrRefusedCnt + 1#32 ∧ u.rbit Reg.pwrStat 3 = true ∧
      ∀ m, m ≠ n → u.dom m = s.dom m)
    (s.policy n ≠ 0 → refused true 2 ∧ refused false 2) ∧
    (s.policy n = 0 → s.hostCond n = false → refused true 1) ∧
    (128 ≤ n → n < 140 → s.hostCond n = true → (s.dom n).st = 0 → Completes (.reqLow d true) s (fun u =>
      (u.dom n).st = 1 ∧ (u.dom n).reqLow = true ∧ u.regs = s.regs ∧ ∀ m, m ≠ n → u.dom m = s.dom m)) ∧
    (128 ≤ n → n < 140 → (s.dom n).st = 2 → Completes (.reqLow d false) s (fun u =>
      (u.dom n).st = 3 ∧ (u.dom n).reqLow = false ∧ u.regs = s.regs ∧ ∀ m, m ≠ n → u.dom m = s.dom m)) ∧
    (n < 128 → s.blockUsed n = true → s.committed = true → s.remapping = false → s.draining = false → s.bivouac = false →
      Completes (.reqLow d true) s (fun u => u.partly = true ∧ u.draining = true ∧ (u.dom n).reqLow = true ∧
        u.fab.drainScan = false ∧ u.adm = s.adm))

/-- Entries and exits of the low state end, unless a trip holds them (R420 to R424), an exit discards and counts the words of the
dual-clock queues it resets (R416), at most eight queued tile blocks close their switches in a wave,
lowest numbers first and 8 microseconds apart (R422), the signature engine goes low 10 ms after its last operation (R418), gated
blocks that have reloaded resume (R28, R423), and a lift request is held by a capture or begins an exit (R417). -/
def Sys2Proof.Claims.PowerTransitions : Prop :=
  ∀ (s : State) (d : BitVec 8) (lost : BitVec 32), s.up = true →
    let n := d.toNat
    let x := s.dom n
    let hit := inCrossing (fun t => gblockOf t == n || (decide (128 ≤ n) && sectorOf t == n - 128))
      (fun u => n == u + 140 && (u == 7 || u == 8))
    (s.moving = true → n < 152 → x.st = 1 → n ∉ s.pwr.liftHeld → Completes (.powerEntryComplete d) s (fun u =>
      (u.dom n).st = 2 ∧ (u.dom n).entries = x.entries + 1#32 ∧ u.reg Reg.pwrTransCnt = s.reg Reg.pwrTransCnt + 1#32 ∧
      (∀ m, m ≠ n → u.dom m = s.dom m) ∧ (n < 128 → ∀ t, gblockOf t = n → u.tile t = Tile.zero))) ∧
    (s.moving = true → n < 152 → x.st = 3 → (128 ≤ n ∨ s.blockUsed n = true) → Completes (.powerExitComplete d lost) s (fun u =>
      (u.dom n).st = 0 ∧ (u.dom n).lastExit = BitVec.ofNat 32 ((s.clock.now - x.at_) / 100) ∧
      u.reg Reg.pwrTransCnt = s.reg Reg.pwrTransCnt + 1#32 ∧ (∀ m, m ≠ n → u.dom m = s.dom m) ∧
      (n = 144 ∨ n = 145 → u.reg Reg.clkDcqLostCnt = s.reg Reg.clkDcqLostCnt + lost ∧ (lost ≠ 0 → u.rbit Reg.clkStat 2 = true)) ∧
      (n ≠ 144 → n ≠ 145 → u.fab.links = s.fab.links.filter (fun l => !hit l) ∧
        u.reg Reg.clkDcqLostCnt = s.reg Reg.clkDcqLostCnt + BitVec.ofNat 32 (s.fab.links.filter hit).length ∧
        ((s.fab.links.filter hit).length ≠ 0 → u.rbit Reg.clkStat 2 = true)))) ∧
    (s.moving = false → ∀ i ∈ [Instr.powerEntryComplete d, .powerExitComplete d lost, .inrushWave], exec i s = .next s) ∧
    (let ready := (upto 128).filter (fun b => (s.dom b).st == 4 && (s.dom (128 + b / 16)).st == 0)
     s.moving = true → ready ≠ [] → Completes .inrushWave s (fun u =>
      (∀ b, (u.dom b).st = if b ∈ ready.take 8 then 3 else (s.dom b).st) ∧
      (∀ w, s.pwr.waveAt = some w → w + usSteps 8 ≤ u.clock.now) ∧ u.pwr.waveAt = some u.clock.now)) ∧
    ((s.dom 150).st = 0 → s.sigBusy = false → Completes .signatureIdleTimeout s (fun u =>
      (u.dom 150).st = 1 ∧ s.pwr.sigIdleAt + msSteps 10 ≤ u.clock.now ∧ u.regs = s.regs)) ∧
    (s.engineUp = true → s.pwr.reloading = true → s.requestedBlocks = [] → s.gatedBlocks = [] → s.fab.drainGate = true →
      (∀ i, i < 8 → (tget TStream.zero s.stm.ts (16 + i)).active = none) →
      twf Tile.zero s.fab.tiles = true → Completes (.blockReloadComplete false) s (fun u =>
        u.pwr.gating = false ∧ u.pwr.reloading = false ∧ u.rbit Reg.fabCtl 0 = true ∧ u.bivouac = false ∧
        ∀ t ∈ s.usedTiles, (s.tile t).hold = false → (u.tile t).held = false)) ∧
    (248 ≤ n → bit s.clk.capture (n - 248) = true → Completes (.liftRequest d) s (fun u =>
      u.reg Reg.clkLiftHeldCnt = s.reg Reg.clkLiftHeldCnt + 1#32 ∧ u.clk.lifts = s.clk.lifts ++ [d] ∧ u.pwr = s.pwr)) ∧
    (n < 152 → x.st = 2 → (s.policy n = 1 ∧ s.autoHigh n = true ∨ 128 ≤ n ∧ n < 140 ∧ x.reqLow = false) →
      Completes (.liftRequest d) s (fun u => (u.dom n).st = (if n < 128 then 4 else 3) ∧ ∀ m, m ≠ n → u.dom m = s.dom m))

/-- Loss of REFCLK or of a PLL's lock stops the engine clock and records a device fault of cause 1 (R405, R454); with REFCLK gone
device time stands still and the 100BASE-T1 port is dead, with another PLL only its own loss takes the port away. -/
def Sys2Proof.Claims.ClockLossStopsEngine : Prop :=
  ∀ (s : State) (pll : BitVec 4), s.up = true → s.faulted = false →
    let lost := fun (u : State) => u.rbit Reg.clkStat 5 = true ∧ u.engineUp = false ∧ u.up = true ∧
      u.reg Reg.fltDevfault = 1#32 ∧ u.devState = 3 ∧ u.dev.draining = false ∧ u.pins.uart0.length = s.pins.uart0.length + 1
    (s.dev.refclkDead = false → Completes .refclkLost s (fun u =>
      lost u ∧ u.dev.ethDead = true ∧ u.devTime = s.devTime ∧ ∀ k, (u.until k).devTime = s.devTime)) ∧
    (pll.toNat ≤ 13 → Completes (.pllLockLost pll) s (fun u =>
      lost u ∧ u.dev.ethDead = (s.dev.ethDead || pll == 13#4) ∧ u.clock = s.clock))

/-- The sensors (R406, R408, R410, R480, R507): the trim register shows the error measured, once a second; every 100 microseconds
readings take their places; two consecutive readings of 110 degrees or more of one sensor trip the part: device fault of cause 2,
every clock but the island's stopped, every stack in self-refresh. -/
def Sys2Proof.Claims.SensorsAndTrip : Prop :=
  ∀ (s : State) (err : BitVec 16) (temps volts : List (BitVec 16)), s.up = true →
    (s.dev.refclkDead = false → Completes (.oscillatorTrim err) s (fun u =>
      fld (u.reg Reg.clkRoscTrim) 31 16 = err.toNat ∧ s.clk.trimAt + msSteps 1000 ≤ u.clock.now ∧
      ∀ a, a ≠ Reg.clkRoscTrim → u.reg a = s.reg a)) ∧
    (temps.length ≤ 64 →
      let v := (s.until (s.clk.sensedAt + usSteps 100)).openWindows
      let again := (upto temps.length).filter (fun n => tripLevel (temps.getD n 0) && s.clk.hot.contains n)
      (again = [] → Completes (.sensorReading temps volts) s (fun u =>
        (∀ n, n < temps.length → u.clk.temps.getD n 0 = temps.getD n 0) ∧
        (∀ n, n ∈ u.clk.hot ↔ n < temps.length ∧ tripLevel (temps.getD n 0) = true) ∧
        s.clk.sensedAt + usSteps 100 ≤ u.clk.sensedAt ∧ u.clk.sensedAt = u.clock.now ∧ u.regs = v.regs ∧ u.dev = s.dev ∧
        u.clk.stopped = s.clk.stopped)) ∧
      (again ≠ [] → s.faulted = false → Completes (.sensorReading temps volts) s (fun u =>
        u.rbit Reg.clkStat 4 = true ∧ u.rbit Reg.devAlert 7 = true ∧ u.engineUp = false ∧ u.clk.stopped = true ∧
        u.hbm.selfRef = 0xF#4 ∧ u.reg Reg.fltDevfault = 2#32 ∧ u.devState = 3)))

/-- Thermal control, once every millisecond (R407, R409): a sector at LIM or above steps down by 100 MHz above 1.3 GHz, one below
LIM - HYST steps up below 2.6 GHz, any other keeps its clock, and every step down is counted. -/
def Obligations.ThermalStepsOfSectors : Prop :=
  ∀ s : State, s.up = true → s.clk.stopped = false → Completes .thermalEvaluation s (fun u =>
    let lim : Int := fld (s.reg Reg.clkThermLim) 7 0
    let hyst : Int := fld (s.reg Reg.clkThermLim) 15 8
    let down := fun (n : Nat) => decide (4 * lim ≤ s.sectTemp n) && decide (13 < s.sectFreq n)
    s.clk.evalAt + msSteps 1 ≤ u.clock.now ∧ u.clk.evalAt = u.clock.now ∧
    (∀ n, n < 8 → u.sectFreq n =
      if down n = true then s.sectFreq n - 1
      else if s.sectTemp n < 4 * (lim - hyst) ∧ s.sectFreq n < 26 then s.sectFreq n + 1 else s.sectFreq n) ∧
    u.reg Reg.clkThrottleCnt = s.reg Reg.clkThrottleCnt + BitVec.ofNat 32 ((upto 8).filter down).length ∧
    ((∃ n, n < 8 ∧ down n = true ∧ s.sectFreq n = 26) → u.rbit Reg.clkStat 1 = true ∧ u.rbit Reg.devAlert 7 = true) ∧
    ((∀ n, n < 8 → ¬(down n = true ∧ s.sectFreq n = 26)) → u.reg Reg.clkStat = s.reg Reg.clkStat ∧ u.reg Reg.devAlert = s.reg Reg.devAlert) ∧
    (bit (u.readReg Reg.clkStat) 0 = true ↔ ∃ n, n < 8 ∧ u.sectFreq n < 26))

/-- Entry to and exit from the low state (R418 to R424). -/
def Obligations.PowerDomains : Prop :=
  Claims.ReqLowByPolicy ∧ Claims.PowerTransitions

/-- What the island does when a clock is lost or a reading comes (R405, R408, R410, R507). -/
def Obligations.ClockAndSensors : Prop :=
  Claims.ClockLossStopsEngine ∧ Claims.SensorsAndTrip

/-! ## The image and admission (02_pipeline_images) -/

/-- The four image commands by IMAGE_STATE (R37, R38, R138, R456): each acts in the states of its row, and in every other state, and
after a device fault, it is ignored and counted; during a re-placement it is held. -/
def Obligations.ImageCommandsFollowStates : Prop :=
  ∀ s : State, s.engineUp = true →
    let ignored := s.count Reg.admCmdIgnCnt 1
    (s.faulted = true → ∀ c ∈ [Instr.verify, .commit, .release, .discard], exec c s = .next ignored) ∧
    (s.faulted = false → s.remapping = true → ∀ n, n < 4 →
      exec ([Instr.verify, .commit, .release, .discard].getD n .verify) s =
        .next { s with img := { s.img with held := s.img.held ++ [BitVec.ofNat 8 (n + 1)] } }) ∧
    (s.faulted = false → s.remapping = false →
      (s.img.st ≠ .writing → exec .verify s = .next ignored) ∧
      (s.img.st ≠ .verified → exec .commit s = .next ignored) ∧
      (s.img.st ≠ .committed → exec .release s = .next ignored) ∧
      (s.img.st ∉ [.writing, .verified, .rejected] → exec .discard s = .next ignored) ∧
      (s.img.st ∈ [.writing, .verified, .rejected] →
        exec .discard s = .next { s with img := { s.img with st := .empty } }) ∧
      (s.img.st = .writing → Completes .verify s (fun u => u.img = { s.img with st := .verifying, result := 0, verifyDigest := s.dict.digest } ∧
        u.rbit Reg.secStat 0 = true ∧ u.adm = s.adm ∧ u.fab = s.fab)) ∧
      (s.img.st = .verified → Completes .commit s (fun u => u.img.st = .placing ∧ u.img.rate = (s.reg Reg.admRate).toNat ∧
        u.img.result = s.img.result ∧ u.img.copy = s.img.copy ∧ u.plc.pitch = [] ∧ u.rbit Reg.plcCtl 0 = true ∧
        (∀ t, (u.tile t).held = true) ∧ u.adm = s.adm)) ∧
      (s.img.st = .committed → Completes .release s (fun u => u.img = { s.img with st := .releasing } ∧
        u.rbit Reg.admCtl 0 = false ∧ u.rbit Reg.plcCtl 0 = false ∧
        (fld (s.reg Reg.admCtl) 2 1 = 0 → u.adm = s.adm ∧ u.fab = s.fab) ∧
        (fld (s.reg Reg.admCtl) 2 1 = 1 → u.adm.frames = s.adm.frames.map (fun f =>
          if f.phase == .waiting || f.inside then f.dropWith .flush else f)))))

/-- The ends of verification, placing, loading and release (R37, R40, R41, R42, R123, R257, R310, R436): VERIFIED with the digest of
the copy, or REJECTED with the reason; LOADING with the map found, or REJECTED with the first failed check; COMMITTED with the units
enabled and the context store kept where CONTEXT_ID agrees; VERIFIED again once the pipeline is empty. -/
def Obligations.ImageSequencesEnd : Prop :=
  ∀ s : State, s.engineUp = true →
    let rejected := fun (u : State) (code : Nat) => u.img.st = .rejected ∧ u.img.result = BitVec.ofNat 16 code ∧
      u.img.digest = s.img.digest ∧ u.img.copy = s.img.copy ∧ u.rbit Reg.devAlert 9 = true ∧ (∀ t, (u.tile t).held = true)
    (s.img.st = .verifying → s.img.autoCommit = false → verifyReason s = 0 → Completes .verificationEnd s (fun u =>
      u.img.st = .verified ∧ u.img.digest = envDigest s.img.copy ∧ u.img.result = s.img.result ∧ u.img.copy = s.img.copy ∧
      u.reg Reg.secVerifyCnt = s.reg Reg.secVerifyCnt + 1#32 ∧ u.adm = s.adm)) ∧
    (s.img.st = .verifying → s.img.autoCommit = true → verifyReason s = 0 → s.faulted = false → s.remapping = false →
      Completes .verificationEnd s (fun u => u.img.st = .placing ∧ u.img.digest = envDigest s.img.copy ∧ u.img.autoCommit = false)) ∧
    (s.img.st = .verifying → verifyReason s ≠ 0 → Completes .verificationEnd s (fun u => rejected u (verifyReason s) ∧
      u.reg Reg.secVerifyFailCnt = s.reg Reg.secVerifyFailCnt + 1#32)) ∧
    (∀ p, s.img.st = .placing → s.placeChecks = .inr p → Completes .placingEnd s (fun u => u.img = { s.img with st := .loading } ∧
      u.plc.pitch = p ∧ u.adm = s.adm ∧ u.fab = s.fab)) ∧
    (∀ r, s.img.st = .placing → s.placeChecks = .inl r → r.1 < 65536 → Completes .placingEnd s (fun u => rejected u r.1 ∧
      u.reg Reg.plcRejInfo = BitVec.ofNat 32 (r.2 * 65536 + r.1) ∧ u.plc.pitch = [])) ∧
    (s.img.st = .loading → Completes (.loadingEnd true) s (fun u => rejected u 11)) ∧
    (s.img.st = .loading → s.img.copyBad = false → Completes (.loadingEnd false) s (fun u =>
      u.img.st = .committed ∧ u.img.digest = s.img.digest ∧ u.plc.pitch = s.plc.pitch ∧ u.adm.frames = s.adm.frames ∧
      u.rbit Reg.admCtl 0 = true ∧ u.rbit Reg.fabCtl 0 = true ∧ u.rbit Reg.numCtl 0 = true ∧ u.rbit Reg.ctxCtl 0 = true ∧
      u.rbit Reg.ppuCtl 0 = true ∧ u.rbit Reg.fabStat 6 = false ∧
      (∀ t ∈ s.usedTiles, (u.tile t).held = false ∧ (u.tile t).active = 0#2) ∧
      (∀ i, i < imgStages s.img.copy → tget NumHdr.zero u.num.hdrs i = numHdr s.img.copy i) ∧
      (stageOf s.img.copy 0x10 = none → u.ctx.dir = s.ctx.dir ∧ u.ctx.tracks = s.ctx.tracks) ∧
      (∀ st, stageOf s.img.copy 0x10 = some st →
        let id := BitVec.ofNat 32 (pay s.img.copy (stgParams s.img.copy st false + 0x18) 4)
        u.reg Reg.ctxContextId = id ∧
        (if id = s.reg Reg.ctxContextId then u.ctx.dir = s.ctx.dir ∧ u.ctx.tracks = s.ctx.tracks
         else u.ctx.dir = [] ∧ u.ctx.tracks = [])))) ∧
    (s.img.st = .releasing → s.pipelineEmpty = true → s.remapping = false → twf StreamAdm.zero s.adm.streams = true → Completes .releaseEnd s (fun u =>
      u.img = { s.img with st := .verified } ∧ u.plc.pitch = [] ∧ u.rbit Reg.fabStat 6 = false ∧
      (∀ t, (u.tile t).held = true) ∧ u.adm.frames = s.adm.frames ∧
      ∀ st, (u.stream st).accepted = (s.stream st).accepted ∧ (u.stream st).slot0 = Slot.empty ∧ (u.stream st).slot1 = Slot.empty))

/-- An ingress burst (R43, R47, R51 to R53, R335): with the image COMMITTED its unmasked bytes within the frame size are placed at
its slot offset, and the slot is written; with no free page the burst is discarded and OVERRUN set (that the slot is then shown as
written is the model's choice, log entry 86); in any other state it is discarded and counted. A write into a slot that waits or is
being sent is a host error, after which the model says nothing (R4, R58; log entry 41). -/
def Obligations.IngressBurstIsPlaced : Prop :=
  ∀ (s : State) (w : HostWrite), w.bl32 = false → rangeOf w.addr.toNat = .ingress → s.portOpen w.port = true → s.engineUp = true →
    let a := w.addr.toNat / 32 * 32
    let p := s.ingressAt w.port a
    let x := (s.stream p.1).slot p.2.1
    let m := w.mask.toNat % 2 ^ 32
    let off := p.2.2
    let rest := fun (u : State) => u.besidePorts = { s.besidePorts with adm := u.adm, regs := u.regs } ∧ u.adm.frames = s.adm.frames ∧
      (∀ st, st ≠ p.1 → u.stream st = s.stream st) ∧ (u.stream p.1).slot (!p.2.1) = (s.stream p.1).slot (!p.2.1)
    (s.committed = false → Completes (.ingressWrite w) s (fun u =>
      u.reg Reg.hptWdiscCnt = s.reg Reg.hptWdiscCnt + 1#32 ∧ u.adm = s.adm ∧ u.besidePorts = { s.besidePorts with regs := u.regs })) ∧
    (s.committed = true → (x.st = .idle ∨ x.st = .written) → m ≠ 0 → off + 32 ≤ s.geomSize (s.wideStream p.1) →
      ((x.pages.contains (off / 4096) = true ∨ s.bufFree ≠ 0) → Completes (.ingressWrite w) s (fun u => rest u ∧
        let y := (u.stream p.1).slot p.2.1
        y.st = .written ∧ y.overrun = x.overrun ∧ y.pages.contains (off / 4096) = true ∧
        (∀ i, i < 32 → byteOf (tget 0 y.data (off / 32)) i =
          if m / 2 ^ i % 2 = 1 then byteOf (BitVec.ofNat 256 w.data.toNat) i else byteOf (tget 0 x.data (off / 32)) i) ∧
        (∀ k, k ≠ off / 32 → tget 0 y.data k = tget 0 x.data k) ∧
        u.reg Reg.hptWdiscCnt = s.reg Reg.hptWdiscCnt)) ∧
      (x.pages.contains (off / 4096) = false → s.bufFree = 0 → Completes (.ingressWrite w) s (fun u => rest u ∧
        (u.stream p.1).slot p.2.1 = { x with overrun := true, st := .written }))) ∧
    (s.committed = true → (x.st = .idle ∨ x.st = .written) → m ≠ 0 → s.geomSize (s.wideStream p.1) ≤ off →
      Completes (.ingressWrite w) s (fun u =>
        u.reg Reg.hptWdiscCnt = s.reg Reg.hptWdiscCnt + 1#32 ∧ u.adm = s.adm)) ∧
    (s.committed = true → (x.st = .waiting ∨ x.st = .sending) → exec (.ingressWrite w) s = .next ((s.portTime w.port).countWrites w.port 1).unpredictable)

/-- A doorbell (R53 to R59): an unmasked burst to bytes 0 to 31 of a cell is accepted under the conditions of R57 and commits the
slot's frame with the next sequence number and the first timestamp, a slot whose write found the buffer full ending at once; any
other is refused and counted, and leaves the slots as they are. Where the stream's doorbell for slot 1 was accepted in the same
engine cycle, slot 0's frame takes its place and its sequence number (R14, R59; the reading is the model's, log entry 48). A doorbell
with masked bytes is a host error (R55; log entry 41). -/
def Obligations.DoorbellAcceptedOrRefused : Prop :=
  ∀ (s : State) (w : HostWrite), w.bl32 = false → rangeOf w.addr.toNat = .cells → w.addr.toNat / 32 % 2 = 0 →
    s.portOpen w.port = true → s.engineUp = true →
    let m := w.mask.toNat % 2 ^ 32
    let st := 512 * b2n w.port + (w.addr.toNat - 0x1000000) / 64
    let b := w.data.getLsbD 64
    let x := s.stream st
    let taken := s.committed = true ∧ s.rbit Reg.admCtl 0 = true ∧ s.partly = false ∧ s.faulted = false ∧ s.secondary = false ∧
      s.enabled st = true ∧ s.absorbed st = false ∧ ((x.slot b).st = .idle ∨ (x.slot b).st = .written)
    let same := fun (g : Frame) => g.stream = st ∧ g.slot = true ∧ b = false ∧ g.acceptedAt = (s.portTime w.port).clock.now ∧
      g.ordinal = none ∧ g.seq = x.accepted
    (m ≠ 0 → m ≠ 2 ^ 32 - 1 → exec (.doorbell w) s = .next ((s.portTime w.port).countWrites w.port 1).unpredictable) ∧
    (m = 2 ^ 32 - 1 → taken → Completes (.doorbell w) s (fun u =>
      let y := u.stream st
      y.accepted = x.accepted + 1#32 ∧ y.lastTag = BitVec.ofNat 64 w.data.toNat ∧ y.refused = x.refused ∧ y.slot (!b) = x.slot (!b) ∧
      (∀ n, n ≠ st → u.stream n = s.stream n) ∧
      (∃ f, ((∀ g ∈ s.adm.frames, ¬ same g) → u.adm.frames = s.adm.frames ++ [f]) ∧
        (∀ g, (∀ k, k ∈ s.adm.frames ∧ same k ↔ k = g) → f ∉ s.adm.frames →
          u.adm.frames = s.adm.frames.map (fun k => if k = g then { f with seq := g.seq } else k) ++ [{ g with seq := f.seq }]) ∧
        f.stream = st ∧ f.slot = b ∧ f.tag = BitVec.ofNat 64 w.data.toNat ∧
        f.seq = x.accepted + 1#32 ∧ f.tDoorbell = u.devTime ∧ f.tEntry = 0#64 ∧ f.ordinal = none ∧
        (if (x.slot b).overrun then f.phase = .ended ∧ f.status = .overrun else f.phase = .waiting)) ∧
      (if (x.slot b).overrun then y.slot b = Slot.empty ∧ u.reg Reg.admOverrunCnt = s.reg Reg.admOverrunCnt + 1#32
       else y.slot b = { x.slot b with st := .waiting }))) ∧
    (m = 2 ^ 32 - 1 → ¬ taken → Completes (.doorbell w) s (fun u => u.stream st = { x with refused := x.refused + 1#32 } ∧
      u.adm.frames = s.adm.frames ∧ u.reg Reg.admRefusedCnt = s.reg Reg.admRefusedCnt + 1#32 ∧
      ∀ n, n ≠ st → u.stream n = s.stream n))

/-- The round-robin (R36, R60 to R62, R455): as soon as one slot length has passed since the last start, and stage 0 has taken every
row of the last frame, the first stream after the pointer, circularly, with a waiting frame accepted before that engine cycle sends
its oldest one; with unreadable data the frame ends DROPPED_FAULT. While admission may not run, or with no frame waiting, nothing
starts. -/
def Sys2Proof.Claims.SlotStartRoundRobin : Prop :=
  ∀ (s : State) (j : Nat) (f : Frame), j < 1024 →
    let p := fld (s.reg Reg.admRrPtr) 9 0
    let st := (p + 1 + j) % 1024
    let start := s.slotCycle
    ((s.admRuns && s.stage0Taken) = false ∨ s.waitingFrames = [] → ∀ ue, exec (.slotStart ue) s = .next s) ∧
    ((s.admRuns && s.stage0Taken) = true →
      (∀ i, i < j → ∀ g ∈ s.waitingFrames, g.stream = (p + 1 + i) % 1024 → start ≤ 18 * g.acceptedAt) →
      (∃ g ∈ s.waitingFrames, g.stream = st ∧ 18 * g.acceptedAt < start) →
      s.waitingFrames.find? (fun g => g.stream == st) = some f →
      s.engineCycle ≤ start ∧ (∀ a, s.adm.lastStart = some a → a + slotLength s.img.rate ≤ start) ∧
      Completes (.slotStart false) s (fun u => fld (u.reg Reg.admRrPtr) 9 0 = st ∧
        u.adm.nextOrdinal = s.adm.nextOrdinal + 1 ∧ u.adm.lastStart = some start ∧ u.adm.lastSlots = 1 ∧ start ≤ u.engineCycle ∧
        ((u.stream st).slot f.slot).st = .sending ∧
        u.adm.frames = s.adm.frames.map (fun g => if g.stream = f.stream ∧ g.seq = f.seq then
          { g with phase := .sending, ordinal := some s.adm.nextOrdinal, startedAt := start } else g)) ∧
      Completes (.slotStart true) s (fun u => fld (u.reg Reg.admRrPtr) 9 0 = st ∧ u.adm.nextOrdinal = s.adm.nextOrdinal ∧
        u.reg Reg.fltContainedCnt = s.reg Reg.fltContainedCnt + 1#32 ∧ (u.stream st).slot f.slot = Slot.empty ∧
        u.adm.frames = s.adm.frames.map (fun g => if g.stream = st ∧ g.seq = f.seq ∧ g.phase = .waiting then
          g.dropWith .fault else g)))

/-- A row group goes to stage 0 (R36, R50, R51, R52, R58, R98, R415, R455): its words are offered on every stage-0 path, tagged with
admission's slot, and go out where no crossing raises HOLD; the first one takes the stage-entry timestamp, the last one frees the
slot; the first one of each slot of a wide frame starts one slot length after the slot before it and once stage 0 has taken that
slot's rows; an uncorrectable word ends the frame with an abort on every path. -/
def Sys2Proof.Claims.RowGroupsGoInOrder : Prop :=
  ∀ (s : State) (f : Frame), s.adm.frames.find? (fun g => g.phase == .sending) = some f →
    s.engineUp = true → s.fab.stopped = false → s.rbit Reg.fabCtl 0 = true → s.faulted = false → s.remapping = false → s.clk.capture = 0#8 →
    let c := s.img.copy
    let n := s.geomGroups f.wide
    let y := f.nextGroup
    let opens := f.wide = true ∧ s.adm.lastSlots ≤ wideSlot n y
    let tag := BitVec.ofNat 2 s.admissionSlot
    let ws := (groupWords ((s.stream f.stream).slot f.slot) (imgW c f.wide) (imgH c f.wide) (imgFmt c f.wide) y n).map
      (fun p => QWord.mk tag (BitVec.ofNat 3 p.2) p.1 noSrc)
    let wires := Config.inputWires s.plc.pitchDigest
    let sent := fun (l : List QWord) => (wires.map (fun p => l.map (LinkWord.mk (wireKey p.1.toNat 0 p.2.toNat)))).flatten
    let offered := fun (u : State) (l : List LinkWord) => u.fab = (l.foldl State.offer s).fab ∧
      (s.fab.unsent = [] → (∀ k ∈ l, (s.atWire k.wire).length + l.length ≤ 16) → u.fab = { s.fab with links := s.fab.links ++ l })
    (opens → s.rowsTaken = false → ∀ ecc, exec (.rowGroupSend ecc) s = .next s) ∧
    ((opens → s.rowsTaken = true) →
      (∀ ecc, ecc ≠ .uncorrectable → Completes (.rowGroupSend ecc) s (fun u =>
        offered u (sent ws) ∧ u.regs = s.regs ∧
        u.adm.frames = s.adm.frames.map (fun g => if g.stream = f.stream ∧ g.seq = f.seq then
          { g with nextGroup := y + 1, tEntry := if y = 0 then u.devTime else g.tEntry,
                   phase := if y + 1 = n then .fabric else .sending } else g) ∧
        (opens → s.slotDue ≤ u.engineCycle ∧ u.adm.lastStart = some (max s.slotDue s.engineCycle) ∧
          u.adm.lastSlots = wideSlot n y + 1) ∧
        (¬ opens → f.startedAt ≤ u.engineCycle ∧ u.adm.lastStart = s.adm.lastStart) ∧
        (y + 1 = n → (u.stream f.stream).slot f.slot = Slot.empty) ∧
        (y + 1 ≠ n → ((u.stream f.stream).slot f.slot).data = ((s.stream f.stream).slot f.slot).data))) ∧
      Completes (.rowGroupSend .uncorrectable) s (fun u =>
        offered u (sent [abortWord 0 tag.toNat 2 noSrc]) ∧
        (u.stream f.stream).slot f.slot = Slot.empty ∧
        u.adm.frames = s.adm.frames.map (fun g => if g.stream = f.stream ∧ g.seq = f.seq then { g with phase := .fabric } else g)))

/-- A waiting frame ends without entering stage 0 (R63, R65): at MAX_WAIT with DROPPED_OVERRUN, by FLUSH_WAIT with DROPPED_FLUSH; its
slot becomes idle and every other frame stays as it is. -/
def Sys2Proof.Claims.WaitingFramesEnd : Prop :=
  ∀ (s : State) (stream : BitVec 10) (slot : Bool), s.engineUp = true →
    let p := fun (f : Frame) => f.stream == stream.toNat && f.slot == slot && f.phase == .waiting
    (s.reg Reg.admMaxWait ≠ 0#32 → s.adm.frames.any p = true → Completes (.maxWaitExpiry stream slot) s (fun u =>
      u.adm.frames = s.adm.frames.map (fun f => if p f then f.dropWith .overrun else f) ∧
      (u.stream stream.toNat).slot slot = Slot.empty ∧ (u.stream stream.toNat).overruns = (s.stream stream.toNat).overruns + 1#32 ∧
      (∀ f ∈ s.adm.frames, p f = true → f.acceptedAt + usSteps (s.reg Reg.admMaxWait).toNat ≤ u.clock.now) ∧
      u.reg Reg.admOverrunCnt = s.reg Reg.admOverrunCnt + BitVec.ofNat 32 (s.adm.frames.filter p).length ∧
      u.rbit Reg.devAlert 5 = true ∧ u.fab = s.fab)) ∧
    Completes .flushWait s (fun u =>
      u.adm.frames = s.adm.frames.map (fun f => if f.phase = .waiting then f.dropWith .flush else f) ∧
      (∀ f ∈ s.adm.frames, f.phase = .waiting → (u.stream f.stream).slot f.slot = Slot.empty) ∧
      u.regs = s.regs ∧ u.fab = s.fab)

/-- RECORD_WRITE (R66, R67, R284, R340 to R342): the first frame whose record is due is written into the lines at its ring's write
line, with its fields in their places and SEQ in its index entry; STALE marks the records whose lines it takes; the frame leaves the
list, so no second record follows. -/
def Sys2Proof.Claims.RecordIsWrittenOnce : Prop :=
  ∀ (s : State) (f : Frame), s.adm.frames.find? s.recordDue = some f → s.engineUp = true → s.rbit Reg.egrCtl 0 = true →
    s.faulted = false → f.stream < 1024 → f.dets.length ≤ 512 → s.writeLine f.stream ≤ 1024 →
    let k := f.recordLines
    let w := if 1024 < s.writeLine f.stream + k then 64 else s.writeLine f.stream
    let line := fun (u : State) (i : Nat) => (tget 0#512 u.egr.lines (1024 * f.stream + w + i)).toNat
    let field := fun (u : State) (off size : Nat) => line u 0 / 2 ^ (8 * off) % 2 ^ (8 * size)
    Completes (.recordWrite false) s (fun u =>
      u.adm.frames = s.adm.frames.filter (fun g => !(g.stream == f.stream && g.seq == f.seq)) ∧
      field u 0 4 = f.seq.toNat ∧ field u 4 2 = f.stream ∧ field u 8 8 = f.tag.toNat ∧ field u 16 1 = f.status.code ∧
      field u 20 4 = (s.reg Reg.fltEpoch).toNat ∧ field u 24 8 = f.tDoorbell.toNat ∧ field u 32 8 = f.tEntry.toNat ∧
      field u 6 2 = (if f.status = .ok then f.dets.length else 0) ∧
      (let e := tget 0#64 u.egr.index (512 * f.stream + f.seq.toNat % 512)
       ixSeq e = f.seq ∧ ixStart e = w ∧ ixLines e = k ∧ ixStale e = false) ∧
      u.writeLine f.stream = w + k ∧
      (∀ key, key / 512 = f.stream → key ≠ 512 * f.stream + f.seq.toNat % 512 →
        let e := tget 0#64 s.egr.index key
        ixLines e ≠ 0 → ixStart e < w + k → w < ixStart e + ixLines e → ixStale (tget 0#64 u.egr.index key) = true) ∧
      (∀ a, a < 1024 * f.stream + w ∨ 1024 * f.stream + w + k ≤ a → tget 0#512 u.egr.lines a = tget 0#512 s.egr.lines a) ∧
      u.reg f.status.counter = s.reg f.status.counter + 1#32 ∧ u.fab = s.fab ∧ u.ctx = s.ctx)

/-- DEVICE_FAULT_DRAIN_END (R456): every frame without a record has ended DROPPED_FAULT, every record that is due has been written,
and every sector clock stops. -/
def Sys2Proof.Claims.DeviceFaultDrainEnds : Prop :=
  ∀ s : State, s.engineUp = true → s.faulted = true → s.dev.draining = true → Completes .deviceFaultDrainEnd s (fun u =>
    u.adm.frames.find? u.recordDue = none ∧ (∀ f ∈ u.adm.frames, f.phase = .ended ∧ f.status = .fault) ∧
    u.dev = { s.dev with draining := false } ∧ u.clk = { s.clk with stopped := true } ∧ u.fab = s.fab ∧ u.img = s.img)

/-- Admission from the waiting slot to the last row group (R50, R58 to R61, R110). -/
def Obligations.SlotsAndRowGroups : Prop :=
  Claims.SlotStartRoundRobin ∧ Claims.RowGroupsGoInOrder ∧ Claims.WaitingFramesEnd

/-- The end of a frame (R64, R66, R284, R340, R456). -/
def Obligations.RecordsOfFrames : Prop :=
  Claims.RecordIsWrittenOnce ∧ Claims.DeviceFaultDrainEnds

/-! ## The context engine (08_context_engine) -/

/-- An operation runs as the oldest complete request of its stream that has not run (R238): where that names another operation, or
the engine may not run, nothing changes. -/
def Sys2Proof.Claims.OperationsWaitForTheirTurn : Prop :=
  ∀ (s : State) (st : BitVec 10) (bad : List CtxFinding),
    (s.nextReq st.toNat 0 = none → exec (.append st bad) s = .next s) ∧
    (s.nextReq st.toNat 1 = none → exec (.gather st bad) s = .next s) ∧
    (s.nextReq st.toNat 2 = none → exec (.attend st bad) s = .next s) ∧
    (s.nextReq st.toNat 3 = none → exec (.stake ⟨st, bad⟩) s = .next s) ∧
    (s.nextReq st.toNat 4 = none → exec (.unstake ⟨st, bad⟩) s = .next s) ∧
    (s.nextReq st.toNat 5 = none → exec (.evict ⟨st, bad⟩) s = .next s) ∧
    (∀ op r, s.nextReq st.toNat op = some r → r ∈ s.ctx.reqs ∧ r.complete = true ∧ r.reply = none ∧ r.stream = st.toNat ∧ r.op = op)

/-- APPEND (R226, R239, R250): the slot it takes is the lowest of the released list, else the first unstaked one from the cursor; it
holds the payload, its entry is valid, unstaked and names the frame; a valid slot overwritten is counted and its track links are
cleared; without a quota nothing is written. Where the slot to be overwritten fails its CHECKSUM it is lost first, and the request is
answered PARTIAL (R253). -/
def Obligations.AppendWritesChosenSlot : Prop :=
  ∀ (s : State) (stream : BitVec 10) (r : CtxReq), s.nextReq stream.toNat 0 = some r →
    let st := stream.toNat
    let c := s.sctx st
    let j := c.choose.1
    let bs := slotImage r j s.taFmt s.epoch
    (c.quota = 0 → ∀ bad, Completes (.append stream bad) s (fun u => SameStore s u ∧
      AckReplies s u r 1 0 ∧ u.reg Reg.ctxOpsCnt = s.reg Reg.ctxOpsCnt + 1#32)) ∧
    (∀ fs, c.quota ≠ 0 → j < 32768 → s.slotValid st j = true → found fs j .mismatch = true → Completes (.append stream fs) s (fun u =>
      u.dirAt st j = dirEntry (slotKsum bs) r.seq (s.granule st j) j st false ∧ tget [] u.ctx.slots (s.granule st j) = bs ∧
      u.reg Reg.ctxSlotBadCnt = s.reg Reg.ctxSlotBadCnt + 1#32 ∧ u.reg Reg.ctxEvictCnt = s.reg Reg.ctxEvictCnt ∧
      AckReplies s u r 5 j)) ∧
    (∀ fs, c.quota ≠ 0 → j < 32768 → found fs j .mismatch = false → Completes (.append stream fs) s (fun u =>
      (∀ q qs, c.released = q :: qs → j = q.1 ∧ (u.sctx st).released = qs ∧ (u.sctx st).cursor = c.cursor) ∧
      (c.released = [] → c.staked c.cursor = false → j = c.cursor ∧ (u.sctx st).cursor = (c.cursor + 1) % c.quota) ∧
      u.dirAt st j = dirEntry (slotKsum bs) r.seq (s.granule st j) j st false ∧ dirValid (u.dirAt st j) = true ∧
      tget [] u.ctx.slots (s.granule st j) = bs ∧
      (u.sctx st).recent = ((j, r.seq) :: c.recent).take 4096 ∧ (u.sctx st).carry = carryAfter c.carry bs ∧
      (∀ n, n ≠ st → u.sctx n = s.sctx n) ∧
      u.reg Reg.ctxAppendCnt = s.reg Reg.ctxAppendCnt + 1#32 ∧
      u.reg Reg.ctxEvictCnt = s.reg Reg.ctxEvictCnt + BitVec.ofNat 32 (b2n (s.slotValid st j)) ∧
      (s.slotValid st j = true → ∀ p ∈ u.ctx.tracks, p.1 / 512 = st → p.2.slot ≠ BitVec.ofNat 32 (2 ^ 31 + j)) ∧
      AckReplies s u r 0 (2 ^ 15 * b2n (s.slotValid st j) + j)))

/-- GATHER and ATTEND (R236, R242, R243, R249): a GATHER delivers the part asked for of every valid slot named, zero words for the
others, and the count delivered; an ATTEND selects valid slots by age and stake with a key summary of KEY_FLOOR or more, answers 14
carry words and 50 vector words for each query; both leave the store as it was. A slot that fails its CHECKSUM is lost and read as
zero words, and the request is answered PARTIAL (R253). -/
def Sys2Proof.Claims.GatherAndAttendReadTheStore : Prop :=
  ∀ (s : State) (stream : BitVec 10) (r : CtxReq),
    let st := stream.toNat
    let js := (upto r.cnt).map (s.named r)
    let valid := fun (j : Option Nat) => j.any (fun k => s.slotValid st k)
    let part := fun (j : Option Nat) => vecWords (slotPart r.part
      (if valid j then s.slotBytes (s.granule st (j.getD 0)) else List.replicate 1920 0#8))
    let n := (js.filter valid).length
    let w := pay s.img.copy (s.taParams + 0x10) 2
    let sk := pay s.img.copy (s.taParams + 0x12) 2
    let floor := pay s.img.copy (s.taParams + 0x0D) 1
    let sound := fun (fs : List CtxFinding) => ∀ j, found fs j .mismatch = false
    (∀ fs, sound fs → s.nextReq st 1 = some r → Completes (.gather stream fs) s (fun u => SameStore s u ∧ Replies s u r (if n < r.cnt then 2 else 0) n [] ((js.map part).flatten))) ∧
    (∀ fs j, s.nextReq st 1 = some r → r.cnt = 1 → s.named r 0 = some j → s.slotValid st j = true → found fs j .mismatch = true →
      Completes (.gather stream fs) s (fun u => u.dirAt st j = 0#128 ∧
        u.reg Reg.ctxSlotBadCnt = s.reg Reg.ctxSlotBadCnt + 1#32 ∧ Replies s u r 5 0 [] (part none))) ∧
    (∀ fs, sound fs → s.nextReq st 2 = some r →
      let sel := if (s.sctx st).quota = 0 then [] else s.selected st w sk floor
      sel.length ≤ w + sk ∧ (∀ j ∈ sel, s.slotValid st j = true ∧ floor ≤ dirKsum (s.dirAt st j)) ∧
      Completes (.attend stream fs) s (fun u => SameStore s u ∧
        ∃ vecs, vecs.length = 50 * r.cnt ∧
          Replies s u r (if (s.sctx st).quota = 0 then 1 else 0) sel.length (carryWords (s.sctx st).carry) vecs))

/-- STAKE, UNSTAKE and EVICT of the slot a request names (R230, R235, R237, R241): each row of R241. An index at or above the quota
names no slot and comes back as ARG; of an age or a frame that names none the spec gives no index, and ARG is open (log entry 59). -/
def Sys2Proof.Claims.StakeUnstakeEvict : Prop :=
  ∀ (s : State) (stream : BitVec 10) (r : CtxReq) (j : Nat) (fs : List CtxFinding), found fs j .mismatch = false →
    let st := stream.toNat
    let c := s.sctx st
    let v := s.slotValid st j
    let did := fun (i : Instr) (status : Nat) (p : State → Prop) =>
      Completes i s (fun u => AckReplies s u r status j ∧ u.ctx.slots = s.ctx.slots ∧
        (∀ n, n ≠ st → u.sctx n = s.sctx n) ∧ p u)
    let kept := fun (u : State) => u.ctx.dir = s.ctx.dir ∧ u.ctx.tracks = s.ctx.tracks ∧ u.sctx st = c
    (∀ op, op ∈ [3, 4, 5] → r.mode ≠ 3 → s.nextReq st op = some r → s.named r 0 = none →
      Completes ([Instr.stake ⟨stream, fs⟩, .unstake ⟨stream, fs⟩, .evict ⟨stream, fs⟩].getD (op - 3) (.stake ⟨stream, fs⟩)) s (fun u =>
        SameStore s u ∧ (r.mode = 1 → AckReplies s u r 2 (fld (r.words.getD 0 0#32) 14 0)) ∧ ∃ a, AckReplies s u r 2 a)) ∧
    (s.nextReq st 3 = some r → s.named r 0 = some j →
      (v = false → did (.stake ⟨stream, fs⟩) 2 kept) ∧
      (v = true → c.staked j = true → did (.stake ⟨stream, fs⟩) 0 kept) ∧
      (v = true → c.staked j = false → c.limit ≤ c.stake.length → did (.stake ⟨stream, fs⟩) 3 kept) ∧
      (v = true → c.staked j = false → c.stake.length < c.limit → did (.stake ⟨stream, fs⟩) 0 (fun u =>
        (u.sctx st).stake = c.stake ++ [⟨j, dirSeq (s.dirAt st j), c.released.any (fun p => p.1 == j)⟩] ∧
        (u.sctx st).released = c.released.filter (fun p => p.1 != j) ∧ u.ctx.tracks = s.ctx.tracks ∧
        u.dirAt st j = dirEntry (dirKsum (s.dirAt st j)) (dirSeq (s.dirAt st j)) (fld (s.dirAt st j) 51 27) j st true))) ∧
    (s.nextReq st 4 = some r → r.mode ≠ 3 → s.named r 0 = some j →
      (v = false → did (.unstake ⟨stream, fs⟩) 2 kept) ∧
      (v = true → c.stakeOf j = none → did (.unstake ⟨stream, fs⟩) 0 kept) ∧
      (∀ e, v = true → c.stakeOf j = some e → did (.unstake ⟨stream, fs⟩) 0 (fun u =>
        (u.sctx st).stake = c.stake.filter (fun x => x.slot != j) ∧
        (u.sctx st).released = (if e.skipped then insertReleased (j, e.seq) c.released else c.released) ∧
        u.ctx.tracks = s.ctx.tracks ∧
        u.dirAt st j = dirEntry (dirKsum (s.dirAt st j)) (dirSeq (s.dirAt st j)) (fld (s.dirAt st j) 51 27) j st false))) ∧
    (s.nextReq st 5 = some r → r.mode ≠ 3 → s.named r 0 = some j →
      (v = false → did (.evict ⟨stream, fs⟩) 2 kept) ∧
      (v = true → c.staked j = true → did (.evict ⟨stream, fs⟩) 4 kept) ∧
      (v = true → c.staked j = false → j < 32768 → did (.evict ⟨stream, fs⟩) 0 (fun u => u.dirAt st j = 0#128 ∧
        (u.sctx st).released = c.released.filter (fun p => p.1 != j) ∧ (u.sctx st).stake = c.stake ∧
        ∀ p ∈ u.ctx.tracks, p.1 / 512 = st → p.2.slot ≠ BitVec.ofNat 32 (2 ^ 31 + j)))) ∧
    (s.nextReq st 4 = some r → r.mode = 3 → (∀ e ∈ c.stake, s.slotValid st e.slot = true) → Completes (.unstake ⟨stream, fs⟩) s (fun u =>
      (u.sctx st).stake = [] ∧ u.ctx.tracks = s.ctx.tracks ∧ AckReplies s u r 0 0)) ∧
    (s.nextReq st 5 = some r → r.mode = 3 → Completes (.evict ⟨stream, fs⟩) s (fun u =>
      (∀ k, k / 64 < c.quota / 64 → u.dirAt st k = 0#128) ∧ (u.sctx st).stake = [] ∧ (u.sctx st).released = [] ∧
      (u.sctx st).recent = [] ∧ (u.sctx st).carry = [] ∧ (u.sctx st).cursor = 0 ∧ u.ctx.tracks = s.ctx.tracks ∧
      AckReplies s u r 0 0))

/-- Clears of the store (R250, R255, R257, R259, R388): a stream CLEAR empties the stream's slots, lists, carry and tracks and keeps
its next track number; CLEAR_ALL empties all of them with CTX_CTL.EN 0 and is ignored with EN 1; CLEARING ends. -/
def Sys2Proof.Claims.StoreClears : Prop :=
  ∀ (s : State) (stream : BitVec 10), s.engineUp = true →
    let st := stream.toNat
    Completes (.streamClear stream) s (fun u =>
      (∀ k, k / 64 < (s.sctx st).quota / 64 → u.dirAt st k = 0#128) ∧ (∀ t, t < 512 → tget Track.zero u.ctx.tracks (512 * st + t) = Track.zero) ∧
      u.sctx st = { s.sctx st with cursor := 0, stake := [], released := [], recent := [], carry := [] } ∧
      (∀ n, n ≠ st → u.sctx n = s.sctx n) ∧ u.adm = s.adm ∧ u.fab = s.fab) ∧
    (s.blockEn 6 = true → exec .clearAll s = .next (s.cfgIgn 6)) ∧
    (s.blockEn 6 = false → Completes .clearAll s (fun u => u.ctx.dir = [] ∧ u.ctx.tracks = [] ∧ u.ctx.near = [] ∧
      (∀ n, (u.sctx n).stake = [] ∧ (u.sctx n).released = [] ∧ (u.sctx n).recent = [] ∧ (u.sctx n).carry = []) ∧
      u.rbit Reg.ctxStat 1 = true ∧ u.adm = s.adm ∧ u.fab = s.fab)) ∧
    (s.rbit Reg.ctxStat 1 = true → Completes .storeClearComplete s (fun u =>
      u.rbit Reg.ctxStat 1 = false ∧ u.ctx = s.ctx ∧ u.adm = s.adm ∧ u.flt = { s.flt with clearing := false }))

/-! ## Detections (09_detections) -/

/-- The box decoder (R262, R266, R269 to R271, R291): once the head stage has sent its whole output for the frame before it, the frame
leaves with its count of candidates, which are the anchors kept at every position of the head's grid; at most 16,384 go on, in the
order of R271, each with a score of SCORE_THRESH or more and a box within the frame that is not empty. Until then nothing happens. -/
def Sys2Proof.Claims.BoxDecodeKeepsCandidates : Prop :=
  ∀ (s : State) (words ecc : Ecc) (f : Frame),
    s.frameIn (fun p => p == .sending || p == .fabric) = some f →
    let whole := s.unitHas 7 s.headStage (2 * b2n s.bank + b2n f.wide) (f.ordinal.getD 0)
    let w := imgW s.img.copy f.wide
    let h := imgH s.img.copy f.wide
    let th := s.thresholds f.wide
    let ds := ((s.headCells f (th.getD 0 0)).map (·.2.1)).flatten
    let kept := sortBy candBefore (ds.filterMap (·.cand))
    (f.phase = .fabric → s.frameIn (· == .decoded) = none → s.engineUp = true → s.blockEn 7 = true → s.faulted = false →
      whole = true → words ≠ .uncorrectable → ecc ≠ .uncorrectable → w ≤ 4095 → h ≤ 4095 → Completes (.boxDecode words ecc) s (fun u =>
        u.adm.frames = s.adm.frames.map (fun g => if g.stream = f.stream ∧ g.seq = f.seq then
          { g with phase := .decoded, thresholds := th, candidates := BitVec.ofNat 32 kept.length,
                   candLimit := decide (16384 < kept.length) } else g) ∧
        u.ppu.cands = kept.take 16384 ∧ u.ppu.cands.Pairwise (fun a b => candBefore a b = true) ∧
        (∀ c ∈ u.ppu.cands, th.getD 0 0 ≤ c.score.toNat ∧ c.x0.toNat < c.x1.toNat ∧ c.y0.toNat < c.y1.toNat ∧
          c.x1.toNat ≤ 16 * w ∧ c.y1.toNat ≤ 16 * h) ∧
        u.reg Reg.ppuCandCnt = s.reg Reg.ppuCandCnt + BitVec.ofNat 32 kept.length ∧
        u.reg Reg.ppuEmptyBoxCnt = s.reg Reg.ppuEmptyBoxCnt + BitVec.ofNat 32 (ds.filter (·.empty)).length ∧ u.ctx = s.ctx)) ∧
    (whole = false → exec (.boxDecode words ecc) s = .next s)

/-- Suppression (R272, R273): the detections are candidates in order, at most MAX_DET; none is suppressed by another of them, and with
fewer than MAX_DET every candidate is one of them or suppressed by one. -/
def Sys2Proof.Claims.SuppressionKeepsBest : Prop :=
  ∀ (s : State) (ecc : Ecc) (f : Frame), s.frameIn (· == .decoded) = some f →
    s.engineUp = true → s.blockEn 7 = true → s.faulted = false → ecc ≠ .uncorrectable →
    let o := s.headPar f.wide
    let limit := pay s.img.copy (o + 0x16) 2
    let beats := fun (k c : Cand) => (pay s.img.copy (o + 0xF) 1 / 2 % 2 == 1 || k.cls == c.cls) && k.box.exceeds c.box (f.thresholds.getD 1 0)
    Completes (.suppression ecc) s (fun u => ∃ ks : List Cand,
      ks.Sublist s.ppu.cands ∧ ks.length ≤ limit ∧ ks.Pairwise (fun a b => beats a b = false) ∧
      (ks.length < limit → ∀ c ∈ s.ppu.cands, c ∈ ks ∨ ∃ k ∈ ks, beats k c = true) ∧
      u.adm.frames = s.adm.frames.map (fun g => if g.stream = f.stream ∧ g.seq = f.seq then
        { g with phase := .suppressed, dets := ks.map Cand.det } else g) ∧
      u.ppu.cands = [] ∧ u.regs = s.regs ∧ u.ctx = s.ctx)

/-- Crop-and-resize (R262, R275, R277): once its source map is there it sends CROP_COUNT boxes whatever the list holds, each a header
word and two words for each channel row of each row group, the last word with FRAME_END, and after them the aborts of frames that come
next; the boxes of the list are counted, and the map buffer is free again. -/
def Obligations.CropSendsFixedWords : Prop :=
  ∀ (s : State) (words ecc : Ecc) (f : Frame) (cs : Nat), s.frameIn (· == .suppressed) = some f → s.cropStage = some cs →
    let o := stgParams s.img.copy cs f.wide
    let ps := (stgProducers s.img.copy cs).headD 0
    let whole := s.unitHas 8 ps (2 * b2n s.bank + b2n f.wide) (f.ordinal.getD 0)
    let count := pay s.img.copy (o + 10) 2
    let list := s.boxList f o
    (s.engineUp = true → s.blockEn 8 = true → s.faulted = false → whole = true → words ≠ .uncorrectable → ecc ≠ .uncorrectable →
      Completes (.cropAndResize words ecc) s (fun u => ∃ ws aborts : List QWord,
        u.fab.links = (((ws ++ aborts).map (s.unitLink 8 0)).foldl State.offer s).fab.links ∧
        u.fab.unsent = (((ws ++ aborts).map (s.unitLink 8 0)).foldl State.offer s).fab.unsent ∧
        ws.length = count * (1 + 2 * (pay s.img.copy (o + 7) 1 * pay s.img.copy o 2)) ∧
        (∀ i, i < ws.length → ((ws.map (·.kind)).getD i 0#3 = 2#3 ↔ i + 1 = ws.length)) ∧ (∀ a ∈ aborts, isAbort 0 a = true) ∧
        list.length ≤ count ∧ u.reg Reg.cruBoxCnt = s.reg Reg.cruBoxCnt + BitVec.ofNat 32 list.length ∧
        (∀ r ∈ u.ppu.rows, ¬(r.unit = 8 ∧ r.stage = ps ∧ r.ordinal = f.ordinal.getD 0)) ∧
        u.adm.frames = s.adm.frames.map (fun g => if g.stream = f.stream ∧ g.seq = f.seq then
          { g with phase := .cropped, boxes := list.map (·.1) } else g) ∧ u.ctx = s.ctx)) ∧
    (whole = false → exec (.cropAndResize words ecc) s = .next s)

/-- Track association (R278, R280 to R283, R289, R455): once the words of the CROP_FEATURES stage are there, where the image has one,
the detections are refined and those removed are counted; with ASSOC_EN 0 they keep no track and the table is untouched; an
unreadable entry of the table is freed and counted as a contained error; without a crop stage a frame without
detections updates every track of its stream by R282; the frame ends for its record, and the tracks of other streams are unchanged. -/
def Obligations.TracksFollowDetections : Prop :=
  ∀ (s : State) (words ecc : Ecc) (f : Frame),
    s.frameIn (fun p => if s.cropStage.isSome then p == .cropped else p == .suppressed) = some f → f.stream < 1024 →
    s.engineUp = true → s.blockEn 7 = true → s.faulted = false → words ≠ .uncorrectable → ecc ≠ .uncorrectable →
    let st := f.stream
    let w := imgW s.img.copy f.wide
    let h := imgH s.img.copy f.wide
    let ended := fun (u : State) (dets : List Det) => ∃ n, u.adm.frames = s.adm.frames.map (fun g =>
      if g.stream = f.stream ∧ g.seq = f.seq then { g with phase := .ended, dets := dets, trackFull := false, tracks := n } else g)
    let ref := f.refined (s.refineWords f) w h
    let ready := s.cropStage.all (fun cs => s.unitHas 7 cs (2 * b2n s.bank + b2n f.wide) (f.ordinal.getD 0))
    let plain := s.cropStage = none ∧ f.boxes = []
    (ready = false → ∀ bad, exec (.trackAssociation words bad ecc) s = .next s) ∧
    (s.rbit Reg.ppuCtl 1 = false → ready = true → ∀ bad, Completes (.trackAssociation words bad ecc) s (fun u => ended u (ref.filterMap id) ∧
      u.reg Reg.ppuRefineDropCnt = s.reg Reg.ppuRefineDropCnt + BitVec.ofNat 32 (ref.filter (·.isNone)).length ∧
      (∀ k, tget Track.zero u.ctx.tracks k = tget Track.zero s.ctx.tracks k) ∧ ∀ n, u.sctx n = s.sctx n)) ∧
    (∀ b : BitVec 9, plain → s.rbit Reg.ppuCtl 1 = true → f.dets = [] → (s.track st b.toNat).st ≠ 0#8 →
      Completes (.trackAssociation words [b] ecc) s (fun u => u.track st b.toNat = Track.zero ∧
        u.reg Reg.fltContainedCnt = s.reg Reg.fltContainedCnt + 1#32)) ∧
    (plain → s.rbit Reg.ppuCtl 1 = true → f.dets = [] → Completes (.trackAssociation words [] ecc) s (fun u => ended u [] ∧
      (∀ t, t < 512 → u.track st t =
        (if (s.track st t).st = 0#8 then s.track st t
         else if (s.track st t).st = 1#8 ∨ f.thresholds.getD 3 0 < (s.track st t).misses.toNat + 1 then Track.zero
         else { s.track st t with st := 3, misses := (s.track st t).misses + 1 })) ∧
      (∀ k, k / 512 ≠ st → tget Track.zero u.ctx.tracks k = tget Track.zero s.ctx.tracks k) ∧
      (u.sctx st).nextTrack = (s.sctx st).nextTrack)) ∧
    (∀ d t, plain → s.rbit Reg.ppuCtl 1 = true → f.dets = [d] → t < 512 → (s.track st t).st ≠ 0#8 →
      (∀ k, k < 512 → k ≠ t → (s.track st k).st = 0#8) → d.cls = (s.track st t).cls →
      0 < d.box.inter ((s.track st t).predict w h) → d.box.reaches ((s.track st t).predict w h) (f.thresholds.getD 2 0) = true →
      Completes (.trackAssociation words [] ecc) s (fun u =>
        let y := (s.track st t).hit d f.seq
        u.track st t = { y with slot := f.link.getD y.slot } ∧ ended u [d.withTrack (u.track st t) false] ∧
        (u.sctx st).nextTrack = (s.sctx st).nextTrack)) ∧
    (∀ d, plain → s.rbit Reg.ppuCtl 1 = true → f.dets = [d] → (∀ k, k < 512 → (s.track st k).st = 0#8) →
      f.thresholds.getD 4 0 ≤ d.score.toNat → Completes (.trackAssociation words [] ecc) s (fun u =>
        u.track st 0 = { Track.zero with id := (s.sctx st).nextTrack, st := 1, cls := d.cls, score := d.score, lastSeq := f.seq,
                                         slot := f.link.getD 0, x0 := d.x0, y0 := d.y0, x1 := d.x1, y1 := d.y1 } ∧
        ended u [d.withTrack (u.track st 0) true] ∧ (u.sctx st).nextTrack = trackIdAfter (s.sctx st).nextTrack))

/-- Requests that read, and requests that are not due (R234 to R238). -/
def Obligations.ReadingTheStore : Prop :=
  Claims.GatherAndAttendReadTheStore ∧ Claims.OperationsWaitForTheirTurn

/-- Operations on slots and on the whole store (R241, R255, R257). -/
def Obligations.StakesAndClears : Prop :=
  Claims.StakeUnstakeEvict ∧ Claims.StoreClears

/-- An uncorrectable word of a post-processing unit's SRAM ends its frame with DROPPED_FAULT and no detections, as a contained error
(R109, R455). -/
def Sys2Proof.Claims.UnreadableUnitWordEndsFrame : Prop :=
  ∀ (s : State) (f : Frame), s.engineUp = true → s.faulted = false →
    let tag := 2 * b2n s.bank + b2n f.wide
    let n := f.ordinal.getD 0
    let ends := fun (i : Instr) => Completes i s (fun u =>
      u.adm.frames = s.adm.frames.map (fun g => if g.ordinal = some n ∧ g.phase ≠ .ended then g.dropWith .fault else g) ∧
      u.reg Reg.fltContainedCnt = s.reg Reg.fltContainedCnt + 1#32 ∧ u.reg Reg.fabAbortCnt = s.reg Reg.fabAbortCnt + 1#32 ∧
      u.ctx = s.ctx)
    (s.frameIn (fun p => p == .sending || p == .fabric) = some f → f.phase = .fabric → s.frameIn (· == .decoded) = none →
      s.blockEn 7 = true → s.unitHas 7 s.headStage tag n = true →
      ∀ e, ends (.boxDecode .uncorrectable e) ∧ ends (.boxDecode e .uncorrectable)) ∧
    (s.frameIn (· == .decoded) = some f → s.blockEn 7 = true → ends (.suppression .uncorrectable)) ∧
    (∀ cs, s.frameIn (· == .suppressed) = some f → s.cropStage = some cs → s.blockEn 8 = true →
      s.unitHas 8 ((stgProducers s.img.copy cs).headD 0) tag n = true →
      ∀ e, ends (.cropAndResize .uncorrectable e) ∧ ends (.cropAndResize e .uncorrectable)) ∧
    (s.frameIn (fun p => if s.cropStage.isSome then p == .cropped else p == .suppressed) = some f → s.blockEn 7 = true →
      s.cropStage.all (fun cs => s.unitHas 7 cs tag n) = true → ∀ bad e, ends (.trackAssociation .uncorrectable bad e) ∧ ends (.trackAssociation e bad .uncorrectable))

/-- From decoded boxes to the detections of a record (R266 to R270). -/
def Obligations.Candidates : Prop :=
  Claims.BoxDecodeKeepsCandidates ∧ Claims.SuppressionKeepsBest ∧ Claims.UnreadableUnitWordEndsFrame

/-! ## Transfer streams and the HBM (10_streams_memory) -/

/-- A stream whose active descriptor has completed: the shadow has taken its place, and its client was told where NOTIFY asks for it. -/
def Sys2Proof.Claims.finished (x : TStream) : TStream :=
  { x with active := x.shadow, shadow := none, parts := []
           told := x.told + b2n (x.active.any (fun d => bit d.dflags 1)) }

/-- Arming (R298): an idle stream, one with an empty shadow, one with a full shadow; a descriptor whose last byte has come by then
completes before the new one is armed. -/
def Sys2Proof.Claims.ArmingAndShadow : Prop :=
  ∀ (s : State) (ts : BitVec 6) (d : Desc), s.engineUp = true → ts.toNat < 35 →
    let t := ts.toNat
    let l := s.landed
    let x := if (l.ts t).active.any (l.ts t).done then Claims.finished (l.ts t) else l.ts t
    let others := fun (u : State) => (∀ k, k ≠ t → u.ts k = l.ts k) ∧ u.hbm = s.hbm ∧ u.ctx = s.ctx ∧ u.adm = s.adm
    (x.active = none → Completes (.armDescriptor ts d) s (fun u =>
      u.ts t = { x with active := some d } ∧ u.regs = l.regs ∧ others u)) ∧
    (x.active ≠ none → x.shadow = none → Completes (.armDescriptor ts d) s (fun u =>
      u.ts t = { x with shadow := some d } ∧ u.regs = l.regs ∧ others u)) ∧
    (x.active ≠ none → x.shadow ≠ none → Completes (.armDescriptor ts d) s (fun u =>
      u.ts t = { x with shadow := some d, rearm := satInc x.rearm } ∧ others u ∧
      u.reg Reg.stmRearmOvwCnt = s.reg Reg.stmRearmOvwCnt + 1#32 ∧ u.rbit Reg.stmStat 1 = true))

/-- Completion (R297, R298): once commands for every byte of the active descriptor have issued, in each direction in which it crosses the
HBM's bus, DESCRIPTOR_COMPLETE takes place when the last of them has ended; before that it changes nothing. -/
def Sys2Proof.Claims.DescriptorsComplete : Prop :=
  ∀ (s : State) (ts : BitVec 6) (d : Desc), s.engineUp = true → s.rbit Reg.stmCtl 0 = true →
    let t := ts.toNat
    let x := s.ts t
    x.active = some d →
    ((d.crosses false = true → d.total ≤ x.commanded false) → (d.crosses true = true → d.total ≤ x.commanded true) →
      Completes (.descriptorComplete ts) s (fun u =>
        let y := u.ts t
        y.active = x.shadow ∧ y.shadow = none ∧ y.parts = [] ∧ y.moved = x.moved ∧ y.rearm = x.rearm ∧
        y.told = x.told + (if bit d.dflags 1 = true then 1 else 0) ∧ x.lastEnd ≤ u.engineCycle ∧ s.clock.now ≤ u.clock.now ∧
        u.hbm = s.hbm ∧ u.ctx = s.ctx ∧ u.adm = s.adm ∧ u.fab = s.fab ∧ u.img = s.img)) ∧
    (∀ b, d.crosses b = true → x.commanded b < d.total → exec (.descriptorComplete ts) s = .next s)

/-- The read-ahead (R305, R306): STM_JRA_BASE arms TS 13 with the MiB from the written base while STM_CTL.EN is 1, and is an ignored
configuration write while it is 0. -/
def Sys2Proof.Claims.ReadAheadIsArmed : Prop :=
  ∀ (s : State) (v : Word), s.engineUp = true →
    let l := s.landed
    let x := if (l.ts 13).active.any (l.ts 13).done then Claims.finished (l.ts 13) else l.ts 13
    (s.rbit Reg.stmCtl 0 = false → exec (.jraBaseWrite 0#2 v) s = .next (s.cfgIgn 9)) ∧
    (s.rbit Reg.stmCtl 0 = true → Completes (.jraBaseWrite 0#2 v) s (fun u =>
      u.reg Reg.stmJraBase = v &&& 0x07FFF800#32 ∧ u.hbm = s.hbm ∧ u.ctx = s.ctx ∧ u.adm = s.adm ∧
      ∃ e : Desc, e.length = 0x100000#32 ∧ e.pieces = 1#16 ∧ e.srcSpace = 0 ∧ e.dstSpace = 2 ∧
        e.hbmAt 13 false 0 = 2048 * rowJournal + (v &&& 0x07FFF800#32).toNat ∧
        (∀ k, k < 0x100000 → 2048 * rowJournal ≤ e.hbmAt 13 false k ∧ e.hbmAt 13 false k < 2048 * rowArea) ∧
        if x.active = none then (u.ts 13).active = some e else (u.ts 13).active = x.active ∧ (u.ts 13).shadow = some e))

/-- A line of the read-ahead takes its new tag and its data as they arrive, byte for byte; every other line keeps its own (R306). -/
def Sys2Proof.Claims.LinesFillAsDataArrive : Prop :=
  ∀ (m : Stm) (o : Nat) (data : List Byte), o % 2048 + data.length ≤ 2048 →
    let u := m.fillLine o data
    let old := tget (0, []) m.jra (o / 2048 % 512)
    let new := tget (0, []) u.jra (o / 2048 % 512)
    (old.1 = o / 2048 + 1 → old.2.length = 2048) →
    new.1 = o / 2048 + 1 ∧ new.2.length = 2048 ∧ (∀ i, i < data.length → new.2[o % 2048 + i]? = data[i]?) ∧
    (∀ i, old.1 = o / 2048 + 1 → (i < o % 2048 ∨ o % 2048 + data.length ≤ i) → new.2[i]? = old.2[i]?) ∧
    (∀ k, k ≠ o / 2048 % 512 → tget (0, []) u.jra k = tget (0, []) m.jra k) ∧ u.ts = m.ts ∧ u.gain = m.gain

/-- Descriptors: arming, completion and the read-ahead (R297, R298, R305, R306, R316). -/
def Obligations.DescriptorsAndShadows : Prop :=
  Claims.ArmingAndShadow ∧ Claims.DescriptorsComplete ∧ Claims.ReadAheadIsArmed ∧ Claims.LinesFillAsDataArrive

/-- HBM_COMMAND (R297, R299 to R303): of the eligible commands that the ready parts make for the channel the one with the smallest slack
runs, on a tie the first after the pointer, which takes its number; the bytes it moves and the parts it merged are counted, the channel
is taken for 1.5 cycles a burst; a read changes nothing in the HBM and a write nothing in the fabric; a read for the tile path puts the
bytes of the HBM at the descriptor's destination. Which parts are ready, and what their clients moved, is the command's operand. -/
def Obligations.ArbitrationByDeadline : Prop :=
  ∀ (s : State) (ch : BitVec 6) (ready : List Ready) (ecc : Ecc), s.chanUp ch.toNat = true → s.rbit Reg.stmCtl 0 = true →
    let c := ch.toNat
    let s1 := (s.until (cycleStep (s.chan c).freeAt)).openWindows.landed
    let u0 := s1.clientMoves (ready.filter (s1.readyOk c))
    let cands := (u0.commands (ready.filter (u0.readyOk c))).filter u0.eligible
    let ptr := (s1.chan c).ptr.toNat
    (s.chan c).freeAt ≤ s1.engineCycle ∧
    (cands = [] → exec (.hbmCommand ch ready ecc) s = .next u0) ∧
    (cands ≠ [] → ∃ w ∈ cands,
      (∀ q ∈ cands, u0.slack w < u0.slack q ∨
        u0.slack w = u0.slack q ∧ after ptr (cmdTs w).toNat ≤ after ptr (cmdTs q).toNat) ∧
      Completes (.hbmCommand ch ready .ok) s (fun u =>
        let n := BitVec.ofNat 64 (cmdBytes w)
        let t := (cmdTs w).toNat
        (u.chan c).ptr = cmdTs w ∧ (u.chan c).moved = (s1.chan c).moved + n ∧ (u.ts t).moved = (s1.ts t).moved + n ∧
        (u.chan c).freeAt = u.engineCycle + (3 * u0.cmdBursts w + 1) / 2 ∧ u.clock = s1.clock ∧
        u.reg Reg.stmMergedCnt = s1.reg Reg.stmMergedCnt + BitVec.ofNat 32 (w.length - 1) ∧
        (∀ k, k ≠ c → u.chan k = s1.chan k) ∧ u.hbm.map = s1.hbm.map ∧ u.ctx = s1.ctx ∧ u.adm = s1.adm ∧
        (cmdWrites w = false → u.img = s1.img ∧ u.hbm.journal = s1.hbm.journal ∧ u.hbm.area = s1.hbm.area) ∧
        (cmdWrites w = true → u.fab = s1.fab) ∧
        (∀ r d, w = [r] → r.toHbm = false → (s1.ts t).active = some d → d.dstSpace = 1 →
          let at_ := d.dstAt r.off.toNat
          u.tile (pathTile at_) = (s1.tile (pathTile at_)).putPath (at_ % 65536)
            (s1.hbmBytes (d.hbmAt t false r.off.toNat) r.bytes.toNat))))

/-- Upkeep of the HBM (R253, R310 to R315): the scrub goes on from row to row and counts its passes; a corrected error is counted; an
uncorrectable one in a slot invalidates the slot, and the row is retired; HOT follows the stacks; recalibrations block their channel
for 2,700 cycles, a forced one being counted. -/
def Obligations.HbmUpkeep : Prop :=
  ∀ (s : State) (ch word : BitVec 6) (ecc : Ecc) (hot : BitVec 4),
    let row := (s.reg Reg.hbmScrubPos).toNat
    let c := ch.toNat
    let scrubs := s.chanUp (row % 64) = true ∧ s.rbit Reg.hbmCtl 1 = true ∧ s.rbit Reg.stmCtl 0 = true
    (scrubs → Completes (.hbmScrubRow word ecc) s (fun u =>
      u.reg Reg.hbmScrubPos = BitVec.ofNat 32 (if row + 1 < rowEnd then row + 1 else 0) ∧
      (ecc = .ok → u.reg Reg.hbmScrubPass = s.reg Reg.hbmScrubPass + BitVec.ofNat 32 (if row + 1 < rowEnd then 0 else 1)))) ∧
    (scrubs → 0 < row → tget 0 s.hbm.map row = 0 → (∀ e ∈ (s.chan (row % 64)).errs, e.1 ≠ row) →
      1 < fld (s.reg Reg.hbmRetireCe) 7 0 → Completes (.hbmScrubRow word .corrected) s (fun u =>
      u.reg Reg.hbmCeCnt = s.reg Reg.hbmCeCnt + 1#32 ∧ (u.chan (row % 64)).ce = (s.chan (row % 64)).ce + 1#32)) ∧
    (∀ st j, scrubs → 0 < row → row < rowDir → tget 0 s.hbm.map row = 0 → (s.chan (row % 64)).granules < 16384 →
      s.slotAtGranule row = some (st, j) → s.slotValid st j = true → Completes (.hbmScrubRow word .uncorrectable) s (fun u =>
        u.slotValid st j = false ∧ u.reg Reg.hbmUeCnt = s.reg Reg.hbmUeCnt + 1#32 ∧ u.rbit Reg.hbmStat 3 = true ∧
        u.rbit Reg.devAlert 3 = true ∧ u.reg Reg.ctxSlotBadCnt = s.reg Reg.ctxSlotBadCnt + 1#32 ∧
        u.reg Reg.hbmRetiredCnt = s.reg Reg.hbmRetiredCnt + 1#32 ∧ tget 0 u.hbm.map row ≠ 0)) ∧
    (s.engineUp = true → s.rbit Reg.hbmCtl 0 = true → Completes (.hbmRefresh hot) s (fun u =>
      u.rbit Reg.hbmStat 2 = (hot != 0#4) ∧ u.hbm = s.hbm ∧ ∀ a, a ≠ Reg.hbmStat → u.reg a = s.reg a)) ∧
    (s.chanUp c = true → Completes (.phyRecalibration ch) s (fun u =>
      (u.chan c).freeAt = u.engineCycle + 2700 ∧ (u.chan c).recalAt = u.clock.now ∧
      (s.chan c).recalAt + msSteps 1000 ≤ u.clock.now ∧ (s.chan c).freeAt + 360 ≤ u.engineCycle ∧ u.regs = s.regs ∧
      ∀ k, k ≠ c → u.chan k = s.chan k)) ∧
    (s.chanUp c = true → Completes (.forcedRecalibration ch) s (fun u =>
      (u.chan c).freeAt = u.engineCycle + 2700 ∧ (u.chan c).recalAt = u.clock.now ∧
      (s.chan c).recalAt + msSteps 1100 ≤ u.clock.now ∧ u.reg Reg.hbmRecalForcedCnt = s.reg Reg.hbmRecalForcedCnt + 1#32 ∧
      ∀ k, k ≠ c → u.chan k = s.chan k))

/-! ## The host ports (11_host_port) -/

/-- The commands of a port (R323, R327, R329, R344 to R347, R350): mode registers, training, calibration, refresh, power-down,
self-refresh, set points, port reset and initialisation move that port and its counters; they never touch admission, fabric, image,
rings, store or HBM, nor the other port. -/
def Sys2Proof.Claims.PortCommandsMoveTheirPort : Prop :=
  ∀ (s : State) (p : Bool) (mr : BitVec 7) (v : Byte) (kind : BitVec 3) (rk : BitVec 2) (pd : Bool) (fsp : BitVec 2),
    let x := s.port p
    let apart := fun (u : State) => u.port (!p) = s.port (!p) ∧ u.adm = s.adm ∧ u.fab = s.fab ∧ u.img = s.img ∧ u.egr = s.egr ∧
      u.ctx = s.ctx ∧ u.hbm = s.hbm ∧ u.dict = s.dict
    let half := fun (a : Nat) (u : State) => if p then fld (u.reg a) 31 16 = (fld (s.reg a) 31 16 + 1) % 2 ^ 16 ∧ fld (u.reg a) 15 0 = fld (s.reg a) 15 0
      else fld (u.reg a) 15 0 = (fld (s.reg a) 15 0 + 1) % 2 ^ 16 ∧ fld (u.reg a) 31 16 = fld (s.reg a) 31 16
    (s.portOpen p = true →
      Completes (.modeRegisterWrite p mr v) s (fun u => apart u ∧ u.rbit Reg.hptStat (b2n p) = true ∧ x.exitAt ≤ u.clock.now ∧
        (mr.toNat ∉ [4, 5, 6, 7, 8] → (u.port p).mr x.fsp mr.toNat = v) ∧ (mr = 22#7 → 16 ≤ v.toNat → u.rbit Reg.hptStat (6 + b2n p) = true)) ∧
      Completes (.modeRegisterRead p mr) s (fun u => apart u ∧ (u.port p).out = (x.mr x.fsp mr.toNat).setWidth 512 ∧ u.regs = s.regs) ∧
      Completes (.trainingCommand p kind) s (fun u => apart u ∧ (u.port p).training = x.training + 1#32 ∧ u.regs = s.regs) ∧
      Completes (.zqCalibration p) s (fun u => apart u ∧ (u.port p).zq = x.zq + 1 ∧ u.regs = s.regs) ∧
      (let cnt := if p then Reg.hptRefCnt1 else Reg.hptRefCnt0
       Completes (.refresh p rk) s (fun u => apart u ∧ u.port p = x ∧ u.reg cnt = s.reg cnt + 1#32 ∧ ∀ a, a ≠ cnt → u.reg a = s.reg a)) ∧
      Completes (.powerDownEntry p) s (fun u => apart u ∧ u.port p = { x with pd := true } ∧ u.regs = s.regs) ∧
      Completes (.selfRefreshEntry p pd) s (fun u => apart u ∧ u.port p = { x with sr := true, pd := pd } ∧ half Reg.hptSrCnt u) ∧
      (fsp ≠ 3#2 → Completes (.fspChange p fsp) s (fun u => apart u ∧ u.port p = { x with fsp := fsp } ∧ u.regs = s.regs))) ∧
    exec (.fspChange p 3#2) s = .next s.unpredictable ∧
    (s.up = true → x.pd = true → x.sr = false → Completes (.powerDownExit p) s (fun u => apart u ∧ u.regs = s.regs ∧
      (u.port p).pd = false ∧ (u.port p).mrs = x.mrs ∧ s.clock.now < (u.port p).exitAt)) ∧
    (s.up = true → x.sr = true → Completes (.selfRefreshExit p) s (fun u => apart u ∧ u.regs = s.regs ∧
      (u.port p).sr = false ∧ (u.port p).mrs = x.mrs ∧ (u.port p).trained = x.trained ∧ s.clock.now + 30 ≤ (u.port p).exitAt)) ∧
    (s.up = true → s.portPin p = true → Completes (.portReset p false) s (fun u => apart u ∧ u.port p = x.cleared ∧ u.portPin p = false ∧
      half Reg.hptPrstCnt u ∧ u.rbit Reg.hptStat (b2n p) = false)) ∧
    (s.pins.power = true → s.portPin p = false → Completes (.portReset p true) s (fun u => apart u ∧
      u.port p = { x with highAt := s.clock.now } ∧ u.portPin p = true ∧ u.regs = s.regs)) ∧
    (s.up = true → s.portPin p = true → x.open_ = false → Completes (.portInitReady p) s (fun u => apart u ∧
      (u.port p).open_ = true ∧ x.highAt + usSteps 1500 ≤ u.clock.now ∧ u.rbit Reg.hptCtl 0 = true))

/-- Channel, bank, row and column of an address (R328): every address has exactly one place. -/
def Sys2Proof.Claims.AddressesHavePlaces : Prop :=
  ∀ (a : BitVec 32) (d : DramPlace), (dramPlace a).addr = a ∧ dramPlace d.addr = d ∧
    (dramPlace a).row.toNat = a.toNat / 2 ^ 16 ∧ (dramPlace a).bankInGroup.toNat = a.toNat / 2 ^ 14 % 4 ∧
    (dramPlace a).group.toNat = a.toNat / 2 ^ 12 % 4 ∧ (dramPlace a).bank.toNat = a.toNat / 2 ^ 12 % 16 ∧
    (dramPlace a).column.toNat = a.toNat / 2 ^ 9 % 8 * 256 + a.toNat % 256 ∧
    ((dramPlace a).channel = true ↔ a.toNat / 256 % 2 = 1)

/-- The ports as memory devices. -/
def Obligations.PortCommands : Prop :=
  Claims.PortCommandsMoveTheirPort ∧ Claims.AddressesHavePlaces

/-- Writes by range (R37, R39, R330, R332, R469): the image window, the mirror journal window, the ranges whose writes are discarded,
and the register window, where only a word written wholly unmasked is taken. -/
def Sys2Proof.Claims.OneBurstIsWritten : Prop :=
  ∀ (s : State) (w : HostWrite), w.bl32 = false → s.portOpen w.port = true → s.engineUp = true →
    let a := w.addr.toNat / 32 * 32
    let m := w.mask.toNat % 2 ^ 32
    let r := rangeOf w.addr.toNat
    let data := BitVec.ofNat 256 w.data.toNat
    let v := (s.portTime w.port).countWrites w.port 1
    (r = .image → s.img.st ∈ [.empty, .writing] → s.rbit Reg.stmCtl 0 = true → Completes (.imageWindowWrite w) s (fun u =>
      u.besidePorts = { s.besidePorts with img := u.img } ∧
      u.img = { s.img with st := .writing, copy := Memory.putMasked s.img.copy (a - 0x10000000) data m } ∧
      ∀ n, Memory.read u.img.copy n =
        if a - 0x10000000 ≤ n ∧ n < a - 0x10000000 + 32 ∧ m / 2 ^ (n - (a - 0x10000000)) % 2 = 1 then byteOf data (n - (a - 0x10000000))
        else Memory.read s.img.copy n)) ∧
    (r = .image → (s.img.st ∉ [.empty, .writing] ∨ s.rbit Reg.stmCtl 0 = false) → Completes (.imageWindowWrite w) s (fun u =>
      u.besidePorts = { s.besidePorts with regs := u.regs } ∧ u.reg Reg.admImgwDiscCnt = s.reg Reg.admImgwDiscCnt + 1#32 ∧
      ∀ b, b ≠ Reg.admImgwDiscCnt → u.reg b = s.reg b)) ∧
    (r = .journal → s.secondary = true → Completes (.journalWindowWrite w) s (fun u =>
      u.besidePorts = { s.besidePorts with hbm := u.hbm, flt := u.flt } ∧
      u.hbm = { s.hbm with journal := Memory.putMasked s.hbm.journal (a - 0x8000000) data m } ∧
      u.flt = { s.flt with written := u.flt.written })) ∧
    (r = .journal → s.secondary = false → exec (.journalWindowWrite w) s = .next v.wdisc) ∧
    (r = .restOfWindow → exec (.discardedWrite w) s = .next v) ∧
    (r ∈ [.cellView, .rings, .nothing] → exec (.discardedWrite w) s = .next v.wdisc) ∧
    (r = .registers → ∀ i, i < 8 → m = 15 * 2 ^ (4 * i) → exec (.registerWrite w) s =
      .next (v.regWrite ((a + 4 * i) / 16 * 16) ((a + 4 * i) / 4 % 4) (BitVec.ofNat 32 (data.toNat / 2 ^ (32 * i))))) ∧
    (r = .registers → (∀ i, i < 8 → m / 2 ^ (4 * i) % 16 ≠ 15) → exec (.registerWrite w) s = .next v)

/-- The write commands of a port and the ranges each is for. -/
def Sys2Proof.Claims.portWrites (w : HostWrite) : List (Instr × List Range) :=
  [(.ingressWrite w, [.ingress]), (.doorbell w, [.cells]), (.imageWindowWrite w, [.image]), (.journalWindowWrite w, [.journal]),
   (.registerWrite w, [.registers]), (.discardedWrite w, [.restOfWindow, .cellView, .rings, .nothing])]

/-- Every write command of a port: a BL32 write is its two bursts in order, each judged by its own address (R335); while the port does not
answer nothing happens, and while the engine clock stands the bursts are counted and discarded (R456). -/
def Sys2Proof.Claims.LongWritesAreTwoBursts : Prop :=
  ∀ (s : State) (w : HostWrite), ∀ e ∈ Claims.portWrites w, rangeOf w.addr.toNat ∈ e.2 →
    let p := w.port
    let n := if w.bl32 then 2 else 1
    let v := (s.portTime p).countWrites p n
    let a := w.addr.toNat / 64 * 64
    (s.portOpen p = false → exec e.1 s = .next s) ∧
    (s.portOpen p = true → s.engineUp = false → exec e.1 s = .next v) ∧
    (s.portOpen p = true → s.engineUp = true → w.bl32 = true →
      ∃ u, v.writeBurst p (a, BitVec.ofNat 256 w.data.toNat, w.mask.toNat % 2 ^ 32) = .next u ∧
        exec e.1 s = u.writeBurst p (a + 32, BitVec.ofNat 256 (w.data.toNat / 2 ^ 256), w.mask.toNat / 2 ^ 32 % 2 ^ 32) ∧
        ∃ t, exec e.1 s = .next t)

/-- Writes of a host port (R37, R39, R330, R332, R335, R456, R469). -/
def Obligations.HostWritesByRange : Prop :=
  Claims.OneBurstIsWritten ∧ Claims.LongWritesAreTwoBursts

/-- A read command (R334, R338, R339, R456): once the port answers, it completes with the data of one burst, or of two, the second taken
from the state that the first has left; the port counts them, and nothing but the port's own data changes beside what the source of a
read itself moves; with the engine clock stopped every read is zero. -/
def Sys2Proof.Claims.ReadsComplete : Prop :=
  ∀ (s : State) (p : Bool) (addr : BitVec 32) (ue : Bool),
    let s0 := s.portTime p
    let a := addr.toNat / 32 * 32
    let b := addr.toNat / 64 * 64
    let r := s0.readBurst p a ue
    let r1 := s0.readBurst p b ue
    let r2 := r1.2.readBurst p (b + 32) ue
    let counted := fun (u : State) (n : BitVec 64) => (u.port p).rbursts = (s.port p).rbursts + n ∧ u.port (!p) = s.port (!p)
    (s.portOpen p = false → ∀ bl32, exec (.hostRead p addr bl32 ue) s = .next s) ∧
    (s.portOpen p = true → s.engineUp = false → ∀ bl32, Completes (.hostRead p addr bl32 ue) s (fun u =>
      u.besidePorts = s.besidePorts ∧ counted u (if bl32 then 2#64 else 1#64) ∧ (u.port p).out = 0#512)) ∧
    (s.portOpen p = true → s.engineUp = true →
      Completes (.hostRead p addr false ue) s (fun u =>
        u.besidePorts = r.2.besidePorts ∧ counted u 1#64 ∧ (u.port p).out = BitVec.ofNat 512 (r.1 % 2 ^ 256)) ∧
      Completes (.hostRead p addr true ue) s (fun u =>
        u.besidePorts = r2.2.besidePorts ∧ counted u 2#64 ∧
        (u.port p).out = BitVec.ofNat 512 (r1.1 % 2 ^ 256 + 2 ^ 256 * (r2.1 % 2 ^ 256))))

/-- What a burst at an aligned address shows (R43, R305, R330, R331, R340, R341, R385, R397, R455): doorbell cells of both ports, index
entries, record lines and read-ahead lines show what they hold, the register window shows each register in its four words, every
other range zero; only a read of IND_DATA with AINC, and a ring word that fails its check, change anything. -/
def Sys2Proof.Claims.BurstsShowState : Prop :=
  ∀ (s : State) (p : Bool) (a : Nat) (ue : Bool), a % 32 = 0 →
    let r := s.readBurst p a ue
    (rangeOf a ∈ [.restOfWindow, .image, .ingress, .nothing] → r = (0, s)) ∧
    (rangeOf a = .cells → r = (if a % 64 = 32 then s.cellHigh (512 * b2n p + (a - 0x1000000) / 64) else 0, s)) ∧
    (rangeOf a = .cellView → r = (if a % 64 = 32 then s.cellHigh (512 * b2n (!p) + (a - 0x1008000) / 64) else 0, s)) ∧
    (rangeOf a = .rings →
      let o := a - 0x4000000
      let st := o / 0x10000
      let k := 512 * st + o % 0x10000 / 8
      let line := o % 0x10000 / 64
      (o % 0x10000 < 4096 →
        (∀ i, i < 4 → r.1 / 2 ^ (64 * i) % 2 ^ 64 = (tget 0#64 s.egr.index (k + i)).toNat) ∧
        r.2 = if ue = false then s else if s.egr.damaged.contains k then s.deviceFault 8
          else { s with egr := { s.egr with damaged := s.egr.damaged ++ [k] } }) ∧
      (4096 ≤ o % 0x10000 →
        r.1 = (tget 0#512 s.egr.lines (1024 * st + line)).toNat / 2 ^ (256 * (a / 32 % 2)) % 2 ^ 256 ∧
        (ue = false → r.2 = s) ∧
        (ue = true → r.2.reg Reg.egrUeCnt = s.reg Reg.egrUeCnt + 1#32 ∧ r.2.rbit Reg.egrStat 2 = true ∧ r.2.egr.lines = s.egr.lines))) ∧
    (rangeOf a = .journal →
      let o := a - 0x8000000
      let l := tget (0, []) s.landed.stm.jra (o / 2048 % 512)
      r.2 = s ∧ (l.1 ≠ o / 2048 + 1 → r.1 = 0) ∧
      (l.1 = o / 2048 + 1 → ∀ i, i < 32 → r.1 / 2 ^ (8 * i) % 2 ^ 8 = (l.2.getD (o % 2048 + i) 0#8).toNat)) ∧
    (rangeOf a = .registers →
      (a % 0x10000 ≠ 0xFF20 → r.2 = s ∧ ∀ j, j < 8 →
        let reg := a + 16 * (j / 4)
        reg ≠ Reg.devReset → reg ≠ Reg.fltLease → r.1 / 2 ^ (32 * j) % 2 ^ 32 = (s.readReg reg).toNat) ∧
      (a % 0x10000 = 0xFF20 → r.2 = (s.indDataRead (a / 0x10000)).2 ∧
        r.1 % 2 ^ 32 = (s.indDataRead (a / 0x10000)).1.toNat))

/-- Reads of a host port. -/
def Obligations.HostReadsShowState : Prop :=
  Claims.ReadsComplete ∧ Claims.BurstsShowState

/-! ## Registers (13_registers) -/

/-- Field access (R384 to R389): the value, set, clear and toggle words of a read-write register; a configuration field keeps its
value while EN is 1, and CFGIGN and its counter record a write that would have changed it. -/
def Sys2Proof.Claims.FieldWritesByAlias : Prop :=
  ∀ (s : State) (v : Word),
    (s.regWrite Reg.devScratch0 0 v).reg Reg.devScratch0 = v ∧
    (s.regWrite Reg.devScratch0 1 v).reg Reg.devScratch0 = s.reg Reg.devScratch0 ||| v ∧
    (s.regWrite Reg.devScratch0 2 v).reg Reg.devScratch0 = s.reg Reg.devScratch0 &&& ~~~v ∧
    (s.regWrite Reg.devScratch0 3 v).reg Reg.devScratch0 = s.reg Reg.devScratch0 ^^^ v ∧
    (∀ k, k < 4 → ∀ a, a ≠ Reg.devScratch0 → (s.regWrite Reg.devScratch0 k v).reg a = s.reg a) ∧
    (s.blockEn 1 = false → (s.regWrite Reg.admMaxWait 0 v).reg Reg.admMaxWait = v) ∧
    (s.blockEn 1 = true → (s.regWrite Reg.admMaxWait 0 v).reg Reg.admMaxWait = s.reg Reg.admMaxWait ∧
      (v ≠ s.reg Reg.admMaxWait → (s.regWrite Reg.admMaxWait 0 v).rbit Reg.admStat 31 = true ∧
        (s.regWrite Reg.admMaxWait 0 v).reg Reg.admCfgignCnt = s.reg Reg.admCfgignCnt + 1#32) ∧
      (v = s.reg Reg.admMaxWait → (s.regWrite Reg.admMaxWait 0 v).reg Reg.admCfgignCnt = s.reg Reg.admCfgignCnt)) ∧
    (s.regWrite Reg.devAlert 2 v).reg Reg.devAlert = s.reg Reg.devAlert &&& ~~~(v &&& 0x3FF#32) ∧
    (s.regWrite Reg.devAlert 0 v).reg Reg.devAlert = s.reg Reg.devAlert ∧
    (s.regWrite Reg.admOverrunCnt 0 v).reg Reg.admOverrunCnt = s.reg Reg.admOverrunCnt

/-- Snapshots and the indirect pair (R392 to R398): TAKE copies the counters of the block and sets BUSY, and joins a snapshot that
runs; its completion advances SNAP_SEQ; a write of IND_ADDR starts a read, whose completion brings the word; a write of IND_DATA is
carried out; a read with AINC moves ADDR; an access that meets BUSY only sets OVR; a word of a tile's SRAM or slots is checked as it is
read (R74), and what stands for one that cannot be read is a free value. -/
def Sys2Proof.Claims.SnapshotsAndIndirectAccess : Prop :=
  ∀ (s : State) (block : BitVec 5) (v : Word) (ecc : Ecc), s.engineUp = true → block.toNat < 18 →
    let b := block.toNat
    let at_ := (s.reg (indAddr b)).toNat
    let inTile := b = 4 ∧ isTile (BitVec.ofNat 16 (at_ / 65536 % 16384)) = true ∧ at_ % 65536 < 0xC400
    (s.rbit (snapReg b) 1 = true → exec (.snapTake block) s = .next s) ∧
    (s.rbit (snapReg b) 1 = false → Completes (.snapTake block) s (fun u => u.rbit (snapReg b) 1 = true ∧
      (∀ a, a ≠ snapReg b → u.reg a = s.reg a) ∧ u.adm = s.adm ∧ u.ctx = s.ctx ∧
      ∀ a ∈ counters b, tget 0#32 u.hold a = s.readReg a)) ∧
    (s.rbit (snapReg b) 1 = true → Completes (.snapComplete block) s (fun u => u.rbit (snapReg b) 1 = false ∧
      fld (u.reg (snapReg b)) 31 16 = (fld (s.reg (snapReg b)) 31 16 + 1) % 2 ^ 16 ∧ u.hold = s.hold ∧
      ∀ a, a ≠ snapReg b → u.reg a = s.reg a)) ∧
    (s.indBusy b = true →
      exec (.indAddrWrite block 0#2 v) s = .next (s.setBits (indCtl b) 0x4#32) ∧
      exec (.indDataWrite block v) s = .next (s.setBits (indCtl b) 0x4#32) ∧
      exec (.indDataRead block) s = .next (s.setBits (indCtl b) 0x4#32)) ∧
    (s.indBusy b = false →
      Completes (.indAddrWrite block 0#2 v) s (fun u => u.reg (indAddr b) = v &&& 0xFFFFFFFC#32 ∧ u.indBusy b = true ∧ tget 0 u.ind b = 1 ∧
        u.adm = s.adm ∧ u.fab = s.fab) ∧
      Completes (.indDataWrite block v) s (fun u => u.indBusy b = true ∧ tget 0 u.ind b = 2 ∧
        (b ∉ [4, 5, 9, 13] → u.reg (indAddr b) = s.reg (indAddr b) ∧ u.reg (indData b) = v ∧ u.fab = s.fab ∧ u.adm = s.adm)) ∧
      (s.rbit (indCtl b) 0 = false → exec (.indDataRead block) s = .next s) ∧
      (s.rbit (indCtl b) 0 = true → Completes (.indDataRead block) s (fun u => u.reg (indAddr b) = s.reg (indAddr b) + 4#32 ∧
        u.indBusy b = true ∧ tget 0 u.ind b = 1 ∧ u.adm = s.adm ∧ u.fab = s.fab))) ∧
    (s.indBusy b = false → exec (.indAccessComplete ⟨block, ecc⟩) s = .next s) ∧
    (s.indBusy b = true → Completes (.indAccessComplete ⟨block, ecc⟩) s (fun u => u.indBusy b = false ∧
      (tget 0 s.ind b = 1 → u.reg (indAddr b) = s.reg (indAddr b) ∧
        (ecc ≠ .uncorrectable ∨ ¬inTile → u.reg (indData b) = s.indRead b at_ ∧ u.adm = s.adm ∧ u.fab = s.fab) ∧
        (ecc = .corrected → inTile → u.reg Reg.fabEccCorrCnt = s.reg Reg.fabEccCorrCnt + 1#32) ∧
        (ecc = .uncorrectable → inTile → at_ % 65536 < 0xC000 →
          u.reg (indData b) = BitVec.ofNat 32 s.free.1.toNat ∧ u.reg Reg.fabEccUncorrCnt = s.reg Reg.fabEccUncorrCnt + 1#32 ∧
          u.rbit Reg.fabStat 9 = true ∧ u.adm = s.adm ∧ u.fab = s.fab)) ∧
      (tget 0 s.ind b = 2 → u.reg (indAddr b) = s.reg (indAddr b) + (if s.rbit (indCtl b) 0 then 4#32 else 0#32) ∧
        u.adm = s.adm ∧ u.fab = s.fab)))

/-- The soft reset request and the mailbox (R373, R402, R403): the key is taken once, by its way in; a submitted request joins the
queue while EN is 1 and BUSY 0, and is counted as ignored otherwise. -/
def Sys2Proof.Claims.ResetKeyAndMailbox : Prop :=
  ∀ (s : State) (via : Bool) (key v : Word), s.engineUp = true →
    (key ≠ 0xB0070001#32 → exec (.softReset via key) s = .next s) ∧
    (s.dev.pendingReset ≠ none → exec (.softReset via key) s = .next s) ∧
    (s.dev.pendingReset = none → Completes (.softReset via 0xB0070001#32) s (fun u =>
      u.dev = { s.dev with pendingReset := some (if via then 2#4 else 1#4) } ∧ u.devState = 2 ∧
      (∀ a, a ≠ Reg.devStat → u.reg a = s.reg a) ∧ u.adm = s.adm ∧ u.fab = s.fab)) ∧
    (s.blockEn 17 = true → s.rbit Reg.mbxStat 0 = false → Completes (.mbxSubmit v) s (fun u =>
      u.dict.queue = s.dict.queue ++ [(.mailbox, (upto (fld v 10 0)).map s.reqByte)] ∧ u.rbit Reg.mbxStat 0 = true ∧
      u.rbit Reg.mbxStat 1 = false ∧ u.reg Reg.mbxSubmit = v &&& 0x7FF#32 ∧ u.reg Reg.mbxIgnCnt = s.reg Reg.mbxIgnCnt ∧ u.adm = s.adm)) ∧
    ((s.blockEn 17 = false ∨ s.rbit Reg.mbxStat 0 = true) → exec (.mbxSubmit v) s = .next (s.count Reg.mbxIgnCnt 1))

/-- The register window beyond plain words (R373, R384 to R398, R403). -/
def Obligations.SnapshotsFieldsAndKeys : Prop :=
  Claims.SnapshotsAndIndirectAccess ∧ Claims.FieldWritesByAlias ∧ Claims.ResetKeyAndMailbox

/-! ## The object dictionary and stored profiles (12_dictionary) -/

/-- The state as it is when the oldest request has been taken from the queue. -/
def Sys2Proof.Claims.popped (s : State) (rest : List (Src × List Byte)) : State := { s with dict := { s.dict with queue := rest } }

/-- Datagrams and their replies (R366, R369, R370, R371): with an address in use a datagram of one whole message joins the requests and
is counted in REQUESTS, any other is discarded and counted in REQUESTS_REFUSED; UDP_ACCESS 0, and 1 for a WRITE, reply 0x060B; a
malformed message gets 0x060A; a WRITE whose reply is kept is answered again and nothing else happens; a segmented write that waits
10 s is discarded. -/
def Sys2Proof.Claims.DatagramsAndAccess : Prop :=
  ∀ (s : State) (ip : BitVec 32) (port : BitVec 16) (bs : List Byte) (rest : List (Src × List Byte)),
    let r := parseReq bs
    let whole := 16 ≤ bs.length ∧ bs.length = r.size ∧ bs.length ≤ 1040
    let v := Claims.popped s rest
    let only := fun (u w : State) => u.regs = w.regs ∧ u.sec = w.sec ∧ u.flash = w.flash ∧ u.img = w.img ∧ u.adm = w.adm ∧
      u.dict.queue = w.dict.queue ∧ u.dict.objs = w.dict.objs
    let refused := fun (u w : State) => u.regs = w.regs ∧ u.sec = w.sec ∧ u.flash = w.flash ∧ u.img = w.img ∧ u.adm = w.adm ∧
      u.dict.queue = w.dict.queue ∧ u.objVal (okey 0x1010 8) 0 = (w.objVal (okey 0x1010 8) 0 + 1) % 2 ^ 32 ∧
      ∀ k, k ≠ okey 0x1010 8 → u.objVal k 0 = w.objVal k 0
    let access := s.objVal (okey 0x1010 5) 2
    let answered := if r.op = 2 then s.replayOf ip port (BitVec.ofNat 16 r.txn) else none
    (s.ethUp = true → s.linkState = 2 → whole → Completes (.udpDatagram ip port bs) s (fun u =>
      u.dict.queue = s.dict.queue ++ [(.udp ip port, bs)] ∧ u.objVal (okey 0x1010 7) 0 = (s.objVal (okey 0x1010 7) 0 + 1) % 2 ^ 32 ∧
      (∀ k, k ≠ okey 0x1010 7 → u.objVal k 0 = s.objVal k 0) ∧ u.regs = s.regs ∧ u.dict.udpOut = s.dict.udpOut)) ∧
    (s.ethUp = true → s.linkState = 2 → ¬whole → Completes (.udpDatagram ip port bs) s (fun u => refused u s ∧ u.dict.udpOut = s.dict.udpOut)) ∧
    ((s.ethUp = false ∨ s.linkState ≠ 2) → exec (.udpDatagram ip port bs) s = .next s) ∧
    (∀ i, i ∈ [.uhledRead, .uhledWrite, .uhledInfo] → s.dict.queue = [] → exec i s = .next s) ∧
    (s.dictUp = true → s.dict.queue = (.udp ip port, bs) :: rest →
      (∀ i, (i, r.op) ∈ [(.uhledRead, 1), (.uhledWrite, 2), (.uhledInfo, 3)] →
        (∀ old, answered = some old → Completes i s (fun u => only u v ∧ u.dict.udpOut = some (ip, port, old) ∧ u.dict.replies = s.dict.replies)) ∧
        (answered = none → (access = 0 ∨ (access = 1 ∧ r.op = 2)) → Completes i s (fun u => refused u v ∧
          u.dict.udpOut = some (ip, port, r.reply 0x060B false []))) ∧
        (answered = none → (2 ≤ access ∨ (access = 1 ∧ r.op ≠ 2)) → r.malformed = true → Completes i s (fun u => only u v ∧
          u.dict.udpOut = some (ip, port, r.reply 0x060A false []))))) ∧
    (∀ g, s.dict.seg = some g → s.dictUp = true → Completes .segmentTimeout s (fun u => u.dict.seg = none ∧
      u.sec = { s.sec with fwState := 0 } ∧ u.flash = s.flash ∧ u.regs = s.regs ∧ g.at_ + 1000000000 ≤ u.clock.now)) ∧
    (s.dict.seg = none → exec .segmentTimeout s = .next s)

/-- Requests carried out (R353, R355, R359, R365, R367, R373): READ and INFO change nothing but the queue and the reply; a WRITE is
refused with the abort code of the first rule it breaks and leaves every object as it was; an accepted value of an object without an
action is put in place; NEXT_PROFILE takes 0 to 3 and 0xFF only; through the mailbox the reply sets DONE, clears BUSY and is counted. -/
def Sys2Proof.Claims.RequestsAreCarriedOut : Prop :=
  ∀ (s : State) (ip : BitVec 32) (port : BitVec 16) (bs : List Byte) (rest : List (Src × List Byte)),
    let r := parseReq bs
    let v := Claims.popped s rest
    let access := s.objVal (okey 0x1010 5) 2
    (s.dictUp = true → s.dict.queue = (.udp ip port, bs) :: rest → r.malformed = false →
      (r.op = 1 → 1 ≤ access → exec .uhledRead s = .next { v with dict := { v.dict with udpOut := some (ip, port, v.readObj r) } }) ∧
      (r.op = 3 → 1 ≤ access → exec .uhledInfo s = .next { v with dict := { v.dict with udpOut := some (ip, port, v.infoObj r) } }) ∧
      (r.op = 2 → 2 ≤ access → s.replayOf ip port (BitVec.ofNat 16 r.txn) = none →
        let refusal := fun (code : Nat) => exec .uhledWrite s = .next (v.udpReply ip port r (r.reply code false []))
        (∀ c, s.find r.index r.sub = .inl c → refusal c) ∧
        (∀ o, s.find r.index r.sub = .inr o →
          (o.access = 0 ∨ o.access = 4 → refusal 0x0603) ∧
          (o.access ≠ 0 → o.access ≠ 4 → o.type ≠ 13 →
            ((r.last = false ∨ r.offset ≠ 0) → refusal 0x0609) ∧
            (r.last = true → r.offset = 0 → r.length ≠ v.objSize r.index r.sub o → refusal 0x0606) ∧
            (r.last = true → r.offset = 0 → r.length = v.objSize r.index r.sub o →
              (o.access = 3 → s.blockEn o.block = true → refusal 0x0605) ∧
              ((o.access ≠ 3 ∨ s.blockEn o.block = false) → v.actionWrite r.index r.sub (leNum r.data) r.data = none →
                (v.objAccepts r.index r.sub o false (leNum r.data) = false → refusal 0x0607) ∧
                (v.objAccepts r.index r.sub o false (leNum r.data) = true → exec .uhledWrite s =
                  .next ((v.objPut r.index r.sub (leNum r.data)).udpReply ip port r (r.reply 0 false [])))))) ∧
          (s.recovering = false → r.index = 0x2000 → r.sub = 1 → r.last = true → r.offset = 0 → r.length = 1 →
            Completes .uhledWrite s (fun u => u.objVal (okey 0x2000 1) 0xFF =
              if leNum r.data ≤ 3 ∨ leNum r.data = 0xFF then leNum r.data else s.objVal (okey 0x2000 1) 0xFF))))) ∧
    (s.dictUp = true → s.engineUp = true → s.dict.queue = (.mailbox, bs) :: rest →
      ∀ i, (i, r.op) ∈ [(.uhledRead, 1), (.uhledInfo, 3)] → Completes i s (fun u =>
        u.rbit Reg.mbxStat 0 = false ∧ u.rbit Reg.mbxStat 1 = true ∧ u.reg Reg.mbxReqCnt = s.reg Reg.mbxReqCnt + 1#32 ∧
        u.dict = v.dict ∧ u.adm = s.adm ∧ u.img = s.img ∧ u.sec = s.sec)) ∧
    s.find 0x3020 0x09 = (if s.recovering then .inl 0x0601 else .inl 0x0602)

/-- Stored profiles (R374, R379, R380): a command while PROFILE_STATE is not 0 changes nothing; SAVE takes the live values at once and
waits within 1 s of the last; its completion writes the record after the newest and leaves the others, a failed one keeps them; ERASE
empties three positions of one profile; DEFAULTS leaves the flash; a written digest of the active profile is in force at once. -/
def Sys2Proof.Claims.ProfileCommands : Prop :=
  ∀ (s : State) (failed : Bool) (p : BitVec 2) (r : PRecord) (d : BitVec 512), s.fwUp = true →
    let beside := fun (u w : State) => u.regs = w.regs ∧ u.adm = w.adm ∧ u.img = w.img ∧ u.fab = w.fab ∧ u.ctx = w.ctx
    (s.dict.pstate ≠ 0 → ∀ i, i ∈ [.save, .defaults, .erase, .imageDigestWrite p d] → exec i s = .next s) ∧
    (s.dict.pstate = 0 →
      Completes .save s (fun u => u = { s with dict := u.dict } ∧ u.dict.pstate = 1 ∧ u.dict.digest = s.dict.digest ∧
        (∃ gen, u.dict.saving = some (s.dict.active, ⟨gen, s.fwRunning, s.dict.digest, s.liveEntries⟩)) ∧
        (u.dict.deferred = true ↔ ∃ t, s.dict.savedAt = some t ∧ s.clock.now < t + 100000000)) ∧
      Completes .erase s (fun u => u = { s with dict := { s.dict with erasing := u.dict.erasing, pstate := 2 } }) ∧
      Completes .defaults s (fun u => u.dict.pstate = 3 ∧ u.flash = s.flash ∧ u.dict.saving = s.dict.saving ∧
        ∀ st, st < 1024 → u.objVal (okey (0x4000 + st) 1) 1 = 1) ∧
      Completes (.imageDigestWrite p d) s (fun u => u = { s with dict := u.dict } ∧ u.dict.pstate = 1 ∧
        u.dict.digest = (if p = s.dict.active then d else s.dict.digest) ∧
        ∃ gen, u.dict.saving = some (p, ⟨gen, s.fwRunning, d, if p = s.dict.active then s.liveEntries
          else match (s.profile p.toNat).newest with | some n => n.2.entries | none => []⟩))) ∧
    (s.dict.deferred = true → Completes .saveDeferredStart s (fun u => u.dict = { s.dict with deferred := false } ∧ beside u s ∧
      s.dict.savedAt.getD 0 + 100000000 ≤ u.clock.now)) ∧
    (s.dict.deferred = false → exec .saveDeferredStart s = .next s) ∧
    (s.dict.saving = some (p, r) → s.dict.pstate = 1 → s.dict.deferred = false → Completes (.saveComplete failed) s (fun u =>
      let x := s.profile p.toNat
      let y := u.profile p.toNat
      u.dict.pstate = 0 ∧ u.dict.saving = none ∧ u.dict.savedAt = some s.clock.now ∧
      (∀ q, q ≠ p.toNat → u.profile q = s.profile q) ∧ u.flash.log = s.flash.log ∧ u.flash.bankA = s.flash.bankA ∧
      (∀ i, i < 3 → i ≠ x.next → y.at_ i = x.at_ i) ∧
      (5450 < r.entries.length → u.dict.presult = 2 ∧ u.flash = s.flash) ∧
      (r.entries.length ≤ 5450 → failed = true → u.dict.presult = 1 ∧ y.at_ x.next ∈ [.erased, .damaged]) ∧
      (r.entries.length ≤ 5450 → failed = false → u.dict.presult = 0 ∧ y.at_ x.next = .valid r))) ∧
    (s.dict.pstate = 2 → Completes (.eraseComplete failed) s (fun u => u.dict.pstate = 0 ∧ u.dict.presult = b2n failed ∧
      (∀ q, q ≠ s.dict.erasing.toNat → u.profile q = s.profile q) ∧
      (failed = false → (u.profile s.dict.erasing.toNat).positions = [.erased, .erased, .erased]) ∧
      ∀ i, i < 3 → (u.profile s.dict.erasing.toNat).at_ i ∈ [.erased, .damaged, (s.profile s.dict.erasing.toNat).at_ i])) ∧
    (s.dict.pstate = 3 → exec .defaultsComplete s = .next { s with dict := { s.dict with pstate := 0, presult := 0 } }) ∧
    (s.dict.pstate ≠ 3 → exec .defaultsComplete s = .next s)

/-- The bytes of a record (R375): its fixed fields, its CRC over all before it and over the entries, and twelve bytes an entry. -/
def Sys2Proof.Claims.RecordBytes : Prop :=
  ∀ (p : Nat) (r : PRecord), p < 4 → r.entries.length ≤ 5450 →
    let bs := r.bytes p
    let num := fun (o n : Nat) => leNum ((bs.drop o).take n)
    bs.length = 0x80 + 12 * r.entries.length ∧ num 0 4 = 0x52505943 ∧ num 4 2 = 1 ∧ num 6 1 = p ∧ num 8 4 = r.gen.toNat ∧
    num 0xC 4 = r.fw.toNat ∧ num 0x10 2 = r.entries.length ∧ num 0x14 64 = r.digest.toNat ∧
    num 0x7C 4 = (crc32c (bs.take 0x7C ++ bs.drop 0x80)).toNat ∧
    ∀ i e, r.entries[i]? = some e → e.1 < 2 ^ 24 → e.2.1 < 256 →
      num (0x80 + 12 * i) 2 = e.1 / 256 ∧ num (0x82 + 12 * i) 1 = e.1 % 256 ∧ num (0x83 + 12 * i) 1 = e.2.1 ∧
      num (0x84 + 12 * i) 8 = e.2.2.toNat

/-- Stored profiles: what the commands do, and the record's bytes. -/
def Obligations.ProfilesAreKept : Prop :=
  Claims.ProfileCommands ∧ Claims.RecordBytes

/-! ## Start-up, signatures and attestation (15_boot_security) -/

/-- Installing firmware (R366, R444): the first segment erases the bank that is not running, the segments come in order and the last
writes the whole; a broken order drops them; the verification names VERIFIED or REJECTED; only VERIFIED is activated; the running bank
is never touched; FW_MIN_VERSION only rises. -/
def Obligations.FirmwareIsInstalledWhole : Prop :=
  ∀ (s : State) (off : BitVec 32) (bs : List Byte) (v : Word), s.dictUp = true →
    let src : Src := if s.blockEn 17 then .mailbox else .udp 0 0
    let b := s.inactive
    let keeps := fun (u : State) => u.bankBytes (!b) = s.bankBytes (!b) ∧ u.flash.preferred = s.flash.preferred ∧ u.flash.keys = s.flash.keys ∧
      u.flash.keySt = s.flash.keySt ∧ u.flash.profiles = s.flash.profiles ∧ u.flash.fwMin = s.flash.fwMin ∧ u.sec.running = s.sec.running
    (s.dict.seg = none → s.sec.fwVerify = false → off = 0#32 → bs.length ≤ 425984 →
      Completes (.fwUpdate off false bs) s (fun u => keeps u ∧ u.bankBytes b = [] ∧ u.sec.fwState = 1 ∧ u.regs = s.regs ∧
        u.dict.seg = some ⟨src, okey 0xA010 1, bs, s.clock.now⟩)) ∧
    (s.dict.seg = none → off ≠ 0#32 → exec (.fwUpdate off false bs) s = .next s ∧ exec (.fwUpdate off true bs) s = .next s) ∧
    (∀ g, s.dict.seg = some g → g.src.same src = true →
      (off.toNat ≠ g.bytes.length → ∀ last, Completes (.fwUpdate off last bs) s (fun u => u.dict.seg = none ∧ u.sec.fwState = 0 ∧ u.flash = s.flash)) ∧
      (off.toNat = g.bytes.length → g.bytes.length + bs.length ≤ 425984 →
        Completes (.fwUpdate off false bs) s (fun u => u.flash = s.flash ∧ u.sec = s.sec ∧ u.regs = s.regs ∧
          u.dict.seg = some { g with bytes := g.bytes ++ bs, at_ := s.clock.now }) ∧
        Completes (.fwUpdate off true bs) s (fun u => keeps u ∧ u.bankBytes b = g.bytes ++ bs ∧ u.dict.seg = none ∧ u.sec.fwState = 2 ∧
          u.sec.fwVerify = true ∧ u.rbit Reg.secStat 0 = true))) ∧
    (s.up = true → s.sec.fwVerify = true → Completes .fwUpdateVerifyEnd s (fun u => u.flash = s.flash ∧ u.sec.fwVerify = false ∧
      u.sec.fwResult = s.bankCheck (s.bankBytes b) ∧ u.sec.fwState = (if s.bankCheck (s.bankBytes b) = 0 then 3 else 4) ∧
      u.reg Reg.secVerifyCnt = s.reg Reg.secVerifyCnt + 1#32 ∧
      u.reg Reg.secVerifyFailCnt = s.reg Reg.secVerifyFailCnt + (if s.bankCheck (s.bankBytes b) = 0 then 0#32 else 1#32))) ∧
    (s.sec.fwVerify = false → exec .fwUpdateVerifyEnd s = .next s) ∧
    (s.sec.fwState = 3 → exec .activate s = .next { s with flash := { s.flash with preferred := b } }) ∧
    (s.sec.fwState ≠ 3 → exec .activate s = .next s) ∧
    (s.sec.fwState ≠ 1 → s.sec.fwVerify = false → Completes .eraseInactive s (fun u => keeps u ∧ u.bankBytes b = [] ∧
      u.sec = { s.sec with fwState := 0 } ∧ u.regs = s.regs ∧ u.dict = s.dict)) ∧
    ((s.sec.fwState = 1 ∨ s.sec.fwVerify = true) → exec .eraseInactive s = .next s) ∧
    (s.flash.fwMin < v → v ≤ s.fwRunning → exec (.fwMinVersionWrite v) s = .next { s with flash := { s.flash with fwMin := v } }) ∧
    ((v ≤ s.flash.fwMin ∨ s.fwRunning < v) → exec (.fwMinVersionWrite v) s = .next s)

/-- Key slots and attestation (R442, R446, R447, R448): an owner slot takes a key only while EMPTY and no image is COMMITTED, and becomes
ACTIVE; revocation is for every slot but 0; SIGN takes the 640 bytes of the report at acceptance, yields to a verification, and ends with
a report of 30,624 bytes. -/
def Obligations.KeysAndAttestation : Prop :=
  ∀ (s : State) (k : BitVec 3) (key : BitVec 512), s.fwUp = true →
    (2 ≤ k.toNat → k.toNat < 6 → s.committed = false → s.keyState k.toNat = 0 → Completes (.publicKeyWrite k key) s (fun u =>
      u = { s with flash := u.flash } ∧ u.keyState k.toNat = 1 ∧ u.keyOf k.toNat = key ∧
      ∀ j, j ≠ k.toNat → u.keyState j = s.keyState j ∧ u.keyOf j = s.keyOf j)) ∧
    ((k.toNat < 2 ∨ 6 ≤ k.toNat ∨ s.committed = true ∨ s.keyState k.toNat ≠ 0) → exec (.publicKeyWrite k key) s = .next s) ∧
    (1 ≤ k.toNat → k.toNat < 6 → Completes (.revoke k) s (fun u => u = { s with flash := u.flash } ∧ u.keyState k.toNat = 2 ∧
      u.flash.keys = s.flash.keys ∧ ∀ j, j ≠ k.toNat → u.keyState j = s.keyState j)) ∧
    ((k = 0#3 ∨ 6 ≤ k.toNat) → exec (.revoke k) s = .next s) ∧
    (s.sec.attest ≠ 1 → Completes .sign s (fun u => u.sec = { s.sec with attest := 1, report := [], signing := s.attestPayload } ∧
      u.rbit Reg.secStat 1 = true ∧ u.img = s.img ∧ u.dict = s.dict ∧ u.flash = s.flash)) ∧
    (s.sec.attest = 1 → exec .sign s = .next s) ∧
    s.attestPayload.length = 640 ∧ (attestReport s.attestPayload).length = 30624 ∧
    (s.attestPayload.drop 0x20).take 32 = leBytes 32 s.sec.nonce.toNat ∧
    (s.attestPayload.drop 0x80).take 64 = leBytes 64 s.img.digest.toNat ∧
    (s.attestPayload.drop 0x148).take 4 = leBytes 4 (s.reg Reg.fltEpoch).toNat ∧
    (s.sec.attest = 1 → s.verifying = false → Completes .signingComplete s (fun u => u.sec.attest = 2 ∧
      u.sec.report = attestReport s.sec.signing ∧ u.rbit Reg.secStat 1 = false ∧
      u.reg Reg.secSignCnt = s.reg Reg.secSignCnt + 1#32 ∧ u.flash = s.flash ∧ u.dict = s.dict)) ∧
    ((s.sec.attest ≠ 1 ∨ s.verifying = true) → exec .signingComplete s = .next s)

/-- Requests to the dictionary, by datagram and by mailbox (R353 to R373). -/
def Obligations.RequestsAndReplies : Prop :=
  Claims.DatagramsAndAccess ∧ Claims.RequestsAreCarriedOut

/-! ## Faults, windows and paired operation (16_faults_pairs) -/

/-- A window boundary (R216, R395, R459, R479, R480): every block is copied or joins its copy, the boundary is counted, the written
length takes force, the statistics of the window are kept and start again, and the evaluation becomes due; the contents of tiles and
what the other units hold do not move. -/
def Sys2Proof.Claims.WindowBoundaryCopiesAndRestarts : Prop :=
  ∀ s : State, s.engineUp = true → s.clock.frozen = none →
    Completes .windowBoundary s (fun u =>
      u.clock.anchor = s.boundaryAt ∧ s.boundaryAt ≤ u.clock.now ∧ s.clock.now ≤ u.clock.now ∧
      u.clock.lenMs = fld (s.reg Reg.telWindow) 9 0 ∧ u.clock.early = none ∧ u.clock.synced = s.clock.early.isSome ∧
      u.reg Reg.telWindowNum = s.reg Reg.telWindowNum + 1#32 ∧ u.reg Reg.numWindow = s.reg Reg.telWindowNum + 1#32 ∧
      (∀ b, b < 18 → u.rbit (snapReg b) 1 = true ∧ fld (u.reg (snapReg b)) 31 16 = fld (s.reg (snapReg b)) 31 16) ∧
      u.num.evalDue = true ∧ u.num.hdrs = s.num.hdrs ∧
      u.tel.tempSum = s.tel.temps ∧ u.tel.voltSum = s.tel.volts ∧ u.tel.temps = [] ∧ u.tel.volts = [] ∧
      (∀ t, (u.tile t).converted = 0#64 ∧ (u.tile t).sat = 0#32 ∧ (u.tile t).ufl = 0#32 ∧ (u.tile t).sqerr = 0#64 ∧
        (u.tile t).trip = 0#32 ∧ (u.tile t).accOvf = 0#32) ∧
      (twf Tile.zero s.fab.tiles = true → ∀ t, (u.tile t).sram = (s.tile t).sram ∧ (u.tile t).s = (s.tile t).s ∧ (u.tile t).v = (s.tile t).v ∧
        (u.tile t).heldCounts = (s.tile t).counts ∧ (u.tile t).steps = (s.tile t).steps) ∧
      (twf Tile.zero s.fab.tiles = true → ∀ i, i < s.plc.pitch.length →
        (tget StageStat.zero u.num.stats i).satThresh = (tget StageStat.zero s.num.stats i).satThresh ∧
        (tget StageStat.zero u.num.stats i).sat = (s.plc.pitch.getD i []).foldl (fun a t => satAdd a (s.tile t).sat.toNat)
          (tget StageStat.zero s.num.part i).sat ∧
        (tget StageStat.zero u.num.stats i).converted = (s.plc.pitch.getD i []).foldl (fun a t => a + (s.tile t).converted)
          (tget StageStat.zero s.num.part i).converted) ∧ u.num.part = [] ∧
      u.fab.links = s.fab.links ∧ u.adm = s.adm ∧ u.ctx = s.ctx ∧ u.egr = s.egr ∧ u.img = s.img ∧ u.flt = s.flt)

/-- The evaluation of numeric events after a boundary (R217): with EN 1 every stage past a threshold, or with a carry trip, is counted
by kind, and any event sets NUM_EVENT; with EN 0, or with no event, nothing but the due mark moves. -/
def Sys2Proof.Claims.NumericEventsAreCounted : Prop :=
  ∀ s : State,
    let stages := upto s.plc.pitch.length
    let sum := fun (f : Nat → Nat) => BitVec.ofNat 32 ((stages.map f).sum)
    let done := { s with num := { s.num with evalDue := false } }
    ((s.engineUp = false ∨ s.num.evalDue = false) → exec .numEvaluation s = .next s) ∧
    (s.engineUp = true → s.num.evalDue = true →
      (s.blockEn 5 = false ∨ (∀ i, i < s.plc.pitch.length → s.stageEvents i = 0) → exec .numEvaluation s = .next done) ∧
      (s.blockEn 5 = true → Completes .numEvaluation s (fun u => u.num = done.num ∧ u.fab = s.fab ∧ u.adm = s.adm ∧
        u.reg Reg.numSatEvtCnt = s.reg Reg.numSatEvtCnt + sum (fun i => s.stageEvents i % 2) ∧
        u.reg Reg.numUflEvtCnt = s.reg Reg.numUflEvtCnt + sum (fun i => s.stageEvents i / 2 % 2) ∧
        u.reg Reg.numCarryEvtCnt = s.reg Reg.numCarryEvtCnt + sum (fun i => s.stageEvents i / 4) ∧
        ((∃ i, i < s.plc.pitch.length ∧ s.stageEvents i ≠ 0) → u.rbit Reg.devAlert 4 = true))))

/-- SYNC_IN (R7, R459): after every boundary that has come has been carried out, an edge within an eighth of the window before the boundary moves that boundary to itself, one within an eighth
after the last boundary moves the next; a second edge of a window, and any other, is only counted. -/
def Sys2Proof.Claims.SyncEdgesMoveBoundaries : Prop :=
  ∀ s0 : State, s0.up = true → s0.clock.frozen = none →
    let s := s0.openWindows
    let t := s.clock.now
    let w := msSteps s.clock.lenMs / 8
    let n := s.boundaryAt
    let ignored := exec .syncInEdge s0 = .next (s.count Reg.telSyncIgnCnt 1)
    let taken := fun (p : State → Prop) => Completes .syncInEdge s0 (fun u => p u ∧ u.clock.synced = true ∧ u.clock.now = t ∧
      u.clock.lenMs = s.clock.lenMs ∧ u.reg Reg.telSyncAccCnt = s.reg Reg.telSyncAccCnt + 1#32 ∧
      (∀ a, a ≠ Reg.telSyncAccCnt → u.reg a = s.reg a) ∧ u.adm = s.adm ∧ u.fab = s.fab)
    t = s0.clock.now ∧ (t < s0.boundaryAt → s = s0) ∧
    (s.clock.synced = true → ignored) ∧
    (s.clock.synced = false → n ≤ t + w → t < n → taken (fun u => u.boundaryAt = t ∧ u.clock.anchor = s.clock.anchor)) ∧
    (s.clock.synced = false → ¬(n ≤ t + w ∧ t < n) → s.clock.anchor ≤ t → t ≤ s.clock.anchor + w →
      taken (fun u => u.clock.anchor = t ∧ u.clock.early = s.clock.early)) ∧
    (s.clock.synced = false → ¬(n ≤ t + w ∧ t < n) → ¬(s.clock.anchor ≤ t ∧ t ≤ s.clock.anchor + w) → ignored)

/-- Leases (R461, R462, R475): an epoch below H is refused, counted, and leaves lease and H; any other becomes H and a lease of
LEASE_MS runs from now; the end of a lease in force leaves none, and only a primary with EN 1 counts and flags it. -/
def Sys2Proof.Claims.LeasesFollowEpochs : Prop :=
  ∀ (s : State) (e : Word), s.up = true →
    let over_ := ∃ t, s.flt.leaseEnd = some t ∧ t < s.clock.now
    let other := fun (u : State) => u.adm = s.adm ∧ u.fab = s.fab ∧ u.ctx = s.ctx ∧ u.hbm = s.hbm ∧ u.img = s.img ∧ u.egr = s.egr
    (e < s.epoch → ¬over_ → Completes (.leaseRenew e) s (fun u => other u ∧ u.flt = s.flt ∧ u.epoch = s.epoch ∧
      u.reg Reg.fltLeaseRefusedCnt = s.reg Reg.fltLeaseRefusedCnt + 1#32)) ∧
    (s.epoch ≤ e → Completes (.leaseRenew e) s (fun u => other u ∧ u.epoch = e ∧
      u.flt = { s.flt with leaseEnd := some (s.clock.now + 100000 * fld (s.reg Reg.fltLeaseMs) 15 0) } ∧
      u.reg Reg.fltLeaseRefusedCnt = s.reg Reg.fltLeaseRefusedCnt ∧
      (¬over_ → u.reg Reg.fltLapseCnt = s.reg Reg.fltLapseCnt) ∧
      (over_ → s.primary = true → u.reg Reg.fltLapseCnt = s.reg Reg.fltLapseCnt + 1#32))) ∧
    (∀ t, s.flt.leaseEnd = some t → Completes .leaseLapse s (fun u => other u ∧ u.flt = { s.flt with leaseEnd := none } ∧ t ≤ u.clock.now ∧
      u.epoch = s.epoch ∧ (s.primary = false → u.regs = s.regs) ∧
      (s.primary = true → u.reg Reg.fltLapseCnt = s.reg Reg.fltLapseCnt + 1#32 ∧ u.rbit Reg.fltStat 6 = true ∧ u.rbit Reg.devAlert 6 = true))) ∧
    (s.flt.leaseEnd = none → exec .leaseLapse s = .next s)

/-- Roles and acknowledgement (R460, R468, R522, R477): setting EN as primary zeroes the region, restarts head, number and
acknowledgement with no lease; as secondary it leaves nothing written and MIRROR EMPTY; under EN 1 a role that differs only counts as
ignored; an acknowledgement frees exactly the entries up to it by signed difference. -/
def Sys2Proof.Claims.RolesAndAcknowledgement : Prop :=
  ∀ (s : State) (role : BitVec 2) (v : Word),
    let other := fun (u : State) => u.adm = s.adm ∧ u.fab = s.fab ∧ u.ctx = s.ctx ∧ u.img = s.img ∧ u.egr = s.egr
    let asRole := fun (n : Nat) => (if role = 3#2 then fld (s.reg Reg.fltCtl) 2 1 else role.toNat) = n
    (s.engineUp = true → s.blockEn 14 = false →
      Completes (.pairEnable role) s (fun u => other u ∧ u.blockEn 14 = true ∧
        (asRole 1 → u.primary = true ∧ u.hbm.journal = [] ∧ u.flt.nextJ = 1 ∧ u.flt.live = [] ∧ u.flt.walk = none ∧
          u.flt.leaseEnd = none ∧ u.reg Reg.fltJrnHead = 0#32 ∧ u.reg Reg.fltJrnAck = 0#32) ∧
        (asRole 2 → u.secondary = true ∧ u.mirror = 0 ∧ u.flt.written = [] ∧ u.hbm = s.hbm ∧ u.flt.leaseEnd = s.flt.leaseEnd) ∧
        (asRole 0 → u.primary = false ∧ u.secondary = false ∧ u.hbm = s.hbm ∧ u.flt = s.flt))) ∧
    (s.engineUp = true → s.blockEn 14 = true →
      ((role = 3#2 ∨ role.toNat = fld (s.reg Reg.fltCtl) 2 1) → exec (.pairEnable role) s = .next s) ∧
      (role ≠ 3#2 → role.toNat ≠ fld (s.reg Reg.fltCtl) 2 1 → exec (.pairEnable role) s = .next (s.cfgIgn 14))) ∧
    (s.up = true → Completes (.journalAck v) s (fun u => other u ∧ u.hbm = s.hbm ∧ u.reg Reg.fltJrnAck = v ∧
      (∀ a, a ≠ Reg.fltJrnAck → u.reg a = s.reg a) ∧ u.flt = { s.flt with live := u.flt.live } ∧
      ∀ x, x ∈ u.flt.live ↔ x ∈ s.flt.live ∧ (v - BitVec.ofNat 32 x.seq).msb = true))

/-- The secondary's journal (R461, R469, R470, R471, R522): while EMPTY or BROKEN a written value looks for its entry, and only a
RESYNC_BEGIN that passes is taken, which clears the store and makes MIRROR BUILDING; while BUILDING or IN_STEP the next entry in order
is taken or refused; a refusal is counted and breaks the mirror; RESYNC_END makes it IN_STEP. -/
def Obligations.SecondaryAppliesInOrder : Prop :=
  ∀ (s : State) (v : Word), s.engineUp = true → s.faulted = false →
    let told := s.setReg Reg.fltJrnApply v
    let refusal := fun (u w : State) => u.reg Reg.fltJrnRefusedCnt = w.reg Reg.fltJrnRefusedCnt + 1#32 ∧
      u.mirror = (if w.mirror = 0 then 0 else 3) ∧ u.ctx = w.ctx ∧ u.epoch = w.epoch ∧ u.adm = w.adm ∧ u.fab = w.fab
    let k := s.flt.nextUnit
    (s.secondary = false → exec (.journalApply v) s = .next told) ∧
    (s.secondary = true → (s.mirror = 1 ∨ s.mirror = 2) →
      exec (.journalApply v) s = .next { told with flt := { s.flt with applyTo := some v } }) ∧
    (s.secondary = true → (s.mirror = 0 ∨ s.mirror = 3) →
      (s.jCandidate v = none → exec (.journalApply v) s = .next told) ∧
      (∀ c, s.jCandidate v = some c →
        ((s.jf c 8 1 ≠ 7 ∨ s.jAccepts c = false) → Completes (.journalApply v) s (fun u => refusal u s)) ∧
        (s.jf c 8 1 = 7 → s.jAccepts c = true → Completes (.journalApply v) s (fun u => u.mirror = 1 ∧ u.flt.clearing = true ∧
          u.flt.lastJ = s.jf c 0 8 ∧ u.epoch = BitVec.ofNat 32 (s.jf c 0x10 4) ∧ (∀ st j, u.slotValid st j = false) ∧
          u.adm = s.adm ∧ u.fab = s.fab)))) ∧
    (s.applyDue = false → exec .journalEntryApply s = .next s) ∧
    (s.applyDue = true → s.jAccepts k = false → Completes .journalEntryApply s (fun u => refusal u s ∧ u.mirror = 3)) ∧
    (s.applyDue = true → s.jAccepts k = true → Completes .journalEntryApply s (fun u => u.flt.lastJ = s.jf k 0 8 ∧
      u.epoch = BitVec.ofNat 32 (s.jf k 0x10 4) ∧ u.flt.nextUnit = (if s.jf k 8 1 = 15 then 0 else (k + s.jf k 0xA 2) % 2097152) ∧
      u.adm = s.adm ∧ u.fab = s.fab ∧
      (s.jf k 8 1 = 8 → u.mirror = 2 ∧ u.ctx = s.ctx) ∧ (s.jf k 8 1 = 15 → u.mirror = s.mirror ∧ u.ctx = s.ctx) ∧
      (s.jf k 8 1 = 6 → (u.sctx (s.jf k 0xC 2)).cursor = s.jf k 0x18 2 ∧ u.ctx.dir = s.ctx.dir)))

/-- Resynchronisation (R464, R473): RESYNC on a primary ends a walk and a break and writes RESYNC_BEGIN at the head; a walk lists a
stream's valid slots in rising SEQ, writes one APPEND of 33 units a slot, one STREAM of 2 units a stream, RESYNC_END last, and pauses
below 262,144 free units; the store does not change. -/
def Obligations.ResyncWalksTheStore : Prop :=
  ∀ (s : State) (w : Walk) (st : Nat), s.engineUp = true → s.faulted = false →
    let head := (s.reg Reg.fltJrnHead).toNat
    let wrote := fun (n : Nat) (u : State) => u.flt.nextJ = s.flt.nextJ + 1 ∧
      u.reg Reg.fltJrnHead = BitVec.ofNat 32 ((head + n) % 2097152) ∧ u.flt.live = s.flt.live ++ [JEntry.mk s.flt.nextJ head n] ∧
      u.ctx = s.ctx ∧ u.adm = s.adm ∧ u.fab = s.fab
    let room := fun (n : Nat) => head + n ≤ 2097152 ∧ s.jFree head n = true
    (s.primary = false → exec .resync s = .next s) ∧
    (s.primary = true → room 1 → Completes .resync s (fun u => wrote 1 u ∧ u.flt.walk = some ⟨0, [], false⟩ ∧ u.rbit Reg.fltStat 4 = false ∧
      Memory.bytes u.hbm.journal (64 * head) 64 = s.jBytes ⟨7, 0, 0, 0, 0, []⟩)) ∧
    (s.flt.walk = none → exec .resyncWalkStep s = .next s) ∧
    (s.flt.walk = some w → s.jFreeUnits < 262144 → exec .resyncWalkStep s = .next s) ∧
    (s.flt.walk = some w → 262144 ≤ s.jFreeUnits → s.primary = true → s.rbit Reg.fltStat 4 = false →
      ((∀ i, w.stream ≤ i → i < 1024 → (s.sctx i).quota = 0) → room 1 → Completes .resyncWalkStep s (fun u => wrote 1 u ∧ u.flt.walk = none)) ∧
      (w.stream ≤ st → st < 1024 → (s.sctx st).quota ≠ 0 → (∀ i, w.stream ≤ i → i < st → (s.sctx i).quota = 0) →
        let left := if w.listed = true ∧ st = w.stream then w.left else s.walkSlots st
        (∀ j rest, left = j :: rest → s.slotValid st j = true → room 33 → Completes .resyncWalkStep s (fun u => wrote 33 u ∧
          u.flt.walk = some ⟨st, rest, true⟩)) ∧
        (left = [] → room 2 → Completes .resyncWalkStep s (fun u => wrote 2 u ∧ u.flt.walk = some ⟨st + 1, [], false⟩)))) ∧
    (∀ j, j ∈ s.walkSlots st ↔ j < (s.sctx st).quota ∧ s.slotValid st j = true) ∧
    (s.walkSlots st).Pairwise (fun a b => dirSeq (s.dirAt st a) ≤ dirSeq (s.dirAt st b))

/-! ## Capture and logs (17_observability) -/

/-- Capture (R486 to R489): ARM in IDLE or DONE with a legal set-up, else only CAP_REFUSED; DISARM goes back; the trigger stops the
sectors and takes their tiles, or is held from step 2 of a re-placement; the end of the scan makes the data valid; RELEASE starts the
clocks, and with an image in force a re-placement of the stages concerned begins. -/
def Obligations.CaptureStates : Prop :=
  ∀ s : State, s.engineUp = true →
    let c := s.tel.cap
    let late := s.remapping = true ∧ 2 ≤ fld (s.reg Reg.plcStat) 3 0
    let fires := s.capState = 1 ∧ (c.trig = 0#3 ∨ (2 ≤ c.trig.toNat ∧ c.seen = true) ∨
      (c.trig = 1#3 ∧ s.clock.frozen = none ∧ 10 * (max s.clock.now s.triggerAt - s.clock.base) < 2 ^ 64))
    let secs := s.clk.capture
    let crosses := inCrossing (fun t => bit secs (sectorOf t)) (fun _ => false)
    let inForce := s.img.st = .committed ∨ s.img.st = .releasing
    (s.armOk = true → Completes .captureArm s (fun u => u.capState = 1 ∧ u.fab = s.fab ∧ u.clk = s.clk ∧ u.tel.cap.tiles = c.tiles ∧
      u.tel.cap.valid = c.valid ∧ u.tel.cap.sectors.toNat = s.capSectors ∧ u.tel.cap.prev.toNat = s.capState ∧ u.tel.log = s.tel.log)) ∧
    ((s.capState ∉ [0, 5] ∨ s.capSectors = 0 ∨ 3 < s.capTrig ∨
      (s.capMode = 1 ∧ ∃ i j, i < j ∧ j < 8 ∧ s.capSectors / 2 ^ i % 2 = 1 ∧ s.capSectors / 2 ^ j % 2 = 1)) →
      exec .captureArm s = .next (s.setBits Reg.telStat 0x100#32)) ∧
    (s.capState = 1 → Completes .captureDisarm s (fun u => u.capState = c.prev.toNat ∧ u.tel = s.tel ∧ u.clk = s.clk)) ∧
    (s.capState ≠ 1 → exec .captureDisarm s = .next s ∧ exec .captureTrigger s = .next s) ∧
    (2 ≤ c.trig.toNat → c.seen = false → exec .captureTrigger s = .next s) ∧
    (fires → ¬late → Completes .captureTrigger s (fun u => u.capState = 2 ∧ u.clk.capture = c.sectors ∧ u.fab = s.fab ∧
      u.tel.cap.tiles = s.fab.tiles.filter (fun p => bit c.sectors (p.1 / 2048)) ∧ u.tel.cap.valid = false ∧
      (c.trig = 1#3 → c.matchTime ≤ u.tel.cap.at_) ∧ u.tel.cap.digest = s.plc.pitchShown ∧ u.tel.log.head?.map (·.kind) = some 0x14#16)) ∧
    (fires → late → Completes .captureTrigger s (fun u => u.regs = s.regs ∧ u.tel.cap = { c with heldTrigger := true } ∧ u.clk = s.clk ∧ u.fab = s.fab)) ∧
    (s.capState = 2 → Completes .captureScanEnd s (fun u => u.capState = 3 ∧ u.tel.cap = { c with valid := true } ∧ u.clk = s.clk ∧ u.fab = s.fab)) ∧
    (s.capState ≠ 2 → exec .captureScanEnd s = .next s) ∧
    ((s.capState ≠ 3 ∨ s.faulted = true) → exec .captureRelease s = .next s) ∧
    (s.capState = 3 → s.faulted = false → Completes .captureRelease s (fun u => u.clk.capture = 0#8 ∧ u.clk.lifts = [] ∧ u.tel.cap = c ∧
      (∀ l, l ∈ u.fab.links ↔ l ∈ s.fab.links ∧ crosses l = false) ∧
      u.reg Reg.clkDcqLostCnt = s.reg Reg.clkDcqLostCnt + BitVec.ofNat 32 ((s.fab.links.filter crosses).length) ∧
      (¬inForce → u.capState = 5 ∧ u.remapping = s.remapping ∧ (∀ t : TileAddr, bit secs (t.toNat / 2048) = true → u.tile t = Tile.zero) ∧
        (twf Tile.zero s.fab.tiles = true → ∀ t : TileAddr, bit secs (t.toNat / 2048) = false → u.tile t = s.tile t)) ∧
      (inForce → u.capState = 4 ∧ u.remapping = true ∧ u.plc.capture = true ∧ ∀ i ∈ s.capturedStages secs, i ∈ u.plc.affected)))

/-- Writing to flash (R481, R483): retirements first and each kept for good; an entry of CLASS 1, and a START, always; one of CLASS 0
under a bucket of 16 that gains one a second, else it is counted as held; the log holds at most 10,240 entries. -/
def Obligations.FlashLogKeepsFaults : Prop :=
  ∀ (s : State) (e : LogEntry) (es : List LogEntry) (r : Retire) (rs : List Retire), s.up = true →
    (s.tel.toRetire = r :: rs → exec .flashLogWrite s =
      .next { s with flash := { s.flash with retired := s.flash.retired ++ [r] }, tel := { s.tel with toRetire := rs } }) ∧
    (s.tel.toRetire = [] → s.tel.toFlash = [] → exec .flashLogWrite s = .next s) ∧
    (s.tel.toRetire = [] → s.tel.toFlash = e :: es →
      Completes .flashLogWrite s (fun u => u.tel.toFlash = es ∧ u.flash.retired = s.flash.retired ∧ u.tel.log = s.tel.log ∧
        (s.flash.log.length ≤ 10240 → u.flash.log.length ≤ 10240) ∧
        ((e.cls ≠ 0#8 ∨ e.kind = 1#16 ∨ s.bucketNow ≠ 0) → u.flash.log.getLast? = some e ∧ u.flash.logged = s.flash.logged + 1 ∧ u.regs = s.regs) ∧
        (e.cls ≠ 0#8 → u.tel.bucket = s.bucketNow) ∧ (e.cls = 0#8 → u.tel.bucket = s.bucketNow - 1) ∧
        (e.cls = 0#8 → e.kind ≠ 1#16 → s.bucketNow = 0 → u.flash = s.flash ∧ u.rbit Reg.telStat 9 = true ∧
          u.reg Reg.telLogHeldCnt = s.reg Reg.telLogHeldCnt + 1#32))) ∧
    s.bucketNow ≤ 16

/-- Windows, what moves their boundaries, and the evaluation after them (R216, R217, R459). -/
def Obligations.WindowsAndEvents : Prop :=
  Claims.WindowBoundaryCopiesAndRestarts ∧ Claims.SyncEdgesMoveBoundaries ∧ Claims.NumericEventsAreCounted

/-- Paired operation as the host steers it (R460 to R462, R468). -/
def Obligations.PairRolesAndLeases : Prop :=
  Claims.LeasesFollowEpochs ∧ Claims.RolesAndAcknowledgement

/-! ## Resets and restarts (15_boot_security, 18_package) -/

/-- The bank that a start accepts: the preferred one, else the other. -/
def Sys2Proof.Claims.bootedBank (s : State) : Option Bool :=
  if s.bankCheck (s.bankBytes s.flash.preferred) = 0 then some s.flash.preferred
  else if s.bankCheck (s.bankBytes (!s.flash.preferred)) = 0 then some (!s.flash.preferred) else none

/-- Everything a reset through RESET_N loses has its reset value (R435, R439, R504). -/
def Sys2Proof.Claims.Lost (s u : State) : Prop :=
  u.regs = State.reset.regs ∧ u.adm = State.reset.adm ∧ u.fab = State.reset.fab ∧ u.plc = State.reset.plc ∧ u.img = State.reset.img ∧
  u.ctx = State.reset.ctx ∧ u.egr = State.reset.egr ∧ u.hbm = State.reset.hbm ∧ u.dict = State.reset.dict ∧ u.flt = State.reset.flt ∧
  u.tel = State.reset.tel ∧ u.sec = State.reset.sec ∧ u.hp0 = Port.zero ∧ u.hp1 = Port.zero ∧ u.pins.resetN = false ∧ u.pins.alert = false ∧
  u.pins.vid = 48#8 ∧ u.devTime = 0#64 ∧ u.clock.now = s.clock.now ∧ u.pending = s.pending ∧
  u.flash.bankA = s.flash.bankA ∧ u.flash.bankB = s.flash.bankB ∧ u.flash.keys = s.flash.keys ∧ u.flash.keySt = s.flash.keySt ∧
  u.flash.fwMin = s.flash.fwMin ∧ u.flash.retired = s.flash.retired ∧ u.flash.log = s.flash.log ∧
  (s.dict.saving = none → s.dict.pstate ≠ 2 → u.flash = s.flash)

/-- Power and RESET_N (R349, R376, R438, R504, R506, R510, R516): RESET_N low and loss of power leave nothing but the flash, and RESET_N
alone the TAP; POWER_ON gives power with RESET_N low and VID at 48; each has no effect where its pin already stands so. -/
def Obligations.ResetAndPowerKeepTheFlash : Prop :=
  ∀ s : State,
    (s.pins.power = true → s.pins.resetN = true → Completes .resetNAssert s (fun u => Claims.Lost s u ∧ u.tap = s.tap ∧ u.pins.power = true)) ∧
    ((s.pins.power = false ∨ s.pins.resetN = false) → exec .resetNAssert s = .next s) ∧
    (s.pins.power = true → Completes .lossOfPower s (fun u => Claims.Lost s u ∧ u.tap = State.reset.tap ∧ u.pins.power = false)) ∧
    (s.pins.power = false → exec .lossOfPower s = .next s) ∧
    (s.pins.power = false → Completes .powerOn s (fun u => u = { s with pins := u.pins } ∧ u.pins.power = true ∧ u.pins.resetN = false ∧
      u.pins.vid = 48#8)) ∧
    (s.pins.power = true → exec .powerOn s = .next s)

/-- A start (R378, R400, R430, R432, R433, R504, R518): RESET_N rises at least 10 us after it fell; the sampled profile is active and
with it named in DEV_RESET_CAUSE; an accepted bank runs and stage 7 is reached with the mailbox in service, FALLBACK where it is not the
preferred one, and every failing tile retired; with none accepted the part is in RECOVERY. A start is one command, and lasts at most
200 ms by a free value (log entry 53). -/
def Obligations.ColdStartReachesAStage : Prop :=
  ∀ (s : State) (prof : BitVec 2) (failing : List TileAddr),
    ((s.pins.power = false ∨ s.pins.resetN = true) → exec (.resetNRelease prof failing) s = .next s) ∧
    (s.pins.power = true → s.pins.resetN = false → Completes (.resetNRelease prof failing) s (fun u =>
      u.pins.resetN = true ∧ u.tap.ir = 1#8 ∧ u.dict.active = prof ∧ u.dict.source = 0 ∧
      u.reg Reg.devResetCause = BitVec.ofNat 32 (256 * prof.toNat) ∧ (u.reg Reg.secBootTime).toNat ≤ 200 ∧
      s.pins.lowAt + 1000 ≤ u.clock.now ∧ u.clock.now ≤ max s.clock.now (s.pins.lowAt + 1000) + 20000000 ∧
      u.adm = s.adm ∧ u.fab = s.fab ∧ u.img = s.img ∧ u.ctx = s.ctx ∧ u.flash = s.flash ∧ u.pending = s.pending ∧
      (∀ b, Claims.bootedBank s = some b → u.stage = 7 ∧ u.sec.running = s.bankBytes b ∧ u.rbit Reg.secBoot 8 = b ∧
        u.rbit Reg.secBoot 9 = (b != s.flash.preferred) ∧ u.fwUp = true ∧ u.blockEn 17 = true ∧ u.blockEn 9 = true ∧ u.blockEn 10 = true ∧
        ∀ t ∈ failing, isTile t = true → u.isRetired t = true) ∧
      (Claims.bootedBank s = none → u.stage = 8 ∧ u.recovering = true ∧ u.sec.running = [] ∧ u.fwUp = false ∧ u.blockEn 17 = false ∧
        u.rbit Reg.secStat 2 = true)))

/-- A soft reset (R378, R379, R400, R403, R435, R436): only when one is pending and no SAVE or ERASE runs; it keeps scratch words, H,
NEXT_PROFILE, the training and mode registers of the ports, flash, and an image of states 3 to 7, which is verified again; frames,
rings, store and map are gone; DEV_RESET_CAUSE names cause and profile. -/
def Sys2Proof.Claims.SoftResetKeepsWhatItMust : Prop :=
  ∀ (s : State) (prof : BitVec 2) (c : BitVec 4), s.up = true →
    let next := s.objVal (okey 0x2000 1) 0xFF
    let active := if next < 4 then BitVec.ofNat 2 next else prof
    let kept := 3 ≤ s.img.st.code ∧ s.img.st.code ≤ 7
    ((s.dev.pendingReset = none ∨ s.dict.pstate = 1 ∨ s.dict.pstate = 2) → exec (.softResetStart prof) s = .next s) ∧
    (s.dev.pendingReset = some c → s.dict.pstate ≠ 1 → s.dict.pstate ≠ 2 → Completes (.softResetStart prof) s (fun u =>
      u.reg Reg.devScratch0 = s.reg Reg.devScratch0 ∧ u.reg Reg.devScratch1 = s.reg Reg.devScratch1 ∧ u.epoch = s.epoch ∧
      u.objVal (okey 0x2000 1) 0xFF = next ∧ u.dict.active = active ∧ u.dev.pendingReset = none ∧
      u.reg Reg.devResetCause = BitVec.ofNat 32 (256 * active.toNat + c.toNat) ∧
      u.hp0.mrs = s.hp0.mrs ∧ u.hp0.trained = s.hp0.trained ∧ u.hp0.fsp = s.hp0.fsp ∧
      u.hp1.mrs = s.hp1.mrs ∧ u.hp1.trained = s.hp1.trained ∧ u.hp1.fsp = s.hp1.fsp ∧
      u.adm = State.reset.adm ∧ u.egr = State.reset.egr ∧ u.ctx = State.reset.ctx ∧ u.plc = State.reset.plc ∧ u.fab = State.reset.fab ∧
      u.flash.bankA = s.flash.bankA ∧ u.flash.bankB = s.flash.bankB ∧ u.flash.keys = s.flash.keys ∧ u.flash.keySt = s.flash.keySt ∧
      u.flash.profiles = s.flash.profiles ∧ u.flash.retired = s.flash.retired ++ s.tel.toRetire ∧
      (∀ b, Claims.bootedBank s = some b → u.stage = 7 ∧ u.sec.running = s.bankBytes b ∧ u.fwUp = true ∧
        (kept → u.img.st = .verifying ∧ u.img.copy = s.img.copy ∧ u.img.digest = s.img.digest ∧ u.img.verifyDigest = u.dict.digest) ∧
        (¬kept → u.img = State.reset.img)) ∧
      (Claims.bootedBank s = none → u.stage = 8 ∧ u.img = State.reset.img)))

/-- Restarts (R434, R437): after a device fault the firmware requests a soft reset with cause 3, FAULT_RESET_MS later and at most three
times within an hour; the supervisory timer restarts the controller alone, counted, with the requests gone and frames, fabric, store,
image and rings as they were. -/
def Sys2Proof.Claims.RestartsOfTheController : Prop :=
  ∀ (s : State) (t : Nat) (b : Bool),
    let ms := s.objVal (okey 0x1000 8) 0
    let at_ := max s.clock.now (t + 100000 * ms)
    let recent := s.dev.faultResets.filter (fun x => decide (at_ < x + 360000000000))
    (s.dev.faultAt = none → exec .faultResetTimer s = .next s) ∧
    (s.dev.faultAt = some t → (ms = 0 ∨ 3 ≤ recent.length ∨ s.fwUp = false ∨ s.faulted = false ∨ s.dev.pendingReset ≠ none) →
      exec .faultResetTimer s = .next s) ∧
    (s.dev.faultAt = some t → ms ≠ 0 → recent.length < 3 → s.fwUp = true → s.faulted = true → s.dev.pendingReset = none →
      Completes .faultResetTimer s (fun u => u.dev = { s.dev with pendingReset := some 3#4, faultResets := at_ :: recent } ∧ u.devState = 2 ∧
        u.clock.now = at_ ∧ (∀ a, a ≠ Reg.devStat → u.reg a = s.reg a) ∧ u.adm = s.adm ∧ u.fab = s.fab)) ∧
    (s.fwUp = false → exec .supervisoryTimerExpiry s = .next s) ∧
    (s.fwUp = true → s.dict.saving = none → s.dict.pstate ≠ 2 → Claims.bootedBank s = some b →
      Completes .supervisoryTimerExpiry s (fun u => u.reg Reg.secMgmtRestartCnt = s.reg Reg.secMgmtRestartCnt + 1#32 ∧
        u.rbit Reg.secStat 4 = true ∧ u.rbit Reg.mbxStat 0 = false ∧ u.dict.queue = [] ∧ u.dict.seg = none ∧ u.dict.pstate = 0 ∧
        u.stage = s.stage ∧ u.sec.running = s.bankBytes b ∧ u.sec.attest = s.sec.attest ∧ (∃ e ∈ u.tel.log, e.kind = 0x15#16) ∧
        u.adm = s.adm ∧ u.fab = s.fab ∧ u.ctx = s.ctx ∧ u.img = s.img ∧ u.egr = s.egr ∧ u.plc = s.plc ∧ u.hbm = s.hbm ∧ u.flt = s.flt ∧
        u.flash = s.flash))

/-! ## Pins (18_package) -/

/-- The TAP (R516, R518): EXTEST, CLAMP and HIGHZ load only with RESET_N low, and are a host error else; the other codes load
at any time under power; five rising edges with TMS 1 reach Test-Logic-Reset from anywhere; a falling edge there gives IDCODE; BYPASS
delays a bit by one shift; nothing but the TAP moves. -/
def Sys2Proof.Claims.BoundaryScan : Prop :=
  ∀ (s : State) (tms tdi : Bool) (cells : BitVec 341) (code : Byte),
    let tap := fun (i : Instr) (x : Tap) => exec i s = .next { s with tap := x }
    (s.pins.power = false → ∀ i ∈ [.extest, .clamp, .highz, .idcode, .samplePreload cells, .bypass code, .testLogicReset,
      .tckEdge true tms tdi cells, .tckEdge false tms tdi cells], exec i s = .next s) ∧
    (s.pins.power = true →
      (s.pins.resetN = true → exec .extest s = .next s.unpredictable ∧ exec .clamp s = .next s.unpredictable ∧
        exec .highz s = .next s.unpredictable) ∧
      (s.pins.resetN = false → badVid 0#8 s.tap.boundary = true → exec .extest s = .next s.unpredictable) ∧
      (s.pins.resetN = false → (20 ≤ vidOf s.tap.boundary ∧ vidOf s.tap.boundary ≤ 80 →
          tap .extest { s.tap with ir := 0#8, dr := s.tap.boundary }) ∧ tap .clamp { s.tap with ir := 3#8, dr := 0 } ∧
        tap .highz { s.tap with ir := 4#8, dr := 0 }) ∧
      tap .idcode { s.tap with ir := 1#8, dr := BitVec.ofNat 341 idcodeWord.toNat } ∧
      tap (.samplePreload cells) { s.tap with ir := 2#8, dr := cells } ∧
      (4 < code.toNat → tap (.bypass code) { s.tap with ir := code, dr := 0 }) ∧
      tap .testLogicReset { s.tap with st := .reset, ir := 1#8, tdo := none } ∧
      (∃ x : Tap, tap (.tckEdge true tms tdi cells) x ∧ x.ir = s.tap.ir ∧ x.st = s.tap.st.next tms ∧ x.boundary = s.tap.boundary ∧
        (s.tap.st = .capIr → x.irShift = 1#8) ∧
        (s.tap.st = .capDr → (s.tap.ir = 2#8 ∨ s.tap.ir = 0#8) → x.dr = cells) ∧
        (s.tap.st = .shDr → s.tap.ir = 0xFF#8 → s.tap.dr.toNat < 2 → x.dr.toNat = b2n tdi)) ∧
      (s.tap.st = .shDr → badVid s.tap.ir s.tap.boundary = false →
        tap (.tckEdge false tms tdi cells) { s.tap with tdo := some (bit s.tap.dr 0) }) ∧
      (s.tap.st = .updDr → s.tap.ir = 0#8 → badVid 0#8 s.tap.dr = false →
        tap (.tckEdge false tms tdi cells) { s.tap with boundary := s.tap.dr, tdo := none }) ∧
      (s.tap.st = .updDr → s.tap.ir = 0#8 → badVid 0#8 s.tap.dr = true →
        exec (.tckEdge false tms tdi cells) s = .next s.unpredictable) ∧
      (s.tap.st = .reset → tap (.tckEdge false tms tdi cells) { s.tap with ir := 1#8, tdo := none }) ∧
      (s.tap.st = .updIr → (s.pins.resetN = false ∨ s.tap.irShift ∉ [0#8, 3#8, 4#8]) →
        badVid s.tap.irShift s.tap.boundary = false → tap (.tckEdge false tms tdi cells) { s.tap with ir := s.tap.irShift, tdo := none }) ∧
      (s.tap.st = .updIr → s.pins.resetN = true → s.tap.irShift ∈ [0#8, 3#8, 4#8] →
        exec (.tckEdge false tms tdi cells) s = .next s.unpredictable)) ∧
    (∀ st : TapSt, (((((st.next true).next true).next true).next true).next true) = .reset) ∧
    bit idcodeWord 0 = true ∧ fld idcodeWord 27 12 = 0xC906

/-- The boundary register and the balls it serves (R497 to R499, R517): 341 cells, of which the last sixteen are those of VID[7:0]; the
core of the package is a checkerboard of VDD_CORE and VSS; DQ[0] of HP0 is ball A3 and of HP1 ball A42. -/
def Sys2Proof.Claims.BallsAndCells : Prop :=
  boundaryCells.length = 341 ∧ (∀ n, n < 8 → boundaryCells[vidCell n]? = some (.vid n, .output)) ∧
  (∀ r c, 21 ≤ r → r ≤ 60 → 19 ≤ c → c ≤ 62 → ballAt r c = if (r + c) % 2 = 0 then .supply .vddCore else .vss) ∧
  ballAt 1 3 = .signal (.dq false 0) ∧ ballAt 1 42 = .signal (.dq true 0) ∧ ballName 1 3 = "A3" ∧ ballName 80 1 = "DD1" ∧
  (∀ cells : BitVec 341, vidOf cells < 256 ∧ (badVid 0#8 cells = true ↔ vidOf cells < 20 ∨ 80 < vidOf cells))

/-- The I3C target and the management port (R363, R369, R405, R505): before the firmware runs every access is NACKed, a private write
always; a private read by an assigned address gives temperature, DEV_STATE and DEV_ALERT; the link comes up only with the port alive and
forgets its link-local address when it goes down; an address of RFC 3927 is taken only with IP_ADDRESS 0; ARP answers the address in use
and an echo carries the same bytes. -/
def Sys2Proof.Claims.I3cAndManagementPort : Prop :=
  ∀ (s : State) (a : BitVec 7) (ip : BitVec 32) (bs : List Byte),
    let nacked := { s with i3c := { s.i3c with nacked := true } }
    let alive := s.dictUp = true ∧ s.dev.ethDead = false
    let up := alive ∧ s.dict.link = true
    let zeroIp := s.objVal (okey 0x1010 1) 0 = 0
    (s.fwUp = true → exec (.i3cSetdasa a) s = .next { s with i3c := { s.i3c with addr := some a, nacked := false } }) ∧
    (s.fwUp = false → exec (.i3cSetdasa a) s = .next nacked) ∧
    (s.fwUp = true → s.i3c.addr ≠ none → Completes .i3cPrivateRead s (fun u => u = { s with i3c := u.i3c } ∧ u.i3c.addr = s.i3c.addr ∧
      u.i3c.nacked = false ∧ fld u.i3c.out 15 0 = s.tempMax.toNat ∧ fld u.i3c.out 31 16 = s.devState ∧
      fld u.i3c.out 63 32 = (s.reg Reg.devAlert).toNat)) ∧
    ((s.fwUp = false ∨ s.i3c.addr = none) → exec .i3cPrivateRead s = .next nacked) ∧
    exec (.i3cPrivateWrite bs) s = .next nacked ∧
    (alive → exec .linkUp s = .next { s with dict := { s.dict with link := true } }) ∧
    (¬alive → exec .linkUp s = .next s) ∧
    Completes .linkDown s (fun u => u = { s with dict := u.dict } ∧ u.linkState = 0 ∧ u.dict.localIp = none ∧ u.dict.queue = s.dict.queue) ∧
    (up → zeroIp → linkLocal ip = true → Completes (.linkLocalAddressTaken ip) s (fun u => u = { s with dict := { s.dict with localIp := some ip } } ∧
      u.linkState = 2 ∧ u.ipInUse = some ip)) ∧
    ((¬up ∨ ¬zeroIp ∨ linkLocal ip = false) → exec (.linkLocalAddressTaken ip) s = .next s) ∧
    (up → s.ipInUse = some ip → exec (.arpRequest ip) s = .next { s with dict := { s.dict with netOut := some (ip, leBytes 6 Config.mac.toNat) } }) ∧
    ((¬up ∨ s.ipInUse ≠ some ip) → exec (.arpRequest ip) s = .next s) ∧
    (up → s.linkState = 2 → exec (.icmpEchoRequest ip bs) s = .next { s with dict := { s.dict with netOut := some (ip, bs) } }) ∧
    ((¬up ∨ s.linkState ≠ 2) → exec (.icmpEchoRequest ip bs) s = .next s)

/-- What a soft reset and a restart of the controller keep (R434 to R437). -/
def Obligations.SoftResetsAndRestarts : Prop :=
  Claims.SoftResetKeepsWhatItMust ∧ Claims.RestartsOfTheController

/-- The pins beside the host ports (R363, R369, R505, R516 to R518). -/
def Obligations.PinsAndPorts : Prop :=
  Claims.BoundaryScan ∧ Claims.BallsAndCells ∧ Claims.I3cAndManagementPort
end

