-- ==== Sys2Proof/Laws/Dispatch.lean ====
section
/-! SUPPORT. What `exec` calls for each command, one lemma per constructor. -/

namespace Sys2Proof.Machine

open Sys2Proof

@[simp] theorem exec_resetNAssert (s : State) :
    exec (.resetNAssert) s = execResetNAssert s := rfl
@[simp] theorem exec_resetNRelease (prof : BitVec 2) (failing : List TileAddr) (s : State) :
    exec (.resetNRelease prof failing) s = execResetNRelease prof failing s := rfl
@[simp] theorem exec_softReset (viaObject : Bool) (key : Word) (s : State) :
    exec (.softReset viaObject key) s = execSoftReset viaObject key s := rfl
@[simp] theorem exec_softResetStart (prof : BitVec 2) (s : State) :
    exec (.softResetStart prof) s = execSoftResetStart prof s := rfl
@[simp] theorem exec_supervisoryTimerExpiry (s : State) :
    exec (.supervisoryTimerExpiry) s = execSupervisoryTimerExpiry s := rfl
@[simp] theorem exec_faultResetTimer (s : State) :
    exec (.faultResetTimer) s = execFaultResetTimer s := rfl
@[simp] theorem exec_deviceFaultDrainEnd (s : State) :
    exec (.deviceFaultDrainEnd) s = execDeviceFaultDrainEnd s := rfl
@[simp] theorem exec_refclkLost (s : State) :
    exec (.refclkLost) s = execRefclkLost s := rfl
@[simp] theorem exec_pllLockLost (pll : BitVec 4) (s : State) :
    exec (.pllLockLost pll) s = execPllLockLost pll s := rfl
@[simp] theorem exec_oscillatorTrim (err : BitVec 16) (s : State) :
    exec (.oscillatorTrim err) s = execOscillatorTrim err s := rfl
@[simp] theorem exec_sensorReading (temps : List (BitVec 16)) (volts : List (BitVec 16)) (s : State) :
    exec (.sensorReading temps volts) s = execSensorReading temps volts s := rfl
@[simp] theorem exec_thermalEvaluation (s : State) :
    exec (.thermalEvaluation) s = execThermalEvaluation s := rfl
@[simp] theorem exec_liftRequest (clock : BitVec 8) (s : State) :
    exec (.liftRequest clock) s = execLiftRequest clock s := rfl
@[simp] theorem exec_reqLow (d : BitVec 8) (v : Bool) (s : State) :
    exec (.reqLow d v) s = execReqLow d v s := rfl
@[simp] theorem exec_powerEntryComplete (d : BitVec 8) (s : State) :
    exec (.powerEntryComplete d) s = execPowerEntryComplete d s := rfl
@[simp] theorem exec_powerExitComplete (d : BitVec 8) (lost : BitVec 32) (s : State) :
    exec (.powerExitComplete d lost) s = execPowerExitComplete d lost s := rfl
@[simp] theorem exec_inrushWave (s : State) :
    exec (.inrushWave) s = execInrushWave s := rfl
@[simp] theorem exec_signatureIdleTimeout (s : State) :
    exec (.signatureIdleTimeout) s = execSignatureIdleTimeout s := rfl
@[simp] theorem exec_blockReloadComplete (ue : Bool) (s : State) :
    exec (.blockReloadComplete ue) s = execBlockReloadComplete ue s := rfl
@[simp] theorem exec_portReset (port : Bool) (level : Bool) (s : State) :
    exec (.portReset port level) s = execPortReset port level s := rfl
@[simp] theorem exec_portInitReady (port : Bool) (s : State) :
    exec (.portInitReady port) s = execPortInitReady port s := rfl
@[simp] theorem exec_hostRead (port : Bool) (addr : BitVec 32) (bl32 : Bool) (ue : Bool) (s : State) :
    exec (.hostRead port addr bl32 ue) s = execHostRead port addr bl32 ue s := rfl
@[simp] theorem exec_modeRegisterWrite (port : Bool) (mr : BitVec 7) (v : Byte) (s : State) :
    exec (.modeRegisterWrite port mr v) s = execModeRegisterWrite port mr v s := rfl
@[simp] theorem exec_modeRegisterRead (port : Bool) (mr : BitVec 7) (s : State) :
    exec (.modeRegisterRead port mr) s = execModeRegisterRead port mr s := rfl
@[simp] theorem exec_trainingCommand (port : Bool) (kind : BitVec 3) (s : State) :
    exec (.trainingCommand port kind) s = execTrainingCommand port kind s := rfl
@[simp] theorem exec_zqCalibration (port : Bool) (s : State) :
    exec (.zqCalibration port) s = execZqCalibration port s := rfl
@[simp] theorem exec_refresh (port : Bool) (kind : BitVec 2) (s : State) :
    exec (.refresh port kind) s = execRefresh port kind s := rfl
@[simp] theorem exec_powerDownEntry (port : Bool) (s : State) :
    exec (.powerDownEntry port) s = execPowerDownEntry port s := rfl
@[simp] theorem exec_powerDownExit (port : Bool) (s : State) :
    exec (.powerDownExit port) s = execPowerDownExit port s := rfl
@[simp] theorem exec_selfRefreshEntry (port : Bool) (withPd : Bool) (s : State) :
    exec (.selfRefreshEntry port withPd) s = execSelfRefreshEntry port withPd s := rfl
@[simp] theorem exec_selfRefreshExit (port : Bool) (s : State) :
    exec (.selfRefreshExit port) s = execSelfRefreshExit port s := rfl
@[simp] theorem exec_fspChange (port : Bool) (fsp : BitVec 2) (s : State) :
    exec (.fspChange port fsp) s = execFspChange port fsp s := rfl
@[simp] theorem exec_ingressWrite (w : HostWrite) (s : State) :
    exec (.ingressWrite w) s = execIngressWrite w s := rfl
@[simp] theorem exec_doorbell (w : HostWrite) (s : State) :
    exec (.doorbell w) s = execDoorbell w s := rfl
@[simp] theorem exec_imageWindowWrite (w : HostWrite) (s : State) :
    exec (.imageWindowWrite w) s = execImageWindowWrite w s := rfl
@[simp] theorem exec_journalWindowWrite (w : HostWrite) (s : State) :
    exec (.journalWindowWrite w) s = execJournalWindowWrite w s := rfl
@[simp] theorem exec_discardedWrite (w : HostWrite) (s : State) :
    exec (.discardedWrite w) s = execDiscardedWrite w s := rfl
@[simp] theorem exec_registerWrite (w : HostWrite) (s : State) :
    exec (.registerWrite w) s = execRegisterWrite w s := rfl
@[simp] theorem exec_snapTake (block : BitVec 5) (s : State) :
    exec (.snapTake block) s = execSnapTake block s := rfl
@[simp] theorem exec_snapComplete (block : BitVec 5) (s : State) :
    exec (.snapComplete block) s = execSnapComplete block s := rfl
@[simp] theorem exec_indAddrWrite (block : BitVec 5) (alias4 : BitVec 2) (v : Word) (s : State) :
    exec (.indAddrWrite block alias4 v) s = execIndAddrWrite block alias4 v s := rfl
@[simp] theorem exec_indDataWrite (block : BitVec 5) (v : Word) (s : State) :
    exec (.indDataWrite block v) s = execIndDataWrite block v s := rfl
@[simp] theorem exec_indDataRead (block : BitVec 5) (s : State) :
    exec (.indDataRead block) s = execIndDataRead block s := rfl
@[simp] theorem exec_indAccessComplete (block : Checked (BitVec 5)) (s : State) :
    exec (.indAccessComplete block) s = execIndAccessComplete block s := rfl
@[simp] theorem exec_mbxSubmit (v : Word) (s : State) :
    exec (.mbxSubmit v) s = execMbxSubmit v s := rfl
@[simp] theorem exec_udpDatagram (ip : BitVec 32) (port : BitVec 16) (bytes : List Byte) (s : State) :
    exec (.udpDatagram ip port bytes) s = execUdpDatagram ip port bytes s := rfl
@[simp] theorem exec_uhledRead (s : State) :
    exec (.uhledRead) s = execUhledRead s := rfl
@[simp] theorem exec_uhledWrite (s : State) :
    exec (.uhledWrite) s = execUhledWrite s := rfl
@[simp] theorem exec_uhledInfo (s : State) :
    exec (.uhledInfo) s = execUhledInfo s := rfl
@[simp] theorem exec_segmentTimeout (s : State) :
    exec (.segmentTimeout) s = execSegmentTimeout s := rfl
@[simp] theorem exec_verify (s : State) :
    exec (.verify) s = execVerify s := rfl
@[simp] theorem exec_verificationEnd (s : State) :
    exec (.verificationEnd) s = execVerificationEnd s := rfl
@[simp] theorem exec_commit (s : State) :
    exec (.commit) s = execCommit s := rfl
@[simp] theorem exec_placingEnd (s : State) :
    exec (.placingEnd) s = execPlacingEnd s := rfl
@[simp] theorem exec_loadingEnd (ue : Bool) (s : State) :
    exec (.loadingEnd ue) s = execLoadingEnd ue s := rfl
@[simp] theorem exec_release (s : State) :
    exec (.release) s = execRelease s := rfl
@[simp] theorem exec_releaseEnd (s : State) :
    exec (.releaseEnd) s = execReleaseEnd s := rfl
@[simp] theorem exec_discard (s : State) :
    exec (.discard) s = execDiscard s := rfl
@[simp] theorem exec_flushWait (s : State) :
    exec (.flushWait) s = execFlushWait s := rfl
@[simp] theorem exec_slotStart (ue : Bool) (s : State) :
    exec (.slotStart ue) s = execSlotStart ue s := rfl
@[simp] theorem exec_maxWaitExpiry (stream : BitVec 10) (slot : Bool) (s : State) :
    exec (.maxWaitExpiry stream slot) s = execMaxWaitExpiry stream slot s := rfl
@[simp] theorem exec_rowGroupSend (ecc : Ecc) (s : State) :
    exec (.rowGroupSend ecc) s = execRowGroupSend ecc s := rfl
@[simp] theorem exec_nop (t : TileAddr) (h : Hdr) (s : State) :
    exec (.nop t h) s = execNop t h s := rfl
@[simp] theorem exec_wait (t : TileAddr) (h : Hdr) (s : State) :
    exec (.wait t h) s = execWait t h s := rfl
@[simp] theorem exec_jmp (t : TileAddr) (h : Hdr) (target : BitVec 13) (s : State) :
    exec (.jmp t h target) s = execJmp t h target s := rfl
@[simp] theorem exec_tokr (t : TileAddr) (h : Hdr) (base : BitVec 13) (mul : BitVec 8) (s : State) :
    exec (.tokr t h base mul) s = execTokr t h base mul s := rfl
@[simp] theorem exec_tokw (t : TileAddr) (h : Hdr) (kind : BitVec 3) (arg : BitVec 3) (s : State) :
    exec (.tokw t h kind arg) s = execTokw t h kind arg s := rfl
@[simp] theorem exec_ctx (t : TileAddr) (h : Hdr) (variant : Bool) (s : State) :
    exec (.ctx t h variant) s = execCtx t h variant s := rfl
@[simp] theorem exec_endOp (t : TileAddr) (h : Hdr) (s : State) :
    exec (.endOp t h) s = execEndOp t h s := rfl
@[simp] theorem exec_ldw (t : TileAddr) (h : Hdr) (bank : Bool) (word : BitVec 13) (ecc : Ecc) (s : State) :
    exec (.ldw t h bank word ecc) s = execLdw t h bank word ecc s := rfl
@[simp] theorem exec_mma (t : TileAddr) (h : Hdr) (vreg : BitVec 4) (off : BitVec 2) (bank : Bool) (k : BitVec 3) (fmt : BitVec 3) (diag zero : Bool) (s : State) :
    exec (.mma t h vreg off bank k fmt diag zero) s = execMma t h vreg off bank k fmt diag zero s := rfl
@[simp] theorem exec_acc (t : TileAddr) (h : Hdr) (k : BitVec 3) (vd : BitVec 4) (bias : BitVec 4) (s : State) :
    exec (.acc t h k vd bias) s = execAcc t h k vd bias s := rfl
@[simp] theorem exec_vectorAdd (t : TileAddr) (h : Hdr) (lw : LaneW) (vd va vb : BitVec 4) (s : State) :
    exec (.vectorAdd t h lw vd va vb) s = execVectorAdd t h lw vd va vb s := rfl
@[simp] theorem exec_vectorSub (t : TileAddr) (h : Hdr) (lw : LaneW) (vd va vb : BitVec 4) (s : State) :
    exec (.vectorSub t h lw vd va vb) s = execVectorSub t h lw vd va vb s := rfl
@[simp] theorem exec_vectorMul (t : TileAddr) (h : Hdr) (lw : LaneW) (vd va vb : BitVec 4) (s : State) :
    exec (.vectorMul t h lw vd va vb) s = execVectorMul t h lw vd va vb s := rfl
@[simp] theorem exec_vectorMax (t : TileAddr) (h : Hdr) (lw : LaneW) (vd va vb : BitVec 4) (s : State) :
    exec (.vectorMax t h lw vd va vb) s = execVectorMax t h lw vd va vb s := rfl
@[simp] theorem exec_vectorMin (t : TileAddr) (h : Hdr) (lw : LaneW) (vd va vb : BitVec 4) (s : State) :
    exec (.vectorMin t h lw vd va vb) s = execVectorMin t h lw vd va vb s := rfl
@[simp] theorem exec_relu (t : TileAddr) (h : Hdr) (lw : LaneW) (vd va : BitVec 4) (s : State) :
    exec (.relu t h lw vd va) s = execRelu t h lw vd va s := rfl
@[simp] theorem exec_shuf (t : TileAddr) (h : Hdr) (lw : LaneW) (vd va vb : BitVec 4) (s : State) :
    exec (.shuf t h lw vd va vb) s = execShuf t h lw vd va vb s := rfl
@[simp] theorem exec_vectorCmp (t : TileAddr) (h : Hdr) (lw : LaneW) (vd va vb : BitVec 4) (s : State) :
    exec (.vectorCmp t h lw vd va vb) s = execVectorCmp t h lw vd va vb s := rfl
@[simp] theorem exec_vectorSel (t : TileAddr) (h : Hdr) (lw : LaneW) (vd va vb vc : BitVec 4) (s : State) :
    exec (.vectorSel t h lw vd va vb vc) s = execVectorSel t h lw vd va vb vc s := rfl
@[simp] theorem exec_zpack (t : TileAddr) (h : Hdr) (word : BitVec 13) (n : Checked (BitVec 12)) (s : State) :
    exec (.zpack t h word n) s = execZpack t h word n s := rfl
@[simp] theorem exec_zunpack (t : TileAddr) (h : Hdr) (word : BitVec 13) (n : BitVec 12) (ecc : Ecc) (s : State) :
    exec (.zunpack t h word n ecc) s = execZunpack t h word n ecc s := rfl
@[simp] theorem exec_scalarAdd (t : TileAddr) (h : Hdr) (sd sa sb : BitVec 6) (s : State) :
    exec (.scalarAdd t h sd sa sb) s = execScalarAdd t h sd sa sb s := rfl
@[simp] theorem exec_scalarSub (t : TileAddr) (h : Hdr) (sd sa sb : BitVec 6) (s : State) :
    exec (.scalarSub t h sd sa sb) s = execScalarSub t h sd sa sb s := rfl
@[simp] theorem exec_scalarMul (t : TileAddr) (h : Hdr) (sd sa sb : BitVec 6) (s : State) :
    exec (.scalarMul t h sd sa sb) s = execScalarMul t h sd sa sb s := rfl
@[simp] theorem exec_scalarAnd (t : TileAddr) (h : Hdr) (sd sa sb : BitVec 6) (s : State) :
    exec (.scalarAnd t h sd sa sb) s = execScalarAnd t h sd sa sb s := rfl
@[simp] theorem exec_scalarOr (t : TileAddr) (h : Hdr) (sd sa sb : BitVec 6) (s : State) :
    exec (.scalarOr t h sd sa sb) s = execScalarOr t h sd sa sb s := rfl
@[simp] theorem exec_scalarXor (t : TileAddr) (h : Hdr) (sd sa sb : BitVec 6) (s : State) :
    exec (.scalarXor t h sd sa sb) s = execScalarXor t h sd sa sb s := rfl
@[simp] theorem exec_scalarShl (t : TileAddr) (h : Hdr) (sd sa sb : BitVec 6) (s : State) :
    exec (.scalarShl t h sd sa sb) s = execScalarShl t h sd sa sb s := rfl
@[simp] theorem exec_scalarShr (t : TileAddr) (h : Hdr) (sd sa sb : BitVec 6) (s : State) :
    exec (.scalarShr t h sd sa sb) s = execScalarShr t h sd sa sb s := rfl
@[simp] theorem exec_scalarCmp (t : TileAddr) (h : Hdr) (sd sa sb : BitVec 6) (s : State) :
    exec (.scalarCmp t h sd sa sb) s = execScalarCmp t h sd sa sb s := rfl
@[simp] theorem exec_scalarSel (t : TileAddr) (h : Hdr) (sd sa sb sc : BitVec 6) (s : State) :
    exec (.scalarSel t h sd sa sb sc) s = execScalarSel t h sd sa sb sc s := rfl
@[simp] theorem exec_scalarMin (t : TileAddr) (h : Hdr) (sd sa sb : BitVec 6) (s : State) :
    exec (.scalarMin t h sd sa sb) s = execScalarMin t h sd sa sb s := rfl
@[simp] theorem exec_scalarMax (t : TileAddr) (h : Hdr) (sd sa sb : BitVec 6) (s : State) :
    exec (.scalarMax t h sd sa sb) s = execScalarMax t h sd sa sb s := rfl
@[simp] theorem exec_ldv (t : TileAddr) (h : Hdr) (vd : BitVec 4) (word : BitVec 13) (ecc : Ecc) (s : State) :
    exec (.ldv t h vd word ecc) s = execLdv t h vd word ecc s := rfl
@[simp] theorem exec_stv (t : TileAddr) (h : Hdr) (vs : BitVec 4) (word : BitVec 13) (s : State) :
    exec (.stv t h vs word) s = execStv t h vs word s := rfl
@[simp] theorem exec_lds (t : TileAddr) (h : Hdr) (sd : BitVec 6) (word : BitVec 13) (hi : Bool) (ecc : Ecc) (s : State) :
    exec (.lds t h sd word hi ecc) s = execLds t h sd word hi ecc s := rfl
@[simp] theorem exec_sts (t : TileAddr) (h : Hdr) (ss : BitVec 6) (word : BitVec 13) (hi : Bool) (s : State) :
    exec (.sts t h ss word hi) s = execSts t h ss word hi s := rfl
@[simp] theorem exec_rcv (t : TileAddr) (h : Hdr) (reg : BitVec 6) (ecc : Ecc) (s : State) :
    exec (.rcv t h reg ecc) s = execRcv t h reg ecc s := rfl
@[simp] theorem exec_snd (t : TileAddr) (h : Hdr) (reg : BitVec 6) (kind : BitVec 3) (packed : Bool) (s : State) :
    exec (.snd t h reg kind packed) s = execSnd t h reg kind packed s := rfl
@[simp] theorem exec_cop (t : TileAddr) (h : Hdr) (c : CopOps) (s : State) :
    exec (.cop t h c) s = execCop t h c s := rfl
@[simp] theorem exec_scan (t : TileAddr) (h : Hdr) (c : CvtOps) (s : State) :
    exec (.scan t h c) s = execScan t h c s := rfl
@[simp] theorem exec_seal (t : TileAddr) (h : Hdr) (c : CvtOps) (s : State) :
    exec (.seal t h c) s = execSeal t h c s := rfl
@[simp] theorem exec_encode (t : TileAddr) (h : Hdr) (c : CvtOps) (s : State) :
    exec (.encode t h c) s = execEncode t h c s := rfl
@[simp] theorem exec_decode (t : TileAddr) (h : Hdr) (c : CvtOps) (s : State) :
    exec (.decode t h c) s = execDecode t h c s := rfl
@[simp] theorem exec_xsl (t : TileAddr) (h : Hdr) (c : CvtOps) (s : State) :
    exec (.xsl t h c) s = execXsl t h c s := rfl
@[simp] theorem exec_wsl (t : TileAddr) (h : Hdr) (c : CvtOps) (s : State) :
    exec (.wsl t h c) s = execWsl t h c s := rfl
@[simp] theorem exec_carry (t : TileAddr) (h : Hdr) (c : CvtOps) (s : State) :
    exec (.carry t h c) s = execCarry t h c s := rfl
@[simp] theorem exec_ruleFire (t : Checked TileAddr) (s : State) :
    exec (.ruleFire t) s = execRuleFire t s := rfl
@[simp] theorem exec_takeCtxEnd (t : TileAddr) (q : BitVec 4) (s : State) :
    exec (.takeCtxEnd t q) s = execTakeCtxEnd t q s := rfl
@[simp] theorem exec_linkWordArrival (t : TileAddr) (net : BitVec 2) (wire : BitVec 4) (syn : Checked Byte) (s : State) :
    exec (.linkWordArrival t net wire syn) s = execLinkWordArrival t net wire syn s := rfl
@[simp] theorem exec_creditReturn (t : TileAddr) (lane : BitVec 3) (s : State) :
    exec (.creditReturn t lane) s = execCreditReturn t lane s := rfl
@[simp] theorem exec_frameAbort (t : TileAddr) (s : State) :
    exec (.frameAbort t) s = execFrameAbort t s := rfl
@[simp] theorem exec_queueFlush (t : TileAddr) (q : BitVec 4) (s : State) :
    exec (.queueFlush t q) s = execQueueFlush t q s := rfl
@[simp] theorem exec_flushAll (s : State) :
    exec (.flushAll) s = execFlushAll s := rfl
@[simp] theorem exec_start (s : State) :
    exec (.start) s = execStart s := rfl
@[simp] theorem exec_drainComplete (s : State) :
    exec (.drainComplete) s = execDrainComplete s := rfl
@[simp] theorem exec_scanIn (s : State) :
    exec (.scanIn) s = execScanIn s := rfl
@[simp] theorem exec_scanInComplete (s : State) :
    exec (.scanInComplete) s = execScanInComplete s := rfl
@[simp] theorem exec_resume (s : State) :
    exec (.resume) s = execResume s := rfl
@[simp] theorem exec_tileScrubAccess (t : TileAddr) (ecc : Ecc) (held : Bool) (s : State) :
    exec (.tileScrubAccess t ecc held) s = execTileScrubAccess t ecc held s := rfl
@[simp] theorem exec_tileNoResponseTimeout (t : TileAddr) (s : State) :
    exec (.tileNoResponseTimeout t) s = execTileNoResponseTimeout t s := rfl
@[simp] theorem exec_tileFault (t : TileAddr) (cause : BitVec 3) (s : State) :
    exec (.tileFault t cause) s = execTileFault t cause s := rfl
@[simp] theorem exec_remapScanOutDone (ue : Bool) (s : State) :
    exec (.remapScanOutDone ue) s = execRemapScanOutDone ue s := rfl
@[simp] theorem exec_remapScanInDone (ue : Bool) (s : State) :
    exec (.remapScanInDone ue) s = execRemapScanInDone ue s := rfl
@[simp] theorem exec_stallFault (stage : BitVec 9) (s : State) :
    exec (.stallFault stage) s = execStallFault stage s := rfl
@[simp] theorem exec_unitNoProgress (unit : BitVec 5) (s : State) :
    exec (.unitNoProgress unit) s = execUnitNoProgress unit s := rfl
@[simp] theorem exec_append (stream : BitVec 10) (found : List CtxFinding) (s : State) :
    exec (.append stream found) s = execAppend stream found s := rfl
@[simp] theorem exec_gather (stream : BitVec 10) (found : List CtxFinding) (s : State) :
    exec (.gather stream found) s = execGather stream found s := rfl
@[simp] theorem exec_attend (stream : BitVec 10) (found : List CtxFinding) (s : State) :
    exec (.attend stream found) s = execAttend stream found s := rfl
@[simp] theorem exec_stake (stream : Checked (BitVec 10) (List CtxFinding)) (s : State) :
    exec (.stake stream) s = execStake stream s := rfl
@[simp] theorem exec_unstake (stream : Checked (BitVec 10) (List CtxFinding)) (s : State) :
    exec (.unstake stream) s = execUnstake stream s := rfl
@[simp] theorem exec_evict (stream : Checked (BitVec 10) (List CtxFinding)) (s : State) :
    exec (.evict stream) s = execEvict stream s := rfl
@[simp] theorem exec_streamClear (stream : BitVec 10) (s : State) :
    exec (.streamClear stream) s = execStreamClear stream s := rfl
@[simp] theorem exec_clearAll (s : State) :
    exec (.clearAll) s = execClearAll s := rfl
@[simp] theorem exec_storeClearComplete (s : State) :
    exec (.storeClearComplete) s = execStoreClearComplete s := rfl
@[simp] theorem exec_boxDecode (words ecc : Ecc) (s : State) :
    exec (.boxDecode words ecc) s = execBoxDecode words ecc s := rfl
@[simp] theorem exec_suppression (ecc : Ecc) (s : State) :
    exec (.suppression ecc) s = execSuppression ecc s := rfl
@[simp] theorem exec_cropAndResize (words ecc : Ecc) (s : State) :
    exec (.cropAndResize words ecc) s = execCropAndResize words ecc s := rfl
@[simp] theorem exec_trackAssociation (words : Ecc) (bad : List (BitVec 9)) (ecc : Ecc) (s : State) :
    exec (.trackAssociation words bad ecc) s = execTrackAssociation words bad ecc s := rfl
@[simp] theorem exec_recordWrite (ue : Bool) (s : State) :
    exec (.recordWrite ue) s = execRecordWrite ue s := rfl
@[simp] theorem exec_armDescriptor (ts : BitVec 6) (d : Desc) (s : State) :
    exec (.armDescriptor ts d) s = execArmDescriptor ts d s := rfl
@[simp] theorem exec_descriptorComplete (ts : BitVec 6) (s : State) :
    exec (.descriptorComplete ts) s = execDescriptorComplete ts s := rfl
@[simp] theorem exec_hbmCommand (ch : BitVec 6) (ready : List Ready) (ecc : Ecc) (s : State) :
    exec (.hbmCommand ch ready ecc) s = execHbmCommand ch ready ecc s := rfl
@[simp] theorem exec_jraBaseWrite (alias4 : BitVec 2) (v : Word) (s : State) :
    exec (.jraBaseWrite alias4 v) s = execJraBaseWrite alias4 v s := rfl
@[simp] theorem exec_hbmScrubRow (word : BitVec 6) (ecc : Ecc) (s : State) :
    exec (.hbmScrubRow word ecc) s = execHbmScrubRow word ecc s := rfl
@[simp] theorem exec_hbmRefresh (hot : BitVec 4) (s : State) :
    exec (.hbmRefresh hot) s = execHbmRefresh hot s := rfl
@[simp] theorem exec_phyRecalibration (ch : BitVec 6) (s : State) :
    exec (.phyRecalibration ch) s = execPhyRecalibration ch s := rfl
@[simp] theorem exec_forcedRecalibration (ch : BitVec 6) (s : State) :
    exec (.forcedRecalibration ch) s = execForcedRecalibration ch s := rfl
@[simp] theorem exec_windowBoundary (s : State) :
    exec (.windowBoundary) s = execWindowBoundary s := rfl
@[simp] theorem exec_numEvaluation (s : State) :
    exec (.numEvaluation) s = execNumEvaluation s := rfl
@[simp] theorem exec_syncInEdge (s : State) :
    exec (.syncInEdge) s = execSyncInEdge s := rfl
@[simp] theorem exec_leaseRenew (epoch : Word) (s : State) :
    exec (.leaseRenew epoch) s = execLeaseRenew epoch s := rfl
@[simp] theorem exec_leaseLapse (s : State) :
    exec (.leaseLapse) s = execLeaseLapse s := rfl
@[simp] theorem exec_pairEnable (role : BitVec 2) (s : State) :
    exec (.pairEnable role) s = execPairEnable role s := rfl
@[simp] theorem exec_journalAck (v : Word) (s : State) :
    exec (.journalAck v) s = execJournalAck v s := rfl
@[simp] theorem exec_journalApply (v : Word) (s : State) :
    exec (.journalApply v) s = execJournalApply v s := rfl
@[simp] theorem exec_journalEntryApply (s : State) :
    exec (.journalEntryApply) s = execJournalEntryApply s := rfl
@[simp] theorem exec_resync (s : State) :
    exec (.resync) s = execResync s := rfl
@[simp] theorem exec_resyncWalkStep (s : State) :
    exec (.resyncWalkStep) s = execResyncWalkStep s := rfl
@[simp] theorem exec_save (s : State) :
    exec (.save) s = execSave s := rfl
@[simp] theorem exec_saveDeferredStart (s : State) :
    exec (.saveDeferredStart) s = execSaveDeferredStart s := rfl
@[simp] theorem exec_saveComplete (failed : Bool) (s : State) :
    exec (.saveComplete failed) s = execSaveComplete failed s := rfl
@[simp] theorem exec_defaults (s : State) :
    exec (.defaults) s = execDefaults s := rfl
@[simp] theorem exec_erase (s : State) :
    exec (.erase) s = execErase s := rfl
@[simp] theorem exec_eraseComplete (failed : Bool) (s : State) :
    exec (.eraseComplete failed) s = execEraseComplete failed s := rfl
@[simp] theorem exec_imageDigestWrite (p : BitVec 2) (digest : BitVec 512) (s : State) :
    exec (.imageDigestWrite p digest) s = execImageDigestWrite p digest s := rfl
@[simp] theorem exec_fwUpdate (offset : BitVec 32) (last : Bool) (bytes : List Byte) (s : State) :
    exec (.fwUpdate offset last bytes) s = execFwUpdate offset last bytes s := rfl
@[simp] theorem exec_fwUpdateVerifyEnd (s : State) :
    exec (.fwUpdateVerifyEnd) s = execFwUpdateVerifyEnd s := rfl
@[simp] theorem exec_activate (s : State) :
    exec (.activate) s = execActivate s := rfl
@[simp] theorem exec_eraseInactive (s : State) :
    exec (.eraseInactive) s = execEraseInactive s := rfl
@[simp] theorem exec_fwMinVersionWrite (v : Word) (s : State) :
    exec (.fwMinVersionWrite v) s = execFwMinVersionWrite v s := rfl
@[simp] theorem exec_publicKeyWrite (k : BitVec 3) (key : BitVec 512) (s : State) :
    exec (.publicKeyWrite k key) s = execPublicKeyWrite k key s := rfl
@[simp] theorem exec_revoke (k : BitVec 3) (s : State) :
    exec (.revoke k) s = execRevoke k s := rfl
@[simp] theorem exec_sign (s : State) :
    exec (.sign) s = execSign s := rfl
@[simp] theorem exec_signingComplete (s : State) :
    exec (.signingComplete) s = execSigningComplete s := rfl
@[simp] theorem exec_captureArm (s : State) :
    exec (.captureArm) s = execCaptureArm s := rfl
@[simp] theorem exec_captureDisarm (s : State) :
    exec (.captureDisarm) s = execCaptureDisarm s := rfl
@[simp] theorem exec_captureTrigger (s : State) :
    exec (.captureTrigger) s = execCaptureTrigger s := rfl
@[simp] theorem exec_captureScanEnd (s : State) :
    exec (.captureScanEnd) s = execCaptureScanEnd s := rfl
@[simp] theorem exec_captureRelease (s : State) :
    exec (.captureRelease) s = execCaptureRelease s := rfl
@[simp] theorem exec_flashLogWrite (s : State) :
    exec (.flashLogWrite) s = execFlashLogWrite s := rfl
@[simp] theorem exec_i3cSetdasa (addr : BitVec 7) (s : State) :
    exec (.i3cSetdasa addr) s = execI3cSetdasa addr s := rfl
@[simp] theorem exec_i3cPrivateRead (s : State) :
    exec (.i3cPrivateRead) s = execI3cPrivateRead s := rfl
@[simp] theorem exec_i3cPrivateWrite (bytes : List Byte) (s : State) :
    exec (.i3cPrivateWrite bytes) s = execI3cPrivateWrite bytes s := rfl
@[simp] theorem exec_extest (s : State) :
    exec (.extest) s = execExtest s := rfl
@[simp] theorem exec_idcode (s : State) :
    exec (.idcode) s = execIdcode s := rfl
@[simp] theorem exec_samplePreload (pins : BitVec 341) (s : State) :
    exec (.samplePreload pins) s = execSamplePreload pins s := rfl
@[simp] theorem exec_clamp (s : State) :
    exec (.clamp) s = execClamp s := rfl
@[simp] theorem exec_highz (s : State) :
    exec (.highz) s = execHighz s := rfl
@[simp] theorem exec_bypass (code : Byte) (s : State) :
    exec (.bypass code) s = execBypass code s := rfl
@[simp] theorem exec_testLogicReset (s : State) :
    exec (.testLogicReset) s = execTestLogicReset s := rfl
@[simp] theorem exec_defaultsComplete (s : State) :
    exec (.defaultsComplete) s = execDefaultsComplete s := rfl
@[simp] theorem exec_linkUp (s : State) :
    exec (.linkUp) s = execLinkUp s := rfl
@[simp] theorem exec_linkDown (s : State) :
    exec (.linkDown) s = execLinkDown s := rfl
@[simp] theorem exec_linkLocalAddressTaken (ip : BitVec 32) (s : State) :
    exec (.linkLocalAddressTaken ip) s = execLinkLocalAddressTaken ip s := rfl
@[simp] theorem exec_arpRequest (ip : BitVec 32) (s : State) :
    exec (.arpRequest ip) s = execArpRequest ip s := rfl
@[simp] theorem exec_icmpEchoRequest (ip : BitVec 32) (bytes : List Byte) (s : State) :
    exec (.icmpEchoRequest ip bytes) s = execIcmpEchoRequest ip bytes s := rfl
@[simp] theorem exec_lossOfPower (s : State) :
    exec (.lossOfPower) s = execLossOfPower s := rfl
@[simp] theorem exec_powerOn (s : State) :
    exec (.powerOn) s = execPowerOn s := rfl
@[simp] theorem exec_tckEdge (rising tms tdi : Bool) (pins : BitVec 341) (s : State) :
    exec (.tckEdge rising tms tdi pins) s = execTckEdge rising tms tdi pins s := rfl

end Sys2Proof.Machine
end

