-- ==== Sys2Proof/Laws/Table.lean ====
section
/-! SUPPORT. Laws of the sparse tables and memories: what a read gives after a write, and that every operation keeps the
canonical form. -/

namespace Sys2Proof.Machine

theorem tget_filter_above {α : Type} (d : α) (t : Tbl α) (i j : Nat) :
    tget d (t.filter (fun p => i < p.1)) j = if i < j then tget d t j else d := by
  induction t with
  | nil => simp [tget]
  | cons p t ih =>
    obtain ⟨k, w⟩ := p
    by_cases hk : i < k
    · simp only [List.filter, hk, decide_true, tget]
      by_cases h1 : j < k <;> by_cases h2 : j = k <;> by_cases h3 : i < j <;> simp_all
    · simp only [List.filter, hk, decide_false, tget, ih]
      by_cases h3 : i < j
      · have h1 : ¬ j < k := by omega
        have h2 : ¬ j = k := by omega
        simp [h1, h2, h3]
      · simp [h3]

/-- A read after a write gives the value written at its key and the old value at every other key. -/
theorem tget_tset {α : Type} [DecidableEq α] (d : α) (t : Tbl α) (i j : Nat) (v : α) :
    tget d (tset d t i v) j = if j = i then v else tget d t j := by
  induction t with
  | nil =>
    by_cases hv : v = d <;> by_cases h1 : j = i <;> by_cases h2 : j < i <;> simp_all [tset, tget]
  | cons p t ih =>
    obtain ⟨k, w⟩ := p
    by_cases h1 : i < k
    · by_cases hv : v = d
      · by_cases h2 : j = i
        · subst h2; simp [tset, tget, h1, hv]
        · simp [tset, h1, hv, h2]
      · simp only [tset, h1, hv, if_true, if_false, tget]
        by_cases h2 : j < i
        · have h3 : j < k := by omega
          have h4 : j ≠ i := by omega
          simp [h2, h3, h4]
        · by_cases h3 : j = i <;> simp [h2, h3]
    · by_cases h2 : i = k
      · subst h2
        by_cases hv : v = d
        · simp only [tset, Nat.lt_irrefl, hv, if_true, if_false, tget_filter_above, tget]
          by_cases h3 : j < i
          · have : ¬ i < j := by omega
            have : j ≠ i := by omega
            simp_all
          · by_cases h4 : j = i
            · simp [h4]
            · have : i < j := by omega
              simp_all
        · simp only [tset, Nat.lt_irrefl, hv, if_true, if_false, tget]
          by_cases h3 : j < i
          · have : j ≠ i := by omega
            simp_all
          · by_cases h4 : j = i <;> simp_all
      · simp only [tset, h1, h2, if_false, tget, ih]
        by_cases h3 : j < k
        · have : j ≠ i := by omega
          simp [h3, this]
        · by_cases h4 : j = k
          · have : j ≠ i := by omega
            simp [h4]; omega
          · simp [h3, h4]

@[simp] theorem tget_tset_self {α : Type} [DecidableEq α] (d : α) (t : Tbl α) (i : Nat) (v : α) :
    tget d (tset d t i v) i = v := by simp [tget_tset]

theorem tget_tset_ne {α : Type} [DecidableEq α] (d : α) (t : Tbl α) {i j : Nat} (v : α) (h : j ≠ i) :
    tget d (tset d t i v) j = tget d t j := by simp [tget_tset, h]

/-- Every key of the table is above `b`: the form of `tabove` on a whole list. -/
theorem tabove_tset {α : Type} [DecidableEq α] (d : α) (t : Tbl α) (b i : Nat) (v : α) (hb : b < i)
    (ht : tabove b t = true) (hw : twf d t = true) : tabove b (tset d t i v) = true := by
  cases t with
  | nil => by_cases hv : v = d <;> simp [tset, hv, tabove, hb]
  | cons p t =>
    obtain ⟨k, w⟩ := p
    simp only [tabove, decide_eq_true_eq] at ht
    simp only [tset]
    split_ifs with h1 h2 h3 h4
    · simpa [tabove] using ht
    · simpa [tabove] using hb
    · cases t with
      | nil => simp [tabove]
      | cons q t =>
        obtain ⟨k', w'⟩ := q
        simp only [twf, tabove, Bool.and_eq_true, decide_eq_true_eq] at hw
        have : i < k' := by omega
        simp [List.filter, this, tabove]; omega
    · simpa [tabove] using ht
    · simpa [tabove] using ht

theorem filter_of_above {α : Type} [DecidableEq α] (d : α) (t : Tbl α) (i : Nat)
    (ht : tabove i t = true) (hw : twf d t = true) : t.filter (fun p => i < p.1) = t := by
  induction t generalizing i with
  | nil => rfl
  | cons p t ih =>
    obtain ⟨k, w⟩ := p
    simp only [tabove, decide_eq_true_eq] at ht
    simp only [twf, Bool.and_eq_true] at hw
    have hk : tabove i t = true := by
      cases t with
      | nil => rfl
      | cons q t => simp only [tabove, decide_eq_true_eq] at hw ⊢; omega
    simp [List.filter, ht, ih i hk hw.2]

/-- A write keeps the canonical form. -/
theorem twf_tset {α : Type} [DecidableEq α] (d : α) (t : Tbl α) (i : Nat) (v : α) (hw : twf d t = true) :
    twf d (tset d t i v) = true := by
  induction t with
  | nil => by_cases hv : v = d <;> simp [tset, hv, twf, tabove]
  | cons p t ih =>
    obtain ⟨k, w⟩ := p
    have h0 := hw
    simp only [twf, Bool.and_eq_true, decide_eq_true_eq] at hw
    obtain ⟨⟨hd, ha⟩, ht⟩ := hw
    simp only [tset]
    split_ifs with h1 h2 h3 h4
    · exact h0
    · have hi : tabove i ((k, w) :: t) = true := by simpa [tabove] using h1
      simp only [twf, Bool.and_eq_true, decide_eq_true_eq]
      exact ⟨⟨h2, hi⟩, ⟨⟨hd, ha⟩, ht⟩⟩
    · subst h3; rw [filter_of_above d t i ha ht]; exact ht
    · simp [twf, h4, ha, ht]
    · have := tabove_tset d t k i v (by omega) ha ht
      simp [twf, hd, this, ih ht]

/-- Taking entries out keeps the canonical form. -/
theorem twf_filter {α : Type} [DecidableEq α] (d : α) (t : Tbl α) (f : Nat × α → Bool) (hw : twf d t = true) :
    twf d (t.filter f) = true ∧ ∀ b, tabove b t = true → tabove b (t.filter f) = true := by
  induction t with
  | nil => simp [twf, tabove]
  | cons p t ih =>
    obtain ⟨k, w⟩ := p
    simp only [twf, Bool.and_eq_true, decide_eq_true_eq] at hw
    obtain ⟨⟨hd, ha⟩, ht⟩ := hw
    obtain ⟨i1, i2⟩ := ih ht
    by_cases hf : f (k, w) = true
    · simp only [List.filter, hf]
      refine ⟨by simp [twf, hd, i1, i2 k ha], fun b hb => by simpa [tabove] using hb⟩
    · simp only [List.filter, hf]
      refine ⟨i1, fun b hb => ?_⟩
      apply i2
      simp only [tabove, decide_eq_true_eq] at hb
      cases t with
      | nil => rfl
      | cons q t => simp only [tabove, decide_eq_true_eq] at ha ⊢; omega

theorem twf_tclear {α : Type} [DecidableEq α] (d : α) (t : Tbl α) (lo hi : Nat) (hw : twf d t = true) :
    twf d (tclear t lo hi) = true := (twf_filter d t _ hw).1

/-! ## Memories -/

/-- One byte read after one byte written. -/
theorem Memory.read_write (m : Memory) (a b : Nat) (v : Byte) :
    (m.write a v).read b = if b = a then v else m.read b := tget_tset 0#8 m a b v

theorem Memory.wf_write (m : Memory) (a : Nat) (v : Byte) (h : m.wf = true) : (m.write a v).wf = true :=
  twf_tset 0#8 m a v h

theorem Memory.wf_putBytes (bs : List Byte) : ∀ (m : Memory) (a : Nat), m.wf = true → (m.putBytes a bs).wf = true := by
  induction bs with
  | nil => intro m a h; exact h
  | cons b bs ih => intro m a h; exact ih _ _ (wf_write m a b h)

theorem Memory.wf_putNum : ∀ (n : Nat) (m : Memory) (a v : Nat), m.wf = true → (m.putNum a n v).wf = true := by
  intro n
  induction n with
  | zero => intro m a v h; exact h
  | succ n ih => intro m a v h; exact ih _ _ _ (wf_write m a _ h)

theorem Memory.wf_clear (m : Memory) (lo hi : Nat) (h : m.wf = true) : (m.clear lo hi).wf = true :=
  twf_tclear 0#8 m lo hi h

/-- Bytes written as a list read back, and no other byte changes. -/
theorem Memory.read_putBytes (bs : List Byte) : ∀ (m : Memory) (a b : Nat),
    (m.putBytes a bs).read b = if a ≤ b ∧ b < a + bs.length then bs.getD (b - a) 0#8 else m.read b := by
  induction bs with
  | nil =>
    intro m a b
    simp only [putBytes, List.length_nil, Nat.add_zero]
    rw [if_neg (by omega)]
  | cons x bs ih =>
    intro m a b
    simp only [putBytes, ih, Memory.read_write, List.length_cons]
    by_cases h1 : b = a
    · subst h1
      simp
    · by_cases h2 : a + 1 ≤ b ∧ b < a + 1 + bs.length
      · have h3 : a ≤ b ∧ b < a + (bs.length + 1) := by omega
        rw [if_pos h2, if_pos h3]
        obtain ⟨k, rfl⟩ : ∃ k, b = a + 1 + k := ⟨b - (a + 1), by omega⟩
        simp [show a + 1 + k - a = k + 1 by omega]
      · have h3 : ¬ (a ≤ b ∧ b < a + (bs.length + 1)) := by omega
        rw [if_neg h2, if_neg h3, if_neg h1]

end Sys2Proof.Machine
end

