-- ==== Sys2Proof/Laws/State.lean ====
section
/-! SUPPORT. What each shared update of the state changes: one lemma per field it leaves alone, and what it leaves in the
field it writes. -/

namespace Sys2Proof.Machine

open Sys2Proof

/-! ## `setReg` -/

@[simp] theorem State.setReg_pending (s : State) (a : Nat) (v : Word) : (s.setReg a v).pending = s.pending := rfl
@[simp] theorem State.setReg_hold (s : State) (a : Nat) (v : Word) : (s.setReg a v).hold = s.hold := rfl
@[simp] theorem State.setReg_ind (s : State) (a : Nat) (v : Word) : (s.setReg a v).ind = s.ind := rfl
@[simp] theorem State.setReg_pins (s : State) (a : Nat) (v : Word) : (s.setReg a v).pins = s.pins := rfl
@[simp] theorem State.setReg_clock (s : State) (a : Nat) (v : Word) : (s.setReg a v).clock = s.clock := rfl
@[simp] theorem State.setReg_dev (s : State) (a : Nat) (v : Word) : (s.setReg a v).dev = s.dev := rfl
@[simp] theorem State.setReg_img (s : State) (a : Nat) (v : Word) : (s.setReg a v).img = s.img := rfl
@[simp] theorem State.setReg_adm (s : State) (a : Nat) (v : Word) : (s.setReg a v).adm = s.adm := rfl
@[simp] theorem State.setReg_fab (s : State) (a : Nat) (v : Word) : (s.setReg a v).fab = s.fab := rfl
@[simp] theorem State.setReg_plc (s : State) (a : Nat) (v : Word) : (s.setReg a v).plc = s.plc := rfl
@[simp] theorem State.setReg_num (s : State) (a : Nat) (v : Word) : (s.setReg a v).num = s.num := rfl
@[simp] theorem State.setReg_ctx (s : State) (a : Nat) (v : Word) : (s.setReg a v).ctx = s.ctx := rfl
@[simp] theorem State.setReg_ppu (s : State) (a : Nat) (v : Word) : (s.setReg a v).ppu = s.ppu := rfl
@[simp] theorem State.setReg_egr (s : State) (a : Nat) (v : Word) : (s.setReg a v).egr = s.egr := rfl
@[simp] theorem State.setReg_stm (s : State) (a : Nat) (v : Word) : (s.setReg a v).stm = s.stm := rfl
@[simp] theorem State.setReg_hbm (s : State) (a : Nat) (v : Word) : (s.setReg a v).hbm = s.hbm := rfl
@[simp] theorem State.setReg_hp0 (s : State) (a : Nat) (v : Word) : (s.setReg a v).hp0 = s.hp0 := rfl
@[simp] theorem State.setReg_hp1 (s : State) (a : Nat) (v : Word) : (s.setReg a v).hp1 = s.hp1 := rfl
@[simp] theorem State.setReg_clk (s : State) (a : Nat) (v : Word) : (s.setReg a v).clk = s.clk := rfl
@[simp] theorem State.setReg_pwr (s : State) (a : Nat) (v : Word) : (s.setReg a v).pwr = s.pwr := rfl
@[simp] theorem State.setReg_flt (s : State) (a : Nat) (v : Word) : (s.setReg a v).flt = s.flt := rfl
@[simp] theorem State.setReg_tel (s : State) (a : Nat) (v : Word) : (s.setReg a v).tel = s.tel := rfl
@[simp] theorem State.setReg_sec (s : State) (a : Nat) (v : Word) : (s.setReg a v).sec = s.sec := rfl
@[simp] theorem State.setReg_flash (s : State) (a : Nat) (v : Word) : (s.setReg a v).flash = s.flash := rfl
@[simp] theorem State.setReg_dict (s : State) (a : Nat) (v : Word) : (s.setReg a v).dict = s.dict := rfl
@[simp] theorem State.setReg_tap (s : State) (a : Nat) (v : Word) : (s.setReg a v).tap = s.tap := rfl
@[simp] theorem State.setReg_i3c (s : State) (a : Nat) (v : Word) : (s.setReg a v).i3c = s.i3c := rfl
@[simp] theorem State.setReg_freeCtr (s : State) (a : Nat) (v : Word) : (s.setReg a v).freeCtr = s.freeCtr := rfl

/-! ## `setBits` -/

@[simp] theorem State.setBits_pending (s : State) (a : Nat) (m : Word) : (s.setBits a m).pending = s.pending := rfl
@[simp] theorem State.setBits_hold (s : State) (a : Nat) (m : Word) : (s.setBits a m).hold = s.hold := rfl
@[simp] theorem State.setBits_ind (s : State) (a : Nat) (m : Word) : (s.setBits a m).ind = s.ind := rfl
@[simp] theorem State.setBits_pins (s : State) (a : Nat) (m : Word) : (s.setBits a m).pins = s.pins := rfl
@[simp] theorem State.setBits_clock (s : State) (a : Nat) (m : Word) : (s.setBits a m).clock = s.clock := rfl
@[simp] theorem State.setBits_dev (s : State) (a : Nat) (m : Word) : (s.setBits a m).dev = s.dev := rfl
@[simp] theorem State.setBits_img (s : State) (a : Nat) (m : Word) : (s.setBits a m).img = s.img := rfl
@[simp] theorem State.setBits_adm (s : State) (a : Nat) (m : Word) : (s.setBits a m).adm = s.adm := rfl
@[simp] theorem State.setBits_fab (s : State) (a : Nat) (m : Word) : (s.setBits a m).fab = s.fab := rfl
@[simp] theorem State.setBits_plc (s : State) (a : Nat) (m : Word) : (s.setBits a m).plc = s.plc := rfl
@[simp] theorem State.setBits_num (s : State) (a : Nat) (m : Word) : (s.setBits a m).num = s.num := rfl
@[simp] theorem State.setBits_ctx (s : State) (a : Nat) (m : Word) : (s.setBits a m).ctx = s.ctx := rfl
@[simp] theorem State.setBits_ppu (s : State) (a : Nat) (m : Word) : (s.setBits a m).ppu = s.ppu := rfl
@[simp] theorem State.setBits_egr (s : State) (a : Nat) (m : Word) : (s.setBits a m).egr = s.egr := rfl
@[simp] theorem State.setBits_stm (s : State) (a : Nat) (m : Word) : (s.setBits a m).stm = s.stm := rfl
@[simp] theorem State.setBits_hbm (s : State) (a : Nat) (m : Word) : (s.setBits a m).hbm = s.hbm := rfl
@[simp] theorem State.setBits_hp0 (s : State) (a : Nat) (m : Word) : (s.setBits a m).hp0 = s.hp0 := rfl
@[simp] theorem State.setBits_hp1 (s : State) (a : Nat) (m : Word) : (s.setBits a m).hp1 = s.hp1 := rfl
@[simp] theorem State.setBits_clk (s : State) (a : Nat) (m : Word) : (s.setBits a m).clk = s.clk := rfl
@[simp] theorem State.setBits_pwr (s : State) (a : Nat) (m : Word) : (s.setBits a m).pwr = s.pwr := rfl
@[simp] theorem State.setBits_flt (s : State) (a : Nat) (m : Word) : (s.setBits a m).flt = s.flt := rfl
@[simp] theorem State.setBits_tel (s : State) (a : Nat) (m : Word) : (s.setBits a m).tel = s.tel := rfl
@[simp] theorem State.setBits_sec (s : State) (a : Nat) (m : Word) : (s.setBits a m).sec = s.sec := rfl
@[simp] theorem State.setBits_flash (s : State) (a : Nat) (m : Word) : (s.setBits a m).flash = s.flash := rfl
@[simp] theorem State.setBits_dict (s : State) (a : Nat) (m : Word) : (s.setBits a m).dict = s.dict := rfl
@[simp] theorem State.setBits_tap (s : State) (a : Nat) (m : Word) : (s.setBits a m).tap = s.tap := rfl
@[simp] theorem State.setBits_i3c (s : State) (a : Nat) (m : Word) : (s.setBits a m).i3c = s.i3c := rfl
@[simp] theorem State.setBits_freeCtr (s : State) (a : Nat) (m : Word) : (s.setBits a m).freeCtr = s.freeCtr := rfl

/-! ## `clrBits` -/

@[simp] theorem State.clrBits_pending (s : State) (a : Nat) (m : Word) : (s.clrBits a m).pending = s.pending := rfl
@[simp] theorem State.clrBits_hold (s : State) (a : Nat) (m : Word) : (s.clrBits a m).hold = s.hold := rfl
@[simp] theorem State.clrBits_ind (s : State) (a : Nat) (m : Word) : (s.clrBits a m).ind = s.ind := rfl
@[simp] theorem State.clrBits_pins (s : State) (a : Nat) (m : Word) : (s.clrBits a m).pins = s.pins := rfl
@[simp] theorem State.clrBits_clock (s : State) (a : Nat) (m : Word) : (s.clrBits a m).clock = s.clock := rfl
@[simp] theorem State.clrBits_dev (s : State) (a : Nat) (m : Word) : (s.clrBits a m).dev = s.dev := rfl
@[simp] theorem State.clrBits_img (s : State) (a : Nat) (m : Word) : (s.clrBits a m).img = s.img := rfl
@[simp] theorem State.clrBits_adm (s : State) (a : Nat) (m : Word) : (s.clrBits a m).adm = s.adm := rfl
@[simp] theorem State.clrBits_fab (s : State) (a : Nat) (m : Word) : (s.clrBits a m).fab = s.fab := rfl
@[simp] theorem State.clrBits_plc (s : State) (a : Nat) (m : Word) : (s.clrBits a m).plc = s.plc := rfl
@[simp] theorem State.clrBits_num (s : State) (a : Nat) (m : Word) : (s.clrBits a m).num = s.num := rfl
@[simp] theorem State.clrBits_ctx (s : State) (a : Nat) (m : Word) : (s.clrBits a m).ctx = s.ctx := rfl
@[simp] theorem State.clrBits_ppu (s : State) (a : Nat) (m : Word) : (s.clrBits a m).ppu = s.ppu := rfl
@[simp] theorem State.clrBits_egr (s : State) (a : Nat) (m : Word) : (s.clrBits a m).egr = s.egr := rfl
@[simp] theorem State.clrBits_stm (s : State) (a : Nat) (m : Word) : (s.clrBits a m).stm = s.stm := rfl
@[simp] theorem State.clrBits_hbm (s : State) (a : Nat) (m : Word) : (s.clrBits a m).hbm = s.hbm := rfl
@[simp] theorem State.clrBits_hp0 (s : State) (a : Nat) (m : Word) : (s.clrBits a m).hp0 = s.hp0 := rfl
@[simp] theorem State.clrBits_hp1 (s : State) (a : Nat) (m : Word) : (s.clrBits a m).hp1 = s.hp1 := rfl
@[simp] theorem State.clrBits_clk (s : State) (a : Nat) (m : Word) : (s.clrBits a m).clk = s.clk := rfl
@[simp] theorem State.clrBits_pwr (s : State) (a : Nat) (m : Word) : (s.clrBits a m).pwr = s.pwr := rfl
@[simp] theorem State.clrBits_flt (s : State) (a : Nat) (m : Word) : (s.clrBits a m).flt = s.flt := rfl
@[simp] theorem State.clrBits_tel (s : State) (a : Nat) (m : Word) : (s.clrBits a m).tel = s.tel := rfl
@[simp] theorem State.clrBits_sec (s : State) (a : Nat) (m : Word) : (s.clrBits a m).sec = s.sec := rfl
@[simp] theorem State.clrBits_flash (s : State) (a : Nat) (m : Word) : (s.clrBits a m).flash = s.flash := rfl
@[simp] theorem State.clrBits_dict (s : State) (a : Nat) (m : Word) : (s.clrBits a m).dict = s.dict := rfl
@[simp] theorem State.clrBits_tap (s : State) (a : Nat) (m : Word) : (s.clrBits a m).tap = s.tap := rfl
@[simp] theorem State.clrBits_i3c (s : State) (a : Nat) (m : Word) : (s.clrBits a m).i3c = s.i3c := rfl
@[simp] theorem State.clrBits_freeCtr (s : State) (a : Nat) (m : Word) : (s.clrBits a m).freeCtr = s.freeCtr := rfl

/-! ## `putBit` -/

@[simp] theorem State.putBit_pending (s : State) (a i : Nat) (b : Bool) : (s.putBit a i b).pending = s.pending := by cases b <;> rfl
@[simp] theorem State.putBit_hold (s : State) (a i : Nat) (b : Bool) : (s.putBit a i b).hold = s.hold := by cases b <;> rfl
@[simp] theorem State.putBit_ind (s : State) (a i : Nat) (b : Bool) : (s.putBit a i b).ind = s.ind := by cases b <;> rfl
@[simp] theorem State.putBit_pins (s : State) (a i : Nat) (b : Bool) : (s.putBit a i b).pins = s.pins := by cases b <;> rfl
@[simp] theorem State.putBit_clock (s : State) (a i : Nat) (b : Bool) : (s.putBit a i b).clock = s.clock := by cases b <;> rfl
@[simp] theorem State.putBit_dev (s : State) (a i : Nat) (b : Bool) : (s.putBit a i b).dev = s.dev := by cases b <;> rfl
@[simp] theorem State.putBit_img (s : State) (a i : Nat) (b : Bool) : (s.putBit a i b).img = s.img := by cases b <;> rfl
@[simp] theorem State.putBit_adm (s : State) (a i : Nat) (b : Bool) : (s.putBit a i b).adm = s.adm := by cases b <;> rfl
@[simp] theorem State.putBit_fab (s : State) (a i : Nat) (b : Bool) : (s.putBit a i b).fab = s.fab := by cases b <;> rfl
@[simp] theorem State.putBit_plc (s : State) (a i : Nat) (b : Bool) : (s.putBit a i b).plc = s.plc := by cases b <;> rfl
@[simp] theorem State.putBit_num (s : State) (a i : Nat) (b : Bool) : (s.putBit a i b).num = s.num := by cases b <;> rfl
@[simp] theorem State.putBit_ctx (s : State) (a i : Nat) (b : Bool) : (s.putBit a i b).ctx = s.ctx := by cases b <;> rfl
@[simp] theorem State.putBit_ppu (s : State) (a i : Nat) (b : Bool) : (s.putBit a i b).ppu = s.ppu := by cases b <;> rfl
@[simp] theorem State.putBit_egr (s : State) (a i : Nat) (b : Bool) : (s.putBit a i b).egr = s.egr := by cases b <;> rfl
@[simp] theorem State.putBit_stm (s : State) (a i : Nat) (b : Bool) : (s.putBit a i b).stm = s.stm := by cases b <;> rfl
@[simp] theorem State.putBit_hbm (s : State) (a i : Nat) (b : Bool) : (s.putBit a i b).hbm = s.hbm := by cases b <;> rfl
@[simp] theorem State.putBit_hp0 (s : State) (a i : Nat) (b : Bool) : (s.putBit a i b).hp0 = s.hp0 := by cases b <;> rfl
@[simp] theorem State.putBit_hp1 (s : State) (a i : Nat) (b : Bool) : (s.putBit a i b).hp1 = s.hp1 := by cases b <;> rfl
@[simp] theorem State.putBit_clk (s : State) (a i : Nat) (b : Bool) : (s.putBit a i b).clk = s.clk := by cases b <;> rfl
@[simp] theorem State.putBit_pwr (s : State) (a i : Nat) (b : Bool) : (s.putBit a i b).pwr = s.pwr := by cases b <;> rfl
@[simp] theorem State.putBit_flt (s : State) (a i : Nat) (b : Bool) : (s.putBit a i b).flt = s.flt := by cases b <;> rfl
@[simp] theorem State.putBit_tel (s : State) (a i : Nat) (b : Bool) : (s.putBit a i b).tel = s.tel := by cases b <;> rfl
@[simp] theorem State.putBit_sec (s : State) (a i : Nat) (b : Bool) : (s.putBit a i b).sec = s.sec := by cases b <;> rfl
@[simp] theorem State.putBit_flash (s : State) (a i : Nat) (b : Bool) : (s.putBit a i b).flash = s.flash := by cases b <;> rfl
@[simp] theorem State.putBit_dict (s : State) (a i : Nat) (b : Bool) : (s.putBit a i b).dict = s.dict := by cases b <;> rfl
@[simp] theorem State.putBit_tap (s : State) (a i : Nat) (b : Bool) : (s.putBit a i b).tap = s.tap := by cases b <;> rfl
@[simp] theorem State.putBit_i3c (s : State) (a i : Nat) (b : Bool) : (s.putBit a i b).i3c = s.i3c := by cases b <;> rfl
@[simp] theorem State.putBit_freeCtr (s : State) (a i : Nat) (b : Bool) : (s.putBit a i b).freeCtr = s.freeCtr := by cases b <;> rfl

/-! ## `putFld` -/

@[simp] theorem State.putFld_pending (s : State) (a hi lo v : Nat) : (s.putFld a hi lo v).pending = s.pending := rfl
@[simp] theorem State.putFld_hold (s : State) (a hi lo v : Nat) : (s.putFld a hi lo v).hold = s.hold := rfl
@[simp] theorem State.putFld_ind (s : State) (a hi lo v : Nat) : (s.putFld a hi lo v).ind = s.ind := rfl
@[simp] theorem State.putFld_pins (s : State) (a hi lo v : Nat) : (s.putFld a hi lo v).pins = s.pins := rfl
@[simp] theorem State.putFld_clock (s : State) (a hi lo v : Nat) : (s.putFld a hi lo v).clock = s.clock := rfl
@[simp] theorem State.putFld_dev (s : State) (a hi lo v : Nat) : (s.putFld a hi lo v).dev = s.dev := rfl
@[simp] theorem State.putFld_img (s : State) (a hi lo v : Nat) : (s.putFld a hi lo v).img = s.img := rfl
@[simp] theorem State.putFld_adm (s : State) (a hi lo v : Nat) : (s.putFld a hi lo v).adm = s.adm := rfl
@[simp] theorem State.putFld_fab (s : State) (a hi lo v : Nat) : (s.putFld a hi lo v).fab = s.fab := rfl
@[simp] theorem State.putFld_plc (s : State) (a hi lo v : Nat) : (s.putFld a hi lo v).plc = s.plc := rfl
@[simp] theorem State.putFld_num (s : State) (a hi lo v : Nat) : (s.putFld a hi lo v).num = s.num := rfl
@[simp] theorem State.putFld_ctx (s : State) (a hi lo v : Nat) : (s.putFld a hi lo v).ctx = s.ctx := rfl
@[simp] theorem State.putFld_ppu (s : State) (a hi lo v : Nat) : (s.putFld a hi lo v).ppu = s.ppu := rfl
@[simp] theorem State.putFld_egr (s : State) (a hi lo v : Nat) : (s.putFld a hi lo v).egr = s.egr := rfl
@[simp] theorem State.putFld_stm (s : State) (a hi lo v : Nat) : (s.putFld a hi lo v).stm = s.stm := rfl
@[simp] theorem State.putFld_hbm (s : State) (a hi lo v : Nat) : (s.putFld a hi lo v).hbm = s.hbm := rfl
@[simp] theorem State.putFld_hp0 (s : State) (a hi lo v : Nat) : (s.putFld a hi lo v).hp0 = s.hp0 := rfl
@[simp] theorem State.putFld_hp1 (s : State) (a hi lo v : Nat) : (s.putFld a hi lo v).hp1 = s.hp1 := rfl
@[simp] theorem State.putFld_clk (s : State) (a hi lo v : Nat) : (s.putFld a hi lo v).clk = s.clk := rfl
@[simp] theorem State.putFld_pwr (s : State) (a hi lo v : Nat) : (s.putFld a hi lo v).pwr = s.pwr := rfl
@[simp] theorem State.putFld_flt (s : State) (a hi lo v : Nat) : (s.putFld a hi lo v).flt = s.flt := rfl
@[simp] theorem State.putFld_tel (s : State) (a hi lo v : Nat) : (s.putFld a hi lo v).tel = s.tel := rfl
@[simp] theorem State.putFld_sec (s : State) (a hi lo v : Nat) : (s.putFld a hi lo v).sec = s.sec := rfl
@[simp] theorem State.putFld_flash (s : State) (a hi lo v : Nat) : (s.putFld a hi lo v).flash = s.flash := rfl
@[simp] theorem State.putFld_dict (s : State) (a hi lo v : Nat) : (s.putFld a hi lo v).dict = s.dict := rfl
@[simp] theorem State.putFld_tap (s : State) (a hi lo v : Nat) : (s.putFld a hi lo v).tap = s.tap := rfl
@[simp] theorem State.putFld_i3c (s : State) (a hi lo v : Nat) : (s.putFld a hi lo v).i3c = s.i3c := rfl
@[simp] theorem State.putFld_freeCtr (s : State) (a hi lo v : Nat) : (s.putFld a hi lo v).freeCtr = s.freeCtr := rfl

/-! ## `count` -/

@[simp] theorem State.count_pending (s : State) (a n : Nat) : (s.count a n).pending = s.pending := rfl
@[simp] theorem State.count_hold (s : State) (a n : Nat) : (s.count a n).hold = s.hold := rfl
@[simp] theorem State.count_ind (s : State) (a n : Nat) : (s.count a n).ind = s.ind := rfl
@[simp] theorem State.count_pins (s : State) (a n : Nat) : (s.count a n).pins = s.pins := rfl
@[simp] theorem State.count_clock (s : State) (a n : Nat) : (s.count a n).clock = s.clock := rfl
@[simp] theorem State.count_dev (s : State) (a n : Nat) : (s.count a n).dev = s.dev := rfl
@[simp] theorem State.count_img (s : State) (a n : Nat) : (s.count a n).img = s.img := rfl
@[simp] theorem State.count_adm (s : State) (a n : Nat) : (s.count a n).adm = s.adm := rfl
@[simp] theorem State.count_fab (s : State) (a n : Nat) : (s.count a n).fab = s.fab := rfl
@[simp] theorem State.count_plc (s : State) (a n : Nat) : (s.count a n).plc = s.plc := rfl
@[simp] theorem State.count_num (s : State) (a n : Nat) : (s.count a n).num = s.num := rfl
@[simp] theorem State.count_ctx (s : State) (a n : Nat) : (s.count a n).ctx = s.ctx := rfl
@[simp] theorem State.count_ppu (s : State) (a n : Nat) : (s.count a n).ppu = s.ppu := rfl
@[simp] theorem State.count_egr (s : State) (a n : Nat) : (s.count a n).egr = s.egr := rfl
@[simp] theorem State.count_stm (s : State) (a n : Nat) : (s.count a n).stm = s.stm := rfl
@[simp] theorem State.count_hbm (s : State) (a n : Nat) : (s.count a n).hbm = s.hbm := rfl
@[simp] theorem State.count_hp0 (s : State) (a n : Nat) : (s.count a n).hp0 = s.hp0 := rfl
@[simp] theorem State.count_hp1 (s : State) (a n : Nat) : (s.count a n).hp1 = s.hp1 := rfl
@[simp] theorem State.count_clk (s : State) (a n : Nat) : (s.count a n).clk = s.clk := rfl
@[simp] theorem State.count_pwr (s : State) (a n : Nat) : (s.count a n).pwr = s.pwr := rfl
@[simp] theorem State.count_flt (s : State) (a n : Nat) : (s.count a n).flt = s.flt := rfl
@[simp] theorem State.count_tel (s : State) (a n : Nat) : (s.count a n).tel = s.tel := rfl
@[simp] theorem State.count_sec (s : State) (a n : Nat) : (s.count a n).sec = s.sec := rfl
@[simp] theorem State.count_flash (s : State) (a n : Nat) : (s.count a n).flash = s.flash := rfl
@[simp] theorem State.count_dict (s : State) (a n : Nat) : (s.count a n).dict = s.dict := rfl
@[simp] theorem State.count_tap (s : State) (a n : Nat) : (s.count a n).tap = s.tap := rfl
@[simp] theorem State.count_i3c (s : State) (a n : Nat) : (s.count a n).i3c = s.i3c := rfl
@[simp] theorem State.count_freeCtr (s : State) (a n : Nat) : (s.count a n).freeCtr = s.freeCtr := rfl

/-! ## `cfgIgn` -/

@[simp] theorem State.cfgIgn_pending (s : State) (b : Nat) : (s.cfgIgn b).pending = s.pending := rfl
@[simp] theorem State.cfgIgn_hold (s : State) (b : Nat) : (s.cfgIgn b).hold = s.hold := rfl
@[simp] theorem State.cfgIgn_ind (s : State) (b : Nat) : (s.cfgIgn b).ind = s.ind := rfl
@[simp] theorem State.cfgIgn_pins (s : State) (b : Nat) : (s.cfgIgn b).pins = s.pins := rfl
@[simp] theorem State.cfgIgn_clock (s : State) (b : Nat) : (s.cfgIgn b).clock = s.clock := rfl
@[simp] theorem State.cfgIgn_dev (s : State) (b : Nat) : (s.cfgIgn b).dev = s.dev := rfl
@[simp] theorem State.cfgIgn_img (s : State) (b : Nat) : (s.cfgIgn b).img = s.img := rfl
@[simp] theorem State.cfgIgn_adm (s : State) (b : Nat) : (s.cfgIgn b).adm = s.adm := rfl
@[simp] theorem State.cfgIgn_fab (s : State) (b : Nat) : (s.cfgIgn b).fab = s.fab := rfl
@[simp] theorem State.cfgIgn_plc (s : State) (b : Nat) : (s.cfgIgn b).plc = s.plc := rfl
@[simp] theorem State.cfgIgn_num (s : State) (b : Nat) : (s.cfgIgn b).num = s.num := rfl
@[simp] theorem State.cfgIgn_ctx (s : State) (b : Nat) : (s.cfgIgn b).ctx = s.ctx := rfl
@[simp] theorem State.cfgIgn_ppu (s : State) (b : Nat) : (s.cfgIgn b).ppu = s.ppu := rfl
@[simp] theorem State.cfgIgn_egr (s : State) (b : Nat) : (s.cfgIgn b).egr = s.egr := rfl
@[simp] theorem State.cfgIgn_stm (s : State) (b : Nat) : (s.cfgIgn b).stm = s.stm := rfl
@[simp] theorem State.cfgIgn_hbm (s : State) (b : Nat) : (s.cfgIgn b).hbm = s.hbm := rfl
@[simp] theorem State.cfgIgn_hp0 (s : State) (b : Nat) : (s.cfgIgn b).hp0 = s.hp0 := rfl
@[simp] theorem State.cfgIgn_hp1 (s : State) (b : Nat) : (s.cfgIgn b).hp1 = s.hp1 := rfl
@[simp] theorem State.cfgIgn_clk (s : State) (b : Nat) : (s.cfgIgn b).clk = s.clk := rfl
@[simp] theorem State.cfgIgn_pwr (s : State) (b : Nat) : (s.cfgIgn b).pwr = s.pwr := rfl
@[simp] theorem State.cfgIgn_flt (s : State) (b : Nat) : (s.cfgIgn b).flt = s.flt := rfl
@[simp] theorem State.cfgIgn_tel (s : State) (b : Nat) : (s.cfgIgn b).tel = s.tel := rfl
@[simp] theorem State.cfgIgn_sec (s : State) (b : Nat) : (s.cfgIgn b).sec = s.sec := rfl
@[simp] theorem State.cfgIgn_flash (s : State) (b : Nat) : (s.cfgIgn b).flash = s.flash := rfl
@[simp] theorem State.cfgIgn_dict (s : State) (b : Nat) : (s.cfgIgn b).dict = s.dict := rfl
@[simp] theorem State.cfgIgn_tap (s : State) (b : Nat) : (s.cfgIgn b).tap = s.tap := rfl
@[simp] theorem State.cfgIgn_i3c (s : State) (b : Nat) : (s.cfgIgn b).i3c = s.i3c := rfl
@[simp] theorem State.cfgIgn_freeCtr (s : State) (b : Nat) : (s.cfgIgn b).freeCtr = s.freeCtr := rfl

/-! ## `passTo` and `until` -/

@[simp] theorem State.passTo_pending (s : State) (t : Nat) : (s.passTo t).pending = s.pending := rfl
@[simp] theorem State.passTo_regs (s : State) (t : Nat) : (s.passTo t).regs = s.regs := rfl
@[simp] theorem State.passTo_hold (s : State) (t : Nat) : (s.passTo t).hold = s.hold := rfl
@[simp] theorem State.passTo_ind (s : State) (t : Nat) : (s.passTo t).ind = s.ind := rfl
@[simp] theorem State.passTo_pins (s : State) (t : Nat) : (s.passTo t).pins = s.pins := rfl
@[simp] theorem State.passTo_dev (s : State) (t : Nat) : (s.passTo t).dev = s.dev := rfl
@[simp] theorem State.passTo_img (s : State) (t : Nat) : (s.passTo t).img = s.img := rfl
@[simp] theorem State.passTo_adm (s : State) (t : Nat) : (s.passTo t).adm = s.adm := rfl
@[simp] theorem State.passTo_fab (s : State) (t : Nat) : (s.passTo t).fab = s.fab := rfl
@[simp] theorem State.passTo_num (s : State) (t : Nat) : (s.passTo t).num = s.num := rfl
@[simp] theorem State.passTo_ctx (s : State) (t : Nat) : (s.passTo t).ctx = s.ctx := rfl
@[simp] theorem State.passTo_ppu (s : State) (t : Nat) : (s.passTo t).ppu = s.ppu := rfl
@[simp] theorem State.passTo_egr (s : State) (t : Nat) : (s.passTo t).egr = s.egr := rfl
@[simp] theorem State.passTo_hbm (s : State) (t : Nat) : (s.passTo t).hbm = s.hbm := rfl
@[simp] theorem State.passTo_hp0 (s : State) (t : Nat) : (s.passTo t).hp0 = s.hp0 := rfl
@[simp] theorem State.passTo_hp1 (s : State) (t : Nat) : (s.passTo t).hp1 = s.hp1 := rfl
@[simp] theorem State.passTo_clk (s : State) (t : Nat) : (s.passTo t).clk = s.clk := rfl
@[simp] theorem State.passTo_pwr (s : State) (t : Nat) : (s.passTo t).pwr = s.pwr := rfl
@[simp] theorem State.passTo_flt (s : State) (t : Nat) : (s.passTo t).flt = s.flt := rfl
@[simp] theorem State.passTo_tel (s : State) (t : Nat) : (s.passTo t).tel = s.tel := rfl
@[simp] theorem State.passTo_sec (s : State) (t : Nat) : (s.passTo t).sec = s.sec := rfl
@[simp] theorem State.passTo_flash (s : State) (t : Nat) : (s.passTo t).flash = s.flash := rfl
@[simp] theorem State.passTo_dict (s : State) (t : Nat) : (s.passTo t).dict = s.dict := rfl
@[simp] theorem State.passTo_tap (s : State) (t : Nat) : (s.passTo t).tap = s.tap := rfl
@[simp] theorem State.passTo_i3c (s : State) (t : Nat) : (s.passTo t).i3c = s.i3c := rfl
@[simp] theorem State.passTo_freeCtr (s : State) (t : Nat) : (s.passTo t).freeCtr = s.freeCtr := rfl
@[simp] theorem State.passTo_clock (s : State) (t : Nat) : (s.passTo t).clock = { s.clock with now := t } := rfl

theorem State.until_of_le (s : State) {t : Nat} (h : t ≤ s.clock.now) : s.until t = s := if_pos h
theorem State.until_of_lt (s : State) {t : Nat} (h : s.clock.now < t) : s.until t = s.passTo t := if_neg (by omega)

@[simp] theorem State.until_pending (s : State) (t : Nat) : (s.until t).pending = s.pending := by unfold State.until; split_ifs <;> rfl
@[simp] theorem State.until_regs (s : State) (t : Nat) : (s.until t).regs = s.regs := by unfold State.until; split_ifs <;> rfl
@[simp] theorem State.until_hold (s : State) (t : Nat) : (s.until t).hold = s.hold := by unfold State.until; split_ifs <;> rfl
@[simp] theorem State.until_ind (s : State) (t : Nat) : (s.until t).ind = s.ind := by unfold State.until; split_ifs <;> rfl
@[simp] theorem State.until_pins (s : State) (t : Nat) : (s.until t).pins = s.pins := by unfold State.until; split_ifs <;> rfl
@[simp] theorem State.until_dev (s : State) (t : Nat) : (s.until t).dev = s.dev := by unfold State.until; split_ifs <;> rfl
@[simp] theorem State.until_img (s : State) (t : Nat) : (s.until t).img = s.img := by unfold State.until; split_ifs <;> rfl
@[simp] theorem State.until_adm (s : State) (t : Nat) : (s.until t).adm = s.adm := by unfold State.until; split_ifs <;> rfl
@[simp] theorem State.until_fab (s : State) (t : Nat) : (s.until t).fab = s.fab := by unfold State.until; split_ifs <;> rfl
@[simp] theorem State.until_num (s : State) (t : Nat) : (s.until t).num = s.num := by unfold State.until; split_ifs <;> rfl
@[simp] theorem State.until_ctx (s : State) (t : Nat) : (s.until t).ctx = s.ctx := by unfold State.until; split_ifs <;> rfl
@[simp] theorem State.until_ppu (s : State) (t : Nat) : (s.until t).ppu = s.ppu := by unfold State.until; split_ifs <;> rfl
@[simp] theorem State.until_egr (s : State) (t : Nat) : (s.until t).egr = s.egr := by unfold State.until; split_ifs <;> rfl
@[simp] theorem State.until_hbm (s : State) (t : Nat) : (s.until t).hbm = s.hbm := by unfold State.until; split_ifs <;> rfl
@[simp] theorem State.until_hp0 (s : State) (t : Nat) : (s.until t).hp0 = s.hp0 := by unfold State.until; split_ifs <;> rfl
@[simp] theorem State.until_hp1 (s : State) (t : Nat) : (s.until t).hp1 = s.hp1 := by unfold State.until; split_ifs <;> rfl
@[simp] theorem State.until_clk (s : State) (t : Nat) : (s.until t).clk = s.clk := by unfold State.until; split_ifs <;> rfl
@[simp] theorem State.until_pwr (s : State) (t : Nat) : (s.until t).pwr = s.pwr := by unfold State.until; split_ifs <;> rfl
@[simp] theorem State.until_flt (s : State) (t : Nat) : (s.until t).flt = s.flt := by unfold State.until; split_ifs <;> rfl
@[simp] theorem State.until_tel (s : State) (t : Nat) : (s.until t).tel = s.tel := by unfold State.until; split_ifs <;> rfl
@[simp] theorem State.until_sec (s : State) (t : Nat) : (s.until t).sec = s.sec := by unfold State.until; split_ifs <;> rfl
@[simp] theorem State.until_flash (s : State) (t : Nat) : (s.until t).flash = s.flash := by unfold State.until; split_ifs <;> rfl
@[simp] theorem State.until_dict (s : State) (t : Nat) : (s.until t).dict = s.dict := by unfold State.until; split_ifs <;> rfl
@[simp] theorem State.until_tap (s : State) (t : Nat) : (s.until t).tap = s.tap := by unfold State.until; split_ifs <;> rfl
@[simp] theorem State.until_i3c (s : State) (t : Nat) : (s.until t).i3c = s.i3c := by unfold State.until; split_ifs <;> rfl
@[simp] theorem State.until_freeCtr (s : State) (t : Nat) : (s.until t).freeCtr = s.freeCtr := by unfold State.until; split_ifs <;> rfl
@[simp] theorem State.until_clock (s : State) (t : Nat) :
    (s.until t).clock = { s.clock with now := max s.clock.now t } := by
  unfold State.until
  split_ifs with h
  · rw [Nat.max_eq_left h]
  · rw [Nat.max_eq_right (by omega)]
    rfl

/-- Beside the clock, time moves the buckets' gain and the watch alone. -/
theorem State.until_stm (s : State) (t : Nat) : (s.until t).stm = { s.stm with gain := (s.until t).stm.gain } := by
  unfold State.until; split_ifs <;> rfl
theorem State.until_plc (s : State) (t : Nat) : (s.until t).plc = { s.plc with watch := (s.until t).plc.watch } := by
  unfold State.until; split_ifs <;> rfl
@[simp] theorem State.until_pitch (s : State) (t : Nat) : (s.until t).plc.pitch = s.plc.pitch := by
  unfold State.until; split_ifs <;> rfl
@[simp] theorem State.until_ts (s : State) (t : Nat) : (s.until t).stm.ts = s.stm.ts := by
  unfold State.until; split_ifs <;> rfl

/-! ## `unpredictable` -/

/-- A host error leaves what a reset leaves, and the model's queue and clock (R4). -/
@[simp] theorem State.unpredictable_pending (s : State) : s.unpredictable.pending = s.pending := by
  unfold State.unpredictable; dsimp only; split_ifs <;> rfl
@[simp] theorem State.unpredictable_flash (s : State) : s.unpredictable.flash = s.flash := by
  unfold State.unpredictable; dsimp only; split_ifs <;> rfl
@[simp] theorem State.unpredictable_tap (s : State) : s.unpredictable.tap = s.tap := by
  unfold State.unpredictable; dsimp only; split_ifs <;> rfl
@[simp] theorem State.unpredictable_now (s : State) : s.unpredictable.clock.now = s.clock.now := by
  unfold State.unpredictable; dsimp only; split_ifs <;> rfl
@[simp] theorem State.unpredictable_up (s : State) : s.unpredictable.up = s.up := by
  unfold State.unpredictable; dsimp only; split_ifs <;> rfl

/-! ## `driveAlert` -/

@[simp] theorem State.driveAlert_pending (s : State) : (s.driveAlert).pending = s.pending := rfl
@[simp] theorem State.driveAlert_regs (s : State) : (s.driveAlert).regs = s.regs := rfl
@[simp] theorem State.driveAlert_hold (s : State) : (s.driveAlert).hold = s.hold := rfl
@[simp] theorem State.driveAlert_ind (s : State) : (s.driveAlert).ind = s.ind := rfl
@[simp] theorem State.driveAlert_clock (s : State) : (s.driveAlert).clock = s.clock := rfl
@[simp] theorem State.driveAlert_dev (s : State) : (s.driveAlert).dev = s.dev := rfl
@[simp] theorem State.driveAlert_img (s : State) : (s.driveAlert).img = s.img := rfl
@[simp] theorem State.driveAlert_adm (s : State) : (s.driveAlert).adm = s.adm := rfl
@[simp] theorem State.driveAlert_fab (s : State) : (s.driveAlert).fab = s.fab := rfl
@[simp] theorem State.driveAlert_plc (s : State) : (s.driveAlert).plc = s.plc := rfl
@[simp] theorem State.driveAlert_num (s : State) : (s.driveAlert).num = s.num := rfl
@[simp] theorem State.driveAlert_ctx (s : State) : (s.driveAlert).ctx = s.ctx := rfl
@[simp] theorem State.driveAlert_ppu (s : State) : (s.driveAlert).ppu = s.ppu := rfl
@[simp] theorem State.driveAlert_egr (s : State) : (s.driveAlert).egr = s.egr := rfl
@[simp] theorem State.driveAlert_stm (s : State) : (s.driveAlert).stm = s.stm := rfl
@[simp] theorem State.driveAlert_hbm (s : State) : (s.driveAlert).hbm = s.hbm := rfl
@[simp] theorem State.driveAlert_hp0 (s : State) : (s.driveAlert).hp0 = s.hp0 := rfl
@[simp] theorem State.driveAlert_hp1 (s : State) : (s.driveAlert).hp1 = s.hp1 := rfl
@[simp] theorem State.driveAlert_clk (s : State) : (s.driveAlert).clk = s.clk := rfl
@[simp] theorem State.driveAlert_pwr (s : State) : (s.driveAlert).pwr = s.pwr := rfl
@[simp] theorem State.driveAlert_flt (s : State) : (s.driveAlert).flt = s.flt := rfl
@[simp] theorem State.driveAlert_tel (s : State) : (s.driveAlert).tel = s.tel := rfl
@[simp] theorem State.driveAlert_sec (s : State) : (s.driveAlert).sec = s.sec := rfl
@[simp] theorem State.driveAlert_flash (s : State) : (s.driveAlert).flash = s.flash := rfl
@[simp] theorem State.driveAlert_dict (s : State) : (s.driveAlert).dict = s.dict := rfl
@[simp] theorem State.driveAlert_tap (s : State) : (s.driveAlert).tap = s.tap := rfl
@[simp] theorem State.driveAlert_i3c (s : State) : (s.driveAlert).i3c = s.i3c := rfl
@[simp] theorem State.driveAlert_freeCtr (s : State) : (s.driveAlert).freeCtr = s.freeCtr := rfl

/-! ## `alert` -/

@[simp] theorem State.alert_pending (s : State) (i : Nat) : (s.alert i).pending = s.pending := rfl
@[simp] theorem State.alert_hold (s : State) (i : Nat) : (s.alert i).hold = s.hold := rfl
@[simp] theorem State.alert_ind (s : State) (i : Nat) : (s.alert i).ind = s.ind := rfl
@[simp] theorem State.alert_clock (s : State) (i : Nat) : (s.alert i).clock = s.clock := rfl
@[simp] theorem State.alert_dev (s : State) (i : Nat) : (s.alert i).dev = s.dev := rfl
@[simp] theorem State.alert_img (s : State) (i : Nat) : (s.alert i).img = s.img := rfl
@[simp] theorem State.alert_adm (s : State) (i : Nat) : (s.alert i).adm = s.adm := rfl
@[simp] theorem State.alert_fab (s : State) (i : Nat) : (s.alert i).fab = s.fab := rfl
@[simp] theorem State.alert_plc (s : State) (i : Nat) : (s.alert i).plc = s.plc := rfl
@[simp] theorem State.alert_num (s : State) (i : Nat) : (s.alert i).num = s.num := rfl
@[simp] theorem State.alert_ctx (s : State) (i : Nat) : (s.alert i).ctx = s.ctx := rfl
@[simp] theorem State.alert_ppu (s : State) (i : Nat) : (s.alert i).ppu = s.ppu := rfl
@[simp] theorem State.alert_egr (s : State) (i : Nat) : (s.alert i).egr = s.egr := rfl
@[simp] theorem State.alert_stm (s : State) (i : Nat) : (s.alert i).stm = s.stm := rfl
@[simp] theorem State.alert_hbm (s : State) (i : Nat) : (s.alert i).hbm = s.hbm := rfl
@[simp] theorem State.alert_hp0 (s : State) (i : Nat) : (s.alert i).hp0 = s.hp0 := rfl
@[simp] theorem State.alert_hp1 (s : State) (i : Nat) : (s.alert i).hp1 = s.hp1 := rfl
@[simp] theorem State.alert_clk (s : State) (i : Nat) : (s.alert i).clk = s.clk := rfl
@[simp] theorem State.alert_pwr (s : State) (i : Nat) : (s.alert i).pwr = s.pwr := rfl
@[simp] theorem State.alert_flt (s : State) (i : Nat) : (s.alert i).flt = s.flt := rfl
@[simp] theorem State.alert_tel (s : State) (i : Nat) : (s.alert i).tel = s.tel := rfl
@[simp] theorem State.alert_sec (s : State) (i : Nat) : (s.alert i).sec = s.sec := rfl
@[simp] theorem State.alert_flash (s : State) (i : Nat) : (s.alert i).flash = s.flash := rfl
@[simp] theorem State.alert_dict (s : State) (i : Nat) : (s.alert i).dict = s.dict := rfl
@[simp] theorem State.alert_tap (s : State) (i : Nat) : (s.alert i).tap = s.tap := rfl
@[simp] theorem State.alert_i3c (s : State) (i : Nat) : (s.alert i).i3c = s.i3c := rfl
@[simp] theorem State.alert_freeCtr (s : State) (i : Nat) : (s.alert i).freeCtr = s.freeCtr := rfl

/-! ## `logEvent` -/

@[simp] theorem State.logEvent_pending (s : State) (k : Nat) (x : BitVec 64) : (s.logEvent k x).pending = s.pending := rfl
@[simp] theorem State.logEvent_hold (s : State) (k : Nat) (x : BitVec 64) : (s.logEvent k x).hold = s.hold := rfl
@[simp] theorem State.logEvent_ind (s : State) (k : Nat) (x : BitVec 64) : (s.logEvent k x).ind = s.ind := rfl
@[simp] theorem State.logEvent_pins (s : State) (k : Nat) (x : BitVec 64) : (s.logEvent k x).pins = s.pins := rfl
@[simp] theorem State.logEvent_clock (s : State) (k : Nat) (x : BitVec 64) : (s.logEvent k x).clock = s.clock := rfl
@[simp] theorem State.logEvent_dev (s : State) (k : Nat) (x : BitVec 64) : (s.logEvent k x).dev = s.dev := rfl
@[simp] theorem State.logEvent_img (s : State) (k : Nat) (x : BitVec 64) : (s.logEvent k x).img = s.img := rfl
@[simp] theorem State.logEvent_adm (s : State) (k : Nat) (x : BitVec 64) : (s.logEvent k x).adm = s.adm := rfl
@[simp] theorem State.logEvent_fab (s : State) (k : Nat) (x : BitVec 64) : (s.logEvent k x).fab = s.fab := rfl
@[simp] theorem State.logEvent_plc (s : State) (k : Nat) (x : BitVec 64) : (s.logEvent k x).plc = s.plc := rfl
@[simp] theorem State.logEvent_num (s : State) (k : Nat) (x : BitVec 64) : (s.logEvent k x).num = s.num := rfl
@[simp] theorem State.logEvent_ctx (s : State) (k : Nat) (x : BitVec 64) : (s.logEvent k x).ctx = s.ctx := rfl
@[simp] theorem State.logEvent_ppu (s : State) (k : Nat) (x : BitVec 64) : (s.logEvent k x).ppu = s.ppu := rfl
@[simp] theorem State.logEvent_egr (s : State) (k : Nat) (x : BitVec 64) : (s.logEvent k x).egr = s.egr := rfl
@[simp] theorem State.logEvent_stm (s : State) (k : Nat) (x : BitVec 64) : (s.logEvent k x).stm = s.stm := rfl
@[simp] theorem State.logEvent_hbm (s : State) (k : Nat) (x : BitVec 64) : (s.logEvent k x).hbm = s.hbm := rfl
@[simp] theorem State.logEvent_hp0 (s : State) (k : Nat) (x : BitVec 64) : (s.logEvent k x).hp0 = s.hp0 := rfl
@[simp] theorem State.logEvent_hp1 (s : State) (k : Nat) (x : BitVec 64) : (s.logEvent k x).hp1 = s.hp1 := rfl
@[simp] theorem State.logEvent_clk (s : State) (k : Nat) (x : BitVec 64) : (s.logEvent k x).clk = s.clk := rfl
@[simp] theorem State.logEvent_pwr (s : State) (k : Nat) (x : BitVec 64) : (s.logEvent k x).pwr = s.pwr := rfl
@[simp] theorem State.logEvent_flt (s : State) (k : Nat) (x : BitVec 64) : (s.logEvent k x).flt = s.flt := rfl
@[simp] theorem State.logEvent_sec (s : State) (k : Nat) (x : BitVec 64) : (s.logEvent k x).sec = s.sec := rfl
@[simp] theorem State.logEvent_flash (s : State) (k : Nat) (x : BitVec 64) : (s.logEvent k x).flash = s.flash := rfl
@[simp] theorem State.logEvent_dict (s : State) (k : Nat) (x : BitVec 64) : (s.logEvent k x).dict = s.dict := rfl
@[simp] theorem State.logEvent_tap (s : State) (k : Nat) (x : BitVec 64) : (s.logEvent k x).tap = s.tap := rfl
@[simp] theorem State.logEvent_i3c (s : State) (k : Nat) (x : BitVec 64) : (s.logEvent k x).i3c = s.i3c := rfl
@[simp] theorem State.logEvent_freeCtr (s : State) (k : Nat) (x : BitVec 64) : (s.logEvent k x).freeCtr = s.freeCtr := rfl

/-! ## `contained` -/

@[simp] theorem State.contained_pending (s : State) (b n : Nat) : (s.contained b n).pending = s.pending := rfl
@[simp] theorem State.contained_hold (s : State) (b n : Nat) : (s.contained b n).hold = s.hold := rfl
@[simp] theorem State.contained_ind (s : State) (b n : Nat) : (s.contained b n).ind = s.ind := rfl
@[simp] theorem State.contained_pins (s : State) (b n : Nat) : (s.contained b n).pins = s.pins := rfl
@[simp] theorem State.contained_clock (s : State) (b n : Nat) : (s.contained b n).clock = s.clock := rfl
@[simp] theorem State.contained_dev (s : State) (b n : Nat) : (s.contained b n).dev = s.dev := rfl
@[simp] theorem State.contained_img (s : State) (b n : Nat) : (s.contained b n).img = s.img := rfl
@[simp] theorem State.contained_adm (s : State) (b n : Nat) : (s.contained b n).adm = s.adm := rfl
@[simp] theorem State.contained_fab (s : State) (b n : Nat) : (s.contained b n).fab = s.fab := rfl
@[simp] theorem State.contained_plc (s : State) (b n : Nat) : (s.contained b n).plc = s.plc := rfl
@[simp] theorem State.contained_num (s : State) (b n : Nat) : (s.contained b n).num = s.num := rfl
@[simp] theorem State.contained_ctx (s : State) (b n : Nat) : (s.contained b n).ctx = s.ctx := rfl
@[simp] theorem State.contained_ppu (s : State) (b n : Nat) : (s.contained b n).ppu = s.ppu := rfl
@[simp] theorem State.contained_egr (s : State) (b n : Nat) : (s.contained b n).egr = s.egr := rfl
@[simp] theorem State.contained_stm (s : State) (b n : Nat) : (s.contained b n).stm = s.stm := rfl
@[simp] theorem State.contained_hbm (s : State) (b n : Nat) : (s.contained b n).hbm = s.hbm := rfl
@[simp] theorem State.contained_hp0 (s : State) (b n : Nat) : (s.contained b n).hp0 = s.hp0 := rfl
@[simp] theorem State.contained_hp1 (s : State) (b n : Nat) : (s.contained b n).hp1 = s.hp1 := rfl
@[simp] theorem State.contained_clk (s : State) (b n : Nat) : (s.contained b n).clk = s.clk := rfl
@[simp] theorem State.contained_pwr (s : State) (b n : Nat) : (s.contained b n).pwr = s.pwr := rfl
@[simp] theorem State.contained_flt (s : State) (b n : Nat) : (s.contained b n).flt = s.flt := rfl
@[simp] theorem State.contained_sec (s : State) (b n : Nat) : (s.contained b n).sec = s.sec := rfl
@[simp] theorem State.contained_flash (s : State) (b n : Nat) : (s.contained b n).flash = s.flash := rfl
@[simp] theorem State.contained_dict (s : State) (b n : Nat) : (s.contained b n).dict = s.dict := rfl
@[simp] theorem State.contained_tap (s : State) (b n : Nat) : (s.contained b n).tap = s.tap := rfl
@[simp] theorem State.contained_i3c (s : State) (b n : Nat) : (s.contained b n).i3c = s.i3c := rfl
@[simp] theorem State.contained_freeCtr (s : State) (b n : Nat) : (s.contained b n).freeCtr = s.freeCtr := rfl

/-! ## `setTile` -/

@[simp] theorem State.setTile_pending (s : State) (t : TileAddr) (x : Tile) : (s.setTile t x).pending = s.pending := rfl
@[simp] theorem State.setTile_regs (s : State) (t : TileAddr) (x : Tile) : (s.setTile t x).regs = s.regs := rfl
@[simp] theorem State.setTile_hold (s : State) (t : TileAddr) (x : Tile) : (s.setTile t x).hold = s.hold := rfl
@[simp] theorem State.setTile_ind (s : State) (t : TileAddr) (x : Tile) : (s.setTile t x).ind = s.ind := rfl
@[simp] theorem State.setTile_pins (s : State) (t : TileAddr) (x : Tile) : (s.setTile t x).pins = s.pins := rfl
@[simp] theorem State.setTile_clock (s : State) (t : TileAddr) (x : Tile) : (s.setTile t x).clock = s.clock := rfl
@[simp] theorem State.setTile_dev (s : State) (t : TileAddr) (x : Tile) : (s.setTile t x).dev = s.dev := rfl
@[simp] theorem State.setTile_img (s : State) (t : TileAddr) (x : Tile) : (s.setTile t x).img = s.img := rfl
@[simp] theorem State.setTile_adm (s : State) (t : TileAddr) (x : Tile) : (s.setTile t x).adm = s.adm := rfl
@[simp] theorem State.setTile_plc (s : State) (t : TileAddr) (x : Tile) : (s.setTile t x).plc = s.plc := rfl
@[simp] theorem State.setTile_num (s : State) (t : TileAddr) (x : Tile) : (s.setTile t x).num = s.num := rfl
@[simp] theorem State.setTile_ctx (s : State) (t : TileAddr) (x : Tile) : (s.setTile t x).ctx = s.ctx := rfl
@[simp] theorem State.setTile_ppu (s : State) (t : TileAddr) (x : Tile) : (s.setTile t x).ppu = s.ppu := rfl
@[simp] theorem State.setTile_egr (s : State) (t : TileAddr) (x : Tile) : (s.setTile t x).egr = s.egr := rfl
@[simp] theorem State.setTile_stm (s : State) (t : TileAddr) (x : Tile) : (s.setTile t x).stm = s.stm := rfl
@[simp] theorem State.setTile_hbm (s : State) (t : TileAddr) (x : Tile) : (s.setTile t x).hbm = s.hbm := rfl
@[simp] theorem State.setTile_hp0 (s : State) (t : TileAddr) (x : Tile) : (s.setTile t x).hp0 = s.hp0 := rfl
@[simp] theorem State.setTile_hp1 (s : State) (t : TileAddr) (x : Tile) : (s.setTile t x).hp1 = s.hp1 := rfl
@[simp] theorem State.setTile_clk (s : State) (t : TileAddr) (x : Tile) : (s.setTile t x).clk = s.clk := rfl
@[simp] theorem State.setTile_pwr (s : State) (t : TileAddr) (x : Tile) : (s.setTile t x).pwr = s.pwr := rfl
@[simp] theorem State.setTile_flt (s : State) (t : TileAddr) (x : Tile) : (s.setTile t x).flt = s.flt := rfl
@[simp] theorem State.setTile_tel (s : State) (t : TileAddr) (x : Tile) : (s.setTile t x).tel = s.tel := rfl
@[simp] theorem State.setTile_sec (s : State) (t : TileAddr) (x : Tile) : (s.setTile t x).sec = s.sec := rfl
@[simp] theorem State.setTile_flash (s : State) (t : TileAddr) (x : Tile) : (s.setTile t x).flash = s.flash := rfl
@[simp] theorem State.setTile_dict (s : State) (t : TileAddr) (x : Tile) : (s.setTile t x).dict = s.dict := rfl
@[simp] theorem State.setTile_tap (s : State) (t : TileAddr) (x : Tile) : (s.setTile t x).tap = s.tap := rfl
@[simp] theorem State.setTile_i3c (s : State) (t : TileAddr) (x : Tile) : (s.setTile t x).i3c = s.i3c := rfl
@[simp] theorem State.setTile_freeCtr (s : State) (t : TileAddr) (x : Tile) : (s.setTile t x).freeCtr = s.freeCtr := rfl

/-! ## `setDom` -/

@[simp] theorem State.setDom_pending (s : State) (d : Nat) (x : Dom) : (s.setDom d x).pending = s.pending := rfl
@[simp] theorem State.setDom_regs (s : State) (d : Nat) (x : Dom) : (s.setDom d x).regs = s.regs := rfl
@[simp] theorem State.setDom_hold (s : State) (d : Nat) (x : Dom) : (s.setDom d x).hold = s.hold := rfl
@[simp] theorem State.setDom_ind (s : State) (d : Nat) (x : Dom) : (s.setDom d x).ind = s.ind := rfl
@[simp] theorem State.setDom_pins (s : State) (d : Nat) (x : Dom) : (s.setDom d x).pins = s.pins := rfl
@[simp] theorem State.setDom_clock (s : State) (d : Nat) (x : Dom) : (s.setDom d x).clock = s.clock := rfl
@[simp] theorem State.setDom_dev (s : State) (d : Nat) (x : Dom) : (s.setDom d x).dev = s.dev := rfl
@[simp] theorem State.setDom_img (s : State) (d : Nat) (x : Dom) : (s.setDom d x).img = s.img := rfl
@[simp] theorem State.setDom_adm (s : State) (d : Nat) (x : Dom) : (s.setDom d x).adm = s.adm := rfl
@[simp] theorem State.setDom_fab (s : State) (d : Nat) (x : Dom) : (s.setDom d x).fab = s.fab := rfl
@[simp] theorem State.setDom_plc (s : State) (d : Nat) (x : Dom) : (s.setDom d x).plc = s.plc := rfl
@[simp] theorem State.setDom_num (s : State) (d : Nat) (x : Dom) : (s.setDom d x).num = s.num := rfl
@[simp] theorem State.setDom_ctx (s : State) (d : Nat) (x : Dom) : (s.setDom d x).ctx = s.ctx := rfl
@[simp] theorem State.setDom_ppu (s : State) (d : Nat) (x : Dom) : (s.setDom d x).ppu = s.ppu := rfl
@[simp] theorem State.setDom_egr (s : State) (d : Nat) (x : Dom) : (s.setDom d x).egr = s.egr := rfl
@[simp] theorem State.setDom_stm (s : State) (d : Nat) (x : Dom) : (s.setDom d x).stm = s.stm := rfl
@[simp] theorem State.setDom_hbm (s : State) (d : Nat) (x : Dom) : (s.setDom d x).hbm = s.hbm := rfl
@[simp] theorem State.setDom_hp0 (s : State) (d : Nat) (x : Dom) : (s.setDom d x).hp0 = s.hp0 := rfl
@[simp] theorem State.setDom_hp1 (s : State) (d : Nat) (x : Dom) : (s.setDom d x).hp1 = s.hp1 := rfl
@[simp] theorem State.setDom_clk (s : State) (d : Nat) (x : Dom) : (s.setDom d x).clk = s.clk := rfl
@[simp] theorem State.setDom_flt (s : State) (d : Nat) (x : Dom) : (s.setDom d x).flt = s.flt := rfl
@[simp] theorem State.setDom_tel (s : State) (d : Nat) (x : Dom) : (s.setDom d x).tel = s.tel := rfl
@[simp] theorem State.setDom_sec (s : State) (d : Nat) (x : Dom) : (s.setDom d x).sec = s.sec := rfl
@[simp] theorem State.setDom_flash (s : State) (d : Nat) (x : Dom) : (s.setDom d x).flash = s.flash := rfl
@[simp] theorem State.setDom_dict (s : State) (d : Nat) (x : Dom) : (s.setDom d x).dict = s.dict := rfl
@[simp] theorem State.setDom_tap (s : State) (d : Nat) (x : Dom) : (s.setDom d x).tap = s.tap := rfl
@[simp] theorem State.setDom_i3c (s : State) (d : Nat) (x : Dom) : (s.setDom d x).i3c = s.i3c := rfl
@[simp] theorem State.setDom_freeCtr (s : State) (d : Nat) (x : Dom) : (s.setDom d x).freeCtr = s.freeCtr := rfl

/-! ## `setStream` -/

@[simp] theorem State.setStream_pending (s : State) (n : Nat) (x : StreamAdm) : (s.setStream n x).pending = s.pending := rfl
@[simp] theorem State.setStream_regs (s : State) (n : Nat) (x : StreamAdm) : (s.setStream n x).regs = s.regs := rfl
@[simp] theorem State.setStream_hold (s : State) (n : Nat) (x : StreamAdm) : (s.setStream n x).hold = s.hold := rfl
@[simp] theorem State.setStream_ind (s : State) (n : Nat) (x : StreamAdm) : (s.setStream n x).ind = s.ind := rfl
@[simp] theorem State.setStream_pins (s : State) (n : Nat) (x : StreamAdm) : (s.setStream n x).pins = s.pins := rfl
@[simp] theorem State.setStream_clock (s : State) (n : Nat) (x : StreamAdm) : (s.setStream n x).clock = s.clock := rfl
@[simp] theorem State.setStream_dev (s : State) (n : Nat) (x : StreamAdm) : (s.setStream n x).dev = s.dev := rfl
@[simp] theorem State.setStream_img (s : State) (n : Nat) (x : StreamAdm) : (s.setStream n x).img = s.img := rfl
@[simp] theorem State.setStream_fab (s : State) (n : Nat) (x : StreamAdm) : (s.setStream n x).fab = s.fab := rfl
@[simp] theorem State.setStream_plc (s : State) (n : Nat) (x : StreamAdm) : (s.setStream n x).plc = s.plc := rfl
@[simp] theorem State.setStream_num (s : State) (n : Nat) (x : StreamAdm) : (s.setStream n x).num = s.num := rfl
@[simp] theorem State.setStream_ctx (s : State) (n : Nat) (x : StreamAdm) : (s.setStream n x).ctx = s.ctx := rfl
@[simp] theorem State.setStream_ppu (s : State) (n : Nat) (x : StreamAdm) : (s.setStream n x).ppu = s.ppu := rfl
@[simp] theorem State.setStream_egr (s : State) (n : Nat) (x : StreamAdm) : (s.setStream n x).egr = s.egr := rfl
@[simp] theorem State.setStream_stm (s : State) (n : Nat) (x : StreamAdm) : (s.setStream n x).stm = s.stm := rfl
@[simp] theorem State.setStream_hbm (s : State) (n : Nat) (x : StreamAdm) : (s.setStream n x).hbm = s.hbm := rfl
@[simp] theorem State.setStream_hp0 (s : State) (n : Nat) (x : StreamAdm) : (s.setStream n x).hp0 = s.hp0 := rfl
@[simp] theorem State.setStream_hp1 (s : State) (n : Nat) (x : StreamAdm) : (s.setStream n x).hp1 = s.hp1 := rfl
@[simp] theorem State.setStream_clk (s : State) (n : Nat) (x : StreamAdm) : (s.setStream n x).clk = s.clk := rfl
@[simp] theorem State.setStream_pwr (s : State) (n : Nat) (x : StreamAdm) : (s.setStream n x).pwr = s.pwr := rfl
@[simp] theorem State.setStream_flt (s : State) (n : Nat) (x : StreamAdm) : (s.setStream n x).flt = s.flt := rfl
@[simp] theorem State.setStream_tel (s : State) (n : Nat) (x : StreamAdm) : (s.setStream n x).tel = s.tel := rfl
@[simp] theorem State.setStream_sec (s : State) (n : Nat) (x : StreamAdm) : (s.setStream n x).sec = s.sec := rfl
@[simp] theorem State.setStream_flash (s : State) (n : Nat) (x : StreamAdm) : (s.setStream n x).flash = s.flash := rfl
@[simp] theorem State.setStream_dict (s : State) (n : Nat) (x : StreamAdm) : (s.setStream n x).dict = s.dict := rfl
@[simp] theorem State.setStream_tap (s : State) (n : Nat) (x : StreamAdm) : (s.setStream n x).tap = s.tap := rfl
@[simp] theorem State.setStream_i3c (s : State) (n : Nat) (x : StreamAdm) : (s.setStream n x).i3c = s.i3c := rfl
@[simp] theorem State.setStream_freeCtr (s : State) (n : Nat) (x : StreamAdm) : (s.setStream n x).freeCtr = s.freeCtr := rfl

/-! ## `setObj` -/

@[simp] theorem State.setObj_pending (s : State) (k v : Nat) : (s.setObj k v).pending = s.pending := rfl
@[simp] theorem State.setObj_regs (s : State) (k v : Nat) : (s.setObj k v).regs = s.regs := rfl
@[simp] theorem State.setObj_hold (s : State) (k v : Nat) : (s.setObj k v).hold = s.hold := rfl
@[simp] theorem State.setObj_ind (s : State) (k v : Nat) : (s.setObj k v).ind = s.ind := rfl
@[simp] theorem State.setObj_pins (s : State) (k v : Nat) : (s.setObj k v).pins = s.pins := rfl
@[simp] theorem State.setObj_clock (s : State) (k v : Nat) : (s.setObj k v).clock = s.clock := rfl
@[simp] theorem State.setObj_dev (s : State) (k v : Nat) : (s.setObj k v).dev = s.dev := rfl
@[simp] theorem State.setObj_img (s : State) (k v : Nat) : (s.setObj k v).img = s.img := rfl
@[simp] theorem State.setObj_adm (s : State) (k v : Nat) : (s.setObj k v).adm = s.adm := rfl
@[simp] theorem State.setObj_fab (s : State) (k v : Nat) : (s.setObj k v).fab = s.fab := rfl
@[simp] theorem State.setObj_plc (s : State) (k v : Nat) : (s.setObj k v).plc = s.plc := rfl
@[simp] theorem State.setObj_num (s : State) (k v : Nat) : (s.setObj k v).num = s.num := rfl
@[simp] theorem State.setObj_ctx (s : State) (k v : Nat) : (s.setObj k v).ctx = s.ctx := rfl
@[simp] theorem State.setObj_ppu (s : State) (k v : Nat) : (s.setObj k v).ppu = s.ppu := rfl
@[simp] theorem State.setObj_egr (s : State) (k v : Nat) : (s.setObj k v).egr = s.egr := rfl
@[simp] theorem State.setObj_stm (s : State) (k v : Nat) : (s.setObj k v).stm = s.stm := rfl
@[simp] theorem State.setObj_hbm (s : State) (k v : Nat) : (s.setObj k v).hbm = s.hbm := rfl
@[simp] theorem State.setObj_hp0 (s : State) (k v : Nat) : (s.setObj k v).hp0 = s.hp0 := rfl
@[simp] theorem State.setObj_hp1 (s : State) (k v : Nat) : (s.setObj k v).hp1 = s.hp1 := rfl
@[simp] theorem State.setObj_clk (s : State) (k v : Nat) : (s.setObj k v).clk = s.clk := rfl
@[simp] theorem State.setObj_pwr (s : State) (k v : Nat) : (s.setObj k v).pwr = s.pwr := rfl
@[simp] theorem State.setObj_flt (s : State) (k v : Nat) : (s.setObj k v).flt = s.flt := rfl
@[simp] theorem State.setObj_tel (s : State) (k v : Nat) : (s.setObj k v).tel = s.tel := rfl
@[simp] theorem State.setObj_sec (s : State) (k v : Nat) : (s.setObj k v).sec = s.sec := rfl
@[simp] theorem State.setObj_flash (s : State) (k v : Nat) : (s.setObj k v).flash = s.flash := rfl
@[simp] theorem State.setObj_tap (s : State) (k v : Nat) : (s.setObj k v).tap = s.tap := rfl
@[simp] theorem State.setObj_i3c (s : State) (k v : Nat) : (s.setObj k v).i3c = s.i3c := rfl
@[simp] theorem State.setObj_freeCtr (s : State) (k v : Nat) : (s.setObj k v).freeCtr = s.freeCtr := rfl

/-! ## `setCap` -/

@[simp] theorem State.setCap_pending (s : State) (c : Capture) : (s.setCap c).pending = s.pending := rfl
@[simp] theorem State.setCap_regs (s : State) (c : Capture) : (s.setCap c).regs = s.regs := rfl
@[simp] theorem State.setCap_hold (s : State) (c : Capture) : (s.setCap c).hold = s.hold := rfl
@[simp] theorem State.setCap_ind (s : State) (c : Capture) : (s.setCap c).ind = s.ind := rfl
@[simp] theorem State.setCap_pins (s : State) (c : Capture) : (s.setCap c).pins = s.pins := rfl
@[simp] theorem State.setCap_clock (s : State) (c : Capture) : (s.setCap c).clock = s.clock := rfl
@[simp] theorem State.setCap_dev (s : State) (c : Capture) : (s.setCap c).dev = s.dev := rfl
@[simp] theorem State.setCap_img (s : State) (c : Capture) : (s.setCap c).img = s.img := rfl
@[simp] theorem State.setCap_adm (s : State) (c : Capture) : (s.setCap c).adm = s.adm := rfl
@[simp] theorem State.setCap_fab (s : State) (c : Capture) : (s.setCap c).fab = s.fab := rfl
@[simp] theorem State.setCap_plc (s : State) (c : Capture) : (s.setCap c).plc = s.plc := rfl
@[simp] theorem State.setCap_num (s : State) (c : Capture) : (s.setCap c).num = s.num := rfl
@[simp] theorem State.setCap_ctx (s : State) (c : Capture) : (s.setCap c).ctx = s.ctx := rfl
@[simp] theorem State.setCap_ppu (s : State) (c : Capture) : (s.setCap c).ppu = s.ppu := rfl
@[simp] theorem State.setCap_egr (s : State) (c : Capture) : (s.setCap c).egr = s.egr := rfl
@[simp] theorem State.setCap_stm (s : State) (c : Capture) : (s.setCap c).stm = s.stm := rfl
@[simp] theorem State.setCap_hbm (s : State) (c : Capture) : (s.setCap c).hbm = s.hbm := rfl
@[simp] theorem State.setCap_hp0 (s : State) (c : Capture) : (s.setCap c).hp0 = s.hp0 := rfl
@[simp] theorem State.setCap_hp1 (s : State) (c : Capture) : (s.setCap c).hp1 = s.hp1 := rfl
@[simp] theorem State.setCap_clk (s : State) (c : Capture) : (s.setCap c).clk = s.clk := rfl
@[simp] theorem State.setCap_pwr (s : State) (c : Capture) : (s.setCap c).pwr = s.pwr := rfl
@[simp] theorem State.setCap_flt (s : State) (c : Capture) : (s.setCap c).flt = s.flt := rfl
@[simp] theorem State.setCap_sec (s : State) (c : Capture) : (s.setCap c).sec = s.sec := rfl
@[simp] theorem State.setCap_flash (s : State) (c : Capture) : (s.setCap c).flash = s.flash := rfl
@[simp] theorem State.setCap_dict (s : State) (c : Capture) : (s.setCap c).dict = s.dict := rfl
@[simp] theorem State.setCap_tap (s : State) (c : Capture) : (s.setCap c).tap = s.tap := rfl
@[simp] theorem State.setCap_i3c (s : State) (c : Capture) : (s.setCap c).i3c = s.i3c := rfl
@[simp] theorem State.setCap_freeCtr (s : State) (c : Capture) : (s.setCap c).freeCtr = s.freeCtr := rfl

/-! ## `setSctx` -/

@[simp] theorem State.setSctx_pending (s : State) (n : Nat) (x : StreamCtx) : (s.setSctx n x).pending = s.pending := rfl
@[simp] theorem State.setSctx_regs (s : State) (n : Nat) (x : StreamCtx) : (s.setSctx n x).regs = s.regs := rfl
@[simp] theorem State.setSctx_hold (s : State) (n : Nat) (x : StreamCtx) : (s.setSctx n x).hold = s.hold := rfl
@[simp] theorem State.setSctx_ind (s : State) (n : Nat) (x : StreamCtx) : (s.setSctx n x).ind = s.ind := rfl
@[simp] theorem State.setSctx_pins (s : State) (n : Nat) (x : StreamCtx) : (s.setSctx n x).pins = s.pins := rfl
@[simp] theorem State.setSctx_clock (s : State) (n : Nat) (x : StreamCtx) : (s.setSctx n x).clock = s.clock := rfl
@[simp] theorem State.setSctx_dev (s : State) (n : Nat) (x : StreamCtx) : (s.setSctx n x).dev = s.dev := rfl
@[simp] theorem State.setSctx_img (s : State) (n : Nat) (x : StreamCtx) : (s.setSctx n x).img = s.img := rfl
@[simp] theorem State.setSctx_adm (s : State) (n : Nat) (x : StreamCtx) : (s.setSctx n x).adm = s.adm := rfl
@[simp] theorem State.setSctx_fab (s : State) (n : Nat) (x : StreamCtx) : (s.setSctx n x).fab = s.fab := rfl
@[simp] theorem State.setSctx_plc (s : State) (n : Nat) (x : StreamCtx) : (s.setSctx n x).plc = s.plc := rfl
@[simp] theorem State.setSctx_num (s : State) (n : Nat) (x : StreamCtx) : (s.setSctx n x).num = s.num := rfl
@[simp] theorem State.setSctx_ppu (s : State) (n : Nat) (x : StreamCtx) : (s.setSctx n x).ppu = s.ppu := rfl
@[simp] theorem State.setSctx_egr (s : State) (n : Nat) (x : StreamCtx) : (s.setSctx n x).egr = s.egr := rfl
@[simp] theorem State.setSctx_stm (s : State) (n : Nat) (x : StreamCtx) : (s.setSctx n x).stm = s.stm := rfl
@[simp] theorem State.setSctx_hbm (s : State) (n : Nat) (x : StreamCtx) : (s.setSctx n x).hbm = s.hbm := rfl
@[simp] theorem State.setSctx_hp0 (s : State) (n : Nat) (x : StreamCtx) : (s.setSctx n x).hp0 = s.hp0 := rfl
@[simp] theorem State.setSctx_hp1 (s : State) (n : Nat) (x : StreamCtx) : (s.setSctx n x).hp1 = s.hp1 := rfl
@[simp] theorem State.setSctx_clk (s : State) (n : Nat) (x : StreamCtx) : (s.setSctx n x).clk = s.clk := rfl
@[simp] theorem State.setSctx_pwr (s : State) (n : Nat) (x : StreamCtx) : (s.setSctx n x).pwr = s.pwr := rfl
@[simp] theorem State.setSctx_flt (s : State) (n : Nat) (x : StreamCtx) : (s.setSctx n x).flt = s.flt := rfl
@[simp] theorem State.setSctx_tel (s : State) (n : Nat) (x : StreamCtx) : (s.setSctx n x).tel = s.tel := rfl
@[simp] theorem State.setSctx_sec (s : State) (n : Nat) (x : StreamCtx) : (s.setSctx n x).sec = s.sec := rfl
@[simp] theorem State.setSctx_flash (s : State) (n : Nat) (x : StreamCtx) : (s.setSctx n x).flash = s.flash := rfl
@[simp] theorem State.setSctx_dict (s : State) (n : Nat) (x : StreamCtx) : (s.setSctx n x).dict = s.dict := rfl
@[simp] theorem State.setSctx_tap (s : State) (n : Nat) (x : StreamCtx) : (s.setSctx n x).tap = s.tap := rfl
@[simp] theorem State.setSctx_i3c (s : State) (n : Nat) (x : StreamCtx) : (s.setSctx n x).i3c = s.i3c := rfl
@[simp] theorem State.setSctx_freeCtr (s : State) (n : Nat) (x : StreamCtx) : (s.setSctx n x).freeCtr = s.freeCtr := rfl

/-! ## `setTs` -/

@[simp] theorem State.setTs_pending (s : State) (t : Nat) (x : TStream) : (s.setTs t x).pending = s.pending := rfl
@[simp] theorem State.setTs_regs (s : State) (t : Nat) (x : TStream) : (s.setTs t x).regs = s.regs := rfl
@[simp] theorem State.setTs_hold (s : State) (t : Nat) (x : TStream) : (s.setTs t x).hold = s.hold := rfl
@[simp] theorem State.setTs_ind (s : State) (t : Nat) (x : TStream) : (s.setTs t x).ind = s.ind := rfl
@[simp] theorem State.setTs_pins (s : State) (t : Nat) (x : TStream) : (s.setTs t x).pins = s.pins := rfl
@[simp] theorem State.setTs_clock (s : State) (t : Nat) (x : TStream) : (s.setTs t x).clock = s.clock := rfl
@[simp] theorem State.setTs_dev (s : State) (t : Nat) (x : TStream) : (s.setTs t x).dev = s.dev := rfl
@[simp] theorem State.setTs_img (s : State) (t : Nat) (x : TStream) : (s.setTs t x).img = s.img := rfl
@[simp] theorem State.setTs_adm (s : State) (t : Nat) (x : TStream) : (s.setTs t x).adm = s.adm := rfl
@[simp] theorem State.setTs_fab (s : State) (t : Nat) (x : TStream) : (s.setTs t x).fab = s.fab := rfl
@[simp] theorem State.setTs_plc (s : State) (t : Nat) (x : TStream) : (s.setTs t x).plc = s.plc := rfl
@[simp] theorem State.setTs_num (s : State) (t : Nat) (x : TStream) : (s.setTs t x).num = s.num := rfl
@[simp] theorem State.setTs_ctx (s : State) (t : Nat) (x : TStream) : (s.setTs t x).ctx = s.ctx := rfl
@[simp] theorem State.setTs_ppu (s : State) (t : Nat) (x : TStream) : (s.setTs t x).ppu = s.ppu := rfl
@[simp] theorem State.setTs_egr (s : State) (t : Nat) (x : TStream) : (s.setTs t x).egr = s.egr := rfl
@[simp] theorem State.setTs_hbm (s : State) (t : Nat) (x : TStream) : (s.setTs t x).hbm = s.hbm := rfl
@[simp] theorem State.setTs_hp0 (s : State) (t : Nat) (x : TStream) : (s.setTs t x).hp0 = s.hp0 := rfl
@[simp] theorem State.setTs_hp1 (s : State) (t : Nat) (x : TStream) : (s.setTs t x).hp1 = s.hp1 := rfl
@[simp] theorem State.setTs_clk (s : State) (t : Nat) (x : TStream) : (s.setTs t x).clk = s.clk := rfl
@[simp] theorem State.setTs_pwr (s : State) (t : Nat) (x : TStream) : (s.setTs t x).pwr = s.pwr := rfl
@[simp] theorem State.setTs_flt (s : State) (t : Nat) (x : TStream) : (s.setTs t x).flt = s.flt := rfl
@[simp] theorem State.setTs_tel (s : State) (t : Nat) (x : TStream) : (s.setTs t x).tel = s.tel := rfl
@[simp] theorem State.setTs_sec (s : State) (t : Nat) (x : TStream) : (s.setTs t x).sec = s.sec := rfl
@[simp] theorem State.setTs_flash (s : State) (t : Nat) (x : TStream) : (s.setTs t x).flash = s.flash := rfl
@[simp] theorem State.setTs_dict (s : State) (t : Nat) (x : TStream) : (s.setTs t x).dict = s.dict := rfl
@[simp] theorem State.setTs_tap (s : State) (t : Nat) (x : TStream) : (s.setTs t x).tap = s.tap := rfl
@[simp] theorem State.setTs_i3c (s : State) (t : Nat) (x : TStream) : (s.setTs t x).i3c = s.i3c := rfl
@[simp] theorem State.setTs_freeCtr (s : State) (t : Nat) (x : TStream) : (s.setTs t x).freeCtr = s.freeCtr := rfl

/-! ## `setChan` -/

@[simp] theorem State.setChan_pending (s : State) (c : Nat) (x : Chan) : (s.setChan c x).pending = s.pending := rfl
@[simp] theorem State.setChan_regs (s : State) (c : Nat) (x : Chan) : (s.setChan c x).regs = s.regs := rfl
@[simp] theorem State.setChan_hold (s : State) (c : Nat) (x : Chan) : (s.setChan c x).hold = s.hold := rfl
@[simp] theorem State.setChan_ind (s : State) (c : Nat) (x : Chan) : (s.setChan c x).ind = s.ind := rfl
@[simp] theorem State.setChan_pins (s : State) (c : Nat) (x : Chan) : (s.setChan c x).pins = s.pins := rfl
@[simp] theorem State.setChan_clock (s : State) (c : Nat) (x : Chan) : (s.setChan c x).clock = s.clock := rfl
@[simp] theorem State.setChan_dev (s : State) (c : Nat) (x : Chan) : (s.setChan c x).dev = s.dev := rfl
@[simp] theorem State.setChan_img (s : State) (c : Nat) (x : Chan) : (s.setChan c x).img = s.img := rfl
@[simp] theorem State.setChan_adm (s : State) (c : Nat) (x : Chan) : (s.setChan c x).adm = s.adm := rfl
@[simp] theorem State.setChan_fab (s : State) (c : Nat) (x : Chan) : (s.setChan c x).fab = s.fab := rfl
@[simp] theorem State.setChan_plc (s : State) (c : Nat) (x : Chan) : (s.setChan c x).plc = s.plc := rfl
@[simp] theorem State.setChan_num (s : State) (c : Nat) (x : Chan) : (s.setChan c x).num = s.num := rfl
@[simp] theorem State.setChan_ctx (s : State) (c : Nat) (x : Chan) : (s.setChan c x).ctx = s.ctx := rfl
@[simp] theorem State.setChan_ppu (s : State) (c : Nat) (x : Chan) : (s.setChan c x).ppu = s.ppu := rfl
@[simp] theorem State.setChan_egr (s : State) (c : Nat) (x : Chan) : (s.setChan c x).egr = s.egr := rfl
@[simp] theorem State.setChan_stm (s : State) (c : Nat) (x : Chan) : (s.setChan c x).stm = s.stm := rfl
@[simp] theorem State.setChan_hp0 (s : State) (c : Nat) (x : Chan) : (s.setChan c x).hp0 = s.hp0 := rfl
@[simp] theorem State.setChan_hp1 (s : State) (c : Nat) (x : Chan) : (s.setChan c x).hp1 = s.hp1 := rfl
@[simp] theorem State.setChan_clk (s : State) (c : Nat) (x : Chan) : (s.setChan c x).clk = s.clk := rfl
@[simp] theorem State.setChan_pwr (s : State) (c : Nat) (x : Chan) : (s.setChan c x).pwr = s.pwr := rfl
@[simp] theorem State.setChan_flt (s : State) (c : Nat) (x : Chan) : (s.setChan c x).flt = s.flt := rfl
@[simp] theorem State.setChan_tel (s : State) (c : Nat) (x : Chan) : (s.setChan c x).tel = s.tel := rfl
@[simp] theorem State.setChan_sec (s : State) (c : Nat) (x : Chan) : (s.setChan c x).sec = s.sec := rfl
@[simp] theorem State.setChan_flash (s : State) (c : Nat) (x : Chan) : (s.setChan c x).flash = s.flash := rfl
@[simp] theorem State.setChan_dict (s : State) (c : Nat) (x : Chan) : (s.setChan c x).dict = s.dict := rfl
@[simp] theorem State.setChan_tap (s : State) (c : Nat) (x : Chan) : (s.setChan c x).tap = s.tap := rfl
@[simp] theorem State.setChan_i3c (s : State) (c : Nat) (x : Chan) : (s.setChan c x).i3c = s.i3c := rfl
@[simp] theorem State.setChan_freeCtr (s : State) (c : Nat) (x : Chan) : (s.setChan c x).freeCtr = s.freeCtr := rfl

/-! ## `setPort` -/

@[simp] theorem State.setPort_pending (s : State) (p : Bool) (x : Port) : (s.setPort p x).pending = s.pending := by cases p <;> rfl
@[simp] theorem State.setPort_regs (s : State) (p : Bool) (x : Port) : (s.setPort p x).regs = s.regs := by cases p <;> rfl
@[simp] theorem State.setPort_hold (s : State) (p : Bool) (x : Port) : (s.setPort p x).hold = s.hold := by cases p <;> rfl
@[simp] theorem State.setPort_ind (s : State) (p : Bool) (x : Port) : (s.setPort p x).ind = s.ind := by cases p <;> rfl
@[simp] theorem State.setPort_pins (s : State) (p : Bool) (x : Port) : (s.setPort p x).pins = s.pins := by cases p <;> rfl
@[simp] theorem State.setPort_clock (s : State) (p : Bool) (x : Port) : (s.setPort p x).clock = s.clock := by cases p <;> rfl
@[simp] theorem State.setPort_dev (s : State) (p : Bool) (x : Port) : (s.setPort p x).dev = s.dev := by cases p <;> rfl
@[simp] theorem State.setPort_img (s : State) (p : Bool) (x : Port) : (s.setPort p x).img = s.img := by cases p <;> rfl
@[simp] theorem State.setPort_adm (s : State) (p : Bool) (x : Port) : (s.setPort p x).adm = s.adm := by cases p <;> rfl
@[simp] theorem State.setPort_fab (s : State) (p : Bool) (x : Port) : (s.setPort p x).fab = s.fab := by cases p <;> rfl
@[simp] theorem State.setPort_plc (s : State) (p : Bool) (x : Port) : (s.setPort p x).plc = s.plc := by cases p <;> rfl
@[simp] theorem State.setPort_num (s : State) (p : Bool) (x : Port) : (s.setPort p x).num = s.num := by cases p <;> rfl
@[simp] theorem State.setPort_ctx (s : State) (p : Bool) (x : Port) : (s.setPort p x).ctx = s.ctx := by cases p <;> rfl
@[simp] theorem State.setPort_ppu (s : State) (p : Bool) (x : Port) : (s.setPort p x).ppu = s.ppu := by cases p <;> rfl
@[simp] theorem State.setPort_egr (s : State) (p : Bool) (x : Port) : (s.setPort p x).egr = s.egr := by cases p <;> rfl
@[simp] theorem State.setPort_stm (s : State) (p : Bool) (x : Port) : (s.setPort p x).stm = s.stm := by cases p <;> rfl
@[simp] theorem State.setPort_hbm (s : State) (p : Bool) (x : Port) : (s.setPort p x).hbm = s.hbm := by cases p <;> rfl
@[simp] theorem State.setPort_clk (s : State) (p : Bool) (x : Port) : (s.setPort p x).clk = s.clk := by cases p <;> rfl
@[simp] theorem State.setPort_pwr (s : State) (p : Bool) (x : Port) : (s.setPort p x).pwr = s.pwr := by cases p <;> rfl
@[simp] theorem State.setPort_flt (s : State) (p : Bool) (x : Port) : (s.setPort p x).flt = s.flt := by cases p <;> rfl
@[simp] theorem State.setPort_tel (s : State) (p : Bool) (x : Port) : (s.setPort p x).tel = s.tel := by cases p <;> rfl
@[simp] theorem State.setPort_sec (s : State) (p : Bool) (x : Port) : (s.setPort p x).sec = s.sec := by cases p <;> rfl
@[simp] theorem State.setPort_flash (s : State) (p : Bool) (x : Port) : (s.setPort p x).flash = s.flash := by cases p <;> rfl
@[simp] theorem State.setPort_dict (s : State) (p : Bool) (x : Port) : (s.setPort p x).dict = s.dict := by cases p <;> rfl
@[simp] theorem State.setPort_tap (s : State) (p : Bool) (x : Port) : (s.setPort p x).tap = s.tap := by cases p <;> rfl
@[simp] theorem State.setPort_i3c (s : State) (p : Bool) (x : Port) : (s.setPort p x).i3c = s.i3c := by cases p <;> rfl
@[simp] theorem State.setPort_freeCtr (s : State) (p : Bool) (x : Port) : (s.setPort p x).freeCtr = s.freeCtr := by cases p <;> rfl

/-! ## `setProfile` -/

@[simp] theorem State.setProfile_pending (s : State) (p : Nat) (x : Profile) : (s.setProfile p x).pending = s.pending := rfl
@[simp] theorem State.setProfile_regs (s : State) (p : Nat) (x : Profile) : (s.setProfile p x).regs = s.regs := rfl
@[simp] theorem State.setProfile_hold (s : State) (p : Nat) (x : Profile) : (s.setProfile p x).hold = s.hold := rfl
@[simp] theorem State.setProfile_ind (s : State) (p : Nat) (x : Profile) : (s.setProfile p x).ind = s.ind := rfl
@[simp] theorem State.setProfile_pins (s : State) (p : Nat) (x : Profile) : (s.setProfile p x).pins = s.pins := rfl
@[simp] theorem State.setProfile_clock (s : State) (p : Nat) (x : Profile) : (s.setProfile p x).clock = s.clock := rfl
@[simp] theorem State.setProfile_dev (s : State) (p : Nat) (x : Profile) : (s.setProfile p x).dev = s.dev := rfl
@[simp] theorem State.setProfile_img (s : State) (p : Nat) (x : Profile) : (s.setProfile p x).img = s.img := rfl
@[simp] theorem State.setProfile_adm (s : State) (p : Nat) (x : Profile) : (s.setProfile p x).adm = s.adm := rfl
@[simp] theorem State.setProfile_fab (s : State) (p : Nat) (x : Profile) : (s.setProfile p x).fab = s.fab := rfl
@[simp] theorem State.setProfile_plc (s : State) (p : Nat) (x : Profile) : (s.setProfile p x).plc = s.plc := rfl
@[simp] theorem State.setProfile_num (s : State) (p : Nat) (x : Profile) : (s.setProfile p x).num = s.num := rfl
@[simp] theorem State.setProfile_ctx (s : State) (p : Nat) (x : Profile) : (s.setProfile p x).ctx = s.ctx := rfl
@[simp] theorem State.setProfile_ppu (s : State) (p : Nat) (x : Profile) : (s.setProfile p x).ppu = s.ppu := rfl
@[simp] theorem State.setProfile_egr (s : State) (p : Nat) (x : Profile) : (s.setProfile p x).egr = s.egr := rfl
@[simp] theorem State.setProfile_stm (s : State) (p : Nat) (x : Profile) : (s.setProfile p x).stm = s.stm := rfl
@[simp] theorem State.setProfile_hbm (s : State) (p : Nat) (x : Profile) : (s.setProfile p x).hbm = s.hbm := rfl
@[simp] theorem State.setProfile_hp0 (s : State) (p : Nat) (x : Profile) : (s.setProfile p x).hp0 = s.hp0 := rfl
@[simp] theorem State.setProfile_hp1 (s : State) (p : Nat) (x : Profile) : (s.setProfile p x).hp1 = s.hp1 := rfl
@[simp] theorem State.setProfile_clk (s : State) (p : Nat) (x : Profile) : (s.setProfile p x).clk = s.clk := rfl
@[simp] theorem State.setProfile_pwr (s : State) (p : Nat) (x : Profile) : (s.setProfile p x).pwr = s.pwr := rfl
@[simp] theorem State.setProfile_flt (s : State) (p : Nat) (x : Profile) : (s.setProfile p x).flt = s.flt := rfl
@[simp] theorem State.setProfile_tel (s : State) (p : Nat) (x : Profile) : (s.setProfile p x).tel = s.tel := rfl
@[simp] theorem State.setProfile_sec (s : State) (p : Nat) (x : Profile) : (s.setProfile p x).sec = s.sec := rfl
@[simp] theorem State.setProfile_dict (s : State) (p : Nat) (x : Profile) : (s.setProfile p x).dict = s.dict := rfl
@[simp] theorem State.setProfile_tap (s : State) (p : Nat) (x : Profile) : (s.setProfile p x).tap = s.tap := rfl
@[simp] theorem State.setProfile_i3c (s : State) (p : Nat) (x : Profile) : (s.setProfile p x).i3c = s.i3c := rfl
@[simp] theorem State.setProfile_freeCtr (s : State) (p : Nat) (x : Profile) : (s.setProfile p x).freeCtr = s.freeCtr := rfl

/-! ## What the updates leave in what they write -/

theorem State.reg_setReg (s : State) (a b : Nat) (v : Word) : (s.setReg a v).reg b = if b = a then v else s.reg b :=
  tget_tset 0#32 s.regs a b v

@[simp] theorem State.reg_setReg_self (s : State) (a : Nat) (v : Word) : (s.setReg a v).reg a = v := by
  simp [State.reg_setReg]

theorem State.reg_setReg_ne (s : State) {a b : Nat} (v : Word) (h : b ≠ a) : (s.setReg a v).reg b = s.reg b := by
  simp [State.reg_setReg, h]

theorem State.reg_setBits (s : State) (a b : Nat) (m : Word) :
    (s.setBits a m).reg b = if b = a then s.reg a ||| m else s.reg b := State.reg_setReg ..

theorem State.reg_clrBits (s : State) (a b : Nat) (m : Word) :
    (s.clrBits a m).reg b = if b = a then s.reg a &&& ~~~m else s.reg b := State.reg_setReg ..

theorem State.reg_putFld (s : State) (a hi lo v b : Nat) :
    (s.putFld a hi lo v).reg b = if b = a then setFld (s.reg a) hi lo v else s.reg b := State.reg_setReg ..

theorem State.reg_count (s : State) (a n b : Nat) :
    (s.count a n).reg b = if b = a then s.reg a + BitVec.ofNat 32 n else s.reg b := State.reg_setReg ..

@[simp] theorem State.until_now (s : State) (t : Nat) : (s.until t).clock.now = max s.clock.now t := by simp

/-- ALERT_N follows EN, the causes and the mask (R401). -/
theorem State.driveAlert_alert (s : State) : s.driveAlert.pins.alert =
    (s.up && s.rbit Reg.devCtl 0 && (s.reg Reg.devAlert &&& s.reg Reg.devAlertMask) != 0#32) := rfl

/-- Setting a cause changes no other register word (R401). -/
theorem State.reg_alert (s : State) (i b : Nat) :
    (s.alert i).reg b = if b = Reg.devAlert then s.reg Reg.devAlert ||| bmask i else s.reg b := State.reg_setReg ..

/-- An event enters the log first, waits for flash last, and counts in TEL_LOG_CNT alone (R482, R483). -/
theorem State.reg_logEvent (s : State) (k : Nat) (x : BitVec 64) (b : Nat) :
    (s.logEvent k x).reg b = if b = Reg.telLogCnt then s.reg Reg.telLogCnt + 1#32 else s.reg b := State.reg_setReg ..

@[simp] theorem State.logEvent_seq (s : State) (k : Nat) (x : BitVec 64) :
    (s.logEvent k x).tel.seq = s.tel.seq + 1#32 := rfl

theorem State.logEvent_log_length (s : State) (k : Nat) (x : BitVec 64) :
    (s.logEvent k x).tel.log.length ≤ 16384 := by
  simp [State.logEvent, State.count, State.setReg]

theorem State.dom_setDom (s : State) (d e : Nat) (x : Dom) : (s.setDom d x).dom e = if e = d then x else s.dom e :=
  tget_tset Dom.on s.pwr.doms d e x

theorem State.sctx_setSctx (s : State) (n m : Nat) (x : StreamCtx) :
    (s.setSctx n x).sctx m = if m = n then x else s.sctx m := tget_tset StreamCtx.zero s.ctx.streams n m x

theorem State.ts_setTs (s : State) (t u : Nat) (x : TStream) : (s.setTs t x).ts u = if u = t then x else s.ts u :=
  tget_tset TStream.zero s.stm.ts t u x

theorem State.chan_setChan (s : State) (c d : Nat) (x : Chan) : (s.setChan c x).chan d = if d = c then x else s.chan d :=
  tget_tset Chan.zero s.hbm.chans c d x

theorem State.port_setPort (s : State) (p q : Bool) (x : Port) : (s.setPort p x).port q = if q = p then x else s.port q := by
  cases p <;> cases q <;> rfl

/-- A device fault never takes READY back, and the first cause stays (R454). -/
theorem State.deviceFault_of_faulted (s : State) (c : Nat) (h : s.faulted = true) :
    s.deviceFault c = s.logEvent 6 (logArgs [(c, 1)]) := by
  simp [State.deviceFault, h]

end Sys2Proof.Machine
end

