-- ==== Sys2Proof/Laws/Ops.lean ====
section
/-! SUPPORT. What the shared operations with a condition inside can do: device faults, retirement, ends of frames, rejection,
and the events that wait for a condition. -/

namespace Sys2Proof.Machine

open Sys2Proof

/-- An event whose condition fails leaves the state as it is, and otherwise has its effect; it never stops (log entry 3). -/
theorem onlyIf_eq (c : Bool) (s t u : State) : onlyIf c s t = .next u ↔ u = if c then t else s := by
  constructor
  · intro h; injection h with h; exact h.symm
  · rintro rfl; rfl

@[simp] theorem onlyIf_true (s t : State) : onlyIf true s t = .next t := rfl
@[simp] theorem onlyIf_false (s t : State) : onlyIf false s t = .next s := rfl

/-! ## A device fault (R454, R456) -/

/-- With no fault in force the cause is recorded, DEV_STATE is 3, DEV_ALERT bit 0 is set and the frames are still to be ended. -/
theorem State.deviceFault_first (s : State) (c : Nat) (h : s.faulted = false) :
    (s.deviceFault c).dev = { s.dev with faultAt := some s.clock.now, draining := true } ∧ (s.deviceFault c).img = { s.img with held := [] } := by
  simp [State.deviceFault, h, State.count, State.setReg, State.alert, State.driveAlert, State.setBits, State.clrBits, State.putFld, State.logEvent]

@[simp] theorem State.deviceFault_pending (s : State) (c : Nat) : (s.deviceFault c).pending = s.pending := by
  unfold State.deviceFault; split <;> rfl
@[simp] theorem State.deviceFault_hold (s : State) (c : Nat) : (s.deviceFault c).hold = s.hold := by
  unfold State.deviceFault; split <;> rfl
@[simp] theorem State.deviceFault_ind (s : State) (c : Nat) : (s.deviceFault c).ind = s.ind := by
  unfold State.deviceFault; split <;> rfl
@[simp] theorem State.deviceFault_clock (s : State) (c : Nat) : (s.deviceFault c).clock = s.clock := by
  unfold State.deviceFault; split <;> rfl
@[simp] theorem State.deviceFault_adm (s : State) (c : Nat) : (s.deviceFault c).adm = s.adm := by
  unfold State.deviceFault; split <;> rfl
@[simp] theorem State.deviceFault_fab (s : State) (c : Nat) : (s.deviceFault c).fab = s.fab := by
  unfold State.deviceFault; split <;> rfl
@[simp] theorem State.deviceFault_plc (s : State) (c : Nat) : (s.deviceFault c).plc = s.plc := by
  unfold State.deviceFault; split <;> rfl
@[simp] theorem State.deviceFault_num (s : State) (c : Nat) : (s.deviceFault c).num = s.num := by
  unfold State.deviceFault; split <;> rfl
@[simp] theorem State.deviceFault_ctx (s : State) (c : Nat) : (s.deviceFault c).ctx = s.ctx := by
  unfold State.deviceFault; split <;> rfl
@[simp] theorem State.deviceFault_ppu (s : State) (c : Nat) : (s.deviceFault c).ppu = s.ppu := by
  unfold State.deviceFault; split <;> rfl
@[simp] theorem State.deviceFault_egr (s : State) (c : Nat) : (s.deviceFault c).egr = s.egr := by
  unfold State.deviceFault; split <;> rfl
@[simp] theorem State.deviceFault_stm (s : State) (c : Nat) : (s.deviceFault c).stm = s.stm := by
  unfold State.deviceFault; split <;> rfl
@[simp] theorem State.deviceFault_hbm (s : State) (c : Nat) : (s.deviceFault c).hbm = s.hbm := by
  unfold State.deviceFault; split <;> rfl
@[simp] theorem State.deviceFault_hp0 (s : State) (c : Nat) : (s.deviceFault c).hp0 = s.hp0 := by
  unfold State.deviceFault; split <;> rfl
@[simp] theorem State.deviceFault_hp1 (s : State) (c : Nat) : (s.deviceFault c).hp1 = s.hp1 := by
  unfold State.deviceFault; split <;> rfl
@[simp] theorem State.deviceFault_clk (s : State) (c : Nat) : (s.deviceFault c).clk = s.clk := by
  unfold State.deviceFault; split <;> rfl
@[simp] theorem State.deviceFault_pwr (s : State) (c : Nat) : (s.deviceFault c).pwr = s.pwr := by
  unfold State.deviceFault; split <;> rfl
@[simp] theorem State.deviceFault_flt (s : State) (c : Nat) : (s.deviceFault c).flt = s.flt := by
  unfold State.deviceFault; split <;> rfl
@[simp] theorem State.deviceFault_sec (s : State) (c : Nat) : (s.deviceFault c).sec = s.sec := by
  unfold State.deviceFault; split <;> rfl
@[simp] theorem State.deviceFault_flash (s : State) (c : Nat) : (s.deviceFault c).flash = s.flash := by
  unfold State.deviceFault; split <;> rfl
@[simp] theorem State.deviceFault_dict (s : State) (c : Nat) : (s.deviceFault c).dict = s.dict := by
  unfold State.deviceFault; split <;> rfl
@[simp] theorem State.deviceFault_tap (s : State) (c : Nat) : (s.deviceFault c).tap = s.tap := by
  unfold State.deviceFault; split <;> rfl
@[simp] theorem State.deviceFault_i3c (s : State) (c : Nat) : (s.deviceFault c).i3c = s.i3c := by
  unfold State.deviceFault; split <;> rfl
@[simp] theorem State.deviceFault_freeCtr (s : State) (c : Nat) : (s.deviceFault c).freeCtr = s.freeCtr := by
  unfold State.deviceFault; split <;> rfl

/-! ## Retirement (R132, R483, R485) -/

@[simp] theorem State.retire_pending (s : State) (r : Retire) : (s.retire r).pending = s.pending := by
  unfold State.retire; split <;> rfl
@[simp] theorem State.retire_hold (s : State) (r : Retire) : (s.retire r).hold = s.hold := by
  unfold State.retire; split <;> rfl
@[simp] theorem State.retire_ind (s : State) (r : Retire) : (s.retire r).ind = s.ind := by
  unfold State.retire; split <;> rfl
@[simp] theorem State.retire_pins (s : State) (r : Retire) : (s.retire r).pins = s.pins := by
  unfold State.retire; split <;> rfl
@[simp] theorem State.retire_clock (s : State) (r : Retire) : (s.retire r).clock = s.clock := by
  unfold State.retire; split <;> rfl
@[simp] theorem State.retire_dev (s : State) (r : Retire) : (s.retire r).dev = s.dev := by
  unfold State.retire; split <;> rfl
@[simp] theorem State.retire_img (s : State) (r : Retire) : (s.retire r).img = s.img := by
  unfold State.retire; split <;> rfl
@[simp] theorem State.retire_adm (s : State) (r : Retire) : (s.retire r).adm = s.adm := by
  unfold State.retire; split <;> rfl
@[simp] theorem State.retire_fab (s : State) (r : Retire) : (s.retire r).fab = s.fab := by
  unfold State.retire; split <;> rfl
@[simp] theorem State.retire_plc (s : State) (r : Retire) : (s.retire r).plc = s.plc := by
  unfold State.retire; split <;> rfl
@[simp] theorem State.retire_num (s : State) (r : Retire) : (s.retire r).num = s.num := by
  unfold State.retire; split <;> rfl
@[simp] theorem State.retire_ctx (s : State) (r : Retire) : (s.retire r).ctx = s.ctx := by
  unfold State.retire; split <;> rfl
@[simp] theorem State.retire_ppu (s : State) (r : Retire) : (s.retire r).ppu = s.ppu := by
  unfold State.retire; split <;> rfl
@[simp] theorem State.retire_egr (s : State) (r : Retire) : (s.retire r).egr = s.egr := by
  unfold State.retire; split <;> rfl
@[simp] theorem State.retire_stm (s : State) (r : Retire) : (s.retire r).stm = s.stm := by
  unfold State.retire; split <;> rfl
@[simp] theorem State.retire_hbm (s : State) (r : Retire) : (s.retire r).hbm = s.hbm := by
  unfold State.retire; split <;> rfl
@[simp] theorem State.retire_hp0 (s : State) (r : Retire) : (s.retire r).hp0 = s.hp0 := by
  unfold State.retire; split <;> rfl
@[simp] theorem State.retire_hp1 (s : State) (r : Retire) : (s.retire r).hp1 = s.hp1 := by
  unfold State.retire; split <;> rfl
@[simp] theorem State.retire_clk (s : State) (r : Retire) : (s.retire r).clk = s.clk := by
  unfold State.retire; split <;> rfl
@[simp] theorem State.retire_pwr (s : State) (r : Retire) : (s.retire r).pwr = s.pwr := by
  unfold State.retire; split <;> rfl
@[simp] theorem State.retire_flt (s : State) (r : Retire) : (s.retire r).flt = s.flt := by
  unfold State.retire; split <;> rfl
@[simp] theorem State.retire_sec (s : State) (r : Retire) : (s.retire r).sec = s.sec := by
  unfold State.retire; split <;> rfl
@[simp] theorem State.retire_flash (s : State) (r : Retire) : (s.retire r).flash = s.flash := by
  unfold State.retire; split <;> rfl
@[simp] theorem State.retire_dict (s : State) (r : Retire) : (s.retire r).dict = s.dict := by
  unfold State.retire; split <;> rfl
@[simp] theorem State.retire_tap (s : State) (r : Retire) : (s.retire r).tap = s.tap := by
  unfold State.retire; split <;> rfl
@[simp] theorem State.retire_i3c (s : State) (r : Retire) : (s.retire r).i3c = s.i3c := by
  unfold State.retire; split <;> rfl
@[simp] theorem State.retire_freeCtr (s : State) (r : Retire) : (s.retire r).freeCtr = s.freeCtr := by
  unfold State.retire; split <;> rfl
@[simp] theorem State.retireTile_pending (s : State) (t : TileAddr) (c : Nat) : (s.retireTile t c).pending = s.pending := by
  unfold State.retireTile; split
  · rfl
  · rw [State.retire_pending]; rfl
@[simp] theorem State.retireTile_hold (s : State) (t : TileAddr) (c : Nat) : (s.retireTile t c).hold = s.hold := by
  unfold State.retireTile; split
  · rfl
  · rw [State.retire_hold]; rfl
@[simp] theorem State.retireTile_ind (s : State) (t : TileAddr) (c : Nat) : (s.retireTile t c).ind = s.ind := by
  unfold State.retireTile; split
  · rfl
  · rw [State.retire_ind]; rfl
@[simp] theorem State.retireTile_pins (s : State) (t : TileAddr) (c : Nat) : (s.retireTile t c).pins = s.pins := by
  unfold State.retireTile; split
  · rfl
  · rw [State.retire_pins]; rfl
@[simp] theorem State.retireTile_clock (s : State) (t : TileAddr) (c : Nat) : (s.retireTile t c).clock = s.clock := by
  unfold State.retireTile; split
  · rfl
  · rw [State.retire_clock]; rfl
@[simp] theorem State.retireTile_dev (s : State) (t : TileAddr) (c : Nat) : (s.retireTile t c).dev = s.dev := by
  unfold State.retireTile; split
  · rfl
  · rw [State.retire_dev]; rfl
@[simp] theorem State.retireTile_img (s : State) (t : TileAddr) (c : Nat) : (s.retireTile t c).img = s.img := by
  unfold State.retireTile; split
  · rfl
  · rw [State.retire_img]; rfl
@[simp] theorem State.retireTile_adm (s : State) (t : TileAddr) (c : Nat) : (s.retireTile t c).adm = s.adm := by
  unfold State.retireTile; split
  · rfl
  · rw [State.retire_adm]; rfl
@[simp] theorem State.retireTile_fab (s : State) (t : TileAddr) (c : Nat) : (s.retireTile t c).fab = s.fab := by
  unfold State.retireTile; split
  · rfl
  · rw [State.retire_fab]; rfl
@[simp] theorem State.retireTile_plc (s : State) (t : TileAddr) (c : Nat) : (s.retireTile t c).plc = s.plc := by
  unfold State.retireTile; split
  · rfl
  · rw [State.retire_plc]; rfl
@[simp] theorem State.retireTile_num (s : State) (t : TileAddr) (c : Nat) : (s.retireTile t c).num = s.num := by
  unfold State.retireTile; split
  · rfl
  · rw [State.retire_num]; rfl
@[simp] theorem State.retireTile_ctx (s : State) (t : TileAddr) (c : Nat) : (s.retireTile t c).ctx = s.ctx := by
  unfold State.retireTile; split
  · rfl
  · rw [State.retire_ctx]; rfl
@[simp] theorem State.retireTile_ppu (s : State) (t : TileAddr) (c : Nat) : (s.retireTile t c).ppu = s.ppu := by
  unfold State.retireTile; split
  · rfl
  · rw [State.retire_ppu]; rfl
@[simp] theorem State.retireTile_egr (s : State) (t : TileAddr) (c : Nat) : (s.retireTile t c).egr = s.egr := by
  unfold State.retireTile; split
  · rfl
  · rw [State.retire_egr]; rfl
@[simp] theorem State.retireTile_stm (s : State) (t : TileAddr) (c : Nat) : (s.retireTile t c).stm = s.stm := by
  unfold State.retireTile; split
  · rfl
  · rw [State.retire_stm]; rfl
@[simp] theorem State.retireTile_hbm (s : State) (t : TileAddr) (c : Nat) : (s.retireTile t c).hbm = s.hbm := by
  unfold State.retireTile; split
  · rfl
  · rw [State.retire_hbm]; rfl
@[simp] theorem State.retireTile_hp0 (s : State) (t : TileAddr) (c : Nat) : (s.retireTile t c).hp0 = s.hp0 := by
  unfold State.retireTile; split
  · rfl
  · rw [State.retire_hp0]; rfl
@[simp] theorem State.retireTile_hp1 (s : State) (t : TileAddr) (c : Nat) : (s.retireTile t c).hp1 = s.hp1 := by
  unfold State.retireTile; split
  · rfl
  · rw [State.retire_hp1]; rfl
@[simp] theorem State.retireTile_clk (s : State) (t : TileAddr) (c : Nat) : (s.retireTile t c).clk = s.clk := by
  unfold State.retireTile; split
  · rfl
  · rw [State.retire_clk]; rfl
@[simp] theorem State.retireTile_pwr (s : State) (t : TileAddr) (c : Nat) : (s.retireTile t c).pwr = s.pwr := by
  unfold State.retireTile; split
  · rfl
  · rw [State.retire_pwr]; rfl
@[simp] theorem State.retireTile_flt (s : State) (t : TileAddr) (c : Nat) : (s.retireTile t c).flt = s.flt := by
  unfold State.retireTile; split
  · rfl
  · rw [State.retire_flt]; rfl
@[simp] theorem State.retireTile_sec (s : State) (t : TileAddr) (c : Nat) : (s.retireTile t c).sec = s.sec := by
  unfold State.retireTile; split
  · rfl
  · rw [State.retire_sec]; rfl
@[simp] theorem State.retireTile_flash (s : State) (t : TileAddr) (c : Nat) : (s.retireTile t c).flash = s.flash := by
  unfold State.retireTile; split
  · rfl
  · rw [State.retire_flash]; rfl
@[simp] theorem State.retireTile_dict (s : State) (t : TileAddr) (c : Nat) : (s.retireTile t c).dict = s.dict := by
  unfold State.retireTile; split
  · rfl
  · rw [State.retire_dict]; rfl
@[simp] theorem State.retireTile_tap (s : State) (t : TileAddr) (c : Nat) : (s.retireTile t c).tap = s.tap := by
  unfold State.retireTile; split
  · rfl
  · rw [State.retire_tap]; rfl
@[simp] theorem State.retireTile_i3c (s : State) (t : TileAddr) (c : Nat) : (s.retireTile t c).i3c = s.i3c := by
  unfold State.retireTile; split
  · rfl
  · rw [State.retire_i3c]; rfl
@[simp] theorem State.retireTile_freeCtr (s : State) (t : TileAddr) (c : Nat) : (s.retireTile t c).freeCtr = s.freeCtr := by
  unfold State.retireTile; split
  · rfl
  · rw [State.retire_freeCtr]; rfl

/-- A table with room takes the record at its end. -/
theorem State.retire_toRetire (s : State) (r : Retire) (h : s.retireCount < 8192) : (s.retire r).tel.toRetire = s.tel.toRetire ++ [r] := by
  simp [State.retire, h]

/-! ## Ends of frames (R58, R66) -/

@[simp] theorem State.endFrames_pending (s : State) (p : Frame → Bool) (st : Status) : (s.endFrames p st).pending = s.pending := rfl
@[simp] theorem State.freeSlot_pending (s : State) (n : Nat) (b : Bool) : (s.freeSlot n b).pending = s.pending := rfl
@[simp] theorem State.endFrames_hold (s : State) (p : Frame → Bool) (st : Status) : (s.endFrames p st).hold = s.hold := rfl
@[simp] theorem State.freeSlot_hold (s : State) (n : Nat) (b : Bool) : (s.freeSlot n b).hold = s.hold := rfl
@[simp] theorem State.endFrames_ind (s : State) (p : Frame → Bool) (st : Status) : (s.endFrames p st).ind = s.ind := rfl
@[simp] theorem State.freeSlot_ind (s : State) (n : Nat) (b : Bool) : (s.freeSlot n b).ind = s.ind := rfl
@[simp] theorem State.endFrames_pins (s : State) (p : Frame → Bool) (st : Status) : (s.endFrames p st).pins = s.pins := rfl
@[simp] theorem State.freeSlot_pins (s : State) (n : Nat) (b : Bool) : (s.freeSlot n b).pins = s.pins := rfl
@[simp] theorem State.endFrames_clock (s : State) (p : Frame → Bool) (st : Status) : (s.endFrames p st).clock = s.clock := rfl
@[simp] theorem State.freeSlot_clock (s : State) (n : Nat) (b : Bool) : (s.freeSlot n b).clock = s.clock := rfl
@[simp] theorem State.endFrames_dev (s : State) (p : Frame → Bool) (st : Status) : (s.endFrames p st).dev = s.dev := rfl
@[simp] theorem State.freeSlot_dev (s : State) (n : Nat) (b : Bool) : (s.freeSlot n b).dev = s.dev := rfl
@[simp] theorem State.endFrames_img (s : State) (p : Frame → Bool) (st : Status) : (s.endFrames p st).img = s.img := rfl
@[simp] theorem State.freeSlot_img (s : State) (n : Nat) (b : Bool) : (s.freeSlot n b).img = s.img := rfl
@[simp] theorem State.endFrames_fab (s : State) (p : Frame → Bool) (st : Status) : (s.endFrames p st).fab = s.fab := rfl
@[simp] theorem State.freeSlot_fab (s : State) (n : Nat) (b : Bool) : (s.freeSlot n b).fab = s.fab := rfl
@[simp] theorem State.endFrames_plc (s : State) (p : Frame → Bool) (st : Status) : (s.endFrames p st).plc = s.plc := rfl
@[simp] theorem State.freeSlot_plc (s : State) (n : Nat) (b : Bool) : (s.freeSlot n b).plc = s.plc := rfl
@[simp] theorem State.endFrames_num (s : State) (p : Frame → Bool) (st : Status) : (s.endFrames p st).num = s.num := rfl
@[simp] theorem State.freeSlot_num (s : State) (n : Nat) (b : Bool) : (s.freeSlot n b).num = s.num := rfl
@[simp] theorem State.endFrames_ctx (s : State) (p : Frame → Bool) (st : Status) : (s.endFrames p st).ctx = s.ctx := rfl
@[simp] theorem State.freeSlot_ctx (s : State) (n : Nat) (b : Bool) : (s.freeSlot n b).ctx = s.ctx := rfl
@[simp] theorem State.endFrames_ppu (s : State) (p : Frame → Bool) (st : Status) : (s.endFrames p st).ppu = s.ppu := rfl
@[simp] theorem State.freeSlot_ppu (s : State) (n : Nat) (b : Bool) : (s.freeSlot n b).ppu = s.ppu := rfl
@[simp] theorem State.endFrames_egr (s : State) (p : Frame → Bool) (st : Status) : (s.endFrames p st).egr = s.egr := rfl
@[simp] theorem State.freeSlot_egr (s : State) (n : Nat) (b : Bool) : (s.freeSlot n b).egr = s.egr := rfl
@[simp] theorem State.endFrames_stm (s : State) (p : Frame → Bool) (st : Status) : (s.endFrames p st).stm = s.stm := rfl
@[simp] theorem State.freeSlot_stm (s : State) (n : Nat) (b : Bool) : (s.freeSlot n b).stm = s.stm := rfl
@[simp] theorem State.endFrames_hbm (s : State) (p : Frame → Bool) (st : Status) : (s.endFrames p st).hbm = s.hbm := rfl
@[simp] theorem State.freeSlot_hbm (s : State) (n : Nat) (b : Bool) : (s.freeSlot n b).hbm = s.hbm := rfl
@[simp] theorem State.endFrames_hp0 (s : State) (p : Frame → Bool) (st : Status) : (s.endFrames p st).hp0 = s.hp0 := rfl
@[simp] theorem State.freeSlot_hp0 (s : State) (n : Nat) (b : Bool) : (s.freeSlot n b).hp0 = s.hp0 := rfl
@[simp] theorem State.endFrames_hp1 (s : State) (p : Frame → Bool) (st : Status) : (s.endFrames p st).hp1 = s.hp1 := rfl
@[simp] theorem State.freeSlot_hp1 (s : State) (n : Nat) (b : Bool) : (s.freeSlot n b).hp1 = s.hp1 := rfl
@[simp] theorem State.endFrames_clk (s : State) (p : Frame → Bool) (st : Status) : (s.endFrames p st).clk = s.clk := rfl
@[simp] theorem State.freeSlot_clk (s : State) (n : Nat) (b : Bool) : (s.freeSlot n b).clk = s.clk := rfl
@[simp] theorem State.endFrames_pwr (s : State) (p : Frame → Bool) (st : Status) : (s.endFrames p st).pwr = s.pwr := rfl
@[simp] theorem State.freeSlot_pwr (s : State) (n : Nat) (b : Bool) : (s.freeSlot n b).pwr = s.pwr := rfl
@[simp] theorem State.endFrames_flt (s : State) (p : Frame → Bool) (st : Status) : (s.endFrames p st).flt = s.flt := rfl
@[simp] theorem State.freeSlot_flt (s : State) (n : Nat) (b : Bool) : (s.freeSlot n b).flt = s.flt := rfl
@[simp] theorem State.endFrames_tel (s : State) (p : Frame → Bool) (st : Status) : (s.endFrames p st).tel = s.tel := rfl
@[simp] theorem State.freeSlot_tel (s : State) (n : Nat) (b : Bool) : (s.freeSlot n b).tel = s.tel := rfl
@[simp] theorem State.endFrames_sec (s : State) (p : Frame → Bool) (st : Status) : (s.endFrames p st).sec = s.sec := rfl
@[simp] theorem State.freeSlot_sec (s : State) (n : Nat) (b : Bool) : (s.freeSlot n b).sec = s.sec := rfl
@[simp] theorem State.endFrames_flash (s : State) (p : Frame → Bool) (st : Status) : (s.endFrames p st).flash = s.flash := rfl
@[simp] theorem State.freeSlot_flash (s : State) (n : Nat) (b : Bool) : (s.freeSlot n b).flash = s.flash := rfl
@[simp] theorem State.endFrames_dict (s : State) (p : Frame → Bool) (st : Status) : (s.endFrames p st).dict = s.dict := rfl
@[simp] theorem State.freeSlot_dict (s : State) (n : Nat) (b : Bool) : (s.freeSlot n b).dict = s.dict := rfl
@[simp] theorem State.endFrames_tap (s : State) (p : Frame → Bool) (st : Status) : (s.endFrames p st).tap = s.tap := rfl
@[simp] theorem State.freeSlot_tap (s : State) (n : Nat) (b : Bool) : (s.freeSlot n b).tap = s.tap := rfl
@[simp] theorem State.endFrames_i3c (s : State) (p : Frame → Bool) (st : Status) : (s.endFrames p st).i3c = s.i3c := rfl
@[simp] theorem State.freeSlot_i3c (s : State) (n : Nat) (b : Bool) : (s.freeSlot n b).i3c = s.i3c := rfl
@[simp] theorem State.endFrames_freeCtr (s : State) (p : Frame → Bool) (st : Status) : (s.endFrames p st).freeCtr = s.freeCtr := rfl
@[simp] theorem State.freeSlot_freeCtr (s : State) (n : Nat) (b : Bool) : (s.freeSlot n b).freeCtr = s.freeCtr := rfl
@[simp] theorem State.endFrames_regs (s : State) (p : Frame → Bool) (st : Status) : (s.endFrames p st).regs = s.regs := rfl
@[simp] theorem State.freeSlot_regs (s : State) (n : Nat) (b : Bool) : (s.freeSlot n b).regs = s.regs := rfl

@[simp] theorem State.freeSlot_frames (s : State) (n : Nat) (b : Bool) : (s.freeSlot n b).adm.frames = s.adm.frames := rfl

theorem State.endFrames_frames (s : State) (p : Frame → Bool) (st : Status) :
    (s.endFrames p st).adm.frames = s.adm.frames.map (fun f => if p f then f.dropWith st else f) := rfl

/-- A slot freed is idle and empty, and no other slot of any stream changes (R58). -/
theorem State.stream_freeSlot (s : State) (n m : Nat) (b : Bool) :
    (s.freeSlot n b).stream m = if m = n then (s.stream n).setSlot b Slot.empty else s.stream m :=
  tget_tset StreamAdm.zero s.adm.streams n m _

/-- Slots freed one after another leave the frames and everything beside admission alone. -/
theorem State.foldl_freeSlot (l : List Frame) : ∀ s : State,
    (l.foldl (fun u f => u.freeSlot f.stream f.slot) s).adm.frames = s.adm.frames ∧
    { l.foldl (fun u f => u.freeSlot f.stream f.slot) s with adm := s.adm } = s := by
  induction l with
  | nil => intro s; exact ⟨rfl, rfl⟩
  | cons f l ih =>
    intro s
    obtain ⟨h1, h2⟩ := ih (s.freeSlot f.stream f.slot)
    refine ⟨h1.trans rfl, ?_⟩
    have := congrArg (fun u : State => { u with adm := s.adm }) h2
    exact this

/-! ## Rejection (R41, R123) -/

theorem State.rejectImage_img (s : State) (code stage : Nat) :
    (s.rejectImage code stage).img = { s.img with st := .rejected, result := BitVec.ofNat 16 code } := rfl

theorem State.rejectImage_tiles (s : State) (code stage : Nat) (t : TileAddr) : (s.rejectImage code stage).tile t = Tile.zero := rfl

theorem State.rejectImage_map (s : State) (code stage : Nat) : (s.rejectImage code stage).plc.pitch = [] := rfl

end Sys2Proof.Machine
end

