-- ==== Sys2Proof/Laws/Tile.lean ====
section
/-! SUPPORT. What one sector cycle of a tile can do (R89, R95, R114), and what the operations on tiles leave alone. -/

namespace Sys2Proof.Machine

open Sys2Proof

@[simp] theorem State.tile_setTile (s : State) (t : TileAddr) (x : Tile) : (s.setTile t x).tile t = x := by
  simp [State.tile, State.setTile]

theorem State.tile_setTile_of (s : State) (t t' : TileAddr) (x : Tile) :
    (s.setTile t x).tile t' = if t' = t then x else s.tile t' := by
  by_cases h : t' = t
  · subst h; simp
  · have : t'.toNat ≠ t.toNat := fun e => h (BitVec.eq_of_toNat_eq e)
    simp [State.tile, State.setTile, tget_tset, this, h]

/-- With no boundary due the window of the present moment is open. -/
theorem State.openWindows_of_not_due {s : State} (h : s.boundaryDue = false) : s.openWindows = s := by
  simp [State.openWindows, State.openUpTo, h]

/-- The one thing a cycle does in which an instruction issues and its PRED holds. -/
theorem State.tileCycle_issues {s : State} {i : Instr} {t : TileAddr} {h : Hdr} {n : Need} {c : Nat}
    (H : Issues s t h n c) (hm : (s.tile t).meets c i = true) (eff : State → Nat → Option QWord → State × Flow) :
    s.tileCycle i t h n eff = .next
      ((eff (s.afterSource t h n c) c (sourceWord (s.tile t) h n c)).1.afterIssue t h c
        (eff (s.afterSource t h n c) c (sourceWord (s.tile t) h n c)).2 (countsRetire (s.tile t))) := by
  have h1 : h.pred.toNat ≠ 3 := fun e => H.predCode (BitVec.eq_of_toNat_eq e)
  have h2 : h.out.toNat ≠ 7 := fun e => H.outCode (BitVec.eq_of_toNat_eq e)
  have k1 : ¬((sourceWord (s.tile t) h n c).isSome && !n.isWait) = true ∨ ¬(8 ≤ h.qin.toNat ∧ h.qecc ≠ .ok) := by
    by_cases hs : (sourceWord (s.tile t) h n c).isSome = true
    · by_cases hw : n.isWait = true
      · exact .inl (by simp [hw])
      · exact .inr (fun k => k.2 ((H.check hs (by simpa using hw)).2 k.1))
    · exact .inl (by simp [hs])
  have k2 : ¬(((sourceWord (s.tile t) h n c).isSome && !n.isWait) = true ∧ h.qecc = .uncorrectable) := fun k => by
    obtain ⟨a, b⟩ := Bool.and_eq_true_iff.mp k.1
    exact (H.check a (by simpa using b)).1 k.2
  have k3 : ¬(((sourceWord (s.tile t) h n c).isSome && !n.isWait) = true ∧ 8 ≤ h.qin.toNat ∧ h.qecc ≠ .ok) := fun k =>
    k1.elim (fun f => f k.1) (fun f => f k.2)
  unfold State.tileCycle
  rw [State.openWindows_of_not_due H.window]
  dsimp only
  rw [H.slot, H.status, if_neg (by simp [H.tile]), if_neg (by simp [h1, h2]), if_neg (by simp [H.running]),
    if_neg (by simp [H.freeze, H.going]), if_neg (by simp [H.ownAbort, H.noAbort]), if_neg (by simp [H.valid]), if_neg (by simp [hm])]
  dsimp only
  rw [if_neg H.fetch, if_pos H.holds, if_neg k3, if_neg k2]
  rfl

/-! ## Operations that leave every tile's content alone -/

/-- Only queues, credits, steps, links and the bookkeeping of issues may differ. -/
structure Quiet (s u : State) : Prop where
  beside : u.besideFabric = s.besideFabric
  traffic : u.fab.besideTraffic = s.fab.besideTraffic
  regs : u.regs = s.regs
  content : ∀ t, (u.tile t).content = (s.tile t).content

theorem Quiet.refl (s : State) : Quiet s s := ⟨rfl, rfl, rfl, fun _ => rfl⟩

theorem Quiet.trans {s u v : State} (a : Quiet s u) (b : Quiet u v) : Quiet s v :=
  ⟨b.beside.trans a.beside, b.traffic.trans a.traffic, b.regs.trans a.regs, fun t => (b.content t).trans (a.content t)⟩

theorem Quiet.foldl {α : Type} {f : State → α → State} (hf : ∀ s a, Quiet s (f s a)) :
    ∀ (l : List α) (s : State), Quiet s (l.foldl f s) := by
  intro l
  induction l with
  | nil => intro s; exact Quiet.refl s
  | cons a l ih => intro s; exact (hf s a).trans (ih _)

theorem Quiet.setTile (s : State) (t : TileAddr) (y : Tile) (h : y.content = (s.tile t).content) :
    Quiet s (s.setTile t y) := by
  refine ⟨rfl, rfl, rfl, fun t' => ?_⟩
  rw [State.tile_setTile_of]
  split_ifs with e
  · rw [e, h]
  · rfl

/-- A tile keeps its content, and a quiet operation follows. -/
theorem Quiet.setThen (s : State) (t : TileAddr) {y : Tile} {u : State}
    (q : Quiet (s.setTile t y) u) (h : y.content = (s.tile t).content) : Quiet s u := (Quiet.setTile s t y h).trans q

theorem Quiet.fab {s u : State} (hb : u.besideFabric = s.besideFabric) (hf : u.fab.besideTraffic = s.fab.besideTraffic)
    (hr : u.regs = s.regs) (ht : u.fab.tiles = s.fab.tiles) : Quiet s u := ⟨hb, hf, hr, fun t => by simp [State.tile, ht]⟩

theorem Quiet.owe (s : State) (t : TileAddr) (q : Nat) (w : QWord) : Quiet s (s.owe t q w) := by
  unfold State.owe
  split_ifs
  · exact Quiet.refl s
  · exact Quiet.fab rfl rfl rfl rfl

theorem Quiet.sendLane (s : State) (t : TileAddr) (l : Nat) (w : QWord) : Quiet s (s.sendLane t l w) := by
  let x := s.tile t
  let n := x.sentOf l
  let sent' := if isEnd (l / 2) w then 2 * (n / 2 + 1)
    else if isCtxEnd (l / 2) w || isCtxSwitch (l / 2) w then n else 2 * (n / 2) + 1
  exact Quiet.trans (u := s.setTile t { (x.setCredit l (x.credit l - 1)) with sent := tset 0 x.sent l sent' })
    (Quiet.setTile s t _ rfl) (Quiet.fab rfl rfl rfl rfl)

theorem Quiet.countFull (s : State) (t : TileAddr) : Quiet s (s.countFull t) := by
  unfold State.countFull
  refine Quiet.foldl (fun u l => ?_) _ s
  refine Quiet.foldl (fun v d => ?_) _ u
  exact Quiet.setTile v d.1 _ rfl

theorem Quiet.sendCtxEnds (s : State) (t : TileAddr) : Quiet s (s.sendCtxEnds t) := by
  unfold State.sendCtxEnds
  refine Quiet.foldl (fun u k => ?_) _ s
  dsimp only
  split_ifs
  · exact Quiet.refl u
  · exact Quiet.trans (Quiet.setTile u t _ (by rfl)) (Quiet.sendLane _ t _ _)

theorem Quiet.tryRetire (s : State) (t : TileAddr) : Quiet s (s.tryRetire t) := by
  unfold State.tryRetire
  dsimp only
  split
  · exact Quiet.sendCtxEnds s t
  · split_ifs
    · exact Quiet.setThen s t (Quiet.sendCtxEnds _ t) rfl
    · exact Quiet.sendCtxEnds s t

theorem Quiet.freeRows (s : State) (t : TileAddr) (c : Nat) : Quiet s (s.freeRows t c) := Quiet.setTile s t _ rfl

theorem Quiet.noteRow (s : State) (t : TileAddr) (c q : Nat) (w : QWord) : Quiet s (s.noteRow t c q w) := by
  unfold State.noteRow
  dsimp only
  split_ifs
  · exact Quiet.refl s
  · exact Quiet.setThen s t (Quiet.freeRows _ t c) rfl

theorem Quiet.noteSent (s : State) (t : TileAddr) (c l : Nat) (k : BitVec 3) : Quiet s (s.noteSent t c l k) := by
  unfold State.noteSent
  dsimp only
  split_ifs
  · exact Quiet.refl s
  · exact Quiet.setThen s t (Quiet.freeRows _ t c) rfl
  · exact Quiet.setThen s t (Quiet.freeRows _ t c) rfl
  · exact Quiet.refl s

theorem Quiet.noteAcc (s : State) (t : TileAddr) (c : Nat) : Quiet s (s.noteAcc t c) := by
  unfold State.noteAcc
  dsimp only
  split_ifs
  · exact Quiet.refl s
  · exact Quiet.setThen s t (Quiet.freeRows _ t c) rfl
  · exact Quiet.setThen s t (Quiet.freeRows _ t c) rfl

theorem Tile.advance_content (x : Tile) (h : Hdr) (c : Nat) (f : Flow) (r : Bool) :
    (x.advance h c f r).content = x.content := by
  unfold Tile.advance
  dsimp only
  split_ifs <;> (try split) <;> rfl

theorem Quiet.afterIssue (s : State) (t : TileAddr) (h : Hdr) (c : Nat) (f : Flow) (r : Bool) :
    Quiet s (s.afterIssue t h c f r) :=
  (Quiet.setTile s t _ (Tile.advance_content _ h c f r)).trans (Quiet.tryRetire _ t)

theorem Quiet.sendOut (s : State) (t : TileAddr) (h : Hdr) (c : Nat) (k : BitVec 3) (d : Burst) :
    Quiet s (s.sendOut t h c k d) := by
  unfold State.sendOut
  split
  · exact Quiet.refl s
  · exact (Quiet.sendLane s t _ _).trans (Quiet.noteSent _ t c _ k)

/-! ## Links -/

theorem foldl_keeps {α β : Type} {g : State → α → State} {p : State → β} (hg : ∀ s a, p (g s a) = p s) :
    ∀ (l : List α) (s : State), p (l.foldl g s) = p s := by
  intro l
  induction l with
  | nil => intros; rfl
  | cons a l ih => intro s; simp [ih, hg]

theorem State.countFull_links (s : State) (t : TileAddr) : (s.countFull t).fab.links = s.fab.links := by
  unfold State.countFull
  refine foldl_keeps (p := fun s => s.fab.links) (fun s l => ?_) _ s
  refine foldl_keeps (p := fun s => s.fab.links) ?_ _ s
  intro s d
  rfl

theorem State.takeHead_links (s : State) (t : TileAddr) (q : Nat) : (s.takeHead t q).fab.links = s.fab.links := by
  unfold State.takeHead State.owe
  dsimp only
  split
  · split_ifs <;> rfl
  · rfl

theorem State.noteRow_links (s : State) (t : TileAddr) (c q : Nat) (w : QWord) :
    (s.noteRow t c q w).fab.links = s.fab.links := by
  unfold State.noteRow
  dsimp only
  split_ifs <;> rfl

theorem State.noteSent_links (s : State) (t : TileAddr) (c l : Nat) (k : BitVec 3) :
    (s.noteSent t c l k).fab.links = s.fab.links := by
  unfold State.noteSent
  dsimp only
  split_ifs <;> rfl

theorem State.countEcc_fab (s : State) (e : Ecc) : (s.countEcc e).fab = s.fab := by cases e <;> rfl

theorem State.noteFirst_links (s : State) (t : TileAddr) (c q : Nat) : (s.noteFirst t c q).fab.links = s.fab.links := by
  unfold State.noteFirst
  dsimp only
  split_ifs <;> rfl

theorem State.afterSource_links (s : State) (t : TileAddr) (h : Hdr) (n : Need) (c : Nat) :
    (s.afterSource t h n c).fab.links = s.fab.links := by
  unfold State.afterSource
  dsimp only
  split
  · split_ifs
    · rw [State.countEcc_fab, State.countFull_links]
    · rw [State.takeHead_links, State.noteRow_links, State.noteFirst_links, State.countEcc_fab, State.countEcc_fab,
        State.countFull_links]
    · rw [State.takeHead_links, State.noteRow_links, State.noteFirst_links, State.countEcc_fab, State.countFull_links]
  · rw [State.countEcc_fab, State.countFull_links]

theorem ctxEndWord_isCtxEnd (net tag src : Nat) : isCtxEnd net (ctxEndWord net tag src) = true := by
  unfold isCtxEnd ctxEndWord
  split_ifs <;> rfl

/-- What `sendLane` puts on the links. -/
theorem State.sendLane_links (s : State) (t : TileAddr) (l : Nat) (w : QWord) :
    (s.sendLane t l w).fab.links =
      s.fab.links ++ [⟨wireKey t.toNat (l / 2) (4 + l % 2), { w with src := 8 * t.toNat + l }⟩] := rfl

theorem Tile.lanes_lt {x : Tile} {c l : Nat} (h : l ∈ x.lanes c) : l < 6 := by
  simp only [Tile.lanes, upto, List.mem_filter, List.mem_range] at h
  exact h.1

/-- The words that leave as CTX_END are such words, on the lane's network. -/
theorem ctxEndLink_isCtxEnd (t l a : Nat) (hl : l < 8) (src : Nat) :
    isCtxEnd (keyNet (wireKey t (l / 2) (4 + l % 2))) { ctxEndWord (l / 2) a noSrc with src := src } = true := by
  have hn : keyNet (wireKey t (l / 2) (4 + l % 2)) = l / 2 := by unfold keyNet wireKey; omega
  rw [hn]
  unfold isCtxEnd ctxEndWord
  split_ifs <;> rfl

/-- What leaves while CTX_END words are owed, or a retirement ends, is CTX_END words and nothing else. -/
theorem State.sendCtxEnds_links (s : State) (t : TileAddr) :
    ∃ ends, (s.sendCtxEnds t).fab.links = s.fab.links ++ ends ∧
      ∀ e ∈ ends, ∃ l a, e = ⟨wireKey t.toNat (l / 2) (4 + l % 2), { ctxEndWord (l / 2) a noSrc with src := 8 * t.toNat + l }⟩ ∧
        l < 8 := by
  unfold State.sendCtxEnds
  generalize (s.tile t).ctxEnds = ks
  induction ks generalizing s with
  | nil => exact ⟨[], by simp, by simp⟩
  | cons k ks ih =>
    rw [List.foldl_cons]
    dsimp only
    split_ifs
    · exact ih s
    · obtain ⟨es, h1, h2⟩ := ih ((s.setTile t { (s.tile t) with ctxEnds := (s.tile t).ctxEnds.erase k }).sendLane t (k % 8)
        (ctxEndWord (k % 8 / 2) (k / 8) noSrc))
      refine ⟨⟨wireKey t.toNat (k % 8 / 2) (4 + k % 8 % 2),
        { ctxEndWord (k % 8 / 2) (k / 8) noSrc with src := 8 * t.toNat + k % 8 }⟩ :: es, ?_, ?_⟩
      · rw [h1, State.sendLane_links, List.append_assoc]
        rfl
      · intro e he
        rcases List.mem_cons.mp he with rfl | he
        · exact ⟨k % 8, k / 8, rfl, Nat.mod_lt _ (by decide)⟩
        · exact h2 e he

/-- A retirement that ends, or CTX_END words that were owed, put CTX_END words on the links and nothing else. -/
theorem State.tryRetire_links (s : State) (t : TileAddr) :
    ∃ ends, (s.tryRetire t).fab.links = s.fab.links ++ ends ∧ ∀ e ∈ ends, isCtxEnd (keyNet e.wire) e.w = true := by
  have sends : ∀ u : State, ∃ ends, (u.sendCtxEnds t).fab.links = u.fab.links ++ ends ∧
      ∀ e ∈ ends, isCtxEnd (keyNet e.wire) e.w = true := fun u => by
    obtain ⟨es, h1, h2⟩ := State.sendCtxEnds_links u t
    refine ⟨es, h1, fun e he => ?_⟩
    obtain ⟨l, a, rfl, hl⟩ := h2 e he
    exact ctxEndLink_isCtxEnd t.toNat l a hl _
  unfold State.tryRetire
  dsimp only
  split
  · exact sends s
  · split_ifs
    · exact sends _
    · exact sends s

theorem State.afterIssue_links (s : State) (t : TileAddr) (h : Hdr) (c : Nat) (f : Flow) (r : Bool) :
    ∃ ends, (s.afterIssue t h c f r).fab.links = s.fab.links ++ ends ∧
      ∀ e ∈ ends, isCtxEnd (keyNet e.wire) e.w = true := State.tryRetire_links _ t

/-! ## The operands' state -/

theorem besideFabric_count (s : State) (a n : Nat) : (s.count a n).besideFabric = s.besideFabric := rfl

theorem State.countEcc_frame (s : State) (t : TileAddr) {e : Ecc} (he : e ≠ .uncorrectable) :
    TileFrame s (s.countEcc e) t eccRegs := by
  cases e with
  | ok => exact ⟨rfl, rfl, fun _ _ => rfl, fun _ _ => rfl⟩
  | corrected =>
    refine ⟨rfl, rfl, fun a ha => ?_, fun _ _ => rfl⟩
    have : a ≠ Reg.fabEccCorrCnt := by simpa [eccRegs] using ha
    exact tget_tset_ne _ _ _ this
  | uncorrectable => exact absurd rfl he

theorem Quiet.frame {s u : State} (q : Quiet s u) (t : TileAddr) (rs : List Nat) : TileFrame s u t rs :=
  ⟨q.beside, q.traffic, fun a _ => by simp [State.reg, q.regs], fun t' _ => q.content t'⟩

theorem TileFrame.trans {s u v : State} {t : TileAddr} {rs : List Nat} (a : TileFrame s u t rs) (b : TileFrame u v t rs) :
    TileFrame s v t rs :=
  ⟨b.1.trans a.1, b.2.1.trans a.2.1, fun r hr => (b.2.2.1 r hr).trans (a.2.2.1 r hr),
    fun t' ht => (b.2.2.2 t' ht).trans (a.2.2.2 t' ht)⟩

theorem TileFrame.setTile (s : State) (t : TileAddr) (x : Tile) (rs : List Nat) : TileFrame s (s.setTile t x) t rs :=
  ⟨rfl, rfl, fun _ _ => rfl, fun t' ht => by rw [State.tile_setTile_of, if_neg ht]⟩

theorem State.noteFirst_frame (s : State) (t : TileAddr) (c q : Nat) (rs : List Nat) : TileFrame s (s.noteFirst t c q) t rs := by
  unfold State.noteFirst
  dsimp only
  split_ifs
  · exact TileFrame.setTile s t _ rs
  · exact (Quiet.refl s).frame t rs

theorem TileFrame.owe (s : State) (t : TileAddr) (q : Nat) (w : QWord) (rs : List Nat) : TileFrame s (s.owe t q w) t rs :=
  (Quiet.owe s t q w).frame t rs

/-- A word is taken from a queue: pending aborts may take their places in SRAM (R137), and nothing else moves. -/
theorem State.takeHead_frame (s : State) (t : TileAddr) (q : Nat) (rs : List Nat) : TileFrame s (s.takeHead t q) t rs := by
  unfold State.takeHead
  dsimp only
  split
  · exact (TileFrame.setTile s t _ rs).trans (TileFrame.owe _ t q _ rs)
  · exact TileFrame.setTile s t _ rs

theorem State.afterSource_frame (s : State) (t : TileAddr) (h : Hdr) (n : Need) (c : Nat) (hf : h.fetch ≠ .uncorrectable)
    (hc : (sourceWord (s.tile t) h n c).isSome = true → n.isWait = false → Hdr.checkPasses h) :
    TileFrame s (s.afterSource t h n c) t eccRegs := by
  have h0 := ((Quiet.countFull s t).frame t eccRegs).trans (State.countEcc_frame (s.countFull t) t hf)
  unfold State.afterSource
  dsimp only
  split
  · rename_i w hw
    split_ifs with h1 h2
    · exact h0
    · have hq := (hc (by simp [hw]) (by simpa using h1)).1
      exact (((h0.trans (State.countEcc_frame _ t hq)).trans (State.noteFirst_frame _ t c _ _)).trans
        ((Quiet.noteRow _ t c _ w).frame t _)).trans (State.takeHead_frame _ t _ _)
    · exact ((h0.trans (State.noteFirst_frame _ t c _ _)).trans ((Quiet.noteRow _ t c _ w).frame t _)).trans
        (State.takeHead_frame _ t _ _)
  · exact h0

/-! ## Where a tile stands -/

theorem State.sendLane_tile (s : State) (t : TileAddr) (l : Nat) (w : QWord) :
    (s.sendLane t l w).tile t =
      { (s.tile t) with
        credits := tset 0 (s.tile t).credits l (BitVec.ofNat 7 ((s.tile t).credit l - 1))
        sent := tset 0 (s.tile t).sent l (
          if isEnd (l / 2) w then 2 * ((s.tile t).sentOf l / 2 + 1)
          else if isCtxEnd (l / 2) w || isCtxSwitch (l / 2) w then (s.tile t).sentOf l
          else 2 * ((s.tile t).sentOf l / 2) + 1) } := by
  have : (s.sendLane t l w).tile t = (s.setTile t { (s.tile t) with
        credits := tset 0 (s.tile t).credits l (BitVec.ofNat 7 ((s.tile t).credit l - 1))
        sent := tset 0 (s.tile t).sent l (
          if isEnd (l / 2) w then 2 * ((s.tile t).sentOf l / 2 + 1)
          else if isCtxEnd (l / 2) w || isCtxSwitch (l / 2) w then (s.tile t).sentOf l
          else 2 * ((s.tile t).sentOf l / 2) + 1) }).tile t := rfl
  rw [this, State.tile_setTile]

theorem State.sendLane_course (s : State) (t : TileAddr) (l : Nat) (w : QWord) :
    ((s.sendLane t l w).tile t).course = (s.tile t).course := by rw [State.sendLane_tile]; rfl

/-- An operation that moves only the line buffers of tile `t`. -/
theorem State.noteSent_tile (s : State) (t : TileAddr) (c l : Nat) (k : BitVec 3) :
    ∃ wk, (s.noteSent t c l k).tile t = { (s.tile t) with work := wk } := by
  have free : ∀ (k' : Work), ∃ wk, (State.freeRows (s.setTile t ((s.tile t).setWork c k')) t c).tile t =
      { (s.tile t) with work := wk } := fun k' => ⟨_, by
    unfold State.freeRows
    rw [State.tile_setTile, State.tile_setTile]
    rfl⟩
  unfold State.noteSent
  dsimp only
  split_ifs
  · exact ⟨_, rfl⟩
  · exact free _
  · exact free _
  · exact ⟨_, rfl⟩

theorem State.sendOut_tile (s : State) (t : TileAddr) (h : Hdr) (c : Nat) (k : BitVec 3) (d : Burst) :
    ∃ cr sn wk, (s.sendOut t h c k d).tile t = { (s.tile t) with credits := cr, sent := sn, work := wk } := by
  unfold State.sendOut
  split
  · exact ⟨_, _, _, rfl⟩
  · rename_i l _ _
    obtain ⟨wk, e⟩ := State.noteSent_tile (s.sendLane t l ⟨BitVec.ofNat 2 c, k, laneData (l / 2) c k d, noSrc⟩) t c l k
    rw [e, State.sendLane_tile]
    exact ⟨_, _, wk, rfl⟩

theorem State.sendCtxEnds_course (s : State) (t : TileAddr) : ((s.sendCtxEnds t).tile t).course = (s.tile t).course := by
  unfold State.sendCtxEnds
  refine foldl_keeps (p := fun u => (u.tile t).course) (fun u k => ?_) _ s
  dsimp only
  split_ifs
  · rfl
  · rw [State.sendLane_course, State.tile_setTile]
    rfl

theorem State.tryRetire_course (s : State) (t : TileAddr) : ((s.tryRetire t).tile t).course = (s.tile t).course := by
  unfold State.tryRetire
  dsimp only
  split
  · exact State.sendCtxEnds_course s t
  · split_ifs
    · rw [State.sendCtxEnds_course, State.tile_setTile]
      rfl
    · exact State.sendCtxEnds_course s t

theorem Tile.advance_course_of_links (x : Tile) (cr : Tbl (BitVec 7)) (sn : Tbl Nat) (wk : Tbl Work) (h : Hdr) (c : Nat) (f : Flow) (r : Bool) :
    (({ x with credits := cr, sent := sn, work := wk } : Tile).advance h c f r).course = (x.advance h c f r).course := by
  obtain ⟨y, hy⟩ : ∃ y, y = if h.dec then x.decCounter c h.csel.toNat else x := ⟨_, rfl⟩
  have hy' : (if h.dec then ({ x with credits := cr, sent := sn, work := wk } : Tile).decCounter c h.csel.toNat
      else { x with credits := cr, sent := sn, work := wk }) = { y with credits := cr, sent := sn, work := wk } := by
    subst hy
    cases h.dec <;> rfl
  unfold Tile.advance
  rw [hy', ← hy]
  have hr : ({ y with credits := cr, sent := sn, work := wk } : Tile).ruleMode c = y.ruleMode c := rfl
  have hh : ({ y with credits := cr, sent := sn, work := wk } : Tile).handler = y.handler := rfl
  dsimp only
  rw [hr]
  cases y.ruleMode c
  · rfl
  · cases hk : y.handler with
    | none => cases f <;> rfl
    | some p => cases f <;> rfl

/-- An instruction whose effect is to replace its tile by `y` and to put a word on OUT. -/
theorem tileDoes_of_effect {s : State} {t : TileAddr} {h : Hdr} {n : Need} {c : Nat} {i : Instr} (H : Issues s t h n c)
    {eff : State → Nat → Option QWord → State × Flow} (hi : exec i s = s.tileCycle i t h n eff) {y : Tile} {f : Flow}
    {k : BitVec 3} {d : Burst}
    (he : eff (s.afterSource t h n c) c (sourceWord (s.tile t) h n c) =
      (((s.afterSource t h n c).setTile t y).sendOut t h c k d, f)) :
    TileDoes s t h c i eccRegs f y (fun u => Sends s u t c h.out k d) := by
  intro hm
  refine ⟨_, hi.trans (State.tileCycle_issues H hm eff), ?_⟩
  rw [he]
  dsimp only
  set b := s.afterSource t h n c
  set m := (b.setTile t y).sendOut t h c k d with hb
  generalize countsRetire (s.tile t) = r
  have q1 := Quiet.sendOut (b.setTile t y) t h c k d
  have q2 := Quiet.afterIssue m t h c f r
  refine ⟨?_, ?_, ?_, ?_⟩
  · exact ((State.afterSource_frame s t h n c H.fetch H.check).trans (TileFrame.setTile b t y _)).trans ((q1.trans q2).frame t _)
  · rw [(q1.trans q2).content t, State.tile_setTile]
  · obtain ⟨cr, sn, wk, e⟩ := State.sendOut_tile (b.setTile t y) t h c k d
    rw [← hb, State.tile_setTile] at e
    unfold State.afterIssue
    rw [State.tryRetire_course, State.tile_setTile, e, Tile.advance_course_of_links]
  · obtain ⟨ends, e1, e2⟩ := State.afterIssue_links m t h c f r
    refine ⟨ends, ?_, e2⟩
    rw [e1]
    congr 1
    have hb : (b.setTile t y).fab.links = s.fab.links := State.afterSource_links s t h n c
    by_cases ho : h.out = 0#3
    · simp only [m, State.sendOut, outLane, ho, if_true]
      simpa using hb
    · have ho' : h.out.toNat ≠ 0 := fun e => ho (BitVec.eq_of_toNat_eq e)
      simp only [m, State.sendOut, outLane, ho, ho', if_false]
      rw [State.noteSent_links, State.sendLane_links, hb]

end Sys2Proof.Machine
end

