-- ==== Sys2Proof/Tests/Slice0.lean ====
section
/-! SUPPORT. Tests: ill-formed commands that `Instr.wf` refuses, single steps whose results the spec gives, and for every statement
with hypotheses a state and operands that meet them. -/

namespace Sys2Proof.Tests

open Sys2Proof Sys2Proof.Machine

-- The tests are elaborated one after another: side by side they would ask for a thread each.
set_option Elab.async false

/-! ## Helper states -/

/-- Some register words put into a state. -/
def put (s : State) (rs : List (Nat × Word)) : State := rs.foldl (fun u p => u.setReg p.1 p.2) s

/-- A running part: power up, RESET_N high, every domain on, the firmware running, stage 7. -/
def live : State :=
  put { State.reset with
    pins := { resetPins with resetN := true }
    pwr := { State.reset.pwr with doms := [] }
    hp0 := { Port.zero with open_ := true }
    hp1 := { Port.zero with open_ := true } }
    [(Reg.devStat, 0x11#32), (Reg.secBoot, 7#32), (Reg.stmCtl, 7#32), (Reg.hbmCtl, 3#32), (0x110000, 1#32)]

/-- A header that takes nothing and sends nothing. -/
def hdr : Hdr := ⟨0, 0, false, false, 0, 0, .ok, .ok⟩

/-- A header that takes its last source from queue `q`. -/
def hdrQ (q : BitVec 4) : Hdr := { hdr with qinEn := true, qin := q }

/-- A running tile: slot 0 valid in static mode, its lane 0 ending in its own queue 0 of DEPTH 4 at BASE 0x100, a credit on every lane. -/
def core : Tile := { Tile.zero with
  held := false, slots := [(0, 1#32), (26, 0x80#32)], credits := [(0, 1), (1, 1), (2, 1), (3, 1), (4, 1), (5, 1)]
  queues := [(0, { Queue.zero with cfg := 0x40100#32 })] }

/-- A tile with one word in a queue of DEPTH 4; of a vector queue it stands in SRAM at BASE 0x100. -/
def withWord (x : Tile) (q : Nat) (w : QWord) : Tile := (x.setQueue q { Queue.zero with cfg := 0x40100#32 }).putWords q [w]

/-- The instruction word with an opcode, a header and operands, from the fields of R86. -/
def iword (op : Nat) (h : Hdr) (operands : Nat) : BitVec 64 :=
  BitVec.ofNat 64 (op * 2 ^ 58 + h.pred.toNat * 2 ^ 56 + h.csel.toNat * 2 ^ 53 + b2n h.dec * 2 ^ 52 + b2n h.qinEn * 2 ^ 51 +
    h.qin.toNat * 2 ^ 47 + h.out.toNat * 2 ^ 44 + operands)

/-- A tile whose slot 0 issues that word next: ENTRY is 0. -/
def spelling (x : Tile) (op : Nat) (h : Hdr) (operands : Nat) : Tile :=
  { x with sram := tset 0#64 x.sram (tget 0#13 x.steps 0).toNat (iword op h operands) }

/-- Tile 9 of block 0 as `x`, the fabric enabled. -/
def fabric (x : Tile) : State :=
  put { live with fab := { live.fab with tiles := [(9, x)] } } [(Reg.fabCtl, 3#32)]

/-- The same part with a map of one stage on tile 9. -/
def mapped (x : Tile) : State :=
  { fabric x with plc := { State.reset.plc with pitch := [[9#16]] }, img := { State.reset.img with st := .committed } }

/-! ## Ill-formed commands -/

theorem test_wf_refuses_tile : (Instr.nop 0x44#16 hdr).wf = false := by decide
theorem test_wf_refuses_sector : (Instr.ruleFire ⟨0x4000#16, .ok⟩).wf = false := by decide
theorem test_wf_refuses_pred : (Instr.nop 9#16 { hdr with pred := 3#2 }).wf = false := by decide
theorem test_wf_refuses_out : (Instr.nop 9#16 { hdr with out := 7#3 }).wf = false := by decide
theorem test_wf_refuses_token_kind : (Instr.tokw 9#16 { hdr with out := 5#3 } 7#3 0#3).wf = false := by decide
theorem test_wf_refuses_word_kind : (Instr.snd 9#16 { hdr with out := 1#3 } 0#6 5#3 false).wf = false := by decide
theorem test_wf_refuses_sram_word : (Instr.ldv 9#16 hdr 0#4 6141#13 .ok).wf = false := by decide
theorem test_wf_takes_last_sram_word : (Instr.ldv 9#16 hdr 0#4 6140#13 .ok).wf = true := by decide
theorem test_wf_refuses_format : (Instr.mma 9#16 hdr 0#4 0#2 false 0#3 5#3 false false).wf = false := by decide
theorem test_wf_refuses_odd_diag : (Instr.mma 9#16 hdr 1#4 0#2 false 0#3 0#3 true false).wf = false := by decide
theorem test_wf_refuses_cop : (Instr.cop 9#16 hdr ⟨6, 0, 0, 0, false, 0⟩).wf = false := by decide
theorem test_wf_refuses_block : (Instr.snapTake 18#5).wf = false := by decide
theorem test_wf_refuses_domain : (Instr.reqLow 152#8 true).wf = false := by decide
theorem test_wf_refuses_set_point : (Instr.fspChange true 3#2).wf = false := by decide
theorem test_wf_refuses_range : (Instr.registerWrite ⟨false, 0x120000#32, 0, 0, false⟩).wf = false := by decide
theorem test_wf_refuses_masked_doorbell : (Instr.doorbell ⟨false, 0x1000000#32, 0, 1, false⟩).wf = false := by decide
theorem test_wf_refuses_discarded : (Instr.discardedWrite ⟨false, 0x40000000#32, 0, 0, false⟩).wf = false := by decide
theorem test_wf_refuses_descriptor : (Instr.armDescriptor 0#6 ⟨0, 0, 24, 1, 0, 0, 0, 0⟩).wf = false := by decide
theorem test_wf_refuses_space : (Instr.armDescriptor 0#6 ⟨0x30000000000#64, 0, 16, 1, 0, 0, 0, 0⟩).wf = false := by decide
theorem test_wf_refuses_stream : (Instr.descriptorComplete 35#6).wf = false := by decide
theorem test_wf_refuses_key_slot : (Instr.publicKeyWrite 1#3 0).wf = false := by decide
theorem test_wf_refuses_revoke : (Instr.revoke 0#3).wf = false := by decide
theorem test_wf_refuses_bypass : (Instr.bypass 4#8).wf = false := by decide
theorem test_wf_refuses_address : (Instr.linkLocalAddressTaken 0xA9FE0000#32).wf = false := by decide
theorem test_wf_refuses_segment : (Instr.fwUpdate 425984#32 true [0]).wf = false := by decide
theorem test_wf_refuses_failing : (Instr.resetNRelease 0#2 [0x44#16]).wf = false := by decide

/-! ## Tiles: states that meet the hypotheses of the statements -/

/-- The conditions of `Issues`, to be decided together. -/
theorem issues_of {s : State} {t : TileAddr} {h : Hdr} {n : Need} {c : Nat}
    (a : (isTile t = true ∧ h.pred ≠ 3#2 ∧ h.out ≠ 7#3 ∧ h.fetch ≠ .uncorrectable ∧ s.boundaryDue = false ∧ s.tileOn t = true ∧
      (s.tile t).freeze = false ∧ s.fab.stopped = false) ∧
      ((s.tile t).aborting = none ∧ (s.tile t).abortHeads c = [] ∧ issueSlot (s.tile t) = c ∧ (s.tile t).slotValid c = true ∧
      s.issueGate t h n c = .go ∧ (s.tile t).predHolds h = true) ∧ h.qecc ≠ .uncorrectable ∧ (8 ≤ h.qin.toNat → h.qecc = .ok)) :
    Issues s t h n c :=
  ⟨a.1.1, a.1.2.1, a.1.2.2.1, a.1.2.2.2.1, a.1.2.2.2.2.1, a.1.2.2.2.2.2.1, a.1.2.2.2.2.2.2.1, a.1.2.2.2.2.2.2.2,
   a.2.1.1, a.2.1.2.1, a.2.1.2.2.1, a.2.1.2.2.2.1, a.2.1.2.2.2.2.1, a.2.1.2.2.2.2.2, fun _ _ => a.2.2⟩

/-- The default need is met with nothing asked for. -/
theorem test_issues : Issues (fabric core) 9#16 hdr (needOf hdr) 0 :=
  issues_of (by decide)

/-- ... in rule mode, with a handler running. -/
def ruled : Tile := { core with slots := [(0, 3#32), (26, 0x80#32)], handler := some (0, 5, 2) }

theorem test_issues_rule_mode : Issues (fabric ruled) 9#16 hdr (needOf hdr) 0 :=
  issues_of (by decide)

/-- ... with a word of queue 8 taken as a source and a result sent on lane 0. -/
theorem test_issues_qin : Issues (fabric (withWord core 8 ⟨0, 0, 7, noSrc⟩)) 9#16 { hdrQ 8#4 with out := 1#3 } (needOf { hdrQ 8#4 with out := 1#3 }) 0 :=
  issues_of (by decide)

/-- ... from the retiring slot. -/
theorem test_issues_retiring :
    Issues (fabric { core with slots := [(0, 1#32), (24, 0x80#32), (64, 1#32)], active := 1, retiring := some 0 }) 9#16 hdr (needOf hdr) 0 :=
  issues_of (by decide)

theorem test_issues_wait : Issues (fabric (withWord core 0 ⟨0, 0, 7, noSrc⟩)) 9#16 (hdrQ 0#4) (waitNeed (hdrQ 0#4)) 0 :=
  issues_of (by decide)

/-- TOKR: STEP, SELECT, CTX_SWITCH and another token at the head of queue 12. -/
theorem test_issues_tokr : ∀ k ∈ [0#3, 1#3, 5#3, 2#3],
    Issues (fabric (withWord core 12 ⟨0, k, 1, noSrc⟩)) 9#16 (hdrQ 12#4) (tokrNeed (hdrQ 12#4)) 0 ∧
    ((fabric (withWord core 12 ⟨0, k, 1, noSrc⟩)).tile 9#16).present 12 0 = some ⟨0, k, 1, noSrc⟩ := by
  intro k hk
  simp only [List.mem_cons, List.not_mem_nil, or_false] at hk
  rcases hk with rfl | rfl | rfl | rfl <;>
  exact ⟨issues_of (by decide),
    by decide⟩

/-- RCV of a vector queue and of a scalar queue. -/
theorem test_issues_rcv : ∀ q ∈ [0#4, 7#4, 8#4, 11#4],
    Issues (fabric (withWord core q.toNat ⟨0, 0, 7, noSrc⟩)) 9#16 (hdrQ q) (rcvNeed (hdrQ q)) 0 ∧
    ((fabric (withWord core q.toNat ⟨0, 0, 7, noSrc⟩)).tile 9#16).present q.toNat 0 = some ⟨0, 0, 7, noSrc⟩ := by
  intro q hq
  simp only [List.mem_cons, List.not_mem_nil, or_false] at hq
  rcases hq with rfl | rfl | rfl | rfl <;>
  exact ⟨issues_of (by decide),
    by decide⟩

/-- SND of a register, and of the packed row while it has words and when it has none; TOKW and COP. -/
theorem test_issues_snd :
    Issues (fabric core) 9#16 { hdr with out := 3#3 } (sndNeed { hdr with out := 3#3 } false) 0 ∧ Hdr.kindOk { hdr with out := 3#3 } 4#3 = true ∧
    Issues (fabric { core with z := { ZState.zero with out := [1] } }) 9#16 { hdr with out := 1#3 } (sndNeed { hdr with out := 1#3 } true) 0 ∧
    Issues (fabric core) 9#16 { hdr with out := 1#3 } (sndNeed { hdr with out := 1#3 } true) 0 ∧
    Hdr.kindOk { hdr with out := 5#3 } 6#3 = true ∧ CopOps.wf ⟨5, 3, 0, 0, true, 0⟩ = true :=
  ⟨issues_of (by decide), by decide,
   issues_of (by decide),
   issues_of (by decide),
   by decide, by decide⟩

/-- ZUNPACK with words still wanted, and an unreadable word in that case. -/
theorem test_issues_zunpack :
    Issues (fabric (withWord core 0 ⟨0, 0, 7, noSrc⟩)) 9#16 (hdrQ 0#4) (unpackNeed (hdrQ 0#4) 6128 4) 0 ∧ wfWord 6128#13 (4 * 4) = true ∧
    ((fabric (withWord core 0 ⟨0, 0, 7, noSrc⟩)).tile 9#16).z.wants 4 = true :=
  ⟨issues_of (by decide),
   by decide, by decide⟩

/-- LDW, MMA and ACC; DIAG with an even pair of registers. -/
theorem test_issues_array :
    Issues (fabric core) 9#16 hdr (ldwNeed hdr true 6136) 0 ∧ wfWord 6136#13 8 = true ∧ wfFmt 4#3 = true ∧ ((14#4 : BitVec 4).toNat % 2 = 0) ∧
    Issues (fabric core) 9#16 hdr (accNeed hdr 7) 0 ∧
    (1 : Nat) % (groupSize NumHdr.zero.gsel / 8) ≠ 0 ∧ (tget Scale.zero core.xsc 7).konst = false :=
  ⟨issues_of (by decide),
   by decide, by decide, by decide,
   issues_of (by decide),
   by decide, by decide⟩

/-- Instruction words that spell their commands, one for each place of R86, R87, R164, R212 and R233, and the same tile issues one. -/
theorem test_hyp_spelled :
    Issues (fabric (spelling core 0x05 hdr 1)) 9#16 hdr (needOf hdr) 0 ∧
    (∀ p ∈ [(0x00, hdr, 0, Instr.nop 9#16 hdr), (0x01, hdrQ 2#4, 0, .wait 9#16 (hdrQ 2#4)), (0x02, hdr, 77, .jmp 9#16 hdr 77#13),
        (0x03, hdrQ 12#4, 5 * 2 ^ 13 + 9, .tokr 9#16 (hdrQ 12#4) 9#13 5#8), (0x04, { hdr with out := 5#3 }, 2 * 8 + 3, .tokw 9#16 { hdr with out := 5#3 } 2#3 3#3),
        (0x05, hdr, 1, .ctx 9#16 hdr true), (0x06, hdr, 0, .endOp 9#16 hdr), (0x08, hdr, 2 ^ 13 + 64, .ldw 9#16 hdr true 64#13 .ok),
        (0x09, hdr, 3 * 2 ^ 40 + 2 * 2 ^ 38 + 2 ^ 37 + 5 * 2 ^ 34 + 2 * 2 ^ 31 + 2 ^ 29, .mma 9#16 hdr 3#4 2#2 true 5#3 2#3 false true),
        (0x0A, hdr, 0, .acc 9#16 hdr 7#3 1#4 2#4), (0x10, hdr, 0, .vectorAdd 9#16 hdr .w32 1#4 2#4 3#4), (0x15, hdr, 0, .relu 9#16 hdr .w32 1#4 2#4),
        (0x18, hdr, 0, .vectorSel 9#16 hdr .w8 1#4 2#4 3#4 4#4), (0x19, hdr, 0, .zpack 9#16 hdr 0#13 ⟨4#12, .ok⟩),
        (0x1A, hdrQ 0#4, 0, .zunpack 9#16 (hdrQ 0#4) 0#13 4#12 .ok), (0x29, hdr, 0, .scalarSel 9#16 hdr 1#6 2#6 3#6 4#6),
        (0x33, hdr, 0, .sts 9#16 hdr 1#6 9#13 true), (0x34, hdrQ 8#4, 0, .rcv 9#16 (hdrQ 8#4) 1#6 .ok),
        (0x35, { hdr with out := 1#3 }, 4, .snd 9#16 { hdr with out := 1#3 } 1#6 4#3 false),
        (0x38, { hdr with out := 3#3 }, 5 * 2 ^ 41 + 3 * 2 ^ 38 + 2 ^ 29, .cop 9#16 { hdr with out := 3#3 } ⟨5, 3, 0, 0, true, 0⟩),
        (0x39, hdr, 2 * 2 ^ 41 + 7 * 2 ^ 37 + 2 ^ 20 + 3 * 2 ^ 16 + 2 ^ 13, .encode 9#16 hdr ⟨7, 0, 0, 0, true, false, 3, 1, false⟩),
        (0x39, hdr, 6 * 2 ^ 41 + 2 ^ 12, .carry 9#16 hdr ⟨0, 0, 0, 0, false, false, 0, 0, true⟩)],
      (spelling core p.1 p.2.1 p.2.2.1).meets 0 p.2.2.2 = true) ∧
    (spelling core 0x02 hdr 78).meets 0 (.jmp 9#16 hdr 77#13) = false := by
  refine ⟨issues_of (by decide), ?_, by decide⟩
  decide

/-- Words that cannot be read: of SRAM, of a vector queue, of the two pools. -/
theorem test_hyp_unreadable :
    Issues (fabric (withWord core 0 ⟨0, 0, 7, noSrc⟩)) 9#16 (hdrQ 0#4) (rcvNeed (hdrQ 0#4)) 0 ∧
    Issues (fabric (withWord core 8 ⟨0, 0, 7, noSrc⟩)) 9#16 (hdrQ 8#4) (rcvNeed (hdrQ 8#4)) 0 ∧
    (spelling core 0x34 (hdrQ 8#4) 0).meets 0 (.rcv 9#16 (hdrQ 8#4) 1#6 .uncorrectable) = true ∧
    Issues (fabric core) 9#16 hdr (sramNeed hdr 8 4) 0 ∧ wfWord 8#13 (4 * 1) = true :=
  ⟨issues_of (by decide), issues_of (by decide), by decide, issues_of (by decide), by decide⟩

/-- A kernel of 3 by 3 with one row and column of padding over a map of 4 by 4 with eight channels, filled with the word 7. -/
def conv3 : Spatial := ⟨8, 8, 4, 4, 4, 4, 1, 3, 3, 1, 1, 1, 1, 1, 1, 1, 1, 1, 1, 1, 0, 7, 0, 0, 0, 1⟩

/-- Kernel positions on the map and beside it, by hand from R154: position (0, 0) of output (0, 0) lies at (-1, -1), position (2, 2) of
output (3, 2) at (4, 3), position (1, 1) of output (3, 3) at (3, 3). -/
theorem test_hyp_kernel :
    conv3.tap 0 0 0 0 = none ∧ conv3.tap 3 2 2 2 = none ∧ conv3.tap 3 3 1 1 = some (3, 3) ∧ (2 < conv3.kH ∧ 2 < conv3.kW) ∧ conv3.diag = false ∧
    ({ conv3 with flags := 4 } : Spatial).diag = true ∧ (7 : Nat) < conv3.cIn / max conv3.groups 1 ∧ 8 * 0 + 7 < conv3.cIn ∧
    conv3.kH = 3 ∧ conv3.kW = 3 ∧ (∀ i, i < 3 → ∀ j, j < 3 → ({ conv3 with padT := 9 } : Spatial).tap 0 0 i j = none) := by decide

/-- The expanded row of channel 1 by hand (R160): elements 9 to 17 are its kernel positions in order. -/
theorem test_expanded_row :
    let m : FMap := fun c y x => BitVec.ofNat 32 (100 * c + 10 * y + x)
    (upto 9).map (fun e => conv3.expanded m 0 1 1 (9 + e)) = [100#32, 101, 102, 110, 111, 112, 120, 121, 122] ∧
    (upto 3).map (fun e => conv3.expanded m 0 0 0 (9 + e)) = [7#32, 7, 7] ∧ conv3.expanded m 0 1 1 72 = 0#32 := by decide

/-- The largest element of a window beside the edge skips the padding (R169), and a window of padding only gives the fill value. -/
theorem test_pool_max :
    let m : FMap := fun _ y x => BitVec.ofNat 32 (0x3F800000 + 10 * y + x)
    conv3.poolMax m 0 0 0 = 0x3F80000B#32 ∧ ({ conv3 with padT := 9 } : Spatial).poolMax m 0 0 0 = 7#32 := by decide +kernel

/-- The operators on the 4 by 4 map of `conv3` (R169 to R172): a window of padding only that is not counted, positions within the
resampled map at its last row and column, two neighbours on an axis at its ends, and a factor of 1. -/
theorem test_hyp_operators :
    ({ conv3 with padT := 9 } : Spatial).countPad = false ∧ ({ conv3 with fH := 2, fW := 2 } : Spatial).inH = 4 ∧
    (7 : Nat) < ({ conv3 with fH := 2, fW := 2 } : Spatial).inH * 2 ∧ (7 : Nat) < ({ conv3 with fH := 2, fW := 2 } : Spatial).inW * 2 ∧
    (lerp 2 4 0).i0 = 0 ∧ (lerp 2 4 7).i1 = 3 ∧ conv3.fH = 1 ∧ conv3.fW = 1 := by decide +kernel

/-- What holds an instruction back: a missing word, a missing credit, a busy bank; and a WAIT without its word. -/
theorem test_stalls :
    issueStatus core (hdrQ 0#4) (rcvNeed (hdrQ 0#4)) 0 = .stallIn ∧ issueStatus core (hdrQ 0#4) (waitNeed (hdrQ 0#4)) 0 = .wait ∧
    issueStatus { core with credits := [] } { hdr with out := 1#3 } (needOf { hdr with out := 1#3 }) 0 = .stallOut ∧
    issueStatus { core with accAt := [(0, 1)], cycle := 2 } hdr (accNeed hdr 0) 0 = .hazard ∧ core.abortHeads 0 = [] ∧
    issueStatus core hdr (needOf hdr) 0 = .go := by decide

/-- A PRED that is false: NZ of a counter that is zero. -/
theorem test_false_predicate : core.predHolds { hdr with pred := 2#2 } = false ∧ Hdr.wf { hdr with pred := 2#2 } = true ∧
    core.slotValid 0 = true ∧ core.retiring = none ∧ (fabric core).tileOn 9#16 = true ∧
    (spelling core 0x20 { hdr with pred := 2#2 } 0).meets 0 (.scalarAdd 9#16 { hdr with pred := 2#2 } 1#6 2#6 3#6) = true ∧
    (spelling core 0x30 { hdr with pred := 2#2 } 0).meets 0 (.ldv 9#16 { hdr with pred := 2#2 } 1#4 8#13 .ok) = true := by decide

/-- A result of R87 worked by hand: 0xFFFFFFFF + 2 is 1, modulo 2^32, with the destination also a source. -/
theorem test_scalar_add_wraps :
    (match exec (.scalarAdd 9#16 hdr 1#6 1#6 2#6) (fabric (spelling { core with s := [(1, 0xFFFFFFFF#32), (2, 2#32)] } 0x20 hdr 0)) with
     | .next u => (u.tile 9#16).sreg 1 | _ => 0#32) = 1#32 := by decide

/-- NOP moves a static schedule on by one step; END takes it back to 0 (R89). -/
theorem test_nop_and_end :
    (match exec (.nop 9#16 hdr) (fabric core) with | .next u => tget 0#13 (u.tile 9#16).steps 0 | _ => 9#13) = 1#13 ∧
    (match exec (.endOp 9#16 hdr) (fabric (spelling { core with steps := [(0, 5#13)] } 0x06 hdr 0)) with
     | .next u => tget 0#13 (u.tile 9#16).steps 0 | _ => 9#13) = 0#13 := by decide

/-- DEC of a counter at zero loads its reload value less one (R91). -/
theorem test_dec_reloads :
    (match exec (.nop 9#16 { hdr with dec := true }) (fabric (spelling { core with slots := [(0, 1#32), (4, 7#32), (26, 0x80#32)] } 0x00 { hdr with dec := true } 0)) with
     | .next u => tget 0#16 (u.tile 9#16).c 0 | _ => 0#16) = 6#16 := by decide

/-- FP32 results worked by hand: 1.5 + 2.5 = 4, 3 - 1.5 = 1.5, 1.5 * 2.5 = 3.75, and an overflow takes the largest finite value. -/
theorem test_float_results :
    f32Add 0x3FC00000#32 0x40200000#32 = 0x40800000#32 ∧ f32Sub 0x40400000#32 0x3FC00000#32 = 0x3FC00000#32 ∧
    f32Mul 0x3FC00000#32 0x40200000#32 = 0x40700000#32 ∧ f32Add 0x7F7FFFFF#32 0x7F7FFFFF#32 = 0x7F7FFFFF#32 := by decide +kernel

/-- STV then LDV of the same words gives the vector back. -/
theorem test_stv_ldv :
    (match exec (.stv 9#16 hdr 0#4 8#13) (fabric { core with
        sram := [(0, iword 0x31 hdr 0), (1, iword 0x30 hdr 0)], v := [(0, 0x1122334455667788990011223344556677#256)] }) with
     | .next u => (match exec (.ldv 9#16 hdr 3#4 8#13 .ok) u with | .next w => (w.tile 9#16).vreg 3 | _ => 0) | _ => 0)
    = 0x1122334455667788990011223344556677#256 := by decide +kernel

/-- One INT8 MMA by hand: x = (1, 2, 0, ...), W[0][0] = 3, W[1][0] = 5: the group register of row 0, column 0 gains 13. -/
theorem test_mma_int8 :
    tget 0 ((core.mma { NumHdr.zero with gsel := 2 } 0x0201#256 0 0 false 0 2 false true).1).g 0 = 0 ∧
    tget 0 (({ core with w0 := 0x0000000000000005#512 * 2 ^ 64 + 3 }.mma { NumHdr.zero with gsel := 2 } 0x0201#256 0 0 false 0 2 false true).1).g 0
      = 13 * 2 ^ 32 := by decide +kernel

/-! ## Fabric: states that meet the hypotheses of the statements -/

/-- Rule mode, nothing running, rule 7 valid and ready. -/
def ruleTile : Tile := { core with slots := [(0, 3#32), (8 + 2 * 7 + 1, 0x1000#32), (26, 0x80#32)] }

theorem test_hyp_rule_fire : isTile 9#16 = true ∧ (fabric ruleTile).tileOn 9#16 = true ∧ ruleTile.retiring = none ∧ ruleTile.slotValid 0 = true ∧
    ruleTile.ruleMode 0 = true ∧ ruleTile.handler = none ∧ ruleTile.abortHeads 0 = [] ∧ issueNextRule ruleTile 0 = some 7 ∧
    issueNextRule { core with slots := [(0, 3#32)] } 0 = none := by decide

/-- A CTX_END at the head of a vector queue and of the control queue. -/
theorem test_hyp_ctx_end : isCtxEnd (netOfQueue 0) ⟨0, 4, 0, noSrc⟩ = true ∧ isCtxEnd (netOfQueue 12) ⟨0, 6, 0, noSrc⟩ = true ∧
    ((withWord core 12 ⟨0, 6, 0, noSrc⟩).queue 12).words = [⟨0, 6, 0, noSrc⟩] := by decide

/-- A word on the tile's own lane wire whose entry ends in queue 0, and one that only goes on to the east. -/
def onWire (x : Tile) : State := let s := fabric x; { s with fab := { s.fab with links := [⟨wireKey 9 0 4, ⟨0, 0, 5, noSrc⟩⟩] } }

theorem test_hyp_link_word :
    (onWire core).fab.links.find? (fun k => k.wire == wireKey 9 0 4) = some ⟨wireKey 9 0 4, ⟨0, 0, 5, noSrc⟩⟩ ∧
    routeTerm (core.route 0 0 4) = true ∧ netOfQueue (routeQueue (core.route 0 0 4)) = 0 ∧ (core.queue 0).room = true ∧
    (core.queue 0).discard + (core.queue 0).drop = 0 ∧
    routeTerm (({ core with slots := [(0, 1#32), (26, 0x200#32)] } : Tile).route 0 0 4) = false ∧
    routeOut (({ core with slots := [(0, 1#32), (26, 0x200#32)] } : Tile).route 0 0 4) 1 = true ∧
    neighbour 9#16 1 = some (10#16, 3#2) := by decide

theorem test_hyp_routable :
    Claims.Routable (onWire core) 9#16 0#2 4#4 ⟨wireKey 9 0 4, ⟨0, 0, 5, noSrc⟩⟩ ∧
    Claims.Unhindered (onWire core) 9#16 0#2 4#4 ⟨wireKey 9 0 4, ⟨0, 0, 5, noSrc⟩⟩ ∧
    ¬ Claims.Unhindered (onWire ((withWord core 0 ⟨0, 0, 7, noSrc⟩).putWords 0 [⟨0, 0, 1, noSrc⟩, ⟨0, 0, 2, noSrc⟩, ⟨0, 0, 3, noSrc⟩, ⟨0, 0, 4, noSrc⟩])) 9#16 0#2 4#4
      ⟨wireKey 9 0 4, ⟨0, 0, 5, noSrc⟩⟩ ∧
    linkParity 0 0#8 = false ∧ linkParity 0 8#8 = true ∧ drivingTile 9#16 4 = some 9#16 ∧ core.linkErrs + 1 ≠ 16 ∧
    routeTerm (({ core with slots := [(0, 1#32), (26, 0x88#32)] } : Tile).route 0 0 4) = true ∧
    netOfQueue (routeQueue (({ core with slots := [(0, 1#32), (26, 0x88#32)] } : Tile).route 0 0 4)) = 1 := by
  unfold Claims.Routable Claims.Unhindered
  decide

/-- A word at the crossing into a unit, wherever the part has one there. -/
theorem test_hyp_unit_word (h : Config.edgeUnit 0#16 3#2 = some 7#5) :
    let l : LinkWord := ⟨wireKey 0 0 11, ⟨0, 0, 5, 74⟩⟩
    let s := { live with fab := { live.fab with links := [l] } }
    8 ≤ (11#4 : BitVec 4).toNat ∧ s.engineUp = true ∧ s.fab.links.find? (fun k => k.wire == wireKey 0 0 11) = some l ∧
    (Config.edgeUnit 0#16 (BitVec.ofNat 2 (11 - 8))).isSome = true ∧ l.w.src ≠ noSrc ∧ s.mapsFull 0#16 3 0 l.w = false := by
  refine ⟨by decide, by decide, by decide, ?_, by decide, ?_⟩
  · show (Config.edgeUnit 0#16 3#2).isSome = true
    rw [h]; rfl
  · simp only [State.mapsFull, show (Config.edgeUnit 0#16 (BitVec.ofNat 2 3)) = some 7#5 from h]
    decide

/-- The map buffers of crop-and-resize hold two frames, and the word of a third comes. -/
theorem test_hyp_maps_full (h : Config.edgeUnit 0#16 3#2 = some 8#5) :
    ({ live with ppu := { live.ppu with rows := [⟨8, 0, 0, 3, [1]⟩, ⟨8, 0, 1, 3, [1]⟩] }, fab := { live.fab with unitEnds := [(3, 4)] } } : State).mapsFull
      0#16 3 0 ⟨0, 0, 5, 74⟩ = true := by
  have : (Config.edgeUnit 0#16 (BitVec.ofNat 2 3)) = some 8#5 := h
  simp only [State.mapsFull, this]
  decide

theorem test_hyp_credit_back :
    (8 * (9#16 : TileAddr).toNat + 0, 144) ∈ ({ fabric core with fab := { (fabric core).fab with creditBack := [(72, 144)] } } : State).fab.creditBack ∧
    core.ctxEnds = [] := by decide

theorem test_hyp_credit_return : (fabric core).creditKeys 9#16 0 0 = [144] ∧
    (∀ c ∈ [1, 2, 3], (fabric core).creditKeys 9#16 c 0 = []) ∧ (fabric core).fab.creditBack = [] := by decide

theorem test_hyp_frame_abort :
    Tile.abortDue { core with aborting := some (0#2, 0, 2#8) } = some (0, 0, 2) ∧ core.creditsFor (core.lanes 0) = true ∧ core.freeze = false ∧
    Tile.abortDue (withWord core 0 ⟨0, 3, 1, noSrc⟩) = some (0, 0, 1) ∧
    core.lanes 0 = [0] ∧ (core.lanes 0).any ((fabric core).laneHeld 9#16 0) = false ∧ ({ core with credits := [] } : Tile).creditsFor [0] = false := by
  decide

/-- Queues and a tile as the flushes meet them: an end marker of a context, a tile held by TCTL. -/
theorem test_hyp_flushes :
    live.engineUp = true ∧ isTile 0x44#16 = false ∧ ({ core with held := true, hold := true } : Tile).hold = true ∧
    twf Tile.zero (fabric { core with held := true, hold := true }).fab.tiles = true ∧ (fabric core).remapping = false := by decide

/-- Re-placement in its step `n`. -/
def remapIn (s : State) (n : Nat) : State := put s [(Reg.plcStat, BitVec.ofNat 32 (0x20 + n))]

theorem test_hyp_remapping : (fabric core).remapping = false ∧ (remapIn (fabric core) 1).remapping = true ∧ live.engineUp = true := by decide

/-- Run, draining, bivouac, and held by a scan. -/
theorem test_hyp_drain :
    (fabric core).draining = false ∧ (fabric core).bivouac = false ∧ (fabric core).scanHeld = false ∧ (fabric core).runEmpty = true ∧
    (put (fabric core) [(Reg.fabStat, 0x10#32)]).draining = true ∧ (fabric core).pwr.gating = false ∧
    (put (fabric core) [(Reg.fabStat, 0x20#32)]).bivouac = true ∧ (put (fabric core) [(Reg.fabStat, 0x20#32)]).scanHeld = false ∧
    (put (fabric core) [(Reg.fabStat, 0xA0#32)]).scanHeld = true ∧ twf Tile.zero (fabric core).fab.tiles = true := by decide

/-- A tile fault on a tile that the map uses and on one that it does not, with PLC_CTL.EN 1 and 0. -/
theorem test_hyp_tile_fault :
    (mapped core).isRetired 9#16 = false ∧ (mapped core).retireCount < 8192 ∧ (mapped core).stageOfTile 9#16 = some 0 ∧
    (mapped core).stageOfTile 10#16 = none ∧ (mapped core).faulted = false ∧ (mapped core).usableSpares 0 = [0, 1, 2, 3] ∧
    (put (mapped core) [(Reg.plcCtl, 1#32)]).rbit Reg.plcCtl 0 = true ∧ (mapped core).rbit Reg.plcCtl 0 = false ∧
    (mapped core).rbit Reg.fabCtl 1 = true ∧ ((mapped core).dom 0).st = 0 ∧ gblockOf 9#16 < 128 ∧ posOf 63#16 < 64 := by decide

theorem test_hyp_stuck_stage :
    let s := mapped (withWord core 0 ⟨0, 0, 5, noSrc⟩)
    s.watching = true ∧ s.stageWatched 0 = true ∧ s.stageHolds 0 = true ∧ tget 0 s.plc.lastStall 0 = 0 ∧ s.plc.pitch.length = 1 ∧
    s.clock.now + 1 - 1 ≤ msSteps 10000 ∧ s.clk.capture = 0#8 ∧ s.unitHolds 6 = false ∧
    ({ s with ctx := { s.ctx with owed := [⟨1, 0, none⟩] } } : State).unitHolds 6 = true := by decide

theorem test_hyp_replacement_steps :
    (remapIn (mapped core) 4).remapping = true ∧ fld ((remapIn (mapped core) 4).reg Reg.plcStat) 3 0 = 4 ∧
    fld ((remapIn (mapped core) 7).reg Reg.plcStat) 3 0 = 7 ∧ (mapped core).clk.capture = 0#8 ∧ (mapped core).plc.whole = false ∧
    (mapped core).plc.waiting = [] ∧ (mapped core).pwr.heldReq = [] ∧ (mapped core).tel.cap.heldTrigger = false := by decide

/-- A re-placement changes the bank at its end and not before (R121, R135). -/
theorem test_remap_changes_bank :
    (match exec (.remapScanInDone false) (remapIn (mapped core) 7) with | .next u => u.bank && !u.remapping | _ => false) = true := by decide +kernel

/-! ## Clocks and power -/

theorem test_hyp_req_low :
    let s := put live [(0xD0000, 1#32)]
    s.up = true ∧ s.blockEn 13 = true ∧ s.policy 144 = 2 ∧ s.policy 151 = 1 ∧ s.policy 128 = 0 ∧ s.hostCond 128 = false ∧
    s.hostCond 136 = true ∧ (s.dom 139).st = 0 ∧ (s.setDom 139 { Dom.on with st := 2 }).dom 139 = { Dom.on with st := 2 } ∧
    (mapped core).blockUsed 0 = true ∧ (mapped core).committed = true := by decide

/-- A host domain of an HBM stack begins its entry (R419, R420). -/
theorem test_req_low_hbm :
    (match exec (.reqLow 136#8 true) (put live [(0xD0000, 1#32)]) with | .next u => (u.dom 136).st | _ => 9) = 1 := by decide

theorem test_hyp_power_transitions :
    let e := live.setDom 151 { Dom.on with st := 1 }
    let x := live.setDom 128 { Dom.on with st := 3 }
    let q := live.setDom 127 { Dom.on with st := 4 }
    let l := live.setDom 0 { Dom.on with st := 2 }
    (e.dom 151).st = 1 ∧ 151 ∉ e.pwr.liftHeld ∧ (x.dom 128).st = 3 ∧
    (upto 128).filter (fun b => (q.dom b).st == 4 && (q.dom (128 + b / 16)).st == 0) = [127] ∧
    (live.dom 150).st = 0 ∧ live.sigBusy = false ∧ live.requestedBlocks = [] ∧ live.gatedBlocks = [] ∧
    bit ({ live with clk := { live.clk with capture := 0x80#8 } }).clk.capture 7 = true ∧
    (l.dom 0).st = 2 ∧ l.policy 0 = 1 ∧ ({ l with img := { l.img with st := .placing } }).autoHigh 0 = true := by decide +kernel

theorem test_hyp_reload :
    let s := { live with pwr := { live.pwr with reloading := true }, fab := { live.fab with drainGate := true } }
    live.moving = true ∧ s.pwr.reloading = true ∧ s.requestedBlocks = [] ∧ s.gatedBlocks = [] ∧ s.fab.drainGate = true ∧
    (∀ i, i < 8 → (tget TStream.zero s.stm.ts (16 + i)).active = none) ∧ twf Tile.zero s.fab.tiles = true ∧
    (put live [(Reg.clkStat, 0x10#32)]).moving = false := by decide +kernel

theorem test_hyp_clock_loss : live.up = true ∧ live.faulted = false ∧ live.dev.refclkDead = false ∧ (13#4 : BitVec 4).toNat ≤ 13 := by decide

/-- 110 degrees is the trip level, in quarter degrees (R410). -/
theorem test_hyp_trip : tripLevel 440#16 = true ∧ tripLevel 439#16 = false ∧ live.clk.hot = [] ∧ live.clk.stopped = false ∧
    (upto 1).filter (fun n => tripLevel ([440#16].getD n 0) && [0].contains n) = [0] := by decide

/-- At 100 degrees a sector steps down from 26 to 25, and at 94.75 it steps up again (R409). -/
theorem test_thermal_steps :
    (match exec .thermalEvaluation { live with clk := { live.clk with temps := List.replicate 6 400#16 ++ List.replicate 58 0#16 } } with
     | .next u => u.sectFreq 0 | _ => 0) = 25 ∧
    (match exec .thermalEvaluation (put { live with clk := { live.clk with temps := List.replicate 6 379#16 ++ List.replicate 58 0#16 } }
        [(Reg.clkSectFreq0, 0x1A1A1A19#32)]) with
     | .next u => u.sectFreq 0 | _ => 0) = 26 := by decide +kernel

/-! ## The image and admission -/

/-- The envelope: KIND 2, LENGTH 0x700, KEY_SLOT 2. -/
def imgEnvelope : Memory :=
  [(0x0, 67), (0x1, 89), (0x2, 83), (0x3, 79), (0x4, 1), (0x6, 2), (0x9, 7), (0xC, 2)]

/-- The image header: two stages, two tiles, MAX_BUDGET 1000, 32 by 32. -/
def imgHeader : Memory :=
  [(0xC0, 67), (0xC1, 89), (0xC2, 82), (0xC3, 73), (0xC4, 1), (0xC9, 7), (0xCC, 2), (0xD0, 2), (0xD4, 232), (0xD5, 3),
   (0xD8, 32), (0xDA, 32), (0xE8, 64), (0xEC, 192)]

/-- Stage 0: the input stage. -/
def imgStage0 : Memory :=
  [(0x102, 1), (0x104, 1), (0x108, 232), (0x109, 3), (0x10C, 64), (0x110, 255), (0x111, 255), (0x112, 255),
   (0x113, 255), (0x114, 255), (0x115, 255), (0x116, 255), (0x117, 255), (0x118, 1), (0x120, 2), (0x124, 4)]

/-- Stage 1: a DETECT_HEAD after stage 0. -/
def imgStage1 : Memory :=
  [(0x140, 1), (0x142, 1), (0x144, 32), (0x146, 4), (0x148, 232), (0x149, 3), (0x14C, 64), (0x152, 255), (0x153, 255),
   (0x154, 255), (0x155, 255), (0x156, 255), (0x157, 255), (0x15C, 1), (0x160, 3), (0x164, 5)]

/-- The section table. -/
def imgSections : Memory :=
  [(0x180, 6), (0x190, 1), (0x194, 128), (0x195, 1), (0x198, 64), (0x1A0, 1), (0x1A4, 192), (0x1A5, 1), (0x1A8, 64),
   (0x1B0, 2), (0x1B5, 2), (0x1B8, 64), (0x1B9, 2), (0x1C0, 2), (0x1C4, 64), (0x1C5, 4), (0x1C8, 64), (0x1C9, 2),
   (0x1D0, 3), (0x1D4, 128), (0x1D5, 6), (0x1D8, 64), (0x1E0, 3), (0x1E4, 192), (0x1E5, 6), (0x1E8, 64)]

/-- The head's parameter block. -/
def imgHead : Memory :=
  [(0x780, 3), (0x782, 5), (0x784, 32), (0x786, 32), (0x788, 32), (0x78A, 32), (0x78C, 1), (0x78D, 1), (0x78E, 1),
   (0x790, 1), (0x792, 1), (0x796, 1), (0x798, 1), (0x79C, 1)]

/-- The smallest image that passes checks 3 to 6: a frame of 32 by 32, the input stage and a point head of one class, one tile each. -/
def smallImage : Memory := imgEnvelope ++ imgHeader ++ imgStage0 ++ imgStage1 ++ imgSections ++ imgHead

/-- A running part with the small image in a state. -/
def imaged (st : ImageState) : State :=
  { live with img := { State.reset.img with st := st, copy := smallImage }, flash := { shippedFlash with keySt := [(2, 1)] } }

/-- Checks 3 to 6 of R123 on the smallest image: none fails. -/
theorem test_small_image_checks : check3 smallImage = none ∧ check4 smallImage = none ∧ check5 smallImage = none ∧
    check6 smallImage 20480 = none ∧ firstBad smallImage (fun s => (stgProducers smallImage s).all (· < s)) = none := by decide +kernel

/-- ... and they are placed on the first two tiles of sector 0 (R122). -/
theorem test_small_image_layout : layout smallImage [] = some [[0#16], [1#16]] := by decide +kernel

/-- A map without any route entry has no word end in a queue, so no queue is in use. -/
theorem dReq_unrouted {map : BitVec 512} (h : ∀ t v n w, Config.route map t v n w = 0#16) (digest : BitVec 512) (st i : Nat) (t : TileAddr)
    (q : Nat) : dReq digest map st i t q = 0 := by
  have e : ∀ v w, mapEntry map t v (netOfQueue q) w = 0 := by
    intro v w
    simp [mapEntry, h]
  have hw : ∀ v, termWires map t v q = [] := by
    intro v
    simp only [termWires, e, routeTerm]
    simp [upto]
  simp [dReq, queueUsed, hw]

theorem mapReject_unrouted {s : State} {p : List (List TileAddr)} (h : ∀ t v n w, Config.route (s.mapDigest p) t v n w = 0#16)
    (hr : Config.routable s.img.digest p = true) : s.mapReject p = none := by
  have e : ∀ t v n w, mapEntry (s.mapDigest p) t v n w = 0 := by
    intro t v n w
    simp [mapEntry, h]
  have hl : ∀ ts, mapLegal (s.mapDigest p) ts = true := by
    intro ts
    simp only [mapLegal, List.all_eq_true]
    intro t _ v _ n hn
    have f : (upto 6).map (mapEntry (s.mapDigest p) t v n) = [0, 0, 0, 0, 0, 0] := by
      simp only [upto, List.range, List.range.loop, List.map_cons, List.map_nil, e]
    rw [f]
    have : n = 0 ∨ n = 1 ∨ n = 2 := by simp [upto] at hn; omega
    rcases this with rfl | rfl | rfl <;> decide
  have hd : ∀ st i t, depthsFit s.img.digest (s.mapDigest p) st i t = true := by
    intro st i t
    have z : ∀ l : List Nat, l.foldl (fun n q => n + 0) 0 = 0 := by
      intro l
      induction l with
      | nil => rfl
      | cons a l ih => simp
    simp [depthsFit, dReq_unrouted h]
  simp [State.mapReject, hr, hl, hd]

/-- A commit of it succeeds wherever the part finds no loop and a map that it can route without a switch entry. -/
theorem test_hyp_placing (hl : Config.loopBad 0 = none) (hr : ∀ p, Config.routable 0 p = true)
    (hm : ∀ m t v n w, Config.route m t v n w = 0#16) : (imaged .placing).placeChecks = .inr [[0#16], [1#16]] := by
  obtain ⟨h3, h4, h5, h6, h7⟩ := test_small_image_checks
  have hc : (imaged .placing).img.copy = smallImage := by simp only [imaged]
  have hd : (imaged .placing).img.digest = 0 := rfl
  have hrate : (imaged .placing).img.rate = 20480 := rfl
  have hret : (imaged .placing).retiredTiles = [] := by decide
  unfold State.placeChecks checks3to7 check7
  have hj : (imaged .placing).mapReject [[0#16], [1#16]] = none := mapReject_unrouted (hm _) (by rw [hd]; exact hr _)
  simp only [hc, hd, hrate, hret, h3, h4, h5, h6, h7, hl, test_small_image_layout, hj, Option.map_none]

/-- A commit of an image whose stages want more tiles than the part has is rejected at check 3 (R33, R123). -/
theorem test_hyp_rejected : ({ imaged .placing with img := { (imaged .placing).img with copy := [] } }).placeChecks = .inl (4, 0xFFFF) := by
  decide +kernel

/-- The verification of the small image ends well where digest and signature agree. -/
theorem test_hyp_verified (hd : ∀ l, Config.shake256 l = 0) (hs : ∀ k m g, Config.slhVerify k m g = true) :
    verifyReason (imaged .verifying) = 0 := by
  have he : envCheck (imaged .verifying) (imaged .verifying).img.copy 2 268435456 = 0 := by
    unfold envCheck
    rw [if_neg (by decide +kernel), if_neg (by decide +kernel), if_neg (by decide +kernel)]
    rw [hd, hs]
    rw [if_neg (by decide +kernel), if_neg (by decide)]
  unfold verifyReason
  simp only [he]
  rw [if_neg (by decide), if_neg (by decide +kernel), if_neg (by decide +kernel), if_neg (by decide +kernel), if_neg (by decide +kernel)]

/-- An empty copy fails the verification with reason 3 (R441). -/
theorem test_hyp_not_verified : verifyReason { live with img := { live.img with st := .verifying } } = 3 := by decide +kernel

theorem test_hyp_image_commands :
    live.engineUp = true ∧ live.faulted = false ∧ live.remapping = false ∧ (put live [(Reg.fltDevfault, 7#32)]).faulted = true ∧
    (imaged .committed).committed = true ∧ (imaged .rejected).img.st ∈ [ImageState.writing, .verified, .rejected] ∧
    ImageState.placing ∉ [ImageState.writing, .verified, .rejected] := by decide +kernel

theorem test_hyp_loading : stageOf smallImage 0x10 = none ∧ stageOf [(0xCC, 1), (0xE8, 0x40), (0x104, 0x10)] 0x10 = some 0 ∧
    (imaged .loading).img.copyBad = false ∧ (imaged .releasing).pipelineEmpty = true ∧ twf StreamAdm.zero (imaged .releasing).adm.streams = true := by
  decide +kernel

/-- The first and the last burst of a frame of 3,072 bytes, and the first burst beyond it. -/
def ingress (off : Nat) : HostWrite := ⟨false, BitVec.ofNat 32 (0x40000000 + off), 0x55#512, 1#64, false⟩

theorem test_hyp_ingress :
    (∀ off ∈ [0, 3040], rangeOf (ingress off).addr.toNat = .ingress ∧ (imaged .committed).ingressAt false (0x40000000 + off) = (0, false, off) ∧
      off + 32 ≤ (imaged .committed).geomSize ((imaged .committed).wideStream 0)) ∧
    (imaged .committed).geomSize ((imaged .committed).wideStream 0) ≤ 3072 ∧ (imaged .committed).portOpen false = true ∧
    ((imaged .committed).stream 0).slot false = Slot.empty ∧ (imaged .committed).bufFree ≠ 0 ∧ rangeOf 0xBFFFFFE0 = .ingress := by
  decide +kernel

/-- With every page of the buffer taken there is none free. -/
theorem test_hyp_buffer_full (l : List Nat) (h : l.length = 12288) :
    ({ live with adm := { live.adm with streams := [(0, { StreamAdm.zero with slot1 := { Slot.empty with pages := l } })] } }).bufFree = 0 := by
  simp only [State.bufFree, State.pagesUsed, List.foldl_cons, List.foldl_nil, StreamAdm.zero, Slot.empty, List.length_nil, h]

theorem test_hyp_buffer_full_pages : (List.replicate 12288 0).length = 12288 := by rw [List.length_replicate]

/-- An ingress burst puts its unmasked byte in its place (R51). -/
theorem test_ingress_byte :
    (match exec (.ingressWrite (ingress 32)) (imaged .committed) with
     | .next u => byteOf (tget 0 ((u.stream 0).slot0).data 1) 0 | _ => 0#8) = 0x55#8 := by decide +kernel

/-- A doorbell to the first cell of port 0 with tag 7. -/
def bell : HostWrite := ⟨false, 0x1000000#32, 7#512, 0xFFFFFFFF#64, false⟩
def admitting : State := put (imaged .committed) [(Reg.admCtl, 1#32), (Reg.fabCtl, 3#32)]

theorem test_hyp_doorbell :
    rangeOf bell.addr.toNat = .cells ∧ bell.addr.toNat / 32 % 2 = 0 ∧ bell.mask.toNat % 2 ^ 32 = 2 ^ 32 - 1 ∧
    admitting.portOpen false = true ∧ admitting.committed = true ∧ admitting.rbit Reg.admCtl 0 = true ∧ admitting.partly = false ∧
    admitting.secondary = false ∧ admitting.enabled 0 = true ∧ admitting.absorbed 0 = false ∧ (imaged .committed).rbit Reg.admCtl 0 = false ∧
    rangeOf 0x1007FC0 = .cells ∧ (0x1007FC0 - 0x1000000) / 64 = 511 := by decide +kernel

/-- A frame that waits in slot 0 of stream 5. -/
def frame : Frame := ⟨5, false, 7, 1, 0, 0, false, .waiting, .ok, none, 0, 0, 0, false, false, false, 0, 0, [], [], none, []⟩
def withFrame (s : State) (f : Frame) : State := { s with adm := { s.adm with frames := [f] } }

theorem destsFrom_zero (s : State) (h : s.fab.tiles = []) (c n f : Nat) (t : TileAddr) (w : Nat) : s.destsFrom c n f t w = [] := by
  cases f with
  | zero => rfl
  | succ f =>
    have : ∀ a b d, Tile.zero.route a b d = 0 := by
      intro a b d
      simp [Tile.route, Tile.slotWord, Tile.zero, tget, fld]
    simp [State.destsFrom, State.tile, h, tget, this, routeTerm, routeOut]

theorem rowsTaken_empty (s : State) (h : s.fab.tiles = []) (l : s.fab.links = []) (n : s.fab.unsent = []) : s.rowsTaken = true := by
  simp only [State.rowsTaken, l, n, destsFrom_zero s h, List.all_nil]
  simp

theorem stage0Taken_empty (s : State) (h : s.fab.tiles = []) (l : s.fab.links = []) (n : s.fab.unsent = [])
    (f : s.adm.frames.any (fun g => g.phase == .sending) = false) : s.stage0Taken = true := by
  simp [State.stage0Taken, f, rowsTaken_empty s h l n]

theorem test_hyp_slot_start :
    (withFrame admitting frame).admRuns = true ∧ (withFrame admitting frame).stage0Taken = true ∧
    (withFrame admitting frame).waitingFrames.find? (fun g => g.stream == 5) = some frame ∧ (0 + 1 + 4) % 1024 = 5 ∧
    fld ((withFrame admitting frame).reg Reg.admRrPtr) 9 0 = 0 ∧ live.admRuns = false :=
  ⟨by decide +kernel, stage0Taken_empty _ rfl rfl rfl rfl, by decide +kernel, by decide, by decide +kernel, by decide +kernel⟩

/-- The frame has been accepted before the engine cycle in which a slot starts. -/
theorem test_hyp_accepted_before : 18 * frame.acceptedAt < (withFrame admitting frame).slotCycle ∧ frame ∈ (withFrame admitting frame).waitingFrames ∧
    frame.stream = 5 := by decide +kernel

/-- A wide frame whose first slot opens, and a word of the slot before it that waits at the input, wherever the part has one. -/
theorem test_hyp_rows_wait (h : Config.inputWires 0#512 = [(0#16, 3#3)]) :
    ({ admitting with fab := { admitting.fab with unsent := [⟨wireKey 0 0 3, ⟨0, 0, 1, noSrc⟩⟩] } } : State).rowsTaken = false ∧
    admitting.adm.lastSlots ≤ wideSlot 64 0 := by
  constructor
  · simp only [State.rowsTaken, show admitting.plc.pitchDigest = 0#512 from by decide +kernel, h]
    rfl
  · decide +kernel

/-- A frame of slot 1 of the same stream, accepted in the same engine cycle. -/
theorem test_hyp_same_cycle :
    let s := withFrame admitting { frame with stream := 0, slot := true, seq := 0 }
    ∀ g ∈ s.adm.frames, g.stream = 0 ∧ g.slot = true ∧ g.acceptedAt = s.clock.now ∧ g.ordinal = none ∧ g.seq = (s.stream 0).accepted := by
  decide +kernel

theorem test_hyp_row_group :
    (withFrame admitting { frame with phase := .sending }).adm.frames.find? (fun g => g.phase == .sending) =
      some { frame with phase := .sending } ∧
    admitting.fab.stopped = false ∧ admitting.clk.capture = 0#8 ∧ admitting.geomGroups false = 32 := by decide +kernel

theorem test_hyp_max_wait : (put (withFrame live frame) [(Reg.admMaxWait, 1#32)]).reg Reg.admMaxWait ≠ 0#32 ∧
    (withFrame live frame).adm.frames.any (fun f => f.stream == (5#10).toNat && f.slot == false && f.phase == .waiting) = true := by decide +kernel

theorem test_hyp_record :
    let f := { frame with phase := .ended }
    (withFrame live f).adm.frames.find? (withFrame live f).recordDue = some f ∧
    (put live [(Reg.egrCtl, 1#32)]).rbit Reg.egrCtl 0 = true ∧ live.writeLine 5 = 64 ∧ f.dets.length ≤ 512 := by decide +kernel

/-- A record without detections takes one line, and its status is counted (R284, R342). -/
theorem test_record_line :
    (match exec (.recordWrite false) (put (withFrame live { frame with phase := .ended }) [(Reg.egrCtl, 1#32)]) with
     | .next u => (u.writeLine 5, u.adm.frames.length) | _ => (0, 9)) = (65, 0) := by decide +kernel

theorem test_hyp_fault_drain :
    (put { live with dev := { live.dev with draining := true } } [(Reg.fltDevfault, 2#32)]).faulted = true := by decide +kernel

/-! ## The context engine -/

/-- A complete request of stream 5: operation, mode and words. -/
def request (op mode : Nat) (ws : List Word) : CtxReq :=
  ⟨0, 5, 1, 7, 0, 0, BitVec.ofNat 32 (op * 2 ^ 29 + mode * 2 ^ 26 + 2 ^ 17), ws, true, none⟩

/-- The engine enabled with that request in front, and stream 5 with a context and slot 3 as an entry. -/
def engine (r : CtxReq) (c : StreamCtx) (e : BitVec 128) : State :=
  let s := put live [(Reg.ctxCtl, 3#32)]
  let u := { s with ctx := { s.ctx with reqs := [r], streams := [(5, c)] } }
  { u with ctx := { u.ctx with dir := tset 0 [] (u.dirIndex 5 3) e } }

/-- Slot 3 of stream 5, valid, with key summary 9 and sequence number 1. -/
def entry3 (staked : Bool) : BitVec 128 := dirEntry 9 1 0 3 5 staked

def plain : StreamCtx := StreamCtx.zero
def staked3 : StreamCtx := { StreamCtx.zero with stake := [⟨3, 1, false⟩] }

theorem test_hyp_not_its_turn : ∀ op, op < 6 → live.nextReq 5 op = none := by decide +kernel

theorem test_hyp_append :
    (engine (request 0 0 []) plain 0).nextReq 5 0 = some (request 0 0 []) ∧ plain.quota ≠ 0 ∧ plain.choose.1 = 0 ∧ plain.choose.1 < 32768 ∧
    ({ plain with released := [(3, 1)] } : StreamCtx).choose.1 = 3 ∧ ({ plain with quota := 0 } : StreamCtx).quota = 0 ∧
    plain.staked plain.cursor = false ∧ (engine (request 0 0 []) plain (entry3 false)).slotValid 5 3 = true := by decide +kernel

theorem test_hyp_gather_attend :
    (engine (request 1 1 [3]) plain (entry3 false)).nextReq 5 1 = some (request 1 1 [3]) ∧
    (engine (request 2 0 []) plain 0).nextReq 5 2 = some (request 2 0 []) := by decide +kernel

/-- STAKE, UNSTAKE and EVICT: slot 3 valid or not, staked or not, the list full, and a request that names no slot. -/
theorem test_hyp_stake :
    (∀ op ∈ [3, 4, 5], (engine (request op 1 [3]) plain (entry3 false)).nextReq 5 op = some (request op 1 [3])) ∧
    (engine (request 3 1 [3]) plain (entry3 false)).named (request 3 1 [3]) 0 = some 3 ∧
    (engine (request 3 1 [3]) plain 0).slotValid 5 3 = false ∧ (engine (request 3 1 [3]) plain (entry3 false)).slotValid 5 3 = true ∧
    staked3.staked 3 = true ∧ plain.staked 3 = false ∧ plain.stake.length < plain.limit ∧
    ({ plain with limit := 0 } : StreamCtx).limit ≤ plain.stake.length ∧ plain.stakeOf 3 = none ∧ staked3.stakeOf 3 = some ⟨3, 1, false⟩ ∧
    (engine (request 3 0 [0]) plain 0).named (request 3 0 [0]) 0 = none ∧ (request 5 3 []).mode = 3 ∧ (request 5 2 []).mode ≠ 3 ∧
    (engine (request 5 3 []) plain 0).nextReq 5 5 = some (request 5 3 []) := by decide +kernel

/-- STAKE of a valid slot below the limit puts it on the list (R241). -/
theorem test_stake :
    (((engine (request 3 1 [3]) plain (entry3 false)).stakeSlot 5 3).1.sctx 5).stake = [⟨3, 1, false⟩] ∧
    ((engine (request 3 1 [3]) plain (entry3 false)).stakeSlot 5 3).2 = 0 := by
  decide +kernel

/-- EVICT of a slot that is not staked makes its entry invalid (R241). -/
theorem test_evict :
    ((engine (request 5 1 [3]) plain (entry3 false)).evictSlot 5 3).1.slotValid 5 3 = false ∧
    ((engine (request 5 1 [3]) plain (entry3 true)).evictSlot 5 3).2 = 0 := by
  decide +kernel

/-- A slot whose CHECKSUM fails, and a request whose word names no slot of the quota. -/
theorem test_hyp_findings :
    found [⟨3#15, .mismatch⟩] 3 .mismatch = true ∧ (∀ j, found [] j .mismatch = false) ∧
    (engine (request 1 1 [3]) plain (entry3 false)).slotValid 5 3 = true ∧ (request 1 1 [3]).cnt = 1 ∧
    (engine (request 1 1 [3]) plain (entry3 false)).named (request 1 1 [3]) 0 = some 3 ∧
    (engine (request 3 1 [0x7FFF]) { plain with quota := 64 } 0).named (request 3 1 [0x7FFF]) 0 = none ∧ (request 3 1 [0x7FFF]).mode = 1 ∧
    (∀ e ∈ plain.stake, False) := by
  refine ⟨by decide, fun j => rfl, ?_⟩
  decide +kernel

theorem test_hyp_clears : live.blockEn 6 = false ∧ (put live [(Reg.ctxCtl, 3#32)]).blockEn 6 = true ∧
    (put live [(Reg.ctxStat, 2#32)]).rbit Reg.ctxStat 1 = true := by decide +kernel

/-! ## Detections -/

/-- A part with the small image, the units enabled, and a frame inside in a phase. -/
def inside (f : Frame) : State :=
  withFrame (put (imaged .committed) [(Reg.ppuCtl, 3#32), (Reg.cruCtl, 1#32)]) { f with ordinal := some 0, thresholds := [1, 2, 3, 4, 5] }

def det : Det := ⟨0, 0, 9, 0, 0, 160, 160, 0, 0, 0, 0⟩

theorem test_hyp_box_decode :
    ((inside { frame with phase := .fabric }).frameIn (fun p => p == .sending || p == .fabric)).map (·.phase) = some .fabric ∧
    (inside { frame with phase := .fabric }).frameIn (· == .decoded) = none ∧ (inside frame).blockEn 7 = true ∧ (inside frame).blockEn 8 = true ∧
    imgW smallImage false ≤ 4095 ∧ imgH smallImage false ≤ 4095 := by decide +kernel

theorem test_hyp_suppression : ((inside { frame with phase := .decoded }).frameIn (· == .decoded)).isSome = true ∧
    (0 : Nat) < pay smallImage ((inside frame).headPar false + 0x16) 2 := by decide +kernel

/-- The end of a frame has come from every circuit of a stage that lies before the fabric's base. -/
theorem unitHas_before_base (s : State) (unit stage slot n : Nat) (h : n < s.fab.base) : s.unitHas unit stage slot n = true := by
  simp only [State.unitHas, List.all_eq_true, decide_eq_true_eq]
  intro k _
  omega

/-- The head's, the crop's and the association's words are there; none is there for a stage whose circuit has brought no end. -/
theorem test_hyp_unit_words (unit stage slot : Nat) :
    let s := inside { frame with phase := .fabric }
    ({ s with fab := { s.fab with base := 1 } }).unitHas unit stage slot 0 = true ∧
    ({ s with fab := { s.fab with base := 1 } }).blockEn 7 = true ∧ s.faulted = false ∧ s.engineUp = true ∧
    (({ s with fab := { s.fab with base := 1 } } : State).frameIn (fun p => p == .sending || p == .fabric)).map (·.ordinal) = some (some 0) :=
  ⟨unitHas_before_base _ _ _ _ _ (by decide), by decide +kernel, by decide +kernel, by decide +kernel, by decide +kernel⟩

/-- An image whose stage 0 is CROP_FEATURES: the header and the stage record are all the statement asks of it. -/
theorem test_hyp_crop :
    let s := inside { frame with phase := .suppressed }
    let u := { s with img := { s.img with copy := [(0xCC, 1), (0xE8, 0x40), (0x104, 0x21)] } }
    (u.frameIn (· == .suppressed)).isSome = true ∧ u.cropStage = some 0 := by decide +kernel

def oneTrack : State :=
  let s := inside { frame with phase := .suppressed, dets := [det] }
  { s with ctx := { s.ctx with tracks := [(512 * 5 + 511, { Track.zero with id := 1, st := 2, x1 := 160, y1 := 160 })] } }

theorem test_hyp_tracks :
    let s := inside { frame with phase := .suppressed }
    s.cropStage = none ∧ (s.frameIn (fun p => if s.cropStage.isSome then p == .cropped else p == .suppressed)).isSome = true ∧
    s.rbit Reg.ppuCtl 1 = true ∧ (put s [(Reg.ppuCtl, 1#32)]).rbit Reg.ppuCtl 1 = false ∧
    (oneTrack.track 5 511).st ≠ 0#8 ∧ (∀ k, k < 512 → k ≠ 511 → (oneTrack.track 5 k).st = 0#8) ∧ det.cls = (oneTrack.track 5 511).cls ∧
    0 < det.box.inter ((oneTrack.track 5 511).predict 32 32) ∧ det.box.reaches ((oneTrack.track 5 511).predict 32 32) 3 = true ∧
    5 ≤ det.score.toNat := by decide +kernel

/-! ## Transfer streams and the HBM -/

/-- A descriptor of the read-ahead's stream: the first MiB of the journal into the read-ahead's lines. -/
def desc : Desc := ⟨BitVec.ofNat 64 (2048 * rowJournal), BitVec.ofNat 64 (2 * 2 ^ 40), 0x100000, 1, 0, 0, 0, 0⟩
def armed (t : Nat) (n : Nat) : State :=
  live.setTs t { TStream.zero with active := if n = 0 then none else some desc, shadow := if n < 2 then none else some desc }

theorem test_hyp_descriptors :
    ((armed 34 0).ts 34).active = none ∧ ((armed 34 1).ts 34).active ≠ none ∧ ((armed 34 1).ts 34).shadow = none ∧
    ((armed 34 2).ts 34).shadow ≠ none ∧ (armed 13 1).rbit Reg.stmCtl 0 = true ∧ ((armed 13 1).ts 13).active = some desc ∧
    (put live [(Reg.stmCtl, 6#32)]).rbit Reg.stmCtl 0 = false := by decide +kernel

/-- A part of the read-ahead, which has no buffer to wait for, on channel 0. -/
def command : Ready := ⟨13, 0, 64, false, 0, 0⟩

theorem test_hyp_hbm_command :
    (armed 13 1).chanUp 0 = true ∧ (armed 13 1).rbit Reg.stmCtl 0 = true ∧ (armed 13 1).readyOk 0 command = true ∧
    (armed 13 1).readyOk 1 command = false ∧ (armed 13 1).commands [] = [] ∧
    (let s1 := ((armed 13 1).until (cycleStep ((armed 13 1).chan 0).freeAt)).openWindows.landed
     let u0 := s1.clientMoves ([command].filter (s1.readyOk 0))
     (u0.commands ([command].filter (u0.readyOk 0))).filter u0.eligible = [[command]] ∧ cmdWrites [command] = false) := by decide +kernel

/-- A descriptor whose commands have all issued and ended, one with none issued, and a read-ahead line. -/
theorem test_hyp_done :
    let d : Desc := { desc with length := 64 }
    let x := { TStream.zero with active := some d, parts := [⟨false, 0, 64, 0, true, []⟩] }
    let s := live.setTs 13 x
    s.rbit Reg.stmCtl 0 = true ∧ (s.ts 13).active = some d ∧ d.crosses true = false ∧ d.crosses false = true ∧ d.total ≤ (s.ts 13).commanded false ∧
    ((s.landed.ts 13).active.any (s.landed.ts 13).done) = true ∧ ((armed 13 1).ts 13).commanded false < desc.total ∧
    (s.landed.stm.jra.length = 0) ∧ 0 % 2048 + [0x7A#8].length ≤ 2048 := by decide +kernel

/-- Bytes that arrive stand in their line, with its tag (R306). -/
theorem test_line_fills :
    (let l := tget (0, []) (State.reset.stm.fillLine (2048 * 513 + 5) [0x7A#8]).jra 1; (l.1, l.2.length, l.2[5]?)) = (514, 2048, some 0x7A#8) := by
  decide +kernel

/-- The last row that the scrub visits and the one at which a slot lies. -/
theorem test_hyp_scrub :
    live.chanUp (0 % 64) = true ∧ live.rbit Reg.hbmCtl 1 = true ∧ live.rbit Reg.stmCtl 0 = true ∧
    (put live [(Reg.hbmScrubPos, BitVec.ofNat 32 (rowEnd - 1))]).reg Reg.hbmScrubPos = 0x02FFFFFF#32 ∧ (rowEnd - 1) % 64 < 64 ∧
    1 < fld (live.reg Reg.hbmRetireCe) 7 0 ∧ (live.chan 63).granules < 16384 := by decide +kernel

theorem test_hyp_scrub_slot :
    let g := (engine (request 0 0 []) plain 0).granule 5 3
    let s := put (engine (request 0 0 []) plain (entry3 false)) [(Reg.hbmScrubPos, BitVec.ofNat 32 g)]
    (s.reg Reg.hbmScrubPos).toNat = g ∧ s.chanUp (g % 64) = true ∧ (s.chan (g % 64)).granules < 16384 ∧ 0 < g ∧ g < rowDir ∧ s.slotAtGranule g = some (5, 3) ∧ s.slotValid 5 3 = true ∧ tget 0 s.hbm.map g = 0 := by decide +kernel

/-! ## The host ports and the register window -/

/-- A port with power-down or self-refresh entered, or its reset pin low. -/
def portAt (pd sr : Bool) : State := { live with hp1 := { live.hp1 with pd := pd, sr := sr } }

theorem test_hyp_ports :
    live.portOpen true = true ∧ live.portOpen false = true ∧ ((portAt true false).port true).pd = true ∧ ((portAt true false).port true).sr = false ∧
    ((portAt false true).port true).sr = true ∧ live.portPin true = true ∧ live.pins.power = true ∧
    ({ live with pins := { live.pins with hp1ResetN := false } }).portPin true = false ∧
    ({ live with hp1 := Port.zero } : State).hp1.open_ = false ∧ (2#2 : BitVec 2) ≠ 3#2 ∧ (3#7 : BitVec 7).toNat ∉ [4, 5, 6, 7, 8] := by decide +kernel

/-- The first and last addresses of the ranges of R330, and the addresses on each side of them. -/
theorem test_ranges :
    rangeOf 0 = .registers ∧ rangeOf 0x11FFFF = .registers ∧ rangeOf 0x120000 = .restOfWindow ∧ rangeOf 0xFFFFFF = .restOfWindow ∧
    rangeOf 0x1000000 = .cells ∧ rangeOf 0x1007FFF = .cells ∧ rangeOf 0x1008000 = .cellView ∧ rangeOf 0x100FFFF = .cellView ∧
    rangeOf 0x1010000 = .nothing ∧ rangeOf 0x4000000 = .rings ∧ rangeOf 0x7FFFFFF = .rings ∧ rangeOf 0x8000000 = .journal ∧
    rangeOf 0xFFFFFFF = .journal ∧ rangeOf 0x10000000 = .image ∧ rangeOf 0x1FFFFFFF = .image ∧ rangeOf 0x20000000 = .nothing ∧
    rangeOf 0x40000000 = .ingress ∧ rangeOf 0xBFFFFFFF = .ingress ∧ rangeOf 0xC0000000 = .nothing := by decide +kernel

theorem test_hyp_host_writes :
    live.img.st ∈ [ImageState.empty, .writing] ∧ live.rbit Reg.stmCtl 0 = true ∧ (imaged .placing).img.st ∉ [ImageState.empty, .writing] ∧
    (put live [(Reg.fltCtl, 5#32)]).secondary = true ∧ live.secondary = false ∧ (0xF0000000 : Nat) = 15 * 2 ^ (4 * 7) ∧
    (∀ i, i < 8 → 0x7FFFFFFF / 2 ^ (4 * i) % 16 = 15 ∨ i = 7) := by decide +kernel

theorem test_hyp_host_reads :
    live.engineUp = true ∧ ({ live with dev := { live.dev with engineStopped := true } }).engineUp = false ∧
    (0x1FE00 % 0x10000 ≠ 0xFF20) ∧ 0x11FFE0 / 0x10000 < 18 ∧ (tget (0, []) live.stm.jra 0).1 ≠ 1 := by decide +kernel

/-- A read of the ring's first index entry shows what is there (R341). -/
theorem test_ring_read :
    (match exec (.hostRead false 0x4000000#32 false false) { live with egr := { live.egr with index := [(0, 0x123#64)] } } with
     | .next u => u.hp0.out | _ => 0) = 0x123#512 := by decide +kernel

theorem test_hyp_aliases : live.blockEn 1 = false ∧ (put live [(Reg.admCtl, 1#32)]).blockEn 1 = true ∧
    (5#32 : Word) ≠ (put live [(Reg.admCtl, 1#32)]).reg Reg.admMaxWait := by decide +kernel

/-- The four words of a register: 0xF0 set, cleared, toggled by 0x3C (R384). -/
theorem test_alias_words :
    ((upto 4).map (fun k => ((put live [(Reg.devScratch0, 0xF0#32)]).regWrite Reg.devScratch0 k 0x3C#32).reg Reg.devScratch0)) =
      [0x3C#32, 0xFC#32, 0xC0#32, 0xCC#32] := by decide +kernel

theorem test_hyp_snapshots :
    live.rbit (snapReg 17) 1 = false ∧ (put live [(snapReg 17, 2#32)]).rbit (snapReg 17) 1 = true ∧ live.indBusy 4 = false ∧
    (put live [(indCtl 4, 2#32)]).indBusy 4 = true ∧ live.rbit (indCtl 4) 0 = false ∧ (put live [(indCtl 4, 1#32)]).rbit (indCtl 4) 0 = true ∧
    (17#5 : BitVec 5).toNat < 18 ∧ 6 ∉ [4, 5, 9, 13] ∧ tget 0 ({ live with ind := [(4, 1)] } : State).ind 4 = 1 := by decide +kernel

theorem test_hyp_keys : live.dev.pendingReset = none ∧ live.blockEn 17 = true ∧ live.rbit Reg.mbxStat 0 = false ∧
    (put live [(Reg.mbxStat, 1#32)]).rbit Reg.mbxStat 0 = true ∧ (0xB0070000#32 : Word) ≠ 0xB0070001#32 := by decide +kernel

/-- A BL32 write of the register window at its two bursts, and the windows that a write command is for. -/
theorem test_hyp_long_writes :
    rangeOf (⟨false, 0x40#32, 0, 1, true⟩ : HostWrite).addr.toNat = .registers ∧ rangeOf 0x8000000 = .journal ∧ rangeOf 0x10000000 = .image ∧
    (live.ts 13).active = none ∧ (0x1020 : Nat) % 32 = 0 ∧ ({ live with egr := { live.egr with damaged := [0] } } : State).egr.damaged.contains 0 = true ∧
    (tget (0, []) ({ live with stm := { live.stm with jra := [(0, (1, [0x7A#8]))] } } : State).landed.stm.jra 0).1 = 0 / 2048 + 1 := by
  decide +kernel

/-- A tile's SRAM word, its slot word and another register at an indirect address (R117). -/
theorem test_hyp_indirect :
    isTile (BitVec.ofNat 16 (0x00090000 / 65536 % 16384)) = true ∧ 0x00090000 % 65536 < 0xC000 ∧ (0x0009C010 % 65536 < 0xC400) ∧
    ¬(0x0009D000 % 65536 < 0xC400) ∧
    tget 0 ({ (put live [(indCtl 4, 2#32), (indAddr 4, 0x00090008#32)]) with ind := [(4, 1)] } : State).ind 4 = 1 ∧
    (put live [(indCtl 4, 2#32), (indAddr 4, 0x00090008#32)]).indBusy 4 = true := by decide +kernel

/-! ## The dictionary -/

/-- A request message: operation, index, sub-index, LAST, data. -/
def message (op index sub last : Nat) (data : List Byte) : List Byte :=
  [1#8, BitVec.ofNat 8 op] ++ leBytes 2 9 ++ leBytes 2 index ++ [BitVec.ofNat 8 sub, BitVec.ofNat 8 last] ++ leBytes 4 0 ++
  leBytes 2 (if op = 1 then 4 else data.length) ++ leBytes 2 0 ++ data

/-- The link is up with an address, and a request waits. -/
def asked (q : List (Src × List Byte)) : State :=
  { live with dict := { live.dict with link := true, localIp := some 0xA9FE0101#32, queue := q } }

/-- UDP_ACCESS at a value. -/
def access (n : Nat) : State := (asked []).setObj (okey 0x1010 5) n

theorem test_hyp_datagrams :
    (asked []).ethUp = true ∧ (asked []).linkState = 2 ∧ live.ethUp = false ∧
    (16 ≤ (message 1 0x1000 5 0 []).length ∧ (message 1 0x1000 5 0 []).length = (parseReq (message 1 0x1000 5 0 [])).size) ∧
    ¬ 16 ≤ ([1#8] : List Byte).length ∧ (asked []).dictUp = true ∧ (access 0).objVal (okey 0x1010 5) 2 = 0 ∧
    (access 1).objVal (okey 0x1010 5) 2 = 1 ∧ (asked []).objVal (okey 0x1010 5) 2 = 2 ∧
    (parseReq (message 3 0x1000 5 0 [0])).malformed = true ∧ (asked []).replayOf 1 2 9 = none ∧
    ({ asked [] with dict := { (asked []).dict with replies := [(1, 2, 9, [])] } }).replayOf 1 2 9 = some [] := by decide +kernel

theorem test_hyp_requests :
    (parseReq (message 1 0x1000 5 0 [])).malformed = false ∧ (parseReq (message 3 0x1000 5 0 [])).malformed = false ∧
    (parseReq (message 2 0x2000 1 1 [3])).malformed = false ∧ (parseReq (message 2 0x2000 1 1 [3])).last = true ∧
    (parseReq (message 2 0x2000 1 1 [3])).length = 1 ∧ live.recovering = false ∧ (put live [(Reg.secBoot, 8#32)]).recovering = true ∧
    live.find 0x3020 9 = .inl 0x0602 ∧ live.find 0x0FFF 0 = .inl 0x0601 ∧
    (∃ o, live.find 0x2000 1 = .inr o ∧ o.access = 1 ∧ o.type ≠ 13 ∧ live.objSize 0x2000 1 o = 1 ∧
      (live.actionWrite 0x2000 1 3 [3]).isNone = true ∧ live.objAccepts 0x2000 1 o false 3 = true ∧ live.objAccepts 0x2000 1 o false 4 = false) ∧
    (∃ o, live.find 0x3010 1 = .inr o ∧ o.access = 3 ∧ o.block = 1 ∧ live.blockEn 1 = false) ∧
    (∃ o, live.find 0x1000 1 = .inr o ∧ o.access = 4) := by
  refine ⟨by decide +kernel, by decide +kernel, by decide +kernel, by decide +kernel, by decide +kernel, by decide +kernel, by decide +kernel,
    by decide +kernel, by decide +kernel, ⟨(objAt 0x2000 1).getD ⟨0, 0, none, false, 0, 0⟩, ?_⟩,
    ⟨(objAt 0x3010 1).getD ⟨0, 0, none, false, 0, 0⟩, ?_⟩, ⟨(objAt 0x1000 1).getD ⟨0, 0, none, false, 0, 0⟩, ?_⟩⟩ <;> decide +kernel

/-- NEXT_PROFILE takes 3 and not 4 (R378). -/
theorem test_next_profile :
    (match exec .uhledWrite (asked [(.udp 1 2, message 2 0x2000 1 1 [3])]) with | .next u => u.objVal (okey 0x2000 1) 0xFF | _ => 0) = 3 ∧
    (match exec .uhledWrite (asked [(.udp 1 2, message 2 0x2000 1 1 [4])]) with | .next u => u.objVal (okey 0x2000 1) 0xFF | _ => 0) = 0xFF := by
  decide +kernel

theorem test_hyp_profiles :
    live.fwUp = true ∧ live.dict.pstate = 0 ∧ live.dict.deferred = false ∧
    ({ live with dict := { live.dict with savedAt := some 0 } } : State).clock.now < 0 + 100000000 ∧
    5450 < 5451 ∧ (live.profile 3).next < 3 := by decide +kernel

/-- A record of one entry: its bytes by hand from R375 (object 0x4001:02 with length 1 and value 1). -/
theorem test_record_bytes :
    let bs := PRecord.bytes 3 ⟨7, 0x10002, 0, [(0x400102, 1, 1)]⟩
    bs.length = 0x8C ∧ leNum (bs.take 4) = 0x52505943 ∧ leNum ((bs.drop 6).take 1) = 3 ∧ leNum ((bs.drop 8).take 4) = 7 ∧
    bs.drop 0x80 = [0x01#8, 0x40#8, 2#8, 1#8, 1#8, 0, 0, 0, 0, 0, 0, 0] := by decide +kernel

/-! ## Start-up and security -/

theorem test_hyp_firmware :
    live.dictUp = true ∧ live.dict.seg = none ∧ live.sec.fwVerify = false ∧ live.up = true ∧ live.sec.fwState ≠ 1 ∧ live.sec.fwState ≠ 3 ∧
    (Src.mailbox.same .mailbox = true) ∧ live.blockEn 17 = true ∧ ([] : List Byte).length ≤ 425984 ∧
    ({ live with sec := { live.sec with running := List.replicate 16 0 ++ [5] } }).fwRunning = 5#32 ∧ live.flash.fwMin < 1#32 := by decide +kernel

theorem test_hyp_key_slots : live.keyState 2 = 0 ∧ live.keyState 5 = 0 ∧ live.committed = false ∧ live.keyState 1 = 1 ∧ live.keyState 0 = 1 ∧
    live.sec.attest ≠ 1 ∧ ({ live with sec := { live.sec with attest := 1 } } : State).verifying = false := by decide +kernel

/-- A key write makes its slot ACTIVE and a second one is refused (R442). -/
theorem test_key_write :
    (match exec (.publicKeyWrite 5#3 7) live with | .next u => (u.keyState 5, u.keyOf 5) | _ => (9, 0)) = (1, 7) := by decide +kernel

/-! ### A bank that a start accepts -/

/-- The header of a firmware envelope (R440, R444): KIND 1, LENGTH 0, KEY_SLOT 0, every other byte zero. -/
def bankHead : List Byte := [0x43#8, 0x59#8, 0x53#8, 0x4F#8, 1#8, 0#8, 1#8, 0#8] ++ List.replicate 184 0#8

theorem num_congr (m m' : Memory) : ∀ (n a : Nat), (∀ i, a ≤ i → i < a + n → m.read i = m'.read i) → m.num a n = m'.num a n := by
  have hb : ∀ (n a : Nat), (∀ i, a ≤ i → i < a + n → m.read i = m'.read i) → m.bytes a n = m'.bytes a n := by
    intro n
    induction n with
    | zero => intros; rfl
    | succ n ih =>
      intro a h
      simp only [Memory.bytes]
      rw [h a (by omega) (by omega), ih (a + 1) (fun i h1 h2 => h i (by omega) (by omega))]
  intro n a h
  simp only [Memory.num, hb n a h]

theorem read_head (tail : List Byte) (i : Nat) (h : i < 192) :
    Memory.read (Memory.putBytes [] 0 (bankHead ++ tail)) i = Memory.read (Memory.putBytes [] 0 bankHead) i := by
  have hl : bankHead.length = 192 := by decide +kernel
  rw [Memory.read_putBytes, Memory.read_putBytes, List.length_append, hl]
  rw [if_pos (by omega), if_pos (by omega), Nat.sub_zero, List.getD_append _ _ _ _ (by omega)]

/-- A bank of that header and a signature of 29,792 bytes passes the checks of R441 wherever the part's own keys and functions agree
with its zeros. -/
theorem test_hyp_bank (tail : List Byte) (ht : tail.length = 29792) (s : State) (hk : s.keyOf 0 = 0) (hs : s.keyState 0 = 1) (hm : s.flash.fwMin = 0) (hd : ∀ l, Config.shake256 l = 0)
    (hv : ∀ k m g, Config.slhVerify k m g = true) : s.bankCheck (bankHead ++ tail) = 0 := by
  have hn : ∀ a n, a + n ≤ 192 → (Memory.putBytes [] 0 (bankHead ++ tail)).num a n = (Memory.putBytes [] 0 bankHead).num a n := by
    intro a n h
    exact num_congr _ _ n a (fun i _ h2 => read_head tail i (by omega))
  have hlen : (bankHead ++ tail).length = 29984 := by
    rw [List.length_append, ht, show bankHead.length = 192 from by decide +kernel]
  have he : envCheck s (Memory.putBytes [] 0 (bankHead ++ tail)) 1 (bankHead ++ tail).length = 0 := by
    unfold envCheck envLen envKeySlot envPk envDigest
    rw [hn 0xC 1 (by omega), hn 0 4 (by omega), hn 4 2 (by omega), hn 6 2 (by omega), hn 0xD 3 (by omega), hn 0x14 12 (by omega),
      hn 0xA0 32 (by omega), hn 0x10 4 (by omega), hn 8 4 (by omega), hn 0x20 64 (by omega), hn 0x60 64 (by omega), hlen, hd, hv]
    rw [show Memory.num (Memory.putBytes [] 0 bankHead) 0xC 1 = 0 from by decide +kernel]
    dsimp only
    rw [hk, hs]
    rw [if_neg (by decide +kernel), if_neg (by decide +kernel), if_neg (by decide +kernel), if_neg (by decide +kernel), if_neg (by decide)]
  unfold State.bankCheck
  simp only [he, hm]
  rw [if_neg (by decide), if_neg (by decide), if_neg (by simp)]

/-- A part with that bank as A and nothing in B starts from A; with nothing in both it starts in RECOVERY. -/
theorem test_hyp_boot (tail : List Byte) (ht : tail.length = 29792) (h0 : Config.factoryKey false = 0) (hd : ∀ l, Config.shake256 l = 0)
    (hv : ∀ k m g, Config.slhVerify k m g = true) :
    Claims.bootedBank { live with flash := { shippedFlash with bankA := bankHead ++ tail, bankB := [] } } = some false ∧
    Claims.bootedBank { live with flash := { shippedFlash with bankA := [], bankB := [] } } = none := by
  constructor
  · unfold Claims.bootedBank
    rw [if_pos]
    · rfl
    · exact test_hyp_bank tail ht _ h0 rfl rfl hd hv
  · decide +kernel

theorem test_hyp_signature_length : (List.replicate 29792 0#8).length = 29792 := by rw [List.length_replicate]

theorem test_hyp_resets :
    live.pins.power = true ∧ live.pins.resetN = true ∧ State.reset.pins.resetN = false ∧ live.dict.saving = none ∧ live.dict.pstate ≠ 2 ∧
    ({ live with dev := { live.dev with pendingReset := some 1 } } : State).up = true ∧ live.fwUp = true ∧ 3 ≤ ImageState.verified.code ∧
    ImageState.releasing.code ≤ 7 ∧
    (put { live with dev := { live.dev with faultAt := some 5 } } [(Reg.fltDevfault, 7#32)]).faulted = true ∧
    (live.setObj (okey 0x1000 8) 1).objVal (okey 0x1000 8) 0 = 1 ∧ live.dev.faultResets.length < 3 ∧ live.dev.pendingReset = none := by decide +kernel

/-! ## Windows, pairs, capture, logs -/

theorem test_hyp_windows :
    live.engineUp = true ∧ live.clock.frozen = none ∧ live.boundaryAt = 1000000 ∧ msSteps live.clock.lenMs / 8 = 125000 ∧
    live.clock.synced = false ∧ live.num.evalDue = false ∧ live.blockEn 5 = false ∧
    ({ mapped core with num := { State.reset.num with stats := [(0, { StageStat.zero with satThresh := 1, sat := 2 })] } }).stageEvents 0 = 1 ∧
    (mapped core).stageEvents 0 = 0 := by decide +kernel

/-- An edge an eighth of the window after the boundary is taken, one step later it is not (R459). -/
theorem test_sync_edges :
    (match exec .syncInEdge (live.until 125000) with | .next u => (u.clock.synced, u.clock.anchor) | _ => (false, 9)) = (true, 125000) ∧
    (match exec .syncInEdge (live.until 125001) with | .next u => (u.clock.synced, u.clock.anchor) | _ => (true, 9)) = (false, 0) ∧
    (match exec .syncInEdge (live.until 875000) with | .next u => (u.clock.synced, u.boundaryAt) | _ => (false, 9)) = (true, 875000) := by
  decide +kernel

theorem test_hyp_leases :
    (4#32 : Word) < (put live [(Reg.fltEpoch, 5#32)]).epoch ∧ live.flt.leaseEnd = none ∧
    ({ live with flt := { live.flt with leaseEnd := some 0 }, clock := { live.clock with now := 1 } } : State).flt.leaseEnd = some 0 ∧
    (put live [(Reg.fltCtl, 3#32)]).primary = true ∧ live.primary = false := by decide +kernel

/-- A lease of an epoch below H is refused (R461), one equal to it runs LEASE_MS. -/
theorem test_leases :
    (match exec (.leaseRenew 4) (put live [(Reg.fltEpoch, 5#32)]) with | .next u => (u.reg Reg.fltLeaseRefusedCnt, u.flt.leaseEnd) | _ => (9, none)) =
      (1#32, none) ∧
    (match exec (.leaseRenew 5) (put live [(Reg.fltEpoch, 5#32)]) with | .next u => u.flt.leaseEnd | _ => none) = some 5000000 := by decide +kernel

theorem test_hyp_roles : live.blockEn 14 = false ∧ (put live [(Reg.fltCtl, 3#32)]).blockEn 14 = true ∧
    fld ((put live [(Reg.fltCtl, 3#32)]).reg Reg.fltCtl) 2 1 = 1 ∧ fld ((put live [(Reg.fltCtl, 2#32)]).reg Reg.fltCtl) 2 1 = 1 := by decide +kernel

/-- A journal entry of one unit with its check: number, kind. -/
def jUnit (n kind : Nat) : List Byte :=
  let b := leBytes 8 n ++ [BitVec.ofNat 8 kind, 0] ++ leBytes 2 1 ++ List.replicate 48 0#8
  b ++ leBytes 4 (crc32c b).toNat

/-- A secondary with an image committed, MIRROR at `m`, and that entry written to unit 0. -/
def second (m n kind : Nat) : State :=
  let s := put (imaged .committed) [(Reg.fltCtl, 5#32), (Reg.fltStat, BitVec.ofNat 32 m)]
  { s with hbm := { s.hbm with journal := Memory.putBytes [] 0 (jUnit n kind) },
           flt := { s.flt with written := [(0, 1)], lastJ := n - 1, applyTo := some 9#32 } }

theorem test_hyp_secondary :
    (second 0 1 7).engineUp = true ∧ (second 0 1 7).faulted = false ∧ (second 0 1 7).secondary = true ∧ (second 0 1 7).mirror = 0 ∧
    (second 3 1 7).mirror = 3 ∧ (second 1 2 8).mirror = 1 ∧ (second 0 1 7).jCandidate 1 = some 0 ∧ (second 0 1 7).jCandidate 2 = none ∧
    (second 0 1 7).jAccepts 0 = true ∧ (second 0 1 7).jf 0 8 1 = 7 ∧ (second 0 1 8).jAccepts 0 = false ∧
    (second 0 1 7).applyDue = false := by decide +kernel

theorem test_hyp_apply :
    (second 1 2 8).applyDue = true ∧ (second 1 2 8).jAccepts 0 = true ∧ (second 2 2 15).jAccepts 0 = true ∧ (second 2 2 6).jAccepts 0 = true ∧
    (second 2 2 9).jAccepts 0 = false ∧ (second 2 2 9).applyDue = true := by decide +kernel

/-- RESYNC_END makes the mirror IN_STEP (R471). -/
theorem test_resync_end : (match exec .journalEntryApply (second 1 2 8) with | .next u => (u.mirror, u.flt.lastJ) | _ => (9, 9)) = (2, 2) := by
  decide +kernel

/-- A primary with a walk at stream `n`. -/
def walking (n : Nat) (listed : Bool) (left : List Nat) : State :=
  let s := put live [(Reg.fltCtl, 3#32)]
  { s with flt := { s.flt with walk := some ⟨n, left, listed⟩ } }

theorem test_hyp_walk :
    (walking 5 false []).primary = true ∧ (walking 5 false []).rbit Reg.fltStat 4 = false ∧ 262144 ≤ (walking 5 false []).jFreeUnits ∧
    ((walking 5 false []).reg Reg.fltJrnHead).toNat + 33 ≤ 2097152 ∧ (walking 5 false []).jFree 0 33 = true ∧ live.flt.walk = none ∧
    ((walking 5 true [3]).sctx 5).quota ≠ 0 ∧
    ({ walking 0 false [] with flt := { (walking 0 false []).flt with live := [⟨1, 0, 2000000⟩] } }).jFreeUnits < 262144 := by decide +kernel

/-- The end of the walk: no stream from the walk's place on has a quota. -/
theorem test_hyp_walk_end : ∀ i, 1024 ≤ i → i < 1024 → ((walking 1024 false []).sctx i).quota = 0 := by
  intro i h1 h2; omega

/-- The slot still to walk is valid. -/
theorem test_hyp_walk_slot : (engine (request 0 0 []) plain (entry3 false)).slotValid 5 3 = true ∧
    ((engine (request 0 0 []) plain (entry3 false)).sctx 5).quota ≠ 0 := by decide +kernel

/-- Capture of sector 7 set up, in a state, with a trigger. -/
def capture (st trig : Nat) (seen : Bool) : State :=
  let s := put live [(Reg.telStat, BitVec.ofNat 32 st), (Reg.telCapCtl, BitVec.ofNat 32 (0x8000 + 2 * trig))]
  s.setCap { s.tel.cap with sectors := 0x80, trig := BitVec.ofNat 3 trig, seen := seen }

theorem test_hyp_capture :
    (capture 0 3 false).armOk = true ∧ (capture 5 0 false).armOk = true ∧ (capture 1 0 false).capState = 1 ∧ (capture 0 4 false).capTrig = 4 ∧
    (put live [(Reg.telCapCtl, 0#32)]).capSectors = 0 ∧ (put live [(Reg.telCapCtl, 0x310#32)]).capMode = 1 ∧
    (put live [(Reg.telCapCtl, 0x310#32)]).capSectors = 3 ∧ (capture 1 2 true).tel.cap.seen = true ∧ (capture 1 3 false).tel.cap.seen = false ∧
    (capture 1 1 false).clock.frozen = none ∧ 10 * (max (capture 1 1 false).clock.now (capture 1 1 false).triggerAt) < 2 ^ 64 ∧
    (capture 2 0 false).capState = 2 ∧ (capture 3 0 false).capState = 3 ∧ 2 ≤ fld ((remapIn (capture 1 0 false) 2).reg Reg.plcStat) 3 0 := by
  decide +kernel

def entry (cls kind : Nat) : LogEntry := ⟨1, 0, 0, BitVec.ofNat 16 kind, BitVec.ofNat 8 cls, 0⟩

theorem test_hyp_flash_log :
    live.tel.toRetire = [] ∧ live.tel.toFlash = [] ∧ live.flash.log.length ≤ 10240 ∧ live.bucketNow = 16 ∧
    ({ live with tel := { live.tel with bucket := 0 } }).bucketNow = 0 ∧ (entry 1 6).cls ≠ 0#8 ∧ (entry 0 0xB).kind ≠ 1#16 ∧
    ({ live with tel := { live.tel with toFlash := [entry 0 0xB] } } : State).tel.toFlash = [entry 0 0xB] := by decide +kernel

/-! ## Pins -/

theorem test_hyp_tap :
    live.pins.power = true ∧ live.pins.resetN = true ∧ State.reset.pins.resetN = false ∧ State.reset.tap.st = .reset ∧
    badVid 0#8 0#341 = true ∧ vidOf 16#341 = 32 ∧ badVid 0#8 16#341 = false ∧ badVid 0xFF#8 0#341 = false ∧
    (0xFF#8 : Byte) ∉ [0#8, 3#8, 4#8] ∧ (4#8 : Byte) ∈ [0#8, 3#8, 4#8] ∧ (0#341 : BitVec 341).toNat < 2 ∧ 4 < (5#8 : Byte).toNat := by decide +kernel

theorem test_hyp_i3c_and_link :
    live.fwUp = true ∧ State.reset.fwUp = false ∧ ({ live with i3c := ⟨some 8, 0, false⟩ } : State).i3c.addr ≠ none ∧ live.dictUp = true ∧
    live.dev.ethDead = false ∧ (asked []).dict.link = true ∧ (asked []).objVal (okey 0x1010 1) 0 = 0 ∧ (asked []).ipInUse = some 0xA9FE0101#32 ∧
    linkLocal 0xA9FE0100#32 = true ∧ linkLocal 0xA9FEFEFF#32 = true ∧ linkLocal 0xA9FE00FF#32 = false ∧ linkLocal 0xA9FEFF00#32 = false := by
  decide +kernel

/-! ## The invariants and the block's shape -/

/-- The canonical form and the right ALERT_N are met in a running part with an image, a tile and a waiting frame. -/
theorem test_hyp_invariants :
    Claims.Canonical (withFrame (mapped core) frame) ∧ Claims.AlertPinRight (withFrame (mapped core) frame) ∧
    Claims.Canonical State.reset ∧ Claims.AlertPinRight State.reset := by
  unfold Claims.Canonical Claims.AlertPinRight
  decide +kernel

/-- The command in front is carried out on the rest of the queue; an empty queue lets one step of time pass. -/
theorem test_step_front :
    (match step { live with pending := [.idcode, .linkUp] } with | .next u => (u.pending, u.tap.ir) | _ => ([], 9)) = ([.linkUp], 1#8) ∧
    (match step live with | .next u => u.clock.now | _ => 9) = 1 := by decide +kernel

/-- CRC-32C of "123456789": the check value published with the polynomial (log entry 6). -/
theorem test_crc32c : crc32c [0x31#8, 0x32#8, 0x33#8, 0x34#8, 0x35#8, 0x36#8, 0x37#8, 0x38#8, 0x39#8] = 0xE3069283#32 := by decide +kernel

end Sys2Proof.Tests
end

section
/-! SUPPORT. The idle step: what power domains that follow their conditions may move, and the step's law (log entry 1). -/

namespace Sys2Proof.Machine

open Sys2Proof

/-- Nothing but the power domains differs. -/
def OnlyPower (s u : State) : Prop := ∃ p, u = { s with pwr := p }

theorem OnlyPower.refl (s : State) : OnlyPower s s := ⟨s.pwr, rfl⟩

theorem OnlyPower.trans {s u v : State} (a : OnlyPower s u) (b : OnlyPower u v) : OnlyPower s v := by
  obtain ⟨p, rfl⟩ := a
  obtain ⟨q, rfl⟩ := b
  exact ⟨q, rfl⟩

theorem OnlyPower.foldl {α : Type} {f : State → α → State} (hf : ∀ s a, OnlyPower s (f s a)) :
    ∀ (l : List α) (s : State), OnlyPower s (l.foldl f s)
  | [], s => OnlyPower.refl s
  | a :: l, s => (hf s a).trans (OnlyPower.foldl hf l _)

theorem OnlyPower.setDom (s : State) (d : Nat) (x : Dom) : OnlyPower s (s.setDom d x) := ⟨_, rfl⟩

theorem OnlyPower.enterLow (s : State) (d : Nat) : OnlyPower s (s.enterLow d) := by
  unfold State.enterLow
  dsimp only
  split_ifs
  · exact OnlyPower.setDom ..
  · exact OnlyPower.setDom ..
  · exact OnlyPower.refl s

theorem OnlyPower.leaveLow (s : State) (d : Nat) : OnlyPower s (s.leaveLow d) := by
  unfold State.leaveLow
  dsimp only
  split_ifs
  · exact OnlyPower.setDom ..
  · exact OnlyPower.setDom ..
  · exact OnlyPower.setDom ..
  · exact ⟨_, rfl⟩
  · exact OnlyPower.refl s

/-- A domain that follows its condition enters its low state, leaves it, or stays. -/
theorem State.follow_cases (s : State) (d : Nat) : s.follow d ∈ [s.enterLow d, s.leaveLow d, s] := by
  unfold State.follow
  split_ifs <;> simp

theorem OnlyPower.follow (s : State) (d : Nat) : OnlyPower s (s.follow d) := by
  have h := State.follow_cases s d
  simp only [List.mem_cons, List.not_mem_nil, or_false] at h
  obtain h | h | h := h <;> rw [h]
  · exact OnlyPower.enterLow s d
  · exact OnlyPower.leaveLow s d
  · exact OnlyPower.refl s

theorem OnlyPower.autoPower (s : State) : OnlyPower s s.autoPower := OnlyPower.foldl OnlyPower.follow _ s

/-- An idle step is the passing of one step of time, after which nothing but power domains moves. -/
theorem OnlyPower.idle (s : State) : OnlyPower (s.passTo (s.clock.now + 1)) s.idle := by
  unfold State.idle
  dsimp only
  split_ifs
  · exact OnlyPower.autoPower _
  · exact OnlyPower.refl _

/-- Settles O1: a command in front is carried out on the rest of the queue, by definition of `step`; with none waiting the idle
step passes one step of time and moves power domains only. -/
theorem stepRunsTheFrontCommand : Obligations.StepRunsTheFrontCommand := by
  unfold Obligations.StepRunsTheFrontCommand
  refine ⟨fun c s rest => rfl, fun s hs => ?_⟩
  obtain ⟨p, hp⟩ := OnlyPower.idle s
  have hstep : step s = .next s.idle := by unfold step; rw [hs]
  refine ⟨p, s.watched 1, ?_⟩
  rw [hstep, hp]
  simp [State.passTo]

end Sys2Proof.Machine
end

section
/-! SUPPORT. Bytes of bursts, and what one ingress burst does (R51 to R53, R58, R330, R335). -/

namespace Sys2Proof.Machine

open Sys2Proof

/-! ## Bytes of a burst -/

theorem getLsbD_byteOf {n : Nat} (w : BitVec n) (i j : Nat) :
    (byteOf w i).getLsbD j = (decide (j < 8) && w.getLsbD (8 * i + j)) := by
  rw [byteOf, BitVec.getLsbD_ofNat, Nat.testBit_div_two_pow, BitVec.getLsbD, Nat.add_comm]

theorem byteOf_ofNat {n N i : Nat} (h : 8 * i + 8 ≤ n) :
    byteOf (BitVec.ofNat n N) i = BitVec.ofNat 8 (N / 2 ^ (8 * i)) := by
  apply BitVec.eq_of_getLsbD_eq
  intro j hj
  have hn : 8 * i + j < n := by omega
  rw [getLsbD_byteOf, BitVec.getLsbD_ofNat, BitVec.getLsbD_ofNat, Nat.testBit_div_two_pow, Nat.add_comm j]
  simp [hn]

/-- Byte `k` of a number put together from bytes. -/
theorem foldr_bytes_div (g : Nat → Nat) (hg : ∀ i, g i < 256) :
    ∀ (l : List Nat) (k : Nat) (hk : k < l.length),
      BitVec.ofNat 8 (l.foldr (fun i n => g i + 256 * n) 0 / 2 ^ (8 * k)) = BitVec.ofNat 8 (g l[k])
  | a :: l, 0, _ => by
    apply BitVec.eq_of_toNat_eq
    simp [Nat.add_mod]
  | a :: l, k + 1, hk => by
    have hlt : (g a + 256 * l.foldr (fun i n => g i + 256 * n) 0) / 2 ^ 8 = l.foldr (fun i n => g i + 256 * n) 0 := by
      have := hg a
      omega
    rw [List.foldr_cons, show 8 * (k + 1) = 8 + 8 * k by ring, pow_add, ← Nat.div_div_eq_div_mul, hlt]
    exact foldr_bytes_div g hg l k (by simpa using hk)

/-- The bytes a mask names, as a burst of ones and zeros. -/
theorem byteOf_maskBytes (mask : Nat) {i : Nat} (hi : i < 32) :
    byteOf (BitVec.ofNat 256 ((upto 32).foldr (fun i n => (if mask / 2 ^ i % 2 = 1 then 255 else 0) + 256 * n) 0)) i =
      if mask / 2 ^ i % 2 = 1 then 255#8 else 0#8 := by
  rw [byteOf_ofNat (by omega), foldr_bytes_div _ (fun i => by split_ifs <;> omega) _ i (by simpa [upto] using hi)]
  simp only [upto, List.getElem_range]
  split_ifs <;> rfl

/-- A masked burst takes the bytes of the mask from the new data and keeps the others. -/
theorem byteOf_mergeBurst (old new : Burst) (mask : Nat) {i : Nat} (hi : i < 32) :
    byteOf (mergeBurst old new mask) i = if mask / 2 ^ i % 2 = 1 then byteOf new i else byteOf old i := by
  apply BitVec.eq_of_getLsbD_eq
  intro j hj
  have hm := congrArg (·.getLsbD j) (byteOf_maskBytes mask hi)
  have hn : 8 * i + j < 256 := by omega
  have hones : (255#8).getLsbD j = true := (by decide : ∀ k, k < 8 → (255#8).getLsbD k = true) j hj
  simp only [getLsbD_byteOf, hj, decide_true, Bool.true_and] at hm
  rw [getLsbD_byteOf, mergeBurst, BitVec.getLsbD_or, BitVec.getLsbD_and, BitVec.getLsbD_and, BitVec.getLsbD_not, hm]
  split_ifs
  · rw [hones, getLsbD_byteOf]
    simp [hj]
  · rw [getLsbD_byteOf]
    simp [hj, hn]

/-! ## Where an ingress burst goes -/

theorem rangeOf_eq_ingress {a : Nat} : rangeOf a = .ingress ↔ 0x40000000 ≤ a ∧ a < 0xC0000000 := by
  constructor
  · intro h
    unfold rangeOf at h
    split_ifs at h with _ _ _ _ _ _ _ _ h1 h2
    exact ⟨Nat.le_of_not_lt h1, h2⟩
  · rintro ⟨h1, h2⟩
    have above : ∀ b, b ≤ 0x40000000 → ¬ a < b := fun b hb => Nat.not_lt.mpr (hb.trans h1)
    unfold rangeOf
    simp [above, h2]

/-- A burst's slot offset lies on a burst boundary where its address does. -/
theorem State.ingressAt_offset_aligned {s : State} {p : Bool} {a : Nat} (ha : a % 32 = 0) {r : Nat × Bool × Nat}
    (h : s.ingressAt p a = r) : r.2.2 / 32 * 32 = r.2.2 := by
  refine Nat.div_mul_cancel ?_
  have ho : 32 ∣ a - 0x40000000 := Nat.dvd_sub (Nat.dvd_of_mod_eq_zero ha) (by norm_num)
  unfold State.ingressAt at h
  generalize a - 0x40000000 = o at ho h
  dsimp only at h
  split_ifs at h
  · subst h
    exact (Nat.dvd_mod_iff (by decide)).mpr ((Nat.dvd_mod_iff (by decide)).mpr ho)
  · subst h
    exact (Nat.dvd_mod_iff (by decide)).mpr ho

/-! ## What a port's own bookkeeping leaves alone -/

theorem State.until_besidePorts (s : State) (t : Nat) : (s.until t).besidePorts = s.besidePorts := by
  unfold State.until
  split_ifs <;> rfl

theorem State.countWrites_besidePorts (s : State) (p : Bool) (n : Nat) : (s.countWrites p n).besidePorts = s.besidePorts := by
  cases p <;> rfl

/-- The state in which a write command with one burst finds the part. -/
theorem State.portReady_besidePorts (s : State) (p : Bool) :
    ((s.portTime p).countWrites p 1).besidePorts = s.besidePorts := by
  rw [State.countWrites_besidePorts, State.portTime, State.until_besidePorts]

section
variable {s v : State} (hv : v.besidePorts = s.besidePorts)
include hv

theorem adm_of_besidePorts : v.adm = s.adm := congrArg (·.adm) hv
theorem regs_of_besidePorts : v.regs = s.regs := congrArg (·.regs) hv
theorem img_of_besidePorts : v.img = s.img := congrArg (·.img) hv
theorem dict_of_besidePorts : v.dict = s.dict := congrArg (·.dict) hv

theorem reg_of_besidePorts (a : Nat) : v.reg a = s.reg a := by simp only [State.reg, regs_of_besidePorts hv]
theorem stream_of_besidePorts (n : Nat) : v.stream n = s.stream n := by simp only [State.stream, adm_of_besidePorts hv]
theorem bufFree_of_besidePorts : v.bufFree = s.bufFree := by
  simp only [State.bufFree, State.pagesUsed, adm_of_besidePorts hv]
theorem committed_of_besidePorts : v.committed = s.committed := by simp only [State.committed, img_of_besidePorts hv]
theorem geomSize_of_besidePorts (b : Bool) : v.geomSize b = s.geomSize b := by
  simp only [State.geomSize, img_of_besidePorts hv]
theorem wideStream_of_besidePorts (n : Nat) : v.wideStream n = s.wideStream n := by
  simp only [State.wideStream, State.wideObj, State.objVal, img_of_besidePorts hv, dict_of_besidePorts hv]
theorem ingressAt_of_besidePorts (p : Bool) (a : Nat) : v.ingressAt p a = s.ingressAt p a := by
  simp only [State.ingressAt, wideStream_of_besidePorts hv]

end

/-- An ingress write of 32 bytes to an open port is one ingress burst, once the port answers and has counted it. -/
theorem exec_ingressWrite_burst {s : State} {w : HostWrite} (hb : w.bl32 = false) (hr : rangeOf w.addr.toNat = .ingress)
    (ho : s.portOpen w.port = true) (he : s.engineUp = true) :
    exec (.ingressWrite w) s = ((s.portTime w.port).countWrites w.port 1).ingressBurst w.port (w.addr.toNat / 32 * 32)
      (BitVec.ofNat 256 w.data.toNat) (w.mask.toNat % 2 ^ 32) := by
  have hr' : rangeOf (w.addr.toNat / 32 * 32) = .ingress := by
    rw [rangeOf_eq_ingress] at hr ⊢
    omega
  have hbs : burstsOf w = [(w.addr.toNat / 32 * 32, BitVec.ofNat 256 w.data.toNat, w.mask.toNat % 2 ^ 32)] := by
    simp [burstsOf, hb]
  simp [execIngressWrite, State.writeIn, writeRange, hr, State.hostWrite, hbs, ho, he, State.writeBurst, hr']

/-! ## What an ingress burst does -/

/-- The bytes of a burst that lie inside a frame of `size` bytes. -/
theorem land_lowMask_of_inside {m off size : Nat} (hm : m < 2 ^ 32) (h : off + 32 ≤ size) :
    Nat.land m (lowMask (size - off)) = m := by
  have hk : min (size - off) 32 = 32 := by omega
  rw [lowMask, hk]
  exact (Nat.and_two_pow_sub_one_eq_mod m 32).trans (Nat.mod_eq_of_lt hm)

theorem land_lowMask_of_outside {m off size : Nat} (h : size ≤ off) : Nat.land m (lowMask (size - off)) = 0 := by
  rw [lowMask, Nat.sub_eq_zero_of_le h]
  exact Nat.and_zero m

section
variable {s : State} {p : Bool} {a m : Nat} {d : Burst} {n : Nat} {b : Bool} {off : Nat}

theorem State.ingressBurst_of_not_committed (h : s.committed = false) : s.ingressBurst p a d m = .next s.wdisc := by
  simp [State.ingressBurst, h]

variable (hc : s.committed = true) (hp : s.ingressAt p a = (n, b, off))
include hc hp

theorem State.ingressBurst_of_busy (hx : ((s.stream n).slot b).st = .waiting ∨ ((s.stream n).slot b).st = .sending) :
    s.ingressBurst p a d m = .next s.unpredictable := by
  unfold State.ingressBurst
  rw [hp]
  dsimp only
  rw [if_neg (by simp [hc]), if_pos hx]

variable (ha : a % 32 = 0) (hm : m ≠ 0) (hx : ((s.stream n).slot b).st = .idle ∨ ((s.stream n).slot b).st = .written)
include ha hm hx

/-- A burst past the frame is discarded and counted (R330). -/
theorem State.ingressBurst_outside (hs : s.geomSize (s.wideStream n) ≤ off) : s.ingressBurst p a d m = .next s.wdisc := by
  have hfree : ¬ (((s.stream n).slot b).st = .waiting ∨ ((s.stream n).slot b).st = .sending) := by
    rcases hx with h | h <;> simp [h]
  have hoff : off / 32 * 32 = off := State.ingressAt_offset_aligned (r := (n, b, off)) ha hp
  unfold State.ingressBurst
  rw [hp]
  dsimp only
  rw [hoff, land_lowMask_of_outside hs, if_neg (by simp [hc]), if_neg hfree, if_pos rfl, if_neg (Ne.symm hm)]

/-- A burst inside the frame is put into its slot where the slot holds its page or a page is free, and sets OVERRUN where none
is (R53). -/
theorem State.ingressBurst_inside (hm' : m < 2 ^ 32) (hs : off + 32 ≤ s.geomSize (s.wideStream n)) :
    s.ingressBurst p a d m =
      (let x := (s.stream n).slot b
      let v := s.setStream n ((s.stream n).setSlot b (x.put off d m))
      if x.pages.contains (off / 4096) then .next v
      else if s.bufFree = 0 then .next (s.setStream n ((s.stream n).setSlot b { x with overrun := true, st := .written }))
      else .next (if v.bufFree = 0 then v.setBits Reg.admStat 0x20#32 else v)) := by
  have hfree : ¬ (((s.stream n).slot b).st = .waiting ∨ ((s.stream n).slot b).st = .sending) := by
    rcases hx with h | h <;> simp [h]
  have hoff : off / 32 * 32 = off := State.ingressAt_offset_aligned (r := (n, b, off)) ha hp
  unfold State.ingressBurst
  rw [hp]
  dsimp only
  rw [hoff, land_lowMask_of_inside hm' hs, if_neg (by simp [hc]), if_neg hfree, if_neg hm, if_pos rfl]

end

/-! ## A slot alone changes -/

@[simp] theorem StreamAdm.slot_setSlot (x : StreamAdm) (b : Bool) (y : Slot) : (x.setSlot b y).slot b = y := by
  cases b <;> rfl

@[simp] theorem StreamAdm.slot_setSlot_not (x : StreamAdm) (b : Bool) (y : Slot) : (x.setSlot b y).slot (!b) = x.slot (!b) := by
  cases b <;> rfl

theorem State.stream_setStream (s : State) (n k : Nat) (x : StreamAdm) :
    (s.setStream n x).stream k = if k = n then x else s.stream k := tget_tset ..

/-- Beside the ports, nothing but register words and slot `b` of stream `n` differs. -/
def SlotOnly (s u : State) (n : Nat) (b : Bool) : Prop :=
  u.besidePorts = { s.besidePorts with adm := u.adm, regs := u.regs } ∧ u.adm.frames = s.adm.frames ∧
  (∀ k, k ≠ n → u.stream k = s.stream k) ∧ (u.stream n).slot (!b) = (s.stream n).slot (!b)

theorem SlotOnly.setSlot {s v : State} (hv : v.besidePorts = s.besidePorts) (n : Nat) (b : Bool) (y : Slot) :
    SlotOnly s (v.setStream n ((v.stream n).setSlot b y)) n b := by
  refine ⟨?_, ?_, fun k hk => ?_, ?_⟩
  · rw [← hv]
    rfl
  · rw [← adm_of_besidePorts hv]
    rfl
  · rw [State.stream_setStream, if_neg hk, stream_of_besidePorts hv]
  · rw [State.stream_setStream, if_pos rfl, StreamAdm.slot_setSlot_not, stream_of_besidePorts hv]

theorem SlotOnly.setBits {s u : State} {n : Nat} {b : Bool} (h : SlotOnly s u n b) (a : Nat) (m : Word) :
    SlotOnly s (u.setBits a m) n b := by
  obtain ⟨hb, hf, hs, ho⟩ := h
  refine ⟨?_, hf, hs, ho⟩
  have : (u.setBits a m).besidePorts = { u.besidePorts with regs := (u.setBits a m).regs } := rfl
  rw [this, hb]
  rfl

/-- A burst has been placed in slot `b` of stream `n`. -/
def Placed (s u : State) (n : Nat) (b : Bool) (y : Slot) : Prop :=
  SlotOnly s u n b ∧ (u.stream n).slot b = y ∧ u.reg Reg.hptWdiscCnt = s.reg Reg.hptWdiscCnt

theorem Placed.setSlot {s v : State} (hv : v.besidePorts = s.besidePorts) (n : Nat) (b : Bool) (y : Slot) :
    Placed s (v.setStream n ((v.stream n).setSlot b y)) n b y :=
  ⟨SlotOnly.setSlot hv n b y, by simp [State.stream_setStream], reg_of_besidePorts hv _⟩

/-- The full buffer is flagged in ADM_STAT, which is no part of what was placed. -/
theorem Placed.flagFull {s u : State} {n : Nat} {b : Bool} {y : Slot} (h : Placed s u n b y) :
    Placed s (u.setBits Reg.admStat 0x20#32) n b y := by
  obtain ⟨ho, hy, hr⟩ := h
  exact ⟨ho.setBits _ _, hy, by rw [State.reg_setBits, if_neg (by decide), hr]⟩

/-- What a slot shows after a burst is put into it (R51, R53). -/
theorem Slot.put_spec (x : Slot) (off : Nat) (d : Burst) (m : Nat) :
    (x.put off d m).st = .written ∧ (x.put off d m).overrun = x.overrun ∧
    (x.put off d m).pages.contains (off / 4096) = true ∧
    (∀ i, i < 32 → byteOf (tget 0 (x.put off d m).data (off / 32)) i =
      if m / 2 ^ i % 2 = 1 then byteOf d i else byteOf (tget 0 x.data (off / 32)) i) ∧
    (∀ k, k ≠ off / 32 → tget 0 (x.put off d m).data k = tget 0 x.data k) := by
  refine ⟨rfl, rfl, ?_, fun i hi => ?_, fun k hk => ?_⟩
  · simp only [Slot.put]
    split_ifs with h
    · exact h
    · simp
  · simp only [Slot.put, tget_tset_self]
    exact byteOf_mergeBurst _ _ _ hi
  · exact tget_tset_ne _ _ _ hk

/-! ## The obligation -/

/-- Settles O30: the write is one ingress burst on the state with the port's bookkeeping, and the cases are the branches of
that burst. -/
theorem ingressBurstIsPlaced : Obligations.IngressBurstIsPlaced := by
  unfold Obligations.IngressBurstIsPlaced
  intro s w hb hr ho he a
  have hexec := exec_ingressWrite_burst hb hr ho he
  have hv := State.portReady_besidePorts s w.port
  generalize (s.portTime w.port).countWrites w.port 1 = v at hexec hv ⊢
  have ha : a % 32 = 0 := Nat.mul_mod_left ..
  have hp := ingressAt_of_besidePorts hv w.port a
  generalize s.ingressAt w.port a = p at hp ⊢
  obtain ⟨n, b, off⟩ := p
  intro p x m off' rest
  have hst : v.stream n = s.stream n := stream_of_besidePorts hv _
  have hsize : v.geomSize (v.wideStream n) = s.geomSize (s.wideStream n) := by
    rw [wideStream_of_besidePorts hv, geomSize_of_besidePorts hv]
  have hwdisc : v.wdisc.reg Reg.hptWdiscCnt = s.reg Reg.hptWdiscCnt + 1#32 := by
    rw [State.wdisc, State.reg_count, if_pos rfl, reg_of_besidePorts hv]
  have hwadm : v.wdisc.adm = s.adm := (adm_of_besidePorts hv :)
  have hfull : v.bufFree = s.bufFree := bufFree_of_besidePorts hv
  have hcom := committed_of_besidePorts hv
  refine ⟨fun hc => ?_, fun hc hx hm hs => ⟨fun hpage => ?_, fun hpage hfree => ?_⟩, fun hc hx hm hs => ?_, fun hc hx => ?_⟩
  · refine ⟨_, hexec.trans (State.ingressBurst_of_not_committed (hcom.trans hc)), hwdisc, hwadm, ?_⟩
    rw [← hv]
    rfl
  · rw [State.ingressBurst_inside (hcom.trans hc) hp ha hm (by rwa [hst]) (Nat.mod_lt _ (Nat.two_pow_pos 32)) (by rwa [hsize])]
      at hexec
    dsimp only at hexec
    rw [hst, hfull] at hexec
    have hplaced := Placed.setSlot hv n b (x.put off (BitVec.ofNat 256 w.data.toNat) m)
    rw [hst] at hplaced
    obtain ⟨u, hu, hrest, hy, hcnt⟩ : ∃ u, exec (.ingressWrite w) s = .next u ∧
        Placed s u n b (x.put off (BitVec.ofNat 256 w.data.toNat) m) := by
      by_cases hin : x.pages.contains (off / 4096) = true
      · exact ⟨_, hexec.trans (if_pos hin), hplaced⟩
      · refine ⟨_, hexec.trans ((if_neg hin).trans (if_neg (hpage.resolve_left hin))), ?_⟩
        split_ifs
        · exact hplaced.flagFull
        · exact hplaced
    obtain ⟨h1, h2, h3, h4, h5⟩ := Slot.put_spec x off (BitVec.ofNat 256 w.data.toNat) m
    refine ⟨u, hu, hrest, ?_⟩
    dsimp only
    rw [hy]
    exact ⟨h1, h2, h3, h4, h5, hcnt⟩
  · rw [State.ingressBurst_inside (hcom.trans hc) hp ha hm (by rwa [hst]) (Nat.mod_lt _ (Nat.two_pow_pos 32)) (by rwa [hsize])]
      at hexec
    dsimp only at hexec
    rw [hst, hfull] at hexec
    have hplaced := Placed.setSlot hv n b { x with overrun := true, st := .written }
    rw [hst] at hplaced
    obtain ⟨hrest, hy, _⟩ := hplaced
    exact ⟨_, hexec.trans ((if_neg (by simpa using hpage)).trans (if_pos hfree)), hrest, hy⟩
  · exact ⟨_, hexec.trans (State.ingressBurst_outside (hcom.trans hc) hp ha hm (by rwa [hst]) (by rwa [hsize])), hwdisc, hwadm⟩
  · exact hexec.trans (State.ingressBurst_of_busy (hcom.trans hc) hp (by rwa [hst]))

end Sys2Proof.Machine
end

section
/-! SUPPORT. Data that a tile cannot read (R74, R103) and codes that the spec reserves (R69, R77, R78, R86, R201, R233). -/

namespace Sys2Proof.Machine

open Sys2Proof

/-! ## What counts an error -/

theorem State.rbit_setBits_self (s : State) (a : Nat) (m : Word) (i : Nat) :
    (s.setBits a m).rbit a i = (s.rbit a i || m.getLsbD i) := by
  simp [State.rbit, bit, State.reg_setBits]

/-- A contained error counts in FLT_CONTAINED_CNT, and its log entry in TEL_LOG_CNT (R452, R482). -/
theorem State.reg_contained (s : State) (b n : Nat) {a : Nat} (ha : a ≠ Reg.telLogCnt) :
    (s.contained b n).reg a = if a = Reg.fltContainedCnt then s.reg a + 1#32 else s.reg a := by
  rw [State.contained, State.reg_logEvent, if_neg ha, State.reg_count]
  split_ifs with h
  · rw [h]
  · rfl

/-- A contained error of a tile marks its frame and counts as any contained error. -/
theorem State.reg_tileContained (s : State) (t : TileAddr) (c : Nat) {a : Nat} (ha : a ≠ Reg.telLogCnt) :
    (s.tileContained t c).reg a = if a = Reg.fltContainedCnt then s.reg a + 1#32 else s.reg a :=
  State.reg_contained s 4 _ ha

theorem State.tileContained_content (s : State) (t : TileAddr) (c : Nat) :
    ((s.tileContained t c).tile t).content =
      { (s.tile t).content with aborting := some (BitVec.ofNat 2 c, (s.tile t).frameNo c, 2#8) } := by
  unfold State.tileContained
  dsimp only
  rw [State.tile_setTile]
  rfl

/-- The state with other register words. -/
def State.withRegs (s : State) (r : Tbl Word) : State := { s with regs := r }

@[simp] theorem State.withRegs_tile (s : State) (r : Tbl Word) (t : TileAddr) : (s.withRegs r).tile t = s.tile t := rfl

@[simp] theorem State.withRegs_setTile (s : State) (r : Tbl Word) (t : TileAddr) (x : Tile) :
    (s.withRegs r).setTile t x = (s.setTile t x).withRegs r := rfl

/-- What the check of an SRAM read counts is in the register words alone. -/
theorem State.countEcc_eq_withRegs (s : State) (e : Ecc) : s.countEcc e = s.withRegs (s.countEcc e).regs := by
  cases e <;> rfl

theorem State.countEcc_tile (s : State) (e : Ecc) (t : TileAddr) : (s.countEcc e).tile t = s.tile t := by
  rw [State.tile, State.countEcc_fab]
  rfl

theorem State.reg_countEcc_of_readable (s : State) {e : Ecc} (he : e ≠ .uncorrectable) {a : Nat} (ha : a ∉ eccRegs) :
    (s.countEcc e).reg a = s.reg a :=
  (State.countEcc_frame s 0#16 he).2.2.1 a ha

/-- The registers of `u` show one uncorrectable read more than those of `s`, which is still to be contained. -/
structure ReadFailed (s u : State) : Prop where
  uncorr : u.reg Reg.fabEccUncorrCnt = s.reg Reg.fabEccUncorrCnt + 1#32
  contained : u.reg Reg.fltContainedCnt = s.reg Reg.fltContainedCnt
  seen : u.rbit Reg.fabStat 9 = true

theorem ReadFailed.countEcc {s u : State} (h : ∀ a, a ∉ eccRegs → u.reg a = s.reg a) :
    ReadFailed s (u.countEcc .uncorrectable) := by
  refine ⟨?_, ?_, ?_⟩
  · rw [State.countEcc, State.reg_setBits, if_neg (by decide), State.reg_count, if_pos rfl, h _ (by decide)]
  · rw [State.countEcc, State.reg_setBits, if_neg (by decide), State.reg_count, if_neg (by decide), h _ (by decide)]
  · rw [State.countEcc, State.rbit_setBits_self]
    simp

theorem ReadFailed.of_reg {s u v : State} (h : ReadFailed s u) (hv : ∀ a, v.reg a = u.reg a) : ReadFailed s v := by
  obtain ⟨h1, h2, h3⟩ := h
  exact ⟨(hv _).trans h1, (hv _).trans h2, by rw [State.rbit, hv]; exact h3⟩

/-- In `u` the tile has content `x` with the frame that slot `c` works marked to be abandoned, and the error counts once more than in
`s` among the uncorrectable reads and the contained errors (R74, R109, R452). -/
def ReadContained (s u : State) (t : TileAddr) (c : Nat) (x : Tile) : Prop :=
  (u.tile t).content = { x.content with aborting := some (BitVec.ofNat 2 c, x.frameNo c, 2#8) } ∧
  u.reg Reg.fabEccUncorrCnt = s.reg Reg.fabEccUncorrCnt + 1#32 ∧ u.reg Reg.fltContainedCnt = s.reg Reg.fltContainedCnt + 1#32 ∧
  u.rbit Reg.fabStat 9 = true

/-- A failed read that a tile contains: its frame is marked and the counts of R74 and R452 stand, whatever the issue moves on. -/
theorem ReadFailed.contain {s b : State} (hb : ReadFailed s b) (t : TileAddr) (h : Hdr) (c : Nat) (f : Flow) (r : Bool) :
    ReadContained s ((b.tileContained t c).afterIssue t h c f r) t c (b.tile t) := by
  set u := (b.tileContained t c).afterIssue t h c f r
  have q : Quiet (b.tileContained t c) u := Quiet.afterIssue _ t h c f r
  have hreg : ∀ a, a ≠ Reg.telLogCnt → u.reg a = if a = Reg.fltContainedCnt then b.reg a + 1#32 else b.reg a := fun a ha => by
    rw [← State.reg_tileContained b t c ha, State.reg, q.regs]
    rfl
  refine ⟨(q.content t).trans (State.tileContained_content b t c), ?_, ?_, ?_⟩
  · rw [hreg _ (by decide), if_neg (by decide), hb.uncorr]
  · rw [hreg _ (by decide), if_pos rfl, hb.contained]
  · rw [State.rbit, hreg _ (by decide), if_neg (by decide)]
    exact hb.seen

/-! ## A word taken from a queue -/

@[simp] theorem Hdr.found_qin (h : Hdr) (e : Ecc) : (h.found e).qin = h.qin := rfl
@[simp] theorem Hdr.found_fetch (h : Hdr) (e : Ecc) : (h.found e).fetch = h.fetch := rfl
@[simp] theorem Hdr.found_qecc (h : Hdr) (e : Ecc) : (h.found e).qecc = e := rfl

/-- A word leaves queue `q` for slot `c`: first words, row groups and the queue's own bookkeeping (R89, R158, R232). -/
def State.takeWord (s : State) (t : TileAddr) (c q : Nat) (w : QWord) : State :=
  ((s.noteFirst t c q).noteRow t c q w).takeHead t q

theorem State.afterSource_of_word {s : State} {t : TileAddr} {h : Hdr} {n : Need} {c : Nat} {w : QWord}
    (hw : sourceWord (s.tile t) h n c = some w) (hn : n.isWait = false) :
    s.afterSource t h n c =
      (if h.qin.toNat < 8 then ((s.countFull t).countEcc h.fetch).countEcc h.qecc
        else (s.countFull t).countEcc h.fetch).takeWord t c h.qin.toNat w := by
  unfold State.afterSource State.takeWord
  simp only [hw, hn, Bool.false_eq_true, if_false]

theorem State.reg_takeWord (s : State) (t : TileAddr) (c q : Nat) (w : QWord) (a : Nat) :
    (s.takeWord t c q w).reg a = s.reg a := by
  have h := ((State.noteFirst_frame s t c q []).trans ((Quiet.noteRow _ t c q w).frame t [])).trans
    (State.takeHead_frame _ t q [])
  exact h.2.2.1 a (by simp)

theorem State.noteFirst_withRegs (s : State) (r : Tbl Word) (t : TileAddr) (c q : Nat) :
    (s.withRegs r).noteFirst t c q = (s.noteFirst t c q).withRegs r := by
  unfold State.noteFirst
  dsimp only
  rw [apply_ite (State.withRegs · r)]
  rfl

theorem State.noteRow_withRegs (s : State) (r : Tbl Word) (t : TileAddr) (c q : Nat) (w : QWord) :
    (s.withRegs r).noteRow t c q w = (s.noteRow t c q w).withRegs r := by
  unfold State.noteRow
  dsimp only
  rw [apply_ite (State.withRegs · r)]
  rfl

theorem State.owe_withRegs (s : State) (r : Tbl Word) (t : TileAddr) (q : Nat) (w : QWord) :
    (s.withRegs r).owe t q w = (s.owe t q w).withRegs r := by
  unfold State.owe
  rw [apply_ite (State.withRegs · r)]
  rfl

theorem State.takeHead_withRegs (s : State) (r : Tbl Word) (t : TileAddr) (q : Nat) :
    (s.withRegs r).takeHead t q = (s.takeHead t q).withRegs r := by
  unfold State.takeHead
  dsimp only
  simp only [State.withRegs_tile, State.withRegs_setTile, State.owe_withRegs]
  split
  · rfl
  · rfl

/-- Register words do not bear on what taking a word does. -/
theorem State.takeWord_withRegs (s : State) (r : Tbl Word) (t : TileAddr) (c q : Nat) (w : QWord) :
    (s.withRegs r).takeWord t c q w = (s.takeWord t c q w).withRegs r := by
  rw [State.takeWord, State.noteFirst_withRegs, State.noteRow_withRegs, State.takeHead_withRegs]
  rfl

/-- What the check of the word counts does not show in the tile. -/
theorem State.countEcc_takeWord_tile (s : State) (e : Ecc) (t : TileAddr) (c q : Nat) (w : QWord) :
    ((s.countEcc e).takeWord t c q w).tile t = (s.takeWord t c q w).tile t := by
  rw [State.countEcc_eq_withRegs, State.takeWord_withRegs, State.withRegs_tile]

/-- The tile in which an instruction finds its operands does not depend on what the check of its word found. -/
theorem State.afterSource_found_tile {s : State} {t : TileAddr} {h : Hdr} {n : Need} {c : Nat} {w : QWord} (e : Ecc)
    (hw : sourceWord (s.tile t) h n c = some w) (hn : n.isWait = false) :
    (s.afterSource t (h.found e) n c).tile t = (s.afterSource t h n c).tile t := by
  rw [State.afterSource_of_word (h := h.found e) hw hn, State.afterSource_of_word hw hn]
  rw [Hdr.found_qin, Hdr.found_fetch]
  split_ifs
  · simp only [State.countEcc_takeWord_tile]
  · rfl

/-- An uncorrectable word of a vector queue is counted as the instruction takes it (R74). -/
theorem ReadFailed.afterSource {s : State} {t : TileAddr} {h : Hdr} {n : Need} {c : Nat} {w : QWord}
    (hf : h.fetch ≠ .uncorrectable) (hq : h.qin.toNat < 8) (hw : sourceWord (s.tile t) h n c = some w) (hn : n.isWait = false) :
    ReadFailed s (s.afterSource t (h.found .uncorrectable) n c) := by
  rw [State.afterSource_of_word (h := h.found .uncorrectable) hw hn, Hdr.found_qin, Hdr.found_fetch, Hdr.found_qecc, if_pos hq]
  refine ReadFailed.of_reg (ReadFailed.countEcc fun a ha => ?_) (State.reg_takeWord _ t c _ w)
  exact (State.reg_countEcc_of_readable _ hf ha).trans (congrArg (tget 0#32 · a) (Quiet.countFull s t).regs)

/-! ## A cycle that meets a word it cannot read -/

/-- An instruction that waits for a word and issues has one. -/
theorem present_of_issues {s : State} {t : TileAddr} {h : Hdr} {n : Need} {c : Nat} (H : Issues s t h n c)
    (hw : n.word (s.tile t) c = true) : ∃ w, (s.tile t).present h.qin.toNat c = some w := by
  have hgo : issueStatus (s.tile t) h n c = .go := by
    have hs := H.status
    unfold State.issueGate at hs
    dsimp only at hs
    split_ifs at hs
    exact hs
  cases hp : (s.tile t).present h.qin.toNat c with
  | some w => exact ⟨w, rfl⟩
  | none =>
    simp only [issueStatus, H.holds, hw, hp, Option.isNone_none, Bool.true_or, Bool.and_true, Bool.not_true,
      Bool.false_eq_true, if_false, if_true] at hgo
    split_ifs at hgo

/-- What a cycle does in which an instruction takes a word of QIN, by what the check of the word found (R74, R103). -/
theorem State.tileCycle_found {s : State} {i : Instr} {t : TileAddr} {h : Hdr} {n : Need} {c : Nat} {w : QWord}
    (H : Issues s t (h.found .ok) n c) (hm : (s.tile t).meets c i = true) (e : Ecc)
    (hw : sourceWord (s.tile t) h n c = some w) (hn : n.isWait = false) (eff : State → Nat → Option QWord → State × Flow) :
    s.tileCycle i t (h.found e) n eff = .next (
      if 8 ≤ h.qin.toNat ∧ e ≠ .ok then
        (((s.countFull t).countEcc h.fetch).poolParity t h.qin.toNat c).tileTick t
          (if (s.tile t).ruleMode c then cWait else cStallIn)
      else if e = .uncorrectable then
        ((s.afterSource t (h.found e) n c).tileContained t c).afterIssue t (h.found e) c .on (countsRetire (s.tile t))
      else
        (eff (s.afterSource t (h.found e) n c) c (some w)).1.afterIssue t (h.found e) c
          (eff (s.afterSource t (h.found e) n c) c (some w)).2 (countsRetire (s.tile t))) := by
  have h1 : (h.found e).pred.toNat ≠ 3 := fun k => H.predCode (BitVec.eq_of_toNat_eq k)
  have h2 : (h.found e).out.toNat ≠ 7 := fun k => H.outCode (BitVec.eq_of_toNat_eq k)
  have hgate : s.issueGate t (h.found e) n c = .go := H.status
  have hpred : (s.tile t).predHolds (h.found e) = true := H.holds
  have hfetch : (h.found e).fetch ≠ .uncorrectable := H.fetch
  have hsrc : sourceWord (s.tile t) (h.found e) n c = some w := hw
  unfold State.tileCycle
  rw [State.openWindows_of_not_due H.window]
  dsimp only
  rw [H.slot, hgate, if_neg (by simp [H.tile]), if_neg (by simp [h1, h2]), if_neg (by simp [H.running]),
    if_neg (by simp [H.freeze, H.going]), if_neg (by simp [H.ownAbort, H.noAbort]), if_neg (by simp [H.valid]), if_neg (by simp [hm])]
  dsimp only
  rw [if_neg hfetch, if_pos hpred, hsrc, hn]
  simp only [Option.isSome_some, Bool.not_false, Bool.and_true, true_and]
  rw [apply_ite Host.Outcome.next, apply_ite Host.Outcome.next]
  rfl

/-! ## A damaged word of a pool (R103) -/

/-- A word of a scalar or control queue that slot `c` takes is the first one stored: an abort is no such word. -/
theorem Tile.words_of_present_pool {x : Tile} {q c : Nat} {w : QWord} (hq : 8 ≤ q) (h : x.present q c = some w) :
    ∃ ws, (x.queue q).words = w :: ws := by
  have habort : ∀ tag reason, isAbort (netOfQueue q) (abortWord (netOfQueue q) tag reason noSrc) = true := fun tag reason => by
    unfold isAbort abortWord
    split_ifs <;> rfl
  have hpool : ∀ k, (x.queue q).inSram q k = false := fun k => by simp [Queue.inSram, Nat.not_lt.mpr hq]
  unfold Tile.present Tile.head at h
  cases hws : (x.queue q).words with
  | cons w' ws =>
    simp only [hws, Tile.wordAt, hpool, Bool.false_eq_true, if_false] at h
    split_ifs at h
    exact ⟨ws, by rw [Option.some.inj h]⟩
  | nil =>
    cases hp : (x.queue q).pend with
    | nil => simp [hws, hp] at h
    | cons p ps => simp [hws, hp, habort] at h

/-- The words of every queue stand where they stood. -/
def SameWords (s u : State) : Prop := ∀ t q, ((u.tile t).queue q).words = ((s.tile t).queue q).words

theorem Tile.queue_setQueue (x : Tile) (q k : Nat) (v : Queue) :
    (x.setQueue q v).queue k = if k = q then v else x.queue k := tget_tset ..

theorem State.countFull_sameWords (s : State) (t : TileAddr) : SameWords s (s.countFull t) := by
  intro t' q
  unfold State.countFull
  refine foldl_keeps (p := fun u => ((u.tile t').queue q).words) (fun u l => ?_) _ s
  refine foldl_keeps (p := fun u => ((u.tile t').queue q).words) (fun v d => ?_) _ u
  dsimp only
  rw [State.tile_setTile_of]
  split_ifs with ht
  · rw [Tile.queue_setQueue, ht]
    split_ifs with hk
    · rw [hk]
    · rfl
  · rfl

theorem State.tryRetire_queue (s : State) (t : TileAddr) (q : Nat) : ((s.tryRetire t).tile t).queue q = (s.tile t).queue q := by
  have sends : ∀ u : State, ((u.sendCtxEnds t).tile t).queue q = (u.tile t).queue q := fun u => by
    unfold State.sendCtxEnds
    refine foldl_keeps (p := fun v => (v.tile t).queue q) (fun v k => ?_) _ u
    dsimp only
    split_ifs
    · rfl
    · rw [State.sendLane_tile, State.tile_setTile]
      rfl
  unfold State.tryRetire
  dsimp only
  split
  · exact sends s
  · split_ifs
    · rw [sends, State.tile_setTile]
      rfl
    · exact sends s

theorem Quiet.tileTick (s : State) (t : TileAddr) (k : Nat) : Quiet s (s.tileTick t k) :=
  Quiet.setThen s t (Quiet.tryRetire _ t) rfl

theorem State.tileTick_queue (s : State) (t : TileAddr) (k q : Nat) : ((s.tileTick t k).tile t).queue q = (s.tile t).queue q := by
  unfold State.tileTick
  rw [State.tryRetire_queue, State.tile_setTile]
  rfl

theorem State.owe_foldl_tile (t t' : TileAddr) (q : Nat) (ws : List QWord) (s : State) :
    (ws.foldl (fun y k => y.owe t q k) s).tile t' = s.tile t' := by
  refine foldl_keeps (p := fun u => u.tile t') (fun u w => ?_) ws s
  unfold State.owe
  split_ifs <;> rfl

theorem State.owe_foldl_regs (t : TileAddr) (q : Nat) (ws : List QWord) (s : State) :
    (ws.foldl (fun y k => y.owe t q k) s).regs = s.regs :=
  foldl_keeps (p := State.regs) (fun u w => (Quiet.owe u t q w).regs) ws s

/-- The register words after a parity error of a pool: the link counter, PAR_SEEN and the contained error (R103, R452). -/
theorem State.poolParity_regs (s : State) (t : TileAddr) (q c : Nat) :
    ∃ n, (s.poolParity t q c).regs = (((s.count Reg.fabLinkParCnt 1).setBits Reg.fabStat 0x100#32).contained 4 n).regs := by
  unfold State.poolParity
  dsimp only
  split
  · exact ⟨_, rfl⟩
  · split
    · exact ⟨_, rfl⟩
    · exact ⟨_, State.owe_foldl_regs t q _ _⟩

/-- An abort of reason FAULT stands in place of the damaged word (R103), and nothing else of the tile's content moves. -/
theorem State.poolParity_tile (s : State) (t : TileAddr) (q c : Nat) {w : QWord} {ws : List QWord}
    (hw : ((s.tile t).queue q).words = w :: ws) :
    ((s.poolParity t q c).tile t).content = (s.tile t).content ∧
    (((s.poolParity t q c).tile t).queue q).words.head? = some (abortWord (netOfQueue q) w.tag.toNat 2 w.src) := by
  unfold State.poolParity
  dsimp only
  rw [hw]
  dsimp only
  split
  · rw [State.tile_setTile, Tile.queue_setQueue, if_pos rfl]
    exact ⟨rfl, rfl⟩
  · rw [State.owe_foldl_tile, State.tile_setTile, Tile.queue_setQueue, if_pos rfl]
    exact ⟨rfl, rfl⟩

/-! ## The obligation -/

/-- A read of SRAM that fails is contained, whatever else the instruction would have done with its word of QIN. -/
theorem contained_of_sram_read {s : State} {t : TileAddr} {h : Hdr} {n : Need} {c : Nat} {i : Instr} (H : Issues s t h n c)
    (hm : (s.tile t).meets c i = true) {eff : State → Nat → Option QWord → State × Flow} (hi : exec i s = s.tileCycle i t h n eff)
    (he : ∀ u w, eff u c w = ((u.countEcc .uncorrectable).tileContained t c, .on)) :
    Completes i s (fun u => ReadContained s u t c ((s.afterSource t h n c).tile t)) := by
  refine ⟨_, hi.trans (State.tileCycle_issues H hm eff), ?_⟩
  rw [he]
  have hfail : ReadFailed s ((s.afterSource t h n c).countEcc .uncorrectable) :=
    ReadFailed.countEcc fun a ha => (State.afterSource_frame s t h n c H.fetch H.check).2.2.1 a ha
  have hu := hfail.contain t h c .on (countsRetire (s.tile t))
  rwa [State.countEcc_tile] at hu

/-- A word of a vector queue that the check finds unreadable is contained, whatever the instruction would have done with it. -/
theorem contained_of_queue_read {s : State} {t : TileAddr} {h : Hdr} {n : Need} {c : Nat} {i : Instr}
    (H : Issues s t (h.found .ok) n c) (hq : h.qin.toNat < 8) (hword : n.word (s.tile t) c = true) (hn : n.isWait = false)
    (hm : (s.tile t).meets c i = true) {eff : State → Nat → Option QWord → State × Flow}
    (hi : exec i s = s.tileCycle i t (h.found .uncorrectable) n eff) :
    Completes i s (fun u => ReadContained s u t c ((s.afterSource t h n c).tile t)) := by
  obtain ⟨w, hp⟩ := present_of_issues H hword
  have hw : sourceWord (s.tile t) h n c = some w := (if_pos hword).trans hp
  have hcycle := State.tileCycle_found H hm .uncorrectable hw hn eff
  rw [if_neg (fun k => absurd k.1 (Nat.not_le.mpr hq)), if_pos rfl] at hcycle
  refine ⟨_, hi.trans hcycle, ?_⟩
  have hf : h.fetch ≠ .uncorrectable := H.fetch
  have hu := (ReadFailed.afterSource hf hq hw hn).contain t (h.found .uncorrectable) c .on (countsRetire (s.tile t))
  rwa [State.afterSource_found_tile .uncorrectable hw hn] at hu

/-- A parity error of a pool's word (R103): counted, contained, and an abort of reason FAULT in its place. -/
theorem rcv_pool_parity {s : State} {t : TileAddr} {h : Hdr} {sr : BitVec 6} {c : Nat} {w : QWord} {ecc : Ecc}
    (H : Issues s t (h.found .ok) (rcvNeed h) c) (hq : 8 ≤ h.qin.toNat) (he : ecc ≠ .ok)
    (hp : (s.tile t).present h.qin.toNat c = some w) (hm : (s.tile t).meets c (.rcv t h sr ecc) = true) :
    Completes (.rcv t h sr ecc) s (fun u =>
      (u.tile t).content = (s.tile t).content ∧ u.rbit Reg.fabStat 8 = true ∧
      u.reg Reg.fabLinkParCnt = s.reg Reg.fabLinkParCnt + 1#32 ∧ u.reg Reg.fltContainedCnt = s.reg Reg.fltContainedCnt + 1#32 ∧
      ((u.tile t).queue h.qin.toNat).words.head? = some (abortWord (netOfQueue h.qin.toNat) w.tag.toNat 2 w.src)) := by
  have hw : sourceWord (s.tile t) h (rcvNeed h) c = some w := (if_pos rfl).trans hp
  have hcycle := fun eff => State.tileCycle_found (e := ecc) H hm hw rfl eff
  simp only [if_pos (And.intro hq he)] at hcycle
  refine ⟨_, (exec_rcv t h sr ecc s).trans (hcycle _), ?_⟩
  obtain ⟨ws, hws⟩ := Tile.words_of_present_pool hq hp
  have hf : h.fetch ≠ .uncorrectable := H.fetch
  have hchecks := ((Quiet.countFull s t).frame t eccRegs).trans (State.countEcc_frame (s.countFull t) t hf)
  have hwords : (((((s.countFull t).countEcc h.fetch)).tile t).queue h.qin.toNat).words = w :: ws := by
    rw [State.countEcc_tile, State.countFull_sameWords, hws]
  have hcontent : (((s.countFull t).countEcc h.fetch).tile t).content = (s.tile t).content := by
    rw [State.countEcc_tile, (Quiet.countFull s t).content]
  generalize (s.countFull t).countEcc h.fetch = b at hchecks hwords hcontent ⊢
  generalize (if (s.tile t).ruleMode c then cWait else cStallIn) = k
  obtain ⟨hpc, hph⟩ := State.poolParity_tile b t h.qin.toNat c hwords
  obtain ⟨n, hregs⟩ := State.poolParity_regs b t h.qin.toNat c
  have q := Quiet.tileTick (b.poolParity t h.qin.toNat c) t k
  have hreg : ∀ a, a ≠ Reg.telLogCnt → ((b.poolParity t h.qin.toNat c).tileTick t k).reg a =
      if a = Reg.fltContainedCnt then ((b.count Reg.fabLinkParCnt 1).setBits Reg.fabStat 0x100#32).reg a + 1#32
      else ((b.count Reg.fabLinkParCnt 1).setBits Reg.fabStat 0x100#32).reg a := fun a ha => by
    rw [← State.reg_contained _ 4 n ha, State.reg, q.regs, hregs]
    rfl
  refine ⟨(q.content t).trans (hpc.trans hcontent), ?_, ?_, ?_, ?_⟩
  · rw [State.rbit, hreg _ (by decide), if_neg (by decide)]
    exact (State.rbit_setBits_self _ _ _ _).trans (by simp)
  · rw [hreg _ (by decide), if_neg (by decide), State.reg_setBits, if_neg (by decide), State.reg_count, if_pos rfl,
      hchecks.2.2.1 _ (by decide)]
  · rw [hreg _ (by decide), if_pos rfl, State.reg_setBits, if_neg (by decide), State.reg_count, if_neg (by decide),
      hchecks.2.2.1 _ (by decide)]
  · rw [State.tileTick_queue, hph]

/-- SRAM words that a well-formed operand names lie inside the SRAM (R69). -/
theorem le_lastWord_of_wfWord {w : BitVec 13} {n : Nat} (h : wfWord w n = true) : w.toNat + n ≤ lastWord + 1 :=
  of_decide_eq_true h

theorem unreadableDataIsContained : Claims.UnreadableDataIsContained := by
  intro s t h vreg sr word hi n c contained
  refine ⟨fun hwf H hm => ?_, fun hwf H hm => ?_, fun hwf H hm => ?_, fun hq H hm => ?_, fun hwf hz hq H hm => ?_,
    fun w ecc hq he H hp hm => rcv_pool_parity H hq he hp hm⟩
  · have hl : ¬ lastWord < word.toNat + 3 := by have := le_lastWord_of_wfWord hwf; omega
    exact contained_of_sram_read H hm (by rw [exec_ldv, execLdv, if_neg hl]) (fun u w => if_pos rfl)
  · have hl : ¬ lastWord < word.toNat := by have := le_lastWord_of_wfWord hwf; omega
    exact contained_of_sram_read H hm (by rw [exec_lds, execLds, if_neg hl]) (fun u w => if_pos rfl)
  · have hl : ¬ lastWord + 1 < word.toNat + 4 * n.toNat := Nat.not_lt.mpr (le_lastWord_of_wfWord hwf)
    exact contained_of_sram_read H hm (by rw [exec_zpack, execZpack, if_neg hl]) (fun u w => if_pos rfl)
  · exact contained_of_queue_read H hq rfl rfl hm (exec_rcv ..)
  · have hl : ¬ lastWord + 1 < word.toNat + 4 * n.toNat := Nat.not_lt.mpr (le_lastWord_of_wfWord hwf)
    exact contained_of_queue_read H hq hz rfl hm (by rw [exec_zunpack, execZunpack, if_neg hl])

/-- A tile command for an address that is no tile stops (R9). -/
theorem State.tileCycle_of_no_tile {s : State} {i : Instr} {t : TileAddr} {h : Hdr} {n : Need}
    {eff : State → Nat → Option QWord → State × Flow} (ht : isTile t = false) : s.tileCycle i t h n eff = .fault .noSuchTile := by
  unfold State.tileCycle
  dsimp only
  rw [if_pos (by simp [ht])]

/-- PRED 3 and OUT 7 stop every instruction (R86). -/
theorem State.tileCycle_of_reserved {s : State} {i : Instr} {t : TileAddr} {h : Hdr} {n : Need}
    {eff : State → Nat → Option QWord → State × Flow} (ht : isTile t = true) (hr : h.pred = 3#2 ∨ h.out = 7#3) :
    s.tileCycle i t h n eff = .fault (.reserved 86) := by
  have hr' : h.pred.toNat = 3 ∨ h.out.toNat = 7 := hr.imp (congrArg BitVec.toNat) (congrArg BitVec.toNat)
  unfold State.tileCycle
  dsimp only
  rw [if_neg (by simp [ht]), if_pos hr']

theorem reservedCodesStop : Claims.ReservedCodesStop := by
  intro s t h reg kind arg vreg vd word o
  have hnop : exec (.nop t h) s = s.tileCycle (.nop t h) t h (needOf h) (fun u _ _ => (u, .on)) := rfl
  refine ⟨fun ht => hnop.trans (State.tileCycle_of_no_tile ht), fun ht hr => hnop.trans (State.tileCycle_of_reserved ht hr),
    fun ho => ?_, fun h1 h4 hk => ?_, fun hf => ?_, fun hop => ?_, fun hw => ?_⟩
  · have hk : kindReserved h 7#3 = some 78 := by
      unfold kindReserved
      rw [if_neg (by omega), if_pos ho]
      rfl
    rw [exec_tokw, execTokw, hk]
  · have hk : kindReserved h kind = some 77 := by
      unfold kindReserved
      rw [if_neg (by omega), if_neg (by omega), if_pos hk]
    rw [exec_snd, execSnd, hk]
  · rw [exec_mma, execMma, if_pos (.inl hf)]
  · rw [exec_cop, execCop, if_pos (.inl hop)]
  · have hl : lastWord < word.toNat + 3 := by rw [lastWord]; omega
    rw [exec_ldv, execLdv, if_pos hl]

/-- Settles O14: a failed read of SRAM or of a vector queue is contained by the one lemma for its kind, a pool's parity error
leaves an abort, and each reserved code is the guard of its own instruction. -/
theorem badDataAndCodes : Obligations.BadDataAndCodes := ⟨unreadableDataIsContained, reservedCodesStop⟩

end Sys2Proof.Machine
end

section
/-! SUPPORT. Tables changed entry by entry, the copies and statistics of a window boundary (R216, R393, R395, R459), edges of
SYNC_IN (R459) and numeric events (R217). -/

namespace Sys2Proof.Machine

open Sys2Proof

/-! ## Tables changed entry by entry -/

theorem tget_of_tabove {α : Type} (d : α) {t : Tbl α} {b j : Nat} (h : tabove b t = true) (hj : j ≤ b) : tget d t j = d := by
  cases t with
  | nil => rfl
  | cons p t =>
    simp only [tabove, decide_eq_true_eq] at h
    simp only [tget]
    rw [if_pos (by omega)]

theorem tmap_cons {α : Type} [DecidableEq α] (d : α) (f : Nat → α → α) (k : Nat) (v : α) (t : Tbl α) :
    tmap d f ((k, v) :: t) = if f k v = d then tmap d f t else (k, f k v) :: tmap d f t := by
  by_cases h : f k v = d <;> simp [tmap, h]

/-- What holds of the default and of every changed value holds of every entry. -/
theorem tget_tmap_prop {α : Type} [DecidableEq α] {d : α} {f : Nat → α → α} {P : α → Prop} (hd : P d) (hf : ∀ k v, P (f k v))
    (t : Tbl α) (j : Nat) : P (tget d (tmap d f t) j) := by
  induction t with
  | nil => exact hd
  | cons p t ih =>
    obtain ⟨k, v⟩ := p
    rw [tmap_cons]
    split_ifs with h
    · exact ih
    · simp only [tget]
      split_ifs
      · exact hd
      · exact hf k v
      · exact ih

/-- In the canonical form, changing the listed entries changes all of them where the default stays. -/
theorem tget_tmap {α : Type} [DecidableEq α] {d : α} {f : Nat → α → α} (hd : ∀ k, f k d = d) {t : Tbl α} (ht : twf d t = true)
    (j : Nat) : tget d (tmap d f t) j = f j (tget d t j) := by
  induction t with
  | nil => exact (hd j).symm
  | cons p t ih =>
    obtain ⟨k, v⟩ := p
    simp only [twf, Bool.and_eq_true] at ht
    obtain ⟨⟨_, ha⟩, ht⟩ := ht
    have ih := ih ht
    have hlow : j ≤ k → tget d (tmap d f t) j = d := fun hj => by rw [ih, tget_of_tabove d ha hj, hd]
    rw [tmap_cons]
    by_cases h : f k v = d
    · rw [if_pos h]
      rcases Nat.lt_trichotomy j k with hj | rfl | hj
      · rw [hlow hj.le, tget, if_pos hj, hd]
      · rw [hlow le_rfl, tget, if_neg (Nat.lt_irrefl _), if_pos rfl, h]
      · rw [ih, tget, if_neg (by omega), if_neg (by omega)]
    · rw [if_neg h, tget, tget, ih]
      split_ifs with h1 h2
      · exact (hd j).symm
      · rw [h2]
      · rfl

theorem tabove_tmap {α : Type} [DecidableEq α] (d : α) (f : Nat → α → α) {t : Tbl α} :
    ∀ {b : Nat}, twf d t = true → tabove b t = true → tabove b (tmap d f t) = true := by
  induction t with
  | nil => intros; rfl
  | cons p t ih =>
    obtain ⟨k, v⟩ := p
    intro b hw hb
    simp only [twf, Bool.and_eq_true] at hw
    obtain ⟨⟨_, ha⟩, ht⟩ := hw
    rw [tmap_cons]
    split_ifs
    · refine ih ht ?_
      cases t with
      | nil => rfl
      | cons q t =>
        simp only [tabove, decide_eq_true_eq] at ha hb ⊢
        omega
    · exact hb

/-- Changing entries keeps the canonical form. -/
theorem twf_tmap {α : Type} [DecidableEq α] (d : α) (f : Nat → α → α) {t : Tbl α} (hw : twf d t = true) :
    twf d (tmap d f t) = true := by
  induction t with
  | nil => rfl
  | cons p t ih =>
    obtain ⟨k, v⟩ := p
    simp only [twf, Bool.and_eq_true] at hw
    obtain ⟨⟨_, ha⟩, ht⟩ := hw
    rw [tmap_cons]
    split_ifs with h
    · exact ih ht
    · simp [twf, h, tabove_tmap d f ht ha, ih ht]

/-- Entries written one after another, each with its own value. -/
theorem tget_foldl_tset {α : Type} [DecidableEq α] (d : α) (f : Nat → α) (l : List Nat) (m : Tbl α) (j : Nat) :
    tget d (l.foldl (fun m i => tset d m i (f i)) m) j = if j ∈ l then f j else tget d m j := by
  induction l generalizing m with
  | nil => rfl
  | cons i l ih =>
    rw [List.foldl_cons, ih, tget_tset]
    by_cases h1 : j ∈ l
    · simp [h1]
    · by_cases h2 : j = i <;> simp [h1, h2]

/-! ## The copies that a boundary makes (R393, R395) -/

/-- One block's part of a boundary: it is copied, and its SNAP shows BUSY. -/
def State.snapBlock (s : State) (b : Nat) : State := (s.snapCopy b).setBits (snapReg b) 0x2#32

/-- Every block's. -/
def State.snapAll (s : State) : State := (upto 18).foldl State.snapBlock s

theorem State.windowBoundary_eq (s : State) :
    s.windowBoundary = s.snapAll.windowFabric.windowSensors.extendAll.windowClock := rfl

/-- A tile whose counters have been copied (R115, R393). -/
def Tile.snapped (x : Tile) : Tile :=
  { x with
    heldCounts := x.counts
    queues := tmap Queue.zero (fun _ v =>
      { v with heldIn := v.wordsIn, heldFull := v.full, heldFlushed := v.flushed, heldHigh := v.high }) x.queues }

/-- Nothing but holding registers, register words and tiles differs. -/
def CopyOnly (s u : State) : Prop := ∃ h r ts, u = { s with hold := h, regs := r, fab := { s.fab with tiles := ts } }

theorem CopyOnly.snapBlock (s : State) (b : Nat) : CopyOnly s (s.snapBlock b) := by
  unfold State.snapBlock State.snapCopy
  dsimp only
  split
  · exact ⟨_, _, _, rfl⟩
  · exact ⟨_, _, _, rfl⟩

theorem CopyOnly.foldl_snapBlock (l : List Nat) : ∀ s : State, CopyOnly s (l.foldl State.snapBlock s) := by
  induction l with
  | nil => exact fun s => ⟨_, _, _, rfl⟩
  | cons b l ih =>
    intro s
    obtain ⟨h, r, ts, e⟩ := CopyOnly.snapBlock s b
    obtain ⟨h', r', ts', e'⟩ := ih (s.snapBlock b)
    rw [e] at e'
    exact ⟨h', r', ts', by rw [List.foldl_cons, e]; exact e'⟩

theorem State.snapAll_copyOnly (s : State) : CopyOnly s s.snapAll := CopyOnly.foldl_snapBlock _ s

theorem State.reg_snapBlock (s : State) (b a : Nat) :
    (s.snapBlock b).reg a = if a = snapReg b then s.reg a ||| 0x2#32 else s.reg a := by
  have hc : ∀ a, (s.snapCopy b).reg a = s.reg a := fun a => by
    unfold State.snapCopy
    dsimp only
    split <;> rfl
  rw [State.snapBlock, State.reg_setBits, hc, hc]
  split_ifs with h
  · rw [h]
  · rfl

theorem State.reg_foldl_snapBlock (l : List Nat) : ∀ (s : State) (a : Nat),
    (l.foldl State.snapBlock s).reg a = if ∃ b ∈ l, a = snapReg b then s.reg a ||| 0x2#32 else s.reg a := by
  induction l with
  | nil => intro s a; simp
  | cons b l ih =>
    intro s a
    rw [List.foldl_cons, ih, State.reg_snapBlock]
    by_cases h1 : ∃ c ∈ l, a = snapReg c <;> by_cases h2 : a = snapReg b <;>
      simp [h1, h2, BitVec.or_assoc]

/-- The tiles after the copies, of which FAB's covers them all. -/
theorem State.snapAll_tiles (s : State) : s.snapAll.fab.tiles = tmap Tile.zero (fun _ x => x.snapped) s.fab.tiles := by
  have hother : ∀ (s : State) (b : Nat), b ≠ 4 → (s.snapBlock b).fab.tiles = s.fab.tiles := fun s b hb => by
    unfold State.snapBlock State.snapCopy
    dsimp only
    rw [if_neg hb]
    rfl
  have hfour : ∀ s : State, (s.snapBlock 4).fab.tiles = tmap Tile.zero (fun _ x => x.snapped) s.fab.tiles := fun s => rfl
  have hkeep : ∀ (l : List Nat) (s : State), 4 ∉ l → (l.foldl State.snapBlock s).fab.tiles = s.fab.tiles := by
    intro l
    induction l with
    | nil => intros; rfl
    | cons b l ih =>
      intro s h4
      simp only [List.mem_cons, not_or] at h4
      rw [List.foldl_cons, ih _ h4.2, hother _ _ (Ne.symm h4.1)]
  have hsplit : upto 18 = [0, 1, 2, 3] ++ 4 :: [5, 6, 7, 8, 9, 10, 11, 12, 13, 14, 15, 16, 17] := rfl
  rw [State.snapAll, hsplit, List.foldl_append, List.foldl_cons, hkeep _ _ (by decide), hfour, hkeep _ _ (by decide)]

/-! ## What a boundary leaves (R216, R395, R459) -/

section
variable (s : State)

theorem State.windowSide_reg (a : Nat) : s.windowFabric.windowSensors.extendAll.reg a = s.reg a := rfl
theorem State.windowSide_clock : s.windowFabric.windowSensors.extendAll.clock = s.clock := rfl
theorem State.windowClock_clock : s.windowClock.clock = { s.clock with
    anchor := s.boundaryAt, lenMs := fld (s.reg Reg.telWindow) 9 0, synced := s.clock.early.isSome, early := none } := rfl
theorem State.windowClose_num : s.windowFabric.windowSensors.extendAll.windowClock.num =
    { s.num with stats := s.windowStats, part := [], evalDue := true } := rfl
theorem State.windowClose_fab : s.windowFabric.windowSensors.extendAll.windowClock.fab =
    { s.fab with tiles := tmap Tile.zero (fun _ x => x.newWindow) s.fab.tiles } := rfl
theorem State.windowClose_tel : s.windowFabric.windowSensors.extendAll.windowClock.tel =
    { s.tel with tempSum := s.tel.temps, voltSum := s.tel.volts, temps := [], volts := [] } := rfl
theorem State.windowClose_rest : let u := s.windowFabric.windowSensors.extendAll.windowClock
    u.adm = s.adm ∧ u.ctx = s.ctx ∧ u.egr = s.egr ∧ u.img = s.img ∧ u.flt = s.flt := ⟨rfl, rfl, rfl, rfl, rfl⟩

theorem State.reg_windowClock (a : Nat) : s.windowClock.reg a =
    if a = Reg.numWindow ∨ a = Reg.telWindowNum then s.reg Reg.telWindowNum + 1#32 else s.reg a := by
  let u : State := { s with clock := { s.clock with
    anchor := s.boundaryAt, lenMs := fld (s.reg Reg.telWindow) 9 0, synced := s.clock.early.isSome, early := none } }
  have hu : s.windowClock = (u.count Reg.telWindowNum 1).setReg Reg.numWindow ((u.count Reg.telWindowNum 1).reg Reg.telWindowNum) :=
    rfl
  have hr : ∀ a, u.reg a = s.reg a := fun _ => rfl
  rw [hu, State.reg_setReg, State.reg_count, State.reg_count, if_pos rfl, hr, hr]
  by_cases h1 : a = Reg.numWindow <;> by_cases h2 : a = Reg.telWindowNum <;> simp [h1, h2]

/-- No SNAP word stands at an address whose low half is not 0xFE00. -/
theorem snapReg_mod (b : Nat) : snapReg b % 0x10000 = 0xFE00 := by
  unfold snapReg
  omega

theorem snapReg_ne {a b : Nat} (ha : a % 0x10000 ≠ 0xFE00) : a ≠ snapReg b := fun h => ha (h ▸ snapReg_mod b)

/-- After a boundary's copies the SNAP words show BUSY and every other register word is as it was. -/
theorem State.reg_snapAll (a : Nat) :
    s.snapAll.reg a = if ∃ b ∈ upto 18, a = snapReg b then s.reg a ||| 0x2#32 else s.reg a := State.reg_foldl_snapBlock _ s a

theorem State.reg_snapAll_of_ne {a : Nat} (ha : a % 0x10000 ≠ 0xFE00) : s.snapAll.reg a = s.reg a := by
  rw [State.reg_snapAll, if_neg (fun ⟨_, _, h⟩ => snapReg_ne ha h)]

theorem State.snapAll_clock : s.snapAll.clock = s.clock := by
  obtain ⟨h, r, ts, e⟩ := s.snapAll_copyOnly
  rw [e]

/-- The register words a boundary moves are the SNAP words and its two counts. -/
theorem State.reg_windowBoundary (a : Nat) :
    s.windowBoundary.reg a = if a = Reg.numWindow ∨ a = Reg.telWindowNum then s.reg Reg.telWindowNum + 1#32
      else if ∃ b ∈ upto 18, a = snapReg b then s.reg a ||| 0x2#32 else s.reg a := by
  rw [State.windowBoundary_eq, State.reg_windowClock, State.windowSide_reg, State.windowSide_reg,
    State.reg_snapAll_of_ne s (a := Reg.telWindowNum) (by decide), State.reg_snapAll]

theorem State.windowBoundary_clock : s.windowBoundary.clock = { s.clock with
    anchor := s.boundaryAt, lenMs := fld (s.reg Reg.telWindow) 9 0, synced := s.clock.early.isSome, early := none } := by
  rw [State.windowBoundary_eq, State.windowClock_clock, State.boundaryAt, State.windowSide_clock, State.windowSide_reg,
    State.snapAll_clock, State.reg_snapAll_of_ne s (by decide)]
  rfl

end

/-- SNAP of every block shows BUSY after a boundary, and SNAP_SEQ has not moved. -/
theorem State.snapReg_windowBoundary (s : State) {b : Nat} (hb : b < 18) :
    s.windowBoundary.rbit (snapReg b) 1 = true ∧
    fld (s.windowBoundary.reg (snapReg b)) 31 16 = fld (s.reg (snapReg b)) 31 16 := by
  have hreg : s.windowBoundary.reg (snapReg b) = s.reg (snapReg b) ||| 0x2#32 := by
    have hne : ¬ (snapReg b = Reg.numWindow ∨ snapReg b = Reg.telWindowNum) := fun h =>
      h.elim (Ne.symm (snapReg_ne (by decide))) (Ne.symm (snapReg_ne (by decide)))
    rw [State.reg_windowBoundary, if_neg hne, if_pos ⟨b, by simpa [upto] using hb, rfl⟩]
  rw [State.rbit, hreg]
  constructor
  · simp [bit]
  · have htwo : (2#32 : Word).toNat / 2 ^ 16 = 0 := rfl
    rw [fld, BitVec.toNat_or, Nat.or_div_two_pow, htwo, Nat.or_zero, fld]

/-! ## Tiles and statistics at a boundary (R115, R216) -/

theorem State.windowBoundary_fab (s : State) : s.windowBoundary.fab = { s.fab with
    tiles := tmap Tile.zero (fun _ x => x.newWindow) (tmap Tile.zero (fun _ x => x.snapped) s.fab.tiles) } := by
  have htiles := s.snapAll_tiles
  obtain ⟨h, r, ts, e⟩ := s.snapAll_copyOnly
  rw [State.windowBoundary_eq, State.windowClose_fab, ← htiles, e]

/-- Every tile's statistics start again. -/
theorem State.windowBoundary_tile_cleared (s : State) (t : TileAddr) :
    let x := s.windowBoundary.tile t
    x.converted = 0#64 ∧ x.sat = 0#32 ∧ x.ufl = 0#32 ∧ x.sqerr = 0#64 ∧ x.trip = 0#32 ∧ x.accOvf = 0#32 := by
  intro x
  have hx : x = tget Tile.zero (tmap Tile.zero (fun _ x => x.newWindow) (tmap Tile.zero (fun _ x => x.snapped) s.fab.tiles))
      t.toNat := congrArg (fun f : Fab => tget Tile.zero f.tiles t.toNat) s.windowBoundary_fab
  rw [hx]
  exact tget_tmap_prop (P := fun x : Tile => x.converted = 0#64 ∧ x.sat = 0#32 ∧ x.ufl = 0#32 ∧ x.sqerr = 0#64 ∧
    x.trip = 0#32 ∧ x.accOvf = 0#32) ⟨rfl, rfl, rfl, rfl, rfl, rfl⟩ (fun _ _ => ⟨rfl, rfl, rfl, rfl, rfl, rfl⟩) _ _

section
variable {s : State} (hw : twf Tile.zero s.fab.tiles = true) (t : TileAddr)
include hw

theorem State.snapAll_tile : s.snapAll.tile t = (s.tile t).snapped := by
  rw [State.tile, State.snapAll_tiles]
  exact tget_tmap (fun _ => rfl) hw _

theorem State.windowBoundary_tile : s.windowBoundary.tile t = (s.tile t).snapped.newWindow := by
  rw [State.tile, State.windowBoundary_fab, tget_tmap (fun _ => rfl) (twf_tmap _ _ hw), tget_tmap (fun _ => rfl) hw, State.tile]

end

/-- Adding tiles to a stage's statistics adds up what they count and leaves the thresholds. -/
theorem StageStat.foldl_addTile (f : TileAddr → Tile) (l : List TileAddr) : ∀ g : StageStat,
    let r := l.foldl (fun (a : StageStat) t => a.addTile (f t)) g
    r.satThresh = g.satThresh ∧ r.sat = l.foldl (fun a t => satAdd a (f t).sat.toNat) g.sat ∧
    r.converted = l.foldl (fun a t => a + (f t).converted) g.converted := by
  induction l with
  | nil => exact fun g => ⟨rfl, rfl, rfl⟩
  | cons t l ih => exact fun g => ih (g.addTile (f t))

/-- The statistics of a stage of the map for the window that ended. -/
theorem State.tget_windowStats (s : State) {i : Nat} (hi : i < s.plc.pitch.length) :
    tget StageStat.zero s.windowStats i =
      ((s.plc.pitch.getD i []).foldl (fun (a : StageStat) t => a.addTile (s.tile t))
        { tget StageStat.zero s.num.part i with
          satThresh := (tget StageStat.zero s.num.stats i).satThresh
          uflThresh := (tget StageStat.zero s.num.stats i).uflThresh }).withMse := by
  unfold State.windowStats
  dsimp only
  rw [tget_foldl_tset, if_pos (by simp [upto, hi])]

/-- After a boundary a stage's statistics are those of the tiles that left it in the window and of its tiles (R216). -/
theorem State.windowBoundary_stats {s : State} (hw : twf Tile.zero s.fab.tiles = true) {i : Nat} (hi : i < s.plc.pitch.length) :
    let g := tget StageStat.zero s.windowBoundary.num.stats i
    g.satThresh = (tget StageStat.zero s.num.stats i).satThresh ∧
    g.sat = (s.plc.pitch.getD i []).foldl (fun a t => satAdd a (s.tile t).sat.toNat) (tget StageStat.zero s.num.part i).sat ∧
    g.converted = (s.plc.pitch.getD i []).foldl (fun a t => a + (s.tile t).converted)
      (tget StageStat.zero s.num.part i).converted := by
  have htile := fun t => State.snapAll_tile hw t
  have hplc : s.snapAll.plc = s.plc ∧ s.snapAll.num = s.num := by
    obtain ⟨h, r, ts, e⟩ := s.snapAll_copyOnly
    rw [e]
    exact ⟨rfl, rfl⟩
  obtain ⟨hplc, hnum⟩ := hplc
  have hstats : tget StageStat.zero s.windowBoundary.num.stats i = tget StageStat.zero s.snapAll.windowStats i := by
    rw [State.windowBoundary_eq, State.windowClose_num]
  rw [hstats, State.tget_windowStats _ (by rwa [hplc]), hplc, hnum]
  obtain ⟨h1, h2, h3⟩ := StageStat.foldl_addTile s.snapAll.tile (s.plc.pitch.getD i [])
    { tget StageStat.zero s.num.part i with
      satThresh := (tget StageStat.zero s.num.stats i).satThresh
      uflThresh := (tget StageStat.zero s.num.stats i).uflThresh }
  simp only [htile] at h1 h2 h3 ⊢
  exact ⟨h1, h2, h3⟩

/-- What a boundary leaves beside the clock, the register words and the tiles. -/
theorem State.windowBoundary_rest (s : State) :
    let u := s.windowBoundary
    (u.num.evalDue = true ∧ u.num.hdrs = s.num.hdrs ∧ u.num.part = []) ∧
    u.tel = { s.tel with tempSum := s.tel.temps, voltSum := s.tel.volts, temps := [], volts := [] } ∧
    u.adm = s.adm ∧ u.ctx = s.ctx ∧ u.egr = s.egr ∧ u.img = s.img ∧ u.flt = s.flt := by
  intro u
  obtain ⟨h, r, ts, e⟩ := s.snapAll_copyOnly
  have hu : u = s.snapAll.windowFabric.windowSensors.extendAll.windowClock := State.windowBoundary_eq s
  obtain ⟨r1, r2, r3, r4, r5⟩ := State.windowClose_rest s.snapAll
  rw [hu, State.windowClose_num, State.windowClose_tel, r1, r2, r3, r4, r5, e]
  exact ⟨⟨rfl, rfl, rfl⟩, rfl, rfl, rfl, rfl, rfl, rfl⟩

theorem windowBoundaryCopiesAndRestarts : Claims.WindowBoundaryCopiesAndRestarts := by
  intro s he hf
  have hexec : exec .windowBoundary s = .next (s.until s.boundaryAt).windowBoundary := by
    rw [exec_windowBoundary, execWindowBoundary, he, hf]
    rfl
  have hat : (s.until s.boundaryAt).boundaryAt = s.boundaryAt := by
    rw [State.boundaryAt, State.until_clock]
    rfl
  have hreg : ∀ a, (s.until s.boundaryAt).reg a = s.reg a := fun a => by rw [State.reg, State.until_regs, State.reg]
  have htile : ∀ t, (s.until s.boundaryAt).tile t = s.tile t := fun t => by rw [State.tile, State.until_fab, State.tile]
  have hnow : (s.until s.boundaryAt).clock.now = max s.clock.now s.boundaryAt := State.until_now ..
  have hearly : (s.until s.boundaryAt).clock.early = s.clock.early := by rw [State.until_clock]
  have hnum : (s.until s.boundaryAt).num = s.num := State.until_num ..
  have hpitch : (s.until s.boundaryAt).plc.pitch = s.plc.pitch := State.until_pitch ..
  have hfab : (s.until s.boundaryAt).fab = s.fab := State.until_fab ..
  refine ⟨_, hexec, ?_⟩
  obtain ⟨⟨n1, n2, n3⟩, htel, r1, r2, r3, r4, r5⟩ := State.windowBoundary_rest (s.until s.boundaryAt)
  simp only [State.until_num, State.until_tel, State.until_adm, State.until_ctx, State.until_egr, State.until_img,
    State.until_flt] at n2 htel r1 r2 r3 r4 r5
  generalize s.until s.boundaryAt = v at *
  have hclock := State.windowBoundary_clock v
  have hcount : ∀ a, a = Reg.numWindow ∨ a = Reg.telWindowNum → v.windowBoundary.reg a = s.reg Reg.telWindowNum + 1#32 :=
    fun a ha => by rw [State.reg_windowBoundary, if_pos ha, hreg]
  rw [hclock, htel]
  refine ⟨hat, ?_, ?_, ?_, rfl, ?_, hcount _ (.inr rfl), hcount _ (.inl rfl), fun b hb => ?_, n1, n2, rfl, rfl, rfl, rfl,
    fun t => State.windowBoundary_tile_cleared v t, fun hw t => ?_, fun hw i hi => ?_, n3, ?_, r1, r2, r3, r4, r5⟩
  · exact hnow ▸ le_max_right _ _
  · exact hnow ▸ le_max_left _ _
  · exact congrArg (fld · 9 0) (hreg _)
  · exact congrArg Option.isSome hearly
  · rw [← hreg]
    exact State.snapReg_windowBoundary v hb
  · rw [← hfab] at hw
    rw [State.windowBoundary_tile hw, htile]
    exact ⟨rfl, rfl, rfl, rfl, rfl⟩
  · rw [← hfab] at hw
    rw [← hpitch] at hi
    have hstats := State.windowBoundary_stats hw hi
    simpa only [hpitch, hnum, htile] using hstats
  · rw [State.windowBoundary_fab, hfab]

/-! ## Edges of SYNC_IN (R7, R459) -/

/-- Boundaries that are carried out do not move time. -/
theorem State.openUpTo_now (n : Nat) : ∀ s : State, (s.openUpTo n).clock.now = s.clock.now := by
  induction n with
  | zero => exact fun _ => rfl
  | succ n ih =>
    intro s
    rw [State.openUpTo]
    split_ifs
    · rw [ih, State.windowBoundary_clock]
    · rfl

theorem State.openWindows_now (s : State) : s.openWindows.clock.now = s.clock.now := State.openUpTo_now _ s

theorem State.boundaryDue_of_before {s : State} (h : s.clock.now < s.boundaryAt) : s.boundaryDue = false := by
  simp [State.boundaryDue, Nat.not_le.mpr h]

theorem exec_syncInEdge_running {s : State} (hu : s.up = true) (hf : s.clock.frozen = none) :
    exec .syncInEdge s = .next s.syncEdge := by
  rw [exec_syncInEdge, execSyncInEdge, hu, hf]
  rfl

/-- An accepted edge moves the clock's window and counts itself; every other register word and the frames stay. -/
theorem accepted_edge (s : State) (k : Clock) :
    let u := ({ s with clock := k } : State).count Reg.telSyncAccCnt 1
    u.clock = k ∧ u.reg Reg.telSyncAccCnt = s.reg Reg.telSyncAccCnt + 1#32 ∧ (∀ a, a ≠ Reg.telSyncAccCnt → u.reg a = s.reg a) ∧
    u.adm = s.adm ∧ u.fab = s.fab := by
  intro u
  refine ⟨rfl, ?_, fun a ha => ?_, rfl, rfl⟩
  · exact (State.reg_count ..).trans (if_pos rfl)
  · exact (State.reg_count ..).trans (if_neg ha)

theorem syncEdgesMoveBoundaries : Claims.SyncEdgesMoveBoundaries := by
  intro s0 hu hf s t w n ignored taken
  have hexec := exec_syncInEdge_running hu hf
  have hsame : t < s0.boundaryAt → s = s0 := fun h =>
    State.openWindows_of_not_due (State.boundaryDue_of_before (by rwa [← State.openWindows_now]))
  refine ⟨State.openWindows_now s0, hsame, fun hs => ?_, fun hs h1 h2 => ?_, fun hs h1 h2 h3 => ?_, fun hs h1 h2 => ?_⟩
  · exact hexec.trans (congrArg _ (if_pos hs))
  · obtain ⟨c1, c2, c3, c4, c5⟩ := accepted_edge s { s.clock with synced := true, early := some t }
    refine ⟨_, hexec.trans (congrArg _ ((if_neg (by simp [s, hs])).trans (if_pos ⟨h1, h2⟩))), ?_⟩
    exact ⟨⟨by rw [State.boundaryAt, c1]; rfl, by rw [c1]⟩, by rw [c1], by rw [c1], by rw [c1], c2, c3, c4, c5⟩
  · obtain ⟨c1, c2, c3, c4, c5⟩ := accepted_edge s { s.clock with synced := true, anchor := t }
    refine ⟨_, hexec.trans (congrArg _ ((if_neg (by simp [s, hs])).trans ((if_neg h1).trans (if_pos ⟨h3, h2⟩)))), ?_⟩
    exact ⟨⟨by rw [c1], by rw [c1]⟩, by rw [c1], by rw [c1], by rw [c1], c2, c3, c4, c5⟩
  · exact hexec.trans (congrArg _ ((if_neg (by simp [s, hs])).trans ((if_neg h1).trans (if_neg fun k => h2 ⟨k.2, k.1⟩))))

/-! ## Numeric events (R217) -/

/-- A stage that raises nothing changes nothing. -/
theorem State.raiseEvents_of_none {s : State} {i : Nat} (h : s.stageEvents i = 0) : s.raiseEvents i = s := if_pos h

theorem State.raiseEvents_keeps (s : State) (i : Nat) :
    (s.raiseEvents i).num = s.num ∧ (s.raiseEvents i).fab = s.fab ∧ (s.raiseEvents i).adm = s.adm := by
  unfold State.raiseEvents
  dsimp only
  split_ifs
  · exact ⟨rfl, rfl, rfl⟩
  · exact ⟨rfl, rfl, rfl⟩

/-- A stage counts each kind of event that it raises in the counter of the kind, and sets cause 4 of DEV_ALERT. -/
theorem State.raiseEvents_counts (s : State) (i : Nat) :
    (s.raiseEvents i).reg Reg.numSatEvtCnt = s.reg Reg.numSatEvtCnt + BitVec.ofNat 32 (s.stageEvents i % 2) ∧
    (s.raiseEvents i).reg Reg.numUflEvtCnt = s.reg Reg.numUflEvtCnt + BitVec.ofNat 32 (s.stageEvents i / 2 % 2) ∧
    (s.raiseEvents i).reg Reg.numCarryEvtCnt = s.reg Reg.numCarryEvtCnt + BitVec.ofNat 32 (s.stageEvents i / 4) ∧
    (s.raiseEvents i).rbit Reg.devAlert 4 = (s.rbit Reg.devAlert 4 || s.stageEvents i != 0) := by
  by_cases h : s.stageEvents i = 0
  · rw [State.raiseEvents_of_none h, h]
    simp
  · unfold State.raiseEvents
    dsimp only
    rw [if_neg h]
    refine ⟨?_, ?_, ?_, ?_⟩
    · simp [State.reg_alert, State.reg_logEvent, State.reg_count, State.reg_setBits]
    · simp [State.reg_alert, State.reg_logEvent, State.reg_count, State.reg_setBits]
    · simp [State.reg_alert, State.reg_logEvent, State.reg_count, State.reg_setBits]
    · simp [State.rbit, bit, State.reg_alert, bmask, h]

/-- A counter to which every stage adds what it raises of a kind. -/
theorem foldl_raiseEvents_reg (a : Nat) (e : Nat → Nat) {s : State}
    (h : ∀ (v : State) (i : Nat), v.num = s.num → (v.raiseEvents i).reg a = v.reg a + BitVec.ofNat 32 (e i)) (l : List Nat) :
    ∀ v : State, v.num = s.num → (l.foldl State.raiseEvents v).reg a = v.reg a + BitVec.ofNat 32 ((l.map e).sum) := by
  induction l with
  | nil => intro v _; simp
  | cons i l ih =>
    intro v hv
    rw [List.foldl_cons, ih _ ((State.raiseEvents_keeps v i).1.trans hv), h v i hv, List.map_cons, List.sum_cons, BitVec.ofNat_add,
      BitVec.add_assoc]

/-- DEV_ALERT shows the cause once any stage has raised an event. -/
theorem foldl_raiseEvents_alert (l : List Nat) : ∀ v : State,
    (l.foldl State.raiseEvents v).rbit Reg.devAlert 4 = (v.rbit Reg.devAlert 4 || l.any (fun i => v.stageEvents i != 0)) := by
  induction l with
  | nil => intro v; simp
  | cons i l ih =>
    intro v
    have hev : ∀ j, (v.raiseEvents i).stageEvents j = v.stageEvents j := fun j => by
      rw [State.stageEvents, (State.raiseEvents_keeps v i).1, State.stageEvents]
    rw [List.foldl_cons, ih, (State.raiseEvents_counts v i).2.2.2]
    simp only [hev, List.any_cons, Bool.or_assoc]

theorem foldl_raiseEvents_of_none {v : State} {l : List Nat} (h : ∀ i ∈ l, v.stageEvents i = 0) : l.foldl State.raiseEvents v = v := by
  induction l with
  | nil => rfl
  | cons i l ih =>
    rw [List.foldl_cons, State.raiseEvents_of_none (h i List.mem_cons_self)]
    exact ih fun j hj => h j (List.mem_cons_of_mem _ hj)

theorem numericEventsAreCounted : Claims.NumericEventsAreCounted := by
  intro s stages sum done
  have hexec : exec .numEvaluation s = onlyIf (s.engineUp && s.num.evalDue) s
      (if s.blockEn 5 then stages.foldl State.raiseEvents done else done) := rfl
  have hev : ∀ v : State, v.num = done.num → ∀ i, v.stageEvents i = s.stageEvents i := fun v hv i => by
    rw [State.stageEvents, hv, State.stageEvents]
  refine ⟨fun h => ?_, fun he hd => ?_⟩
  · have hoff : (s.engineUp && s.num.evalDue) = false := by
      rcases h with h | h <;> simp [h]
    rw [hexec, hoff, onlyIf_false]
  rw [he, hd, Bool.and_self, onlyIf_true] at hexec
  refine ⟨fun h => ?_, fun hb => ?_⟩
  · rw [hexec]
    split_ifs with hb
    · have hnone : ∀ i ∈ stages, done.stageEvents i = 0 := fun i hi =>
        (hev done rfl i).trans (h.resolve_left (by simp [hb]) i (by simpa [stages, upto] using hi))
      rw [foldl_raiseEvents_of_none hnone]
    · rfl
  · rw [if_pos hb] at hexec
    refine ⟨_, hexec, ?_⟩
    refine ⟨?_, ?_, ?_, ?_, ?_, ?_, fun ⟨i, hi, hne⟩ => ?_⟩
    · exact foldl_keeps (p := State.num) (fun v i => (State.raiseEvents_keeps v i).1) stages done
    · exact foldl_keeps (p := State.fab) (fun v i => (State.raiseEvents_keeps v i).2.1) stages done
    · exact foldl_keeps (p := State.adm) (fun v i => (State.raiseEvents_keeps v i).2.2) stages done
    · exact foldl_raiseEvents_reg _ _ (fun v i hv => hev v hv i ▸ (State.raiseEvents_counts v i).1) stages done rfl
    · exact foldl_raiseEvents_reg _ _ (fun v i hv => hev v hv i ▸ (State.raiseEvents_counts v i).2.1) stages done rfl
    · exact foldl_raiseEvents_reg _ _ (fun v i hv => hev v hv i ▸ (State.raiseEvents_counts v i).2.2.1) stages done rfl
    · rw [foldl_raiseEvents_alert, Bool.or_eq_true, List.any_eq_true]
      exact .inr ⟨i, by simpa [stages, upto] using hi, by simpa [hev done rfl] using hne⟩

/-- Settles O51: a boundary is the copies followed by the window's own changes, an edge of SYNC_IN one of four cases on the state
with its boundaries carried out, and the evaluation a fold that adds what each stage raises. -/
theorem windowsAndEvents : Obligations.WindowsAndEvents :=
  ⟨windowBoundaryCopiesAndRestarts, syncEdgesMoveBoundaries, numericEventsAreCounted⟩

end Sys2Proof.Machine
end

section
/-! SUPPORT. What a doorbell does (R14, R53 to R59): its burst, the conditions of R57, and the frame that an accepted one commits. -/

namespace Sys2Proof.Machine

open Sys2Proof

/-! ## The conditions of R57 beside the ports -/

section
variable {s v : State} (hv : v.besidePorts = s.besidePorts)
include hv

theorem rbit_of_besidePorts (a i : Nat) : v.rbit a i = s.rbit a i := by simp only [State.rbit, reg_of_besidePorts hv]

theorem partly_of_besidePorts : v.partly = s.partly := by
  have hpwr : v.pwr = s.pwr := congrArg (·.pwr) hv
  have hpitch : v.plc.pitch = s.plc.pitch := congrArg (·.plc.pitch) hv
  have hwhole : v.plc.whole = s.plc.whole := congrArg (·.plc.whole) hv
  simp only [State.partly, State.remapping, State.usedGated, State.usedTiles, State.dom, committed_of_besidePorts hv,
    rbit_of_besidePorts hv, hpwr, hpitch, hwhole]

theorem acceptsDoorbell_of_besidePorts (n : Nat) (b : Bool) : v.acceptsDoorbell n b = s.acceptsDoorbell n b := by
  have hdict := dict_of_besidePorts hv
  simp only [State.acceptsDoorbell, State.blockEn, State.faulted, State.secondary, State.enabled, State.absorbed, State.objVal,
    hdict, stream_of_besidePorts hv, committed_of_besidePorts hv, partly_of_besidePorts hv, rbit_of_besidePorts hv,
    reg_of_besidePorts hv, wideStream_of_besidePorts hv]

end

/-- The conditions of R57 one by one. -/
theorem State.acceptsDoorbell_iff (s : State) (n : Nat) (b : Bool) :
    s.acceptsDoorbell n b = true ↔ s.committed = true ∧ s.rbit Reg.admCtl 0 = true ∧ s.partly = false ∧ s.faulted = false ∧
      s.secondary = false ∧ s.enabled n = true ∧ s.absorbed n = false ∧
      (((s.stream n).slot b).st = .idle ∨ ((s.stream n).slot b).st = .written) := by
  simp [State.acceptsDoorbell, State.blockEn, and_assoc]

/-! ## One burst into a doorbell cell -/

theorem rangeOf_eq_cells {a : Nat} : rangeOf a = .cells ↔ 0x1000000 ≤ a ∧ a < 0x1008000 := by
  constructor
  · intro h
    unfold rangeOf at h
    split_ifs at h with _ h1 h2
    exact ⟨Nat.le_of_not_lt h1, h2⟩
  · rintro ⟨h1, h2⟩
    unfold rangeOf
    rw [if_neg (by omega), if_neg (by omega), if_pos h2]

/-- A doorbell write of 32 bytes to an open port is one burst into a cell, once the port answers and has counted it. -/
theorem exec_doorbell_burst {s : State} {w : HostWrite} (hb : w.bl32 = false) (hr : rangeOf w.addr.toNat = .cells)
    (ho : s.portOpen w.port = true) (he : s.engineUp = true) :
    exec (.doorbell w) s = ((s.portTime w.port).countWrites w.port 1).cellBurst w.port (w.addr.toNat / 32 * 32)
      (BitVec.ofNat 256 w.data.toNat) (w.mask.toNat % 2 ^ 32) := by
  have hr' : rangeOf (w.addr.toNat / 32 * 32) = .cells := by
    rw [rangeOf_eq_cells] at hr ⊢
    omega
  have hbs : burstsOf w = [(w.addr.toNat / 32 * 32, BitVec.ofNat 256 w.data.toNat, w.mask.toNat % 2 ^ 32)] := by
    simp [burstsOf, hb]
  simp [execDoorbell, State.writeIn, writeRange, hr, State.hostWrite, hbs, ho, he, State.writeBurst, hr']

/-- A burst into the lower half of a cell, some of whose bytes are masked, is a host error (R55). -/
theorem State.cellBurst_of_masked {s : State} {p : Bool} {a m : Nat} {d : Burst} (ha : a % 64 ≠ 32) (h0 : m ≠ 0)
    (h1 : m ≠ 2 ^ 32 - 1) : s.cellBurst p a d m = .next s.unpredictable := by
  rw [State.cellBurst, if_neg (by simp [ha, h0]), if_pos (by simpa using h1)]

/-- An unmasked one rings. -/
theorem State.cellBurst_unmasked {s : State} {p : Bool} {a : Nat} {d : Burst} (ha : a % 64 ≠ 32) :
    s.cellBurst p a d (2 ^ 32 - 1) =
      .next (s.ring (512 * b2n p + (a - 0x1000000) / 64) (d.getLsbD 64) (BitVec.ofNat 64 d.toNat)) := by
  rw [State.cellBurst, if_neg (by simp [ha]), if_neg (by simp)]

/-- An unmasked doorbell to the lower half of a cell rings for the cell's stream, with the slot and the tag of its data (R54, R55). -/
theorem exec_doorbell_unmasked {s : State} {w : HostWrite} (hb : w.bl32 = false) (hr : rangeOf w.addr.toNat = .cells)
    (hlow : w.addr.toNat / 32 % 2 = 0) (ho : s.portOpen w.port = true) (he : s.engineUp = true)
    (hm : w.mask.toNat % 2 ^ 32 = 2 ^ 32 - 1) :
    exec (.doorbell w) s = .next (((s.portTime w.port).countWrites w.port 1).ring
      (512 * b2n w.port + (w.addr.toNat - 0x1000000) / 64) (w.data.getLsbD 64) (BitVec.ofNat 64 w.data.toNat)) := by
  have hcell : (w.addr.toNat / 32 * 32 - 0x1000000) / 64 = (w.addr.toNat - 0x1000000) / 64 := by
    have := (rangeOf_eq_cells.mp hr).1
    omega
  have hslot : (BitVec.ofNat 256 w.data.toNat).getLsbD 64 = w.data.getLsbD 64 := by
    rw [BitVec.getLsbD_ofNat, BitVec.getLsbD]
    rfl
  have htag : BitVec.ofNat 64 (BitVec.ofNat 256 w.data.toNat).toNat = BitVec.ofNat 64 w.data.toNat := by
    apply BitVec.eq_of_toNat_eq
    simp only [BitVec.toNat_ofNat]
    exact Nat.mod_mod_of_dvd _ (Nat.pow_dvd_pow 2 (by decide))
  rw [exec_doorbell_burst hb hr ho he, hm, State.cellBurst_unmasked (by omega), hcell, hslot, htag]

/-! ## The order of two slots of a stream (R14, R59) -/

/-- Frame `g` is one for slot 1 of the stream of `f`, which is for slot 0: accepted at the same time, just before it, and still without
an ordinal. -/
def Frame.yieldsTo (g f : Frame) : Prop :=
  g.stream = f.stream ∧ g.slot = true ∧ f.slot = false ∧ g.acceptedAt = f.acceptedAt ∧ g.ordinal = none ∧ g.seq + 1#32 = f.seq

theorem Frame.not_yieldsTo_self (f : Frame) : ¬ f.yieldsTo f := fun ⟨_, h1, h0, _⟩ => by simp [h1] at h0

theorem orderSlots_test_iff (g f : Frame) :
    (g.stream == f.stream && g.slot && !f.slot && g.acceptedAt == f.acceptedAt && g.ordinal.isNone && g.seq + 1#32 == f.seq) = true ↔
      g.yieldsTo f := by
  simp [Frame.yieldsTo, and_assoc]

/-- A frame for which no other steps back comes last. -/
theorem orderSlots_of_none {fs : List Frame} {f : Frame} (h : ∀ g ∈ fs, ¬ g.yieldsTo f) : orderSlots fs f = fs := by
  unfold orderSlots
  dsimp only
  rw [List.find?_eq_none.mpr fun g hg => by rw [orderSlots_test_iff]; exact h g hg]

/-- Where one frame steps back, the new one takes its place and number, and it takes the new one's. -/
theorem orderSlots_of_unique {fs : List Frame} {f g : Frame} (h : ∀ k, k ∈ fs ∧ k.yieldsTo f ↔ k = g) (hf : f ∉ fs) :
    orderSlots (fs ++ [f]) f = fs.map (fun k => if k = g then { f with seq := g.seq } else k) ++ [{ g with seq := f.seq }] := by
  obtain ⟨hg, hy⟩ := (h g).mpr rfl
  have hfg : f ≠ g := fun e => hf (e ▸ hg)
  unfold orderSlots
  dsimp only
  cases hfind : (fs ++ [f]).find? (fun k => k.stream == f.stream && k.slot && !f.slot && k.acceptedAt == f.acceptedAt &&
      k.ordinal.isNone && k.seq + 1#32 == f.seq) with
  | none => exact absurd ((orderSlots_test_iff g f).mpr hy) (List.find?_eq_none.mp hfind g (List.mem_append_left _ hg))
  | some k =>
    have hk : k = g := by
      have htest := List.find?_some hfind
      have hky := (orderSlots_test_iff k f).mp htest
      rcases List.mem_append.mp (List.mem_of_find?_eq_some hfind) with hmem | hmem
      · exact (h k).mp ⟨hmem, hky⟩
      · rw [List.mem_singleton.mp hmem] at hky
        exact absurd hky f.not_yieldsTo_self
    subst hk
    dsimp only
    rw [List.map_append, List.map_singleton, if_neg hfg, if_pos rfl]
    congr 1
    refine List.map_congr_left fun j hj => ?_
    have hjf : j ≠ f := fun e => hf (e ▸ hj)
    rw [if_neg hjf]

/-! ## An accepted doorbell -/

/-- The frame that a doorbell on stream `n` commits. -/
def State.newFrame (s : State) (n : Nat) (b : Bool) (tag : BitVec 64) : Frame :=
  let x := s.stream n
  { stream := n, slot := b, tag := tag, seq := x.accepted + 1#32, tDoorbell := s.devTime, tEntry := 0, wide := s.wideStream n
    phase := if (x.slot b).overrun then .ended else .waiting, status := if (x.slot b).overrun then .overrun else .ok
    ordinal := none, startedAt := 0, acceptedAt := s.clock.now, nextGroup := 0, asPrimary := s.primary
    candLimit := false, trackFull := false, candidates := 0, tracks := 0, dets := [], thresholds := [], appended := none
    boxes := [] }

/-- What admission keeps for a stream after it has accepted a doorbell for slot `b`. -/
def StreamAdm.accept (x : StreamAdm) (b : Bool) (tag : BitVec 64) : StreamAdm :=
  let sl := x.slot b
  { x with lastTag := tag, accepted := x.accepted + 1#32, overruns := if sl.overrun then x.overruns + 1#32 else x.overruns }.setSlot b
    (if sl.overrun then Slot.empty else { sl with st := .waiting })

/-- The state that has entered the frame of an accepted doorbell. -/
def State.enterFrame (s : State) (n : Nat) (b : Bool) (tag : BitVec 64) : State :=
  { s with adm := { s.adm with
      streams := tset StreamAdm.zero s.adm.streams n ((s.stream n).accept b tag)
      frames := orderSlots (s.adm.frames ++ [s.newFrame n b tag]) (s.newFrame n b tag) } }

/-- What the registers show of an accepted doorbell, whose slot held `sl` of a frame of `size` bytes. -/
def State.noteDoorbell (s : State) (n : Nat) (b : Bool) (sl : Slot) (size : Nat) : State :=
  let w := (s.count Reg.egrAccepted 1).setReg Reg.admDoorbell (BitVec.ofNat 32 (2 ^ 31 + 1024 * b2n b + n))
  let a := if sl.overrun then w.countOverrun else if sl.whole size then w else w.count Reg.admShortCnt 1
  if 20 < a.waitingFrames.length then a.setBits Reg.admStat 0x80#32 else a

/-- An accepted doorbell enters its frame and shows in the registers (R53, R56, R58, R59). -/
theorem State.acceptDoorbell_eq (s : State) (n : Nat) (b : Bool) (tag : BitVec 64) :
    s.acceptDoorbell n b tag =
      (s.enterFrame n b tag).noteDoorbell n b ((s.stream n).slot b) (s.geomSize (s.wideStream n)) := rfl

section
variable (s : State) (n : Nat) (b : Bool) (sl : Slot) (size : Nat)

theorem State.noteDoorbell_adm : (s.noteDoorbell n b sl size).adm = s.adm := by
  unfold State.noteDoorbell
  dsimp only
  split_ifs <;> rfl

theorem State.noteDoorbell_clock : (s.noteDoorbell n b sl size).clock = s.clock := by
  unfold State.noteDoorbell
  dsimp only
  split_ifs <;> rfl

/-- A frame of a slot whose write found the buffer full counts as an overrun (R53). -/
theorem State.noteDoorbell_overrunCnt (h : sl.overrun = true) :
    (s.noteDoorbell n b sl size).reg Reg.admOverrunCnt = s.reg Reg.admOverrunCnt + 1#32 := by
  have hreg : ∀ u : State, u.countOverrun.reg Reg.admOverrunCnt = u.reg Reg.admOverrunCnt + 1#32 := fun u => by
    simp [State.countOverrun, State.reg_alert, State.reg_setBits, State.reg_count]
  unfold State.noteDoorbell
  dsimp only
  have hflag : ∀ u : State, (u.setBits Reg.admStat 0x80#32).reg Reg.admOverrunCnt = u.reg Reg.admOverrunCnt := fun u =>
    (State.reg_setBits ..).trans (if_neg (by decide))
  rw [if_pos h, apply_ite (State.reg · Reg.admOverrunCnt), hflag, ite_self, hreg,
    State.reg_setReg_ne _ _ (by decide), State.reg_count, if_neg (by decide)]

end

section
variable (s : State) (n : Nat) (b : Bool) (tag : BitVec 64)

theorem State.acceptDoorbell_frames : (s.acceptDoorbell n b tag).adm.frames =
    orderSlots (s.adm.frames ++ [s.newFrame n b tag]) (s.newFrame n b tag) := by
  rw [State.acceptDoorbell_eq, State.noteDoorbell_adm, State.enterFrame]

theorem State.stream_acceptDoorbell (k : Nat) :
    (s.acceptDoorbell n b tag).stream k = if k = n then (s.stream n).accept b tag else s.stream k := by
  rw [State.acceptDoorbell_eq, State.stream, State.noteDoorbell_adm]
  exact tget_tset ..

theorem State.acceptDoorbell_devTime : (s.acceptDoorbell n b tag).devTime = s.devTime := by
  rw [State.acceptDoorbell_eq, State.devTime, State.noteDoorbell_clock]
  rfl

theorem State.acceptDoorbell_overrunCnt (h : ((s.stream n).slot b).overrun = true) :
    (s.acceptDoorbell n b tag).reg Reg.admOverrunCnt = s.reg Reg.admOverrunCnt + 1#32 := by
  rw [State.acceptDoorbell_eq, State.noteDoorbell_overrunCnt _ _ _ _ _ h]
  rfl

end

theorem StreamAdm.accept_spec (x : StreamAdm) (b : Bool) (tag : BitVec 64) :
    let y := x.accept b tag
    y.accepted = x.accepted + 1#32 ∧ y.lastTag = tag ∧ y.refused = x.refused ∧ y.slot (!b) = x.slot (!b) ∧
    y.slot b = if (x.slot b).overrun then Slot.empty else { x.slot b with st := .waiting } := by
  cases b <;> exact ⟨rfl, rfl, rfl, rfl, rfl⟩

theorem State.ring_of_accepts {s : State} {n : Nat} {b : Bool} (h : s.acceptsDoorbell n b = true) (tag : BitVec 64) :
    s.ring n b tag = s.acceptDoorbell n b tag := if_pos h

theorem State.ring_of_refuses {s : State} {n : Nat} {b : Bool} (h : ¬ s.acceptsDoorbell n b = true) (tag : BitVec 64) :
    s.ring n b tag = s.refuseDoorbell n := if_neg h

/-! ## The obligation -/

/-- Settles O31: the write rings on the state with the port's bookkeeping, which accepts or refuses by the conditions of R57, and the
list of frames is the old one with the new frame put in order. -/
theorem doorbellAcceptedOrRefused : Obligations.DoorbellAcceptedOrRefused := by
  unfold Obligations.DoorbellAcceptedOrRefused
  intro s w hb hr hlow ho he m n b x taken same
  have hburst := exec_doorbell_burst hb hr ho he
  have hring := exec_doorbell_unmasked hb hr hlow ho he
  have hv := State.portReady_besidePorts s w.port
  have hnow : (s.portTime w.port).clock = ((s.portTime w.port).countWrites w.port 1).clock := (State.setPort_clock ..).symm
  have hsame : ∀ g, same g ↔ g.stream = n ∧ g.slot = true ∧ b = false ∧ g.acceptedAt = (s.portTime w.port).clock.now ∧
    g.ordinal = none ∧ g.seq = x.accepted := fun _ => Iff.rfl
  rw [hnow] at hsame
  clear_value same
  generalize (s.portTime w.port).countWrites w.port 1 = v at hburst hring hv hsame ⊢
  have hx : ∀ k, v.stream k = s.stream k := stream_of_besidePorts hv
  have hframes : v.adm.frames = s.adm.frames := congrArg (·.frames) (adm_of_besidePorts hv)
  have hreg := reg_of_besidePorts hv
  have htaken : v.acceptsDoorbell n b = true ↔ taken := by
    rw [acceptsDoorbell_of_besidePorts hv]
    exact s.acceptsDoorbell_iff n b
  refine ⟨fun h0 h1 => ?_, fun hm ht => ?_, fun hm ht => ?_⟩
  · exact hburst.trans (State.cellBurst_of_masked (by omega) h0 h1)
  · have hyield : ∀ g, same g ↔ g.yieldsTo (v.newFrame n b (BitVec.ofNat 64 w.data.toNat)) := fun g => by
      have hseq : g.seq + 1#32 = x.accepted + 1#32 ↔ g.seq = x.accepted := BitVec.add_left_inj ..
      rw [hsame, Frame.yieldsTo, ← hseq, State.newFrame, hx]
    refine ⟨_, (hring hm).trans (congrArg _ (State.ring_of_accepts (htaken.mpr ht) _)), ?_⟩
    have hstream := v.stream_acceptDoorbell n b (BitVec.ofNat 64 w.data.toNat)
    simp only [hx] at hstream
    obtain ⟨h1, h2, h3, h4, h5⟩ := StreamAdm.accept_spec x b (BitVec.ofNat 64 w.data.toNat)
    dsimp only
    rw [hstream n, if_pos rfl, State.acceptDoorbell_devTime, State.acceptDoorbell_frames, hframes]
    refine ⟨h1, h2, h3, h4, fun k hk => (hstream k).trans (if_neg hk),
      ⟨v.newFrame n b (BitVec.ofNat 64 w.data.toNat), fun hnone => ?_, fun g hg hnew => ?_, rfl, rfl, rfl, ?_, rfl, rfl, rfl, ?_⟩, ?_⟩
    · refine orderSlots_of_none fun g hg => ?_
      rcases List.mem_append.mp hg with hg | hg
      · exact fun hy => hnone g hg ((hyield g).mpr hy)
      · rw [List.mem_singleton.mp hg]
        exact Frame.not_yieldsTo_self _
    · exact orderSlots_of_unique (fun k => by rw [← hyield]; exact hg k) hnew
    · rw [State.newFrame, hx]
    · rw [State.newFrame, hx]
      split_ifs
      · exact ⟨rfl, rfl⟩
      · rfl
    · split_ifs with hover
      · rw [if_pos hover] at h5
        exact ⟨h5, by rw [State.acceptDoorbell_overrunCnt _ _ _ _ (by rwa [hx]), hreg]⟩
      · rwa [if_neg hover] at h5
  · have href : ∀ k, (v.refuseDoorbell n).stream k = if k = n then { x with refused := x.refused + 1#32 } else s.stream k := fun k => by
      rw [← hx, show x = v.stream n from (hx n).symm]
      exact State.stream_setStream ..
    refine ⟨_, (hring hm).trans (congrArg _ (State.ring_of_refuses (fun h => ht (htaken.mp h)) _)), ?_⟩
    refine ⟨(href n).trans (if_pos rfl), hframes, ?_, fun k hk => (href k).trans (if_neg hk)⟩
    rw [State.refuseDoorbell, State.reg_count, if_pos rfl, ← hreg]
    rfl

end Sys2Proof.Machine
end

section
/-! SUPPORT. Power domains: policies, and requests for the low state (R418, R419, R423). -/

namespace Sys2Proof.Machine

open Sys2Proof

/-! ## One domain moves -/

/-- Domain `d` has become `x`, and no other domain has moved. -/
def DomSet (s u : State) (d : Nat) (x : Dom) : Prop := ∀ m, u.dom m = if m = d then x else s.dom m

section
variable {s u v : State} {d : Nat} {x y : Dom}

theorem DomSet.self (h : DomSet s u d x) : u.dom d = x := (h d).trans (if_pos rfl)

theorem DomSet.other (h : DomSet s u d x) {m : Nat} (hm : m ≠ d) : u.dom m = s.dom m := (h m).trans (if_neg hm)

theorem DomSet.setDom (s : State) (d : Nat) (x : Dom) : DomSet s (s.setDom d x) d x := fun m => State.dom_setDom s d m x

theorem DomSet.of_doms (h : DomSet s u d x) (hv : v.pwr.doms = u.pwr.doms) : DomSet s v d x := fun m => by
  rw [State.dom, hv]
  exact h m

theorem DomSet.trans (h : DomSet s u d x) (h' : DomSet u v d y) : DomSet s v d y := fun m => by
  rw [h' m, h m]
  split_ifs <;> rfl

end

/-- A domain that is on begins its entry (R420). -/
theorem DomSet.enterLow {s : State} {d : Nat} (h : (s.dom d).st = 0) :
    DomSet s (s.enterLow d) d { s.dom d with st := 1, at_ := s.clock.now } := by
  rw [State.enterLow, if_pos h]
  exact DomSet.setDom s d _

/-- A low domain begins its exit, a tile block by waiting for a wave (R421, R422). -/
theorem DomSet.leaveLow {s : State} {d : Nat} (h : (s.dom d).st = 2) :
    DomSet s (s.leaveLow d) d { s.dom d with st := if d < 128 then 4 else 3, at_ := s.clock.now } := by
  rw [State.leaveLow, if_pos h]
  exact DomSet.setDom s d _

theorem OnlyPower.regs {s u : State} (h : OnlyPower s u) : u.regs = s.regs := by
  obtain ⟨p, rfl⟩ := h
  rfl

theorem OnlyPower.clock {s u : State} (h : OnlyPower s u) : u.clock = s.clock := by
  obtain ⟨p, rfl⟩ := h
  rfl

/-- REQ_LOW of domain `d` takes the value `v`. -/
def State.askLow (s : State) (d : Nat) (v : Bool) : State := s.setDom d { s.dom d with reqLow := v }

/-- A request of domain `d` that a re-placement held is dropped. -/
def State.dropHeld (s : State) (d : Nat) : State :=
  { s with pwr := { s.pwr with heldReq := s.pwr.heldReq.filter (· != d) } }

/-- A gating request is being carried out. -/
def State.beginGating (s : State) : State := { s with pwr := { s.pwr with gating := true } }

theorem DomSet.askLow (s : State) (d : Nat) (v : Bool) : DomSet s (s.askLow d v) d { s.dom d with reqLow := v } :=
  DomSet.setDom s d _

/-! ## Policies (R418) -/

/-- A spine or an HBM group follows the host. -/
theorem State.policy_of_group (s : State) {d : Nat} (h1 : 128 ≤ d) (h2 : d < 140) : s.policy d = 0 := by
  rw [State.policy, if_neg (by omega), if_pos h2]

theorem State.policy_of_usedBlock {s : State} {d : Nat} (h : d < 128) (hu : s.blockUsed d = true) : s.policy d = 0 := by
  rw [State.policy, if_pos h, if_pos hu]

theorem State.hostCond_of_block (s : State) {d : Nat} (h : d < 128) : s.hostCond d = true := if_pos h

/-- No domain beyond the tile blocks is a block of the map. -/
theorem State.blockUsed_of_ge (s : State) {d : Nat} (h : 128 ≤ d) : s.blockUsed d = false := by
  rw [State.blockUsed, List.any_eq_false]
  intro t _
  have : gblockOf t < 128 := Nat.mod_lt _ (by decide)
  simp only [beq_iff_eq]
  omega

/-! ## Writes of REQ_LOW (R419, R423) -/

theorem exec_reqLow_in_service {s : State} (hu : s.up = true) (hb : s.blockEn 13 = true) (d : BitVec 8) (v : Bool) :
    exec (.reqLow d v) s = .next (s.writeDctl d.toNat v) := by
  rw [exec_reqLow, execReqLow, hu, hb]
  rfl

section
variable {s : State} {d : Nat} (hd : d < 152)
include hd

theorem State.writeDctl_of_policy (hp : s.policy d ≠ 0) (v : Bool) : s.writeDctl d v = s.refuseLow d 2 := by
  rw [State.writeDctl, if_neg (by omega), if_pos hp]

variable (hp : s.policy d = 0)
include hp

theorem State.writeDctl_of_cond (hc : s.hostCond d = false) : s.writeDctl d true = s.refuseLow d 1 := by
  rw [State.writeDctl, if_neg (by omega), if_neg (by simp [hp]), if_pos rfl, if_pos (by simp [hc])]

theorem State.writeDctl_of_block (h : d < 128) : s.writeDctl d true = s.requestGate d := by
  rw [State.writeDctl, if_neg (by omega), if_neg (by simp [hp]), if_pos rfl, if_neg (by simp [s.hostCond_of_block h]), if_pos h]

variable (h : 128 ≤ d)
include h

theorem State.writeDctl_of_group (hc : s.hostCond d = true) :
    s.writeDctl d true = (s.askLow d true).enterLow d := by
  rw [State.writeDctl, if_neg (by omega), if_neg (by simp [hp]), if_pos rfl, if_neg (by simp [hc]), if_neg (by omega)]
  rfl

theorem State.writeDctl_release : s.writeDctl d false = ((s.askLow d false).dropHeld d).leaveLow d := by
  rw [State.writeDctl, if_neg (by omega), if_neg (by simp [hp]), if_neg (by simp)]
  exact if_neg (by omega)

end

/-- A refused request shows its reason, counts, and moves nothing else of the domains. -/
theorem State.refuseLow_spec (s : State) (d r : Nat) :
    DomSet s (s.refuseLow d r) d { s.dom d with reqLow := false, refusal := r } ∧
    (s.refuseLow d r).reg Reg.pwrRefusedCnt = s.reg Reg.pwrRefusedCnt + 1#32 ∧ (s.refuseLow d r).rbit Reg.pwrStat 3 = true := by
  refine ⟨(DomSet.setDom s d _).of_doms rfl, ?_, ?_⟩
  · rw [State.refuseLow, State.reg_setBits, if_neg (by decide), State.reg_count, if_pos rfl]
    rfl
  · rw [State.refuseLow, State.rbit_setBits_self]
    simp

/-- A request for a block of the map begins a run-empty drain where the fabric is neither drained nor draining (R423). -/
theorem State.requestGate_of_running {s : State} (b : Nat) (hr : s.remapping = false) (hd : s.draining = false)
    (hb : s.bivouac = false) :
    s.requestGate b = (s.askLow b true).beginGating.beginDrain false true := by
  have hb' : ¬ (s.askLow b true).beginGating.rbit Reg.fabStat 5 = true := by rw [Bool.not_eq_true]; exact hb
  have hd' : ¬ (s.askLow b true).beginGating.rbit Reg.fabStat 4 = true := by rw [Bool.not_eq_true]; exact hd
  rw [State.requestGate, if_neg (by simp [hr])]
  exact (if_neg hb').trans (if_neg hd')

theorem State.beginDrain_spec (s : State) (scan gate : Bool) :
    (s.beginDrain scan gate).draining = true ∧ (s.beginDrain scan gate).fab.drainScan = scan ∧
    (s.beginDrain scan gate).pwr = s.pwr ∧ (s.beginDrain scan gate).adm = s.adm ∧
    (s.beginDrain scan gate).committed = s.committed := by
  refine ⟨?_, rfl, rfl, rfl, rfl⟩
  exact (State.rbit_setBits_self s Reg.fabStat 0x10#32 4).trans (by simp)

theorem State.partly_of_gating {s : State} (hc : s.committed = true) (hg : s.pwr.gating = true) : s.partly = true := by
  simp [State.partly, hc, hg]

theorem reqLowByPolicy : Claims.ReqLowByPolicy := by
  intro s d hu hb hd n refused
  have hexec : ∀ v, exec (.reqLow d v) s = .next (s.writeDctl n v) := exec_reqLow_in_service hu hb d
  change n < 152 at hd
  clear_value n
  have hrefuse : ∀ v r, s.writeDctl n v = s.refuseLow n r → refused v r := fun v r hw => by
    obtain ⟨hdom, hcnt, hstat⟩ := s.refuseLow_spec n r
    refine ⟨_, (hexec v).trans (congrArg _ hw), ?_⟩
    dsimp only
    rw [hdom.self]
    exact ⟨rfl, rfl, rfl, hcnt, hstat, fun m hm => hdom.other hm⟩
  refine ⟨fun hp => ⟨?_, ?_⟩, fun hp hc => ?_, fun h1 h2 hc hst => ?_, fun h1 h2 hst => ?_, fun h1 hused hcom hr hdr hbv => ?_⟩
  · exact hrefuse _ _ (State.writeDctl_of_policy hd hp _)
  · exact hrefuse _ _ (State.writeDctl_of_policy hd hp _)
  · exact hrefuse _ _ (State.writeDctl_of_cond hd hp hc)
  · have hask := DomSet.askLow s n true
    have hdom := hask.trans (DomSet.enterLow (by rw [hask.self]; exact hst))
    refine ⟨_, (hexec true).trans (congrArg _ (State.writeDctl_of_group hd (s.policy_of_group h1 h2) h1 hc)), ?_⟩
    dsimp only
    rw [hdom.self, hask.self]
    exact ⟨rfl, rfl, (OnlyPower.enterLow _ n).regs, fun m hm => hdom.other hm⟩
  · have hask : DomSet s ((s.askLow n false).dropHeld n) n { s.dom n with reqLow := false } :=
      (DomSet.askLow s n false).of_doms rfl
    have hdom := hask.trans (DomSet.leaveLow (by rw [hask.self]; exact hst))
    refine ⟨_, (hexec false).trans (congrArg _ (State.writeDctl_release hd (s.policy_of_group h1 h2) h1)), ?_⟩
    dsimp only
    rw [hdom.self, hask.self]
    exact ⟨if_neg (by omega), rfl, (OnlyPower.leaveLow _ n).regs, fun m hm => hdom.other hm⟩
  · have hwrite := (State.writeDctl_of_block hd (State.policy_of_usedBlock h1 hused) h1).trans
      (State.requestGate_of_running n hr hdr hbv)
    obtain ⟨hdrain, hscan, hpwr, hadm, hcm⟩ := (s.askLow n true).beginGating.beginDrain_spec false true
    have hdom : DomSet s ((s.askLow n true).beginGating.beginDrain false true) n { s.dom n with reqLow := true } :=
      (DomSet.askLow s n true).of_doms rfl
    refine ⟨_, (hexec true).trans (congrArg _ hwrite), State.partly_of_gating (hcm.trans hcom) (congrArg Pwr.gating hpwr), hdrain, ?_,
      hscan, hadm⟩
    rw [hdom.self]

end Sys2Proof.Machine
end

section
/-! SUPPORT. The ends of entries and exits of power domains, and the waves between them (R416, R418, R420 to R422, R424). -/

namespace Sys2Proof.Machine

open Sys2Proof

/-! ## What the low state loses (R418, R420) -/

theorem tget_of_not_listed {α : Type} (d : α) {t : Tbl α} {i : Nat} (h : ∀ p ∈ t, p.1 ≠ i) : tget d t i = d := by
  induction t with
  | nil => rfl
  | cons p t ih =>
    have hp : i ≠ p.1 := (h p List.mem_cons_self).symm
    rw [tget, if_neg hp, ih fun q hq => h q (List.mem_cons_of_mem _ hq), ite_self]

theorem State.loseDomain_pwr (s : State) (d : Nat) : (s.loseDomain d).pwr = s.pwr := by
  rw [State.loseDomain]
  split_ifs
  · exact foldl_keeps (p := State.pwr) (g := fun u (p : Nat × Nat × TileAddr) => u.keepStats p.1 p.2.2) (fun _ _ => rfl) _ s
  all_goals rfl

theorem State.loseDomain_regs (s : State) (d : Nat) : (s.loseDomain d).regs = s.regs := by
  rw [State.loseDomain]
  split_ifs
  · exact foldl_keeps (p := State.regs) (g := fun u (p : Nat × Nat × TileAddr) => u.keepStats p.1 p.2.2) (fun _ _ => rfl) _ s
  all_goals rfl

/-- A tile block loses its tiles. -/
theorem State.loseDomain_tile (s : State) {d : Nat} (hd : d < 128) {t : TileAddr} (ht : gblockOf t = d) :
    (s.loseDomain d).tile t = Tile.zero := by
  rw [State.loseDomain, if_pos hd]
  refine tget_of_not_listed _ fun p hp he => ?_
  have hkey := (List.mem_filter.mp hp).2
  rw [he] at hkey
  simp [gblockOf] at ht hkey
  exact hkey ht

theorem onlyIf_of_false {c : Bool} (h : c = false) (s t : State) : onlyIf c s t = .next s := by rw [h, onlyIf_false]

theorem onlyIf_of_true {c : Bool} (h : c = true) (s t : State) : onlyIf c s t = .next t := by rw [h, onlyIf_true]

/-- Domain `d` is low, and its entry and the transition are counted. -/
def State.domainLow (s : State) (d : Nat) : State :=
  (s.setDom d { s.dom d with st := 2, entries := (s.dom d).entries + 1#32 }).count Reg.pwrTransCnt 1

/-- The state at the end of an entry in which no lift waits. -/
theorem exec_powerEntryComplete_moving {s : State} {d : BitVec 8} {n : Nat} (hd : d.toNat = n) (hm : s.moving = true) (hn : n < 152)
    (hst : (s.dom n).st = 1) (hl : n ∉ s.pwr.liftHeld) :
    exec (.powerEntryComplete d) s = .next ((s.domainLow n).loseDomain n) := by
  subst hd
  rw [exec_powerEntryComplete, execPowerEntryComplete, onlyIf_of_true (by simp [hm, hn, hst])]
  refine congrArg _ (if_neg ?_)
  rw [State.loseDomain_pwr]
  change ¬ s.pwr.liftHeld.contains d.toNat = true
  simpa using hl

/-- What the low state loses moves no domain and no register word. -/
theorem State.domainLow_loseDomain_spec (s : State) (d : Nat) :
    DomSet s ((s.domainLow d).loseDomain d) d { s.dom d with st := 2, entries := (s.dom d).entries + 1#32 } ∧
    ((s.domainLow d).loseDomain d).reg Reg.pwrTransCnt = s.reg Reg.pwrTransCnt + 1#32 := by
  refine ⟨(DomSet.setDom s d _).of_doms (congrArg Pwr.doms (State.loseDomain_pwr ..)), ?_⟩
  rw [State.reg, State.loseDomain_regs]
  exact (State.reg_count ..).trans (if_pos rfl)

/-! ## What an exit resets (R416, R421) -/

section
variable (s : State) (p : TileAddr → Bool) (q : Nat → Bool)

theorem State.loseCrossings_frame :
    ∃ r ls, s.loseCrossings p q = { s with regs := r, fab := { s.fab with links := ls } } := by
  unfold State.loseCrossings
  dsimp only
  split_ifs
  · exact ⟨_, _, rfl⟩
  · exact ⟨_, _, rfl⟩

theorem State.loseCrossings_links :
    (s.loseCrossings p q).fab.links = s.fab.links.filter (fun l => !inCrossing p q l) := by
  unfold State.loseCrossings
  dsimp only
  split_ifs with h
  · refine (List.filter_eq_self.mpr fun l hl => ?_).symm
    have := List.filter_eq_nil_iff.mp (List.length_eq_zero_iff.mp h) l hl
    simpa using this
  · rfl

/-- The words discarded are counted, and any shows in CLK_STAT. -/
theorem State.reg_loseCrossings (a : Nat) :
    (s.loseCrossings p q).reg a =
      if a = Reg.clkDcqLostCnt then s.reg a + BitVec.ofNat 32 (s.fab.links.filter (inCrossing p q)).length
      else if a = Reg.clkStat ∧ (s.fab.links.filter (inCrossing p q)).length ≠ 0 then s.reg a ||| 0x4#32 else s.reg a := by
  unfold State.loseCrossings
  dsimp only
  generalize hn : (s.fab.links.filter (inCrossing p q)).length = n
  have hreg : ∀ ls, ({ s with fab := { s.fab with links := ls } } : State).reg a = s.reg a := fun _ => rfl
  by_cases h : n = 0
  · simp [h]
  · rw [if_neg h, State.reg_setBits, State.reg_count, State.reg_count]
    by_cases h1 : a = Reg.clkStat
    · subst h1
      simp [h, hreg]
    · by_cases h2 : a = Reg.clkDcqLostCnt
      · subst h2
        simp [hreg]
      · simp [h1, h2, hreg]

end

/-- No dual-clock queue has a side among no tiles and no units. -/
theorem inCrossing_of_none {p : TileAddr → Bool} {q : Nat → Bool} (hp : ∀ t, p t = false) (hq : ∀ u, q u = false) (l : LinkWord) :
    inCrossing p q l = false := by
  unfold inCrossing
  dsimp only
  simp only [hp, hq, Option.any_false, Bool.or_self, Bool.and_false]
  split_ifs
  · rfl
  · rfl
  · split <;> rfl

/-- A word stands in a dual-clock queue that the exit of domain `d` resets. -/
def exitHit (d : Nat) : LinkWord → Bool :=
  inCrossing (fun t => gblockOf t == d || (decide (128 ≤ d) && sectorOf t == d - 128)) (fun u => d == u + 140 && (u == 7 || u == 8))

theorem exitHit_of_port {d : Nat} (h : d = 144 ∨ d = 145) (l : LinkWord) : exitHit d l = false := by
  refine inCrossing_of_none (fun t => ?_) (fun u => ?_) l
  · have h1 : gblockOf t < 128 := Nat.mod_lt _ (by decide)
    have h2 : sectorOf t < 8 := Nat.mod_lt _ (by decide)
    simp only [Bool.or_eq_false_iff, Bool.and_eq_false_iff, beq_eq_false_iff_ne]
    omega
  · simp only [Bool.and_eq_false_iff, Bool.or_eq_false_iff, beq_eq_false_iff_ne]
    omega

/-- The dual-clock queues at the end of an exit: a port's by the command's operand, any other domain's by what stands in them. -/
def State.exitQueues (s : State) (d : Nat) (lost : BitVec 32) : State :=
  if lost = 0 ∨ (d ≠ 144 ∧ d ≠ 145) then s.resyncDomain d
  else (s.count Reg.clkDcqLostCnt lost.toNat).setBits Reg.clkStat 0x4#32

section
variable (s : State) (d : Nat) (lost : BitVec 32)

theorem State.exitQueues_frame :
    ∃ r ls, s.exitQueues d lost = { s with regs := r, fab := { s.fab with links := ls } } := by
  unfold State.exitQueues
  split_ifs
  · exact s.loseCrossings_frame _ _
  · exact ⟨_, _, rfl⟩

theorem State.reg_exitQueues_of_ne {a : Nat} (h1 : a ≠ Reg.clkDcqLostCnt) (h2 : a ≠ Reg.clkStat) :
    (s.exitQueues d lost).reg a = s.reg a := by
  unfold State.exitQueues
  split_ifs
  · rw [State.resyncDomain, State.reg_loseCrossings, if_neg h1, if_neg (fun h => h2 h.1)]
  · rw [State.reg_setBits, if_neg h2, State.reg_count, if_neg h1]

theorem State.exitQueues_of_port (h : d = 144 ∨ d = 145) :
    (s.exitQueues d lost).reg Reg.clkDcqLostCnt = s.reg Reg.clkDcqLostCnt + lost ∧
    (lost ≠ 0 → (s.exitQueues d lost).rbit Reg.clkStat 2 = true) := by
  unfold State.exitQueues
  by_cases hl : lost = 0
  · have hnone : s.fab.links.filter (exitHit d) = [] := List.filter_eq_nil_iff.mpr fun l _ => by simp [exitHit_of_port h l]
    rw [exitHit] at hnone
    refine ⟨?_, fun h => absurd hl h⟩
    rw [if_pos (.inl hl), State.resyncDomain, State.reg_loseCrossings, if_pos rfl, hnone, hl]
    rfl
  · rw [if_neg (not_or.mpr ⟨hl, by omega⟩)]
    refine ⟨?_, fun _ => ?_⟩
    · rw [State.reg_setBits, if_neg (by decide), State.reg_count, if_pos rfl, BitVec.ofNat_toNat, BitVec.setWidth_eq]
    · rw [State.rbit_setBits_self]
      simp

theorem State.exitQueues_of_other (h1 : d ≠ 144) (h2 : d ≠ 145) :
    (s.exitQueues d lost).fab.links = s.fab.links.filter (fun l => !exitHit d l) ∧
    (s.exitQueues d lost).reg Reg.clkDcqLostCnt =
      s.reg Reg.clkDcqLostCnt + BitVec.ofNat 32 (s.fab.links.filter (exitHit d)).length ∧
    ((s.fab.links.filter (exitHit d)).length ≠ 0 → (s.exitQueues d lost).rbit Reg.clkStat 2 = true) := by
  rw [State.exitQueues, if_pos (.inr ⟨h1, h2⟩), State.resyncDomain]
  refine ⟨State.loseCrossings_links .., (State.reg_loseCrossings ..).trans (if_pos rfl), fun hl => ?_⟩
  rw [State.rbit, State.reg_loseCrossings, if_neg (by decide), if_pos ⟨rfl, hl⟩]
  simp [bit]

end

/-- The domain at the end of an exit, with the duration of the exit. -/
def Dom.exited (x : Dom) (now : Nat) : Dom := { x with st := 0, lastExit := BitVec.ofNat 32 ((now - x.at_) / 100) }

/-- Domain `d` is on, and the transition is counted. -/
def State.domainOn (s : State) (d : Nat) : State := (s.setDom d ((s.dom d).exited s.clock.now)).count Reg.pwrTransCnt 1

theorem State.reg_domainOn (s : State) (d a : Nat) :
    (s.domainOn d).reg a = if a = Reg.pwrTransCnt then s.reg Reg.pwrTransCnt + 1#32 else s.reg a := State.reg_count ..

/-- The HBM group that an exit wakes leaves self-refresh, and its channels recalibrate (R315, R421). -/
def State.wakeStack (s : State) (d : Nat) : State :=
  if 136 ≤ d ∧ d < 140 then
    { s with hbm := { s.hbm with
        selfRef := s.hbm.selfRef &&& ~~~(BitVec.ofNat 4 (2 ^ (d - 136)))
        chans := (upto 16).foldl (fun m i => tmod Chan.zero m (16 * (d - 136) + i) (fun c => { c with recalAt := s.clock.now }))
          s.hbm.chans } }
  else s

/-- What follows the exit of a tile block: the reload of the blocks of the map, or the low state again of an unused one. -/
def State.afterExit (s : State) (d : Nat) : State :=
  if d < 128 && s.pwr.gating && s.gatedBlocks.isEmpty then { s with pwr := { s.pwr with reloading := true } }
  else if d < 128 && !(s.blockUsed d) && s.autoLow d then s.enterLow d else s

theorem execPowerExitComplete_eq (d : BitVec 8) (lost : BitVec 32) (s : State) :
    execPowerExitComplete d lost s = onlyIf (s.moving && d.toNat < 152 && (s.dom d.toNat).st == 3) s
      ((((s.domainOn d.toNat).exitQueues d.toNat lost).wakeStack d.toNat).afterExit d.toNat) := rfl

theorem State.wakeStack_frame (s : State) (d : Nat) : ∃ hb, s.wakeStack d = { s with hbm := hb } := by
  unfold State.wakeStack
  split_ifs
  · exact ⟨_, rfl⟩
  · exact ⟨_, rfl⟩

theorem State.afterExit_frame {s : State} {d : Nat} (h : 128 ≤ d ∨ s.blockUsed d = true) :
    ∃ rl, s.afterExit d = { s with pwr := { s.pwr with reloading := rl } } := by
  have hstay : ¬ (d < 128 && !(s.blockUsed d) && s.autoLow d) = true := by
    rcases h with h | h
    · simp [Nat.not_lt.mpr h]
    · simp [h]
  rw [State.afterExit, if_neg hstay]
  split_ifs
  · exact ⟨_, rfl⟩
  · exact ⟨_, rfl⟩

/-- Beside the domain, its count and the dual-clock queues, the exit of a domain that is no unused block moves HBM and the mark of a
reload alone. -/
theorem exec_powerExitComplete_moving {s : State} {d : BitVec 8} {n : Nat} (hd : d.toNat = n) (lost : BitVec 32)
    (hm : s.moving = true) (hn : n < 152) (hst : (s.dom n).st = 3) (hused : 128 ≤ n ∨ s.blockUsed n = true) :
    ∃ u, exec (.powerExitComplete d lost) s = .next u ∧ DomSet s u n ((s.dom n).exited s.clock.now) ∧
      (∀ a, u.reg a = ((s.domainOn n).exitQueues n lost).reg a) ∧ u.fab = ((s.domainOn n).exitQueues n lost).fab := by
  subst hd
  refine ⟨_, (execPowerExitComplete_eq d lost s).trans (onlyIf_of_true (by simp [hm, hn, hst]) _ _), ?_⟩
  obtain ⟨r, ls, hq⟩ := (s.domainOn d.toNat).exitQueues_frame d.toNat lost
  obtain ⟨hb, hw⟩ := ((s.domainOn d.toNat).exitQueues d.toNat lost).wakeStack_frame d.toNat
  have hused' : 128 ≤ d.toNat ∨ (((s.domainOn d.toNat).exitQueues d.toNat lost).wakeStack d.toNat).blockUsed d.toNat = true := by
    rw [hw, hq]
    exact hused
  obtain ⟨rl, ht⟩ := State.afterExit_frame hused'
  rw [ht, hw]
  exact ⟨(DomSet.setDom s d.toNat _).of_doms (by rw [hq]; rfl), fun _ => rfl, rfl⟩

/-! ## Waves (R422) -/

/-- A queued tile block closes its switches. -/
def State.closeSwitch (s : State) (b : Nat) : State := s.setDom b { s.dom b with st := 3, at_ := s.clock.now }

theorem foldl_closeSwitch_st (l : List Nat) : ∀ (s : State) (b : Nat),
    ((l.foldl State.closeSwitch s).dom b).st = if b ∈ l then 3 else (s.dom b).st := by
  induction l with
  | nil => exact fun _ _ => rfl
  | cons a l ih =>
    intro s b
    rw [List.foldl_cons, ih, State.closeSwitch, State.dom_setDom]
    by_cases h1 : b ∈ l <;> by_cases h2 : b = a <;> simp [h1, h2]

theorem foldl_closeSwitch_clock (l : List Nat) (s : State) : (l.foldl State.closeSwitch s).clock = s.clock :=
  foldl_keeps (p := State.clock) (g := State.closeSwitch) (fun _ _ => rfl) l s

/-- The tile blocks whose switches may close: queued, with the spine of their sector on. -/
def State.readyBlocks (s : State) : List Nat :=
  (upto 128).filter (fun b => (s.dom b).st == 4 && (s.dom (128 + b / 16)).st == 0)

/-- When the next wave may come. -/
def State.waveDue (s : State) : Nat := match s.pwr.waveAt with | some t => t + usSteps 8 | none => 0

theorem State.until_moving (s : State) (t : Nat) : (s.until t).moving = s.moving := by
  simp only [State.moving, State.up, State.rbit, State.reg, State.until_pins, State.until_regs]

theorem State.until_dom (s : State) (t d : Nat) : (s.until t).dom d = s.dom d := by
  simp only [State.dom, State.until_pwr]

theorem State.until_readyBlocks (s : State) (t : Nat) : (s.until t).readyBlocks = s.readyBlocks := by
  simp only [State.readyBlocks, State.until_dom]

/-- The state after a wave: the eight lowest blocks that are ready close their switches. -/
def State.wave (s : State) : State :=
  let u := (s.readyBlocks.take 8).foldl State.closeSwitch s
  { u with pwr := { u.pwr with waveAt := some s.clock.now } }

theorem State.wave_spec (s : State) :
    (∀ b, (s.wave.dom b).st = if b ∈ s.readyBlocks.take 8 then 3 else (s.dom b).st) ∧ s.wave.clock = s.clock ∧
    s.wave.pwr.waveAt = some s.clock.now :=
  ⟨foldl_closeSwitch_st _ s, foldl_closeSwitch_clock _ s, rfl⟩

theorem execInrushWave_eq (s : State) :
    execInrushWave s = onlyIf ((s.until s.waveDue).moving && !(s.until s.waveDue).readyBlocks.isEmpty) s (s.until s.waveDue).wave := rfl

/-- While a trip stops them no transition ends (R424). -/
theorem exec_of_not_moving {s : State} (hm : s.moving = false) (d : BitVec 8) (lost : BitVec 32) :
    ∀ i ∈ [Instr.powerEntryComplete d, .powerExitComplete d lost, .inrushWave], exec i s = .next s := by
  have hwave : ∀ t, ((s.until t).moving && !(s.until t).readyBlocks.isEmpty) = false := fun t => by
    rw [State.until_moving, hm, Bool.false_and]
  intro i hi
  simp only [List.mem_cons, List.not_mem_nil, or_false] at hi
  obtain rfl | rfl | rfl := hi
  · exact onlyIf_of_false (by simp [hm]) s _
  · exact (execPowerExitComplete_eq d lost s).trans (onlyIf_of_false (by simp [hm]) s _)
  · exact (execInrushWave_eq s).trans (onlyIf_of_false (hwave _) s _)

end Sys2Proof.Machine
end

section
/-! SUPPORT. The end of a reload (R28, R423), requests to start a clock (R417), and what the power domains do. -/

namespace Sys2Proof.Machine

open Sys2Proof

/-! ## What brings a block of the map back (R28, R423) -/

/-- A tile whose counters are loaded for the slot that becomes active. -/
def Tile.startAt (x : Tile) (slot : Nat) : Tile := ({ x with active := BitVec.ofNat 2 slot } : Tile).loadCounters slot

theorem Tile.startAt_held (x : Tile) (slot : Nat) : (x.startAt slot).held = x.held := rfl

/-- A tile with its fill word in S63, its queues, its active slot and what it keeps for its variants. -/
def Tile.fitOut (x : Tile) (fill : Word) (qs : Tbl Queue) (slot : BitVec 2) (wk : Tbl Work) : Tile :=
  { x with s := tset 0#32 x.s 63 fill, queues := qs, active := slot, work := wk }

theorem Tile.fitOut_loadCounters_held (x : Tile) (fill : Word) (qs : Tbl Queue) (slot : BitVec 2) (wk : Tbl Work) (n : Nat) :
    ((x.fitOut fill qs slot wk).loadCounters n).held = x.held := rfl

theorem loadTile_eq (c : Memory) (digest map : BitVec 512) (st i : Nat) (t : TileAddr) (bank : Nat) :
    loadTile c digest map st i t bank =
      (((({ Tile.zero with held := false } : Tile).loadBlock c (weightBlk c st i)).loadBlock c (schedBlk c st i)).writeBank c map st i t
        bank |>.fitOut (fillWord c st) (tfill Queue.zero 16 (fun k => { Queue.zero with cfg := commitCfg digest map st i t k }) [])
        (BitVec.ofNat 2 (2 * bank)) (tfill Work.zero 2 (fun v => loadWork c map st t (v == 1)) [])).loadCounters (2 * bank) := rfl

/-- Loading a tile releases it from reset. -/
theorem loadTile_held (c : Memory) (digest map : BitVec 512) (st i : Nat) (t : TileAddr) (bank : Nat) :
    (loadTile c digest map st i t bank).held = false := by
  have hbank : ∀ x : Tile, x.held = false → (x.writeBank c map st i t bank).held = false := fun x hx =>
    List.foldlRecOn (motive := fun y : Tile => y.held = false) _ _ hx fun _ hy _ _ => hy
  have hblock : ∀ (x : Tile) (o : Nat), x.held = false → (x.loadBlock c o).held = false := fun _ _ hx => hx
  rw [loadTile_eq, Tile.fitOut_loadCounters_held]
  exact hbank _ (hblock _ _ (hblock _ _ rfl))

theorem mem_mapTiles {pitch : List (List TileAddr)} {t : TileAddr} (h : t ∈ pitch.flatten) : ∃ st i, (st, i, t) ∈ mapTiles pitch := by
  obtain ⟨ts, hts, ht⟩ := List.mem_flatten.mp h
  obtain ⟨st, hst, rfl⟩ := List.getElem_of_mem hts
  obtain ⟨i, hi, rfl⟩ := List.getElem_of_mem ht
  refine ⟨st, i, List.mem_flatten.mpr ⟨_, List.mem_map.mpr ⟨st, by simpa [upto] using hst, rfl⟩, ?_⟩⟩
  simp [upto, hst, hi]

/-- A tile that is released, or among tiles written as released ones, stays released. -/
theorem foldl_setTile_held {α : Type} {f : α → TileAddr} {g : α → Tile} (hg : ∀ a, (g a).held = false) {t : TileAddr} :
    ∀ (l : List α) (s : State), (s.tile t).held = false ∨ (∃ a ∈ l, f a = t) →
      ((l.foldl (fun u a => u.setTile (f a) (g a)) s).tile t).held = false
  | [], s, h => h.resolve_right (by simp)
  | a :: l, s, h => by
    refine foldl_setTile_held hg l _ ?_
    rw [State.tile_setTile_of]
    by_cases ha : t = f a
    · rw [if_pos ha]
      exact .inl (hg a)
    · rw [if_neg ha]
      refine h.imp_right fun ⟨b, hb, hf⟩ => ⟨b, (List.mem_cons.mp hb).resolve_left fun e => ha ?_, hf⟩
      rw [← hf, e]

theorem foldl_setTile_twf {α : Type} (f : α → TileAddr) (g : α → Tile) (l : List α) {s : State}
    (h : twf Tile.zero s.fab.tiles = true) :
    twf Tile.zero (l.foldl (fun u a => u.setTile (f a) (g a)) s).fab.tiles = true :=
  List.foldlRecOn (motive := fun u : State => twf Tile.zero u.fab.tiles = true) _ _ h fun u hu _ _ => twf_tset _ u.fab.tiles _ _ hu

/-- A tile whose frames are numbered afresh. -/
def Tile.renumbered (x : Tile) : Tile :=
  { x with sent := [], taken := [], work := tmap Work.zero (fun _ k => k.clear 0) x.work }

/-- Numbering the frames afresh holds no tile in reset. -/
theorem State.rebase_tile_held {s : State} (h : twf Tile.zero s.fab.tiles = true) (t : TileAddr) :
    (s.rebase.tile t).held = (s.tile t).held := by
  have htile : s.rebase.tile t = (s.tile t).renumbered :=
    tget_tmap (d := Tile.zero) (f := fun _ => Tile.renumbered) (fun _ => rfl) h t.toNat
  rw [htile]
  rfl

/-- A tile of the map takes the credits of its lanes for both variants of its active slot. -/
def State.giveCredits (s : State) (t : TileAddr) : State :=
  let x := s.tile t
  let a := x.active.toNat
  let b := 2 * (a / 2) + (1 - a % 2)
  let y := (x.lanes b).foldl (fun y l => y.setCredit l (s.laneCredit t b l)) x
  s.setTile t ((x.lanes a).foldl (fun y l => y.setCredit l (s.laneCredit t a l)) y)

theorem State.loadCredits_eq (s : State) : s.loadCredits = s.usedTiles.foldl State.giveCredits s := rfl

theorem foldl_setCredit_held (n : Nat → Nat) (l : List Nat) (x : Tile) :
    (l.foldl (fun y k => y.setCredit k (n k)) x).held = x.held :=
  List.foldlRecOn (motive := fun y : Tile => y.held = x.held) _ _ rfl fun _ hy _ _ => hy

/-- Nor does giving every lane its credits. -/
theorem State.loadCredits_tile_held (s : State) (t : TileAddr) : (s.loadCredits.tile t).held = (s.tile t).held := by
  refine foldl_keeps (g := State.giveCredits) (p := fun u => (u.tile t).held) (fun u t' => ?_) _ s
  rw [State.giveCredits, State.tile_setTile_of]
  split_ifs with h
  · rw [foldl_setCredit_held, foldl_setCredit_held, h]
  · rfl

theorem State.loadCredits_keeps (s : State) :
    s.loadCredits.plc = s.plc ∧ s.loadCredits.pwr = s.pwr ∧ s.loadCredits.fab.drainGate = s.fab.drainGate :=
  ⟨foldl_keeps (g := State.giveCredits) (p := State.plc) (fun _ _ => rfl) _ s,
    foldl_keeps (g := State.giveCredits) (p := State.pwr) (fun _ _ => rfl) _ s,
    foldl_keeps (g := State.giveCredits) (p := fun u => u.fab.drainGate) (fun _ _ => rfl) _ s⟩

theorem State.requestedBlocks_congr {s u : State} (hplc : u.plc = s.plc) (hdoms : u.pwr.doms = s.pwr.doms) :
    u.requestedBlocks = s.requestedBlocks := by
  simp only [State.requestedBlocks, State.blockUsed, State.usedTiles, State.dom, hplc, hdoms]

theorem State.gatedBlocks_congr {s u : State} (hplc : u.plc = s.plc) (hdoms : u.pwr.doms = s.pwr.doms) :
    u.gatedBlocks = s.gatedBlocks := by
  simp only [State.gatedBlocks, State.blockUsed, State.usedTiles, State.dom, hplc, hdoms]

/-- Gating has ended. -/
def State.endGating (s : State) : State := { s with pwr := { s.pwr with gating := false, reloading := false } }

/-- With no block requested and none low any more the Y6 resumes (R423). -/
theorem State.gateBlocks_of_awake {s : State} (h1 : s.requestedBlocks = []) (h2 : s.gatedBlocks = []) (hd : s.fab.drainGate = true) :
    s.gateBlocks = s.endGating.leaveBivouac := by
  have hempty : (s.requestedBlocks.isEmpty && s.gatedBlocks.isEmpty) = true := by rw [h1, h2]; rfl
  rw [State.gateBlocks, h1, List.foldl_nil, if_pos hempty]
  exact if_pos hd

/-- What is sent again from bivouac moves words alone. -/
theorem State.sendUnsent_keeps (s : State) :
    s.sendUnsent.regs = s.regs ∧ s.sendUnsent.pwr = s.pwr ∧ s.sendUnsent.fab.tiles = s.fab.tiles := by
  have hoffer : ∀ (u : State) (l : LinkWord), (u.offer l).regs = u.regs ∧ (u.offer l).pwr = u.pwr ∧
      (u.offer l).fab.tiles = u.fab.tiles := fun u l => by
    unfold State.offer
    split_ifs
    · exact ⟨rfl, rfl, rfl⟩
    · exact ⟨rfl, rfl, rfl⟩
  exact ⟨foldl_keeps (p := State.regs) (fun u l => (hoffer u l).1) _ _, foldl_keeps (p := State.pwr) (fun u l => (hoffer u l).2.1) _ _,
    foldl_keeps (p := fun u => u.fab.tiles) (fun u l => (hoffer u l).2.2) _ _⟩

theorem State.leaveBivouac_spec (s : State) :
    s.leaveBivouac.rbit Reg.fabCtl 0 = true ∧ s.leaveBivouac.bivouac = false ∧ s.leaveBivouac.pwr = s.pwr ∧
    ∀ t, s.leaveBivouac.tile t = s.tile t := by
  let v : State := (s.setBits Reg.fabCtl 1#32).clrBits Reg.fabStat 0x20#32
  obtain ⟨hregs, hpwr, htiles⟩ := State.sendUnsent_keeps { v with fab := { v.fab with stopped := false, drainGate := false } }
  have hreg : ∀ a, s.leaveBivouac.reg a = v.reg a := fun a => congrArg (tget 0#32 · a) hregs
  refine ⟨?_, ?_, hpwr, fun t => congrArg (tget Tile.zero · t.toNat) htiles⟩
  · rw [State.rbit, hreg, State.reg_clrBits, if_neg (by decide)]
    exact (s.rbit_setBits_self Reg.fabCtl 1#32 0).trans (by simp)
  · rw [State.bivouac, State.rbit, hreg, State.reg_clrBits, if_pos rfl]
    simp [bit]

/-- The tiles that a reload loads: those of the map in reset that TCTL does not hold. -/
def State.tilesToLoad (s : State) : List (Nat × Nat × TileAddr) :=
  (mapTiles s.plc.pitch).filter (fun p => (s.tile p.2.2).held && !(s.tile p.2.2).hold)

/-- A tile as a reload leaves it, at the slot that admission uses. -/
def State.reloadedTile (s : State) (p : Nat × Nat × TileAddr) : Tile :=
  (loadTile s.img.copy s.img.digest s.plc.pitchDigest p.1 p.2.1 p.2.2 (b2n s.bank)).startAt s.admissionSlot

/-- The state in which the tiles have been loaded. -/
def State.reloaded (s : State) : State := s.tilesToLoad.foldl (fun u p => u.setTile p.2.2 (s.reloadedTile p)) s

/-- The reload is over. -/
def State.endReload (s : State) : State := { s with pwr := { s.pwr with reloading := false } }

/-- The state in which the blocks are back, with frames numbered afresh and every lane's credits. -/
def State.afterReload (s : State) : State := s.reloaded.endReload.rebase.loadCredits

theorem execBlockReloadComplete_eq (ue : Bool) (s : State) :
    execBlockReloadComplete ue s = onlyIf (s.engineUp && s.pwr.reloading &&
      !(upto 8).any (fun i => (tget TStream.zero s.stm.ts (16 + i)).active.isSome)) s
      (if ue then s.deviceFault 6 else s.afterReload.gateBlocks) := rfl

theorem State.reloaded_keeps (s : State) :
    s.reloaded.plc = s.plc ∧ s.reloaded.pwr = s.pwr ∧ s.reloaded.fab.drainGate = s.fab.drainGate :=
  ⟨foldl_keeps (g := fun u (p : Nat × Nat × TileAddr) => u.setTile p.2.2 (s.reloadedTile p)) (p := State.plc) (fun _ _ => rfl) _ s,
    foldl_keeps (g := fun u (p : Nat × Nat × TileAddr) => u.setTile p.2.2 (s.reloadedTile p)) (p := State.pwr) (fun _ _ => rfl) _ s,
    foldl_keeps (g := fun u (p : Nat × Nat × TileAddr) => u.setTile p.2.2 (s.reloadedTile p)) (p := fun u => u.fab.drainGate)
      (fun _ _ => rfl) _ s⟩

theorem State.reloadedTile_held (s : State) (p : Nat × Nat × TileAddr) : (s.reloadedTile p).held = false := by
  rw [State.reloadedTile, Tile.startAt_held, loadTile_held]

/-- After the reload every tile of the map that TCTL does not hold is released. -/
theorem State.reloaded_tile_held {s : State} {t : TileAddr} (ht : t ∈ s.usedTiles) (hh : (s.tile t).hold = false) :
    (s.reloaded.tile t).held = false := by
  refine foldl_setTile_held s.reloadedTile_held _ _ ?_
  by_cases hheld : (s.tile t).held = true
  · obtain ⟨st, i, hmem⟩ := mem_mapTiles ht
    exact .inr ⟨(st, i, t), List.mem_filter.mpr ⟨hmem, by simp [hheld, hh]⟩, rfl⟩
  · exact .inl (by simpa using hheld)

theorem exec_blockReloadComplete_over {s : State} (he : s.engineUp = true) (hr : s.pwr.reloading = true)
    (hs : ∀ i, i < 8 → (tget TStream.zero s.stm.ts (16 + i)).active = none) :
    exec (.blockReloadComplete false) s = .next s.afterReload.gateBlocks := by
  have hstill : (upto 8).any (fun i => (tget TStream.zero s.stm.ts (16 + i)).active.isSome) = false := by
    rw [List.any_eq_false]
    exact fun i hi => by rw [hs i (by simpa [upto] using hi)]; simp
  rw [exec_blockReloadComplete, execBlockReloadComplete_eq, if_neg Bool.false_ne_true]
  exact onlyIf_of_true (by rw [he, hr, hstill]; rfl) s _

theorem State.afterReload_keeps (s : State) :
    s.afterReload.plc = s.plc ∧ s.afterReload.pwr.doms = s.pwr.doms ∧ s.afterReload.fab.drainGate = s.fab.drainGate := by
  obtain ⟨hplc, hpwr, hdrain⟩ := s.reloaded_keeps
  obtain ⟨hplc', hpwr', hdrain'⟩ := s.reloaded.endReload.rebase.loadCredits_keeps
  have hdoms : s.reloaded.endReload.rebase.pwr.doms = s.reloaded.pwr.doms := rfl
  exact ⟨hplc'.trans hplc, (congrArg Pwr.doms hpwr').trans (hdoms.trans (congrArg Pwr.doms hpwr)), hdrain'.trans hdrain⟩

theorem State.afterReload_tile_held {s : State} (hw : twf Tile.zero s.fab.tiles = true) {t : TileAddr} (ht : t ∈ s.usedTiles)
    (hh : (s.tile t).hold = false) : (s.afterReload.tile t).held = false := by
  have hwf : twf Tile.zero s.reloaded.endReload.fab.tiles = true := foldl_setTile_twf _ _ s.tilesToLoad hw
  rw [State.afterReload, State.loadCredits_tile_held, State.rebase_tile_held hwf]
  exact State.reloaded_tile_held ht hh

/-- The Y6 resumes once the blocks of the map have reloaded. -/
theorem State.afterReload_gateBlocks {s : State} (hreq : s.requestedBlocks = []) (hgate : s.gatedBlocks = [])
    (hdg : s.fab.drainGate = true) : s.afterReload.gateBlocks = s.afterReload.endGating.leaveBivouac := by
  obtain ⟨hplc, hdoms, hdrain⟩ := s.afterReload_keeps
  exact State.gateBlocks_of_awake ((State.requestedBlocks_congr hplc hdoms).trans hreq) ((State.gatedBlocks_congr hplc hdoms).trans hgate)
    (hdrain.trans hdg)

/-! ## Requests to start a clock (R417) -/

/-- A lift of a sector clock that a capture stopped is held. -/
theorem exec_liftRequest_held {s : State} {d : BitVec 8} {n : Nat} (hd : d.toNat = n) (hu : s.up = true) (hn : 248 ≤ n)
    (hc : bit s.clk.capture (n - 248) = true) :
    exec (.liftRequest d) s =
      .next (({ s with clk := { s.clk with lifts := s.clk.lifts ++ [d] } } : State).count Reg.clkLiftHeldCnt 1) := by
  subst hd
  rw [exec_liftRequest, execLiftRequest]
  exact congrArg _ ((if_neg (by simp [hu])).trans (if_pos (by simp [hn, hc])))

/-- A lift of a low domain begins its exit where the policy lets the domain leave. -/
theorem exec_liftRequest_leave {s : State} {d : BitVec 8} {n : Nat} (hd : d.toNat = n) (hu : s.up = true) (hn : n < 152)
    (hmay : s.policy n = 1 ∧ s.autoHigh n = true ∨ 128 ≤ n ∧ n < 140 ∧ (s.dom n).reqLow = false) :
    exec (.liftRequest d) s = .next (s.leaveLow n) := by
  have hmay' : (if s.policy n = 1 then s.autoHigh n
      else if s.policy n = 0 then !(s.dom n).reqLow && !s.blockUsed n else false) = true := by
    rcases hmay with ⟨hp, ha⟩ | ⟨h1, h2, hr⟩
    · rw [if_pos hp, ha]
    · rw [s.policy_of_group h1 h2, hr, s.blockUsed_of_ge h1]
      rfl
  have hheld : ¬ (248 ≤ n && bit s.clk.capture (n - 248)) = true := by simp [show ¬ 248 ≤ n by omega]
  subst hd
  rw [exec_liftRequest, execLiftRequest]
  exact congrArg _ ((if_neg (by simp [hu])).trans ((if_neg hheld).trans (if_pos (by rw [hmay']; simp [hn]))))

/-! ## The obligation -/

theorem powerTransitions : Claims.PowerTransitions := by
  intro s d lost hu n
  have hd : d.toNat = n := rfl
  clear_value n
  intro x hit
  have hhit : hit = exitHit n := rfl
  clear_value hit
  subst hhit
  refine ⟨fun hm hn hst hl => ?_, fun hm hn hst hused => ?_, fun hm => exec_of_not_moving hm d lost, fun hm hready => ?_,
    fun hst hb => ?_, fun he hr hreq hgate hdg hs hw => ?_, fun hn hc => ?_, fun hn hst hmay => ?_⟩
  · obtain ⟨hdom, hcnt⟩ := s.domainLow_loseDomain_spec n
    refine ⟨_, exec_powerEntryComplete_moving hd hm hn hst hl, ?_⟩
    dsimp only
    rw [hdom.self]
    exact ⟨rfl, rfl, hcnt, fun m hm => hdom.other hm, fun hb t ht => State.loseDomain_tile _ hb ht⟩
  · obtain ⟨u, hexec, hdom, hreg, hfab⟩ := exec_powerExitComplete_moving hd lost hm hn hst hused
    have hlost : (s.domainOn n).reg Reg.clkDcqLostCnt = s.reg Reg.clkDcqLostCnt := (s.reg_domainOn ..).trans (if_neg (by decide))
    refine ⟨u, hexec, ?_⟩
    dsimp only
    rw [hdom.self]
    refine ⟨rfl, rfl, ?_, fun m hm => hdom.other hm, fun hport => ?_, fun h1 h2 => ?_⟩
    · rw [hreg, State.reg_exitQueues_of_ne _ _ _ (by decide) (by decide), State.reg_domainOn, if_pos rfl]
    · have hq := (s.domainOn n).exitQueues_of_port n lost hport
      simpa only [State.rbit, hreg, hlost] using hq
    · have hq := (s.domainOn n).exitQueues_of_other n lost h1 h2
      rw [hlost, show (s.domainOn n).fab = s.fab from rfl] at hq
      rw [hfab]
      simpa only [State.rbit, hreg] using hq
  · have hready' : s.readyBlocks ≠ [] := hready
    have hgo : ((s.until s.waveDue).moving && !(s.until s.waveDue).readyBlocks.isEmpty) = true := by
      rw [State.until_moving, State.until_readyBlocks, hm]
      simpa using hready'
    obtain ⟨hdoms, hclock, hat⟩ := (s.until s.waveDue).wave_spec
    have hnow : (s.until s.waveDue).wave.clock.now = max s.clock.now s.waveDue := (congrArg Clock.now hclock).trans (State.until_now ..)
    refine ⟨_, (execInrushWave_eq s).trans (onlyIf_of_true hgo s _), fun b => ?_, fun w hwave => ?_, ?_⟩
    · rw [hdoms, State.until_readyBlocks, State.until_dom]
      rfl
    · have hdue : s.waveDue = w + usSteps 8 := by rw [State.waveDue, hwave]
      rw [hnow, hdue]
      exact le_max_right _ _
    · rw [hat, hclock]
  · have hon : ((s.until (s.pwr.sigIdleAt + msSteps 10)).dom 150).st = 0 := by rw [State.until_dom, hst]
    have hpow := OnlyPower.enterLow (s.until (s.pwr.sigIdleAt + msSteps 10)) 150
    refine ⟨_, onlyIf_of_true (by simp [hu, hst, hb]) s _, ?_, ?_, hpow.regs.trans (State.until_regs ..)⟩
    · rw [(DomSet.enterLow hon).self]
    · rw [hpow.clock, State.until_now]
      exact le_max_right _ _
  · obtain ⟨hen, hbiv, hpwr, htile⟩ := s.afterReload.endGating.leaveBivouac_spec
    refine ⟨_, (exec_blockReloadComplete_over he hr hs).trans (congrArg _ (State.afterReload_gateBlocks hreq hgate hdg)),
      congrArg Pwr.gating hpwr, congrArg Pwr.reloading hpwr, hen, hbiv, fun t ht hh => ?_⟩
    rw [htile]
    exact State.afterReload_tile_held hw ht hh
  · exact ⟨_, exec_liftRequest_held hd hu hn hc, (State.reg_count ..).trans (if_pos rfl), rfl, rfl⟩
  · have hdom := DomSet.leaveLow hst
    refine ⟨_, exec_liftRequest_leave hd hu hn hmay, ?_, fun m hm => hdom.other hm⟩
    rw [hdom.self]

/-- Settles O25: a write of REQ_LOW is refused or begins an entry, an exit or a drain by the domain's policy and condition, and each
end of a transition is one domain moving beside what it loses, resets or brings back. -/
theorem powerDomains : Obligations.PowerDomains := ⟨reqLowByPolicy, powerTransitions⟩

end Sys2Proof.Machine
end

section
/-! SUPPORT. The canonical form of the register words, tiles, streams, image copy, journal region and HBM area: what each
operation of the state does to it. Every law says that an operation keeps it, and is proved from the laws of the operations that
it calls, in the order of the model. -/

namespace Sys2Proof.Claims

open Sys2Proof Sys2Proof.Machine

/-- A command that ends in a state ends in one in canonical form. -/
def CanonicalOut (o : Out) : Prop := ∀ u, o = .next u → Canonical u

variable {s u : State} {a b c d e j k : Nat} {v w : Word} {p q : Bool} {t : TileAddr} {y : Byte} {x : QWord} {r : CtxReq}
  {fs : List CtxFinding} {bs : List Byte} {hd : Hdr} {ecc : Ecc} {i : Instr} {f : Frame} {g : Frame → Bool} {st : Status} {z : Burst}
  {l : BitVec 2} {o : BitVec 64}

/-! ## The six tables -/

theorem Canonical.regs (h : Canonical s) : twf 0#32 s.regs = true := h.1
theorem Canonical.tiles (h : Canonical s) : twf Tile.zero s.fab.tiles = true := h.2.1
theorem Canonical.streams (h : Canonical s) : twf StreamAdm.zero s.adm.streams = true := h.2.2.1
theorem Canonical.copy (h : Canonical s) : Memory.wf s.img.copy = true := h.2.2.2.1
theorem Canonical.journalWords (h : Canonical s) : Memory.wf s.hbm.journal = true := h.2.2.2.2.1
theorem Canonical.area (h : Canonical s) : Memory.wf s.hbm.area = true := h.2.2.2.2.2

theorem Canonical.withTiles {m : Tbl Tile} (h : Canonical s) (hm : twf Tile.zero m = true) :
    Canonical { s with fab := { s.fab with tiles := m } } := ⟨h.regs, hm, h.streams, h.copy, h.journalWords, h.area⟩
theorem Canonical.withRegs {m : Tbl Word} (h : Canonical s) (hm : twf 0#32 m = true) :
    Canonical { s with regs := m } := ⟨hm, h.tiles, h.streams, h.copy, h.journalWords, h.area⟩
theorem Canonical.withStreams {m : Tbl StreamAdm} (h : Canonical s) (hm : twf StreamAdm.zero m = true) :
    Canonical { s with adm := { s.adm with streams := m } } := ⟨h.regs, h.tiles, hm, h.copy, h.journalWords, h.area⟩
theorem Canonical.withCopy {m : Memory} (h : Canonical s) (hm : m.wf = true) :
    Canonical { s with img := { s.img with copy := m } } := ⟨h.regs, h.tiles, h.streams, hm, h.journalWords, h.area⟩
theorem Canonical.withJournal {m : Memory} (h : Canonical s) (hm : m.wf = true) :
    Canonical { s with hbm := { s.hbm with journal := m } } := ⟨h.regs, h.tiles, h.streams, h.copy, hm, h.area⟩
theorem Canonical.withArea {m : Memory} (h : Canonical s) (hm : m.wf = true) :
    Canonical { s with hbm := { s.hbm with area := m } } := ⟨h.regs, h.tiles, h.streams, h.copy, h.journalWords, hm⟩

/-! ## Branches, loops and outcomes -/

section
variable {α : Type} {c : Prop} [Decidable c]

theorem Canonical.ite (h : Canonical s) (hu : Canonical u) : Canonical (if c then s else u) := by
  split_ifs <;> assumption

theorem Canonical.iteFst {m n : State × α} (h : Canonical m.1) (hn : Canonical n.1) : Canonical (if c then m else n).1 := by
  split_ifs <;> assumption

theorem Canonical.iteSnd {m n : α × State} (h : Canonical m.2) (hn : Canonical n.2) : Canonical (if c then m else n).2 := by
  split_ifs <;> assumption

theorem CanonicalOut.ite {m n : Out} (h : CanonicalOut m) (hn : CanonicalOut n) : CanonicalOut (if c then m else n) := by
  split_ifs <;> assumption

end

theorem Canonical.foldl {α : Type} {f : State → α → State} (hf : ∀ s a, Canonical s → Canonical (f s a)) {l : List α}
    (h : Canonical s) : Canonical (l.foldl f s) := List.foldlRecOn l f h fun _ hb a _ => hf _ a hb

theorem Canonical.times {f : State → State} (hf : ∀ s, Canonical s → Canonical (f s)) :
    ∀ {n : Nat} {s : State}, Canonical s → Canonical (times f n s)
  | 0, _, h => h
  | _ + 1, s, h => Canonical.times (s := f s) hf (hf s h)

theorem CanonicalOut.next (h : Canonical s) : CanonicalOut (.next s) := by
  rintro _ ⟨⟩
  exact h

theorem CanonicalOut.fault {e : Fault} : CanonicalOut (.fault e) := by
  rintro _ ⟨⟩

theorem CanonicalOut.onlyIf {c : Bool} (h : Canonical s) (hu : Canonical u) : CanonicalOut (onlyIf c s u) := .next (.ite hu h)

theorem twf_foldl_tset {α β : Type} [DecidableEq α] {d : α} {k : β → Nat} {v : β → α} {l : List β} {m : Tbl α}
    (h : twf d m = true) : twf d (l.foldl (fun m i => tset d m (k i) (v i)) m) = true :=
  List.foldlRecOn (motive := fun m => twf d m = true) l _ h fun _ hm _ _ => twf_tset _ _ _ _ hm

theorem Memory.wf_putMasked {m : Memory} (h : m.wf = true) : (m.putMasked a z b).wf = true := by
  refine List.foldlRecOn (motive := fun m : Memory => m.wf = true) (upto 32) _ h fun m hm i _ => ?_
  split_ifs
  · exact Memory.wf_write _ _ _ hm
  · exact hm

theorem canonical_reset : Canonical State.reset := by
  unfold Canonical
  decide

/-! ## Ops -/

theorem Canonical.setReg (h : Canonical s) : Canonical (s.setReg a v) := h.withRegs (twf_tset _ _ _ _ h.regs)
theorem Canonical.setBits (h : Canonical s) : Canonical (s.setBits a v) := h.setReg
theorem Canonical.clrBits (h : Canonical s) : Canonical (s.clrBits a v) := h.setReg
theorem Canonical.putBit (h : Canonical s) : Canonical (s.putBit a b p) := .ite h.setBits h.clrBits
theorem Canonical.putFld (h : Canonical s) : Canonical (s.putFld a b c d) := h.setReg
theorem Canonical.count (h : Canonical s) : Canonical (s.count a b) := h.setReg
theorem Canonical.cfgIgn (h : Canonical s) : Canonical (s.cfgIgn a) := h.setBits.count
theorem Canonical.free (h : Canonical s) : Canonical (s.free).2 := h
theorem Canonical.driveAlert (h : Canonical s) : Canonical s.driveAlert := h
theorem Canonical.alert (h : Canonical s) : Canonical (s.alert a) := h.setBits.driveAlert
/-- A host error leaves what is well kept, and nothing else in place of the state it met (log entry 58). -/
theorem Canonical.of_wellKept (h : s.wellKept = true) : Canonical s := by
  simp only [State.wellKept, Bool.and_eq_true] at h
  obtain ⟨⟨⟨⟨⟨⟨hr, ht⟩, hs⟩, hc⟩, hj⟩, ha⟩, -⟩ := h
  exact ⟨hr, ht, hs, hc, hj, ha⟩

theorem Canonical.unpredictable (h : Canonical s) : Canonical s.unpredictable := by
  unfold State.unpredictable
  extract_lets u v
  split_ifs with hv
  · exact (Canonical.of_wellKept hv).driveAlert
  · exact h

theorem Canonical.logEvent (h : Canonical s) : Canonical (s.logEvent a o) := .count h
theorem Canonical.noteFirstRow (h : Canonical s) : Canonical (s.noteFirstRow a) := .ite h h
theorem Canonical.contained (h : Canonical s) : Canonical (s.contained a b) := h.count.logEvent
theorem Canonical.deviceFault (h : Canonical s) : Canonical (s.deviceFault a) :=
  .ite h.logEvent (.count h.logEvent.putFld.setReg.alert.clrBits)

/-! ## Transfer -/

theorem Canonical.setTs {x : TStream} (h : Canonical s) : Canonical (s.setTs a x) := h
theorem Canonical.setChan {x : Chan} (h : Canonical s) : Canonical (s.setChan a x) := h
theorem Canonical.setOcc (h : Canonical s) : Canonical (s.setOcc a b) := .ite h.setTs.count.setBits h.setTs
theorem Canonical.landPart (h : Canonical s) : Canonical (s.landPart a b) := by
  unfold State.landPart
  extract_lets
  split
  · exact h
  · extract_lets
    split <;> exact .ite h.setTs.setOcc h.setTs

theorem Canonical.landStream (h : Canonical s) : Canonical (s.landStream a) :=
  .foldl (fun _ _ h => by split; exacts [.ite h.landPart h, h]) h
theorem Canonical.landed (h : Canonical s) : Canonical s.landed := .foldl (fun _ _ h => h.landStream) h
theorem Canonical.settleTokens (h : Canonical s) : Canonical s.settleTokens := .foldl (fun _ _ h => h.setTs) h
theorem Canonical.abandonLoads (h : Canonical s) : Canonical s.abandonLoads := h

/-! ## Query -/

theorem Canonical.setTile {x : Tile} (h : Canonical s) : Canonical (s.setTile t x) := h.withTiles (twf_tset _ _ _ _ h.tiles)
theorem Canonical.setDom {x : Dom} (h : Canonical s) : Canonical (s.setDom a x) := h
theorem Canonical.setStream {x : StreamAdm} (h : Canonical s) : Canonical (s.setStream a x) := h.withStreams (twf_tset _ _ _ _ h.streams)
theorem Canonical.setObj (h : Canonical s) : Canonical (s.setObj a b) := h

/-! ## Time -/

theorem Canonical.passTo (h : Canonical s) : Canonical (s.passTo a) := h
theorem Canonical.until (h : Canonical s) : Canonical (s.until a) := .ite h h.passTo

/-! ## Fabric -/

theorem Canonical.offer {l : LinkWord} (h : Canonical s) : Canonical (s.offer l) := .ite h h
theorem Canonical.refill (h : Canonical s) : Canonical (s.refill a) := by
  unfold State.refill
  split
  · exact .ite h h
  · exact h

theorem Canonical.loseCrossings {p : TileAddr → Bool} {u : ℕ → Bool} (h : Canonical s) : Canonical (s.loseCrossings p u) :=
  .ite h (.setBits (.count h))
theorem Canonical.owe (h : Canonical s) : Canonical (s.owe t a x) := .ite h h
theorem Canonical.takeHead (h : Canonical s) : Canonical (s.takeHead t a) := by
  unfold State.takeHead
  extract_lets
  split
  · exact h.setTile.owe
  · exact h.setTile

theorem Canonical.enqueue (h : Canonical s) : Canonical (s.enqueue t a x) := .ite h.setTile.owe h.setTile
theorem Canonical.dropFrames : ∀ {b c : Nat} {s : State}, Canonical s → Canonical (s.dropFrames t a b c)
  | _, 0, _, h => by rwa [State.dropFrames]
  | 0, _ + 1, _, h => h.setTile
  | b + 1, c + 1, _, h => by
    rw [State.dropFrames]
    split
    · exact h.setTile
    · exact Canonical.dropFrames h.takeHead

theorem Canonical.sendLane (h : Canonical s) : Canonical (s.sendLane t a x) := h.setTile
theorem Canonical.sendCtxEnds (h : Canonical s) : Canonical (s.sendCtxEnds t) := .foldl (fun _ _ h => .ite h h.setTile.sendLane) h
theorem Canonical.tryRetire (h : Canonical s) : Canonical (s.tryRetire t) := by
  unfold State.tryRetire
  extract_lets
  split
  · exact h.sendCtxEnds
  · exact .ite h.setTile.sendCtxEnds h.sendCtxEnds

theorem Canonical.switchTo (h : Canonical s) : Canonical (s.switchTo t a) := .ite h h.setTile
theorem Canonical.abandonFrame (h : Canonical s) : Canonical (s.abandonFrame t a b c) :=
  .foldl (fun _ _ h => h.dropFrames) (.foldl (fun _ _ h => h.sendLane) h.setTile)
theorem Canonical.flushQueue (h : Canonical s) : Canonical (s.flushQueue t a) := .count (.foldl (fun _ _ h => h.owe) h.setTile)
theorem Canonical.loadCredits (h : Canonical s) : Canonical s.loadCredits := .foldl (fun _ _ h => h.setTile) h
theorem Canonical.rebase (h : Canonical s) : Canonical s.rebase := h.withTiles (twf_tmap _ _ h.tiles)
theorem Canonical.emptyFabric (h : Canonical s) : Canonical s.emptyFabric :=
  .loadCredits (.setReg (.putBit (.count (h.withTiles (twf_tmap _ _ h.tiles)))))

/-! ## Boundary -/

theorem Canonical.snapCopy (h : Canonical s) : Canonical (s.snapCopy a) := .ite (.withTiles h (twf_tmap _ _ (Canonical.tiles h))) h
theorem Canonical.extendAll (h : Canonical s) : Canonical s.extendAll := h
theorem Canonical.windowFabric (h : Canonical s) : Canonical s.windowFabric := h.withTiles (twf_tmap _ _ h.tiles)
theorem Canonical.windowSensors (h : Canonical s) : Canonical s.windowSensors := h
theorem Canonical.windowClock (h : Canonical s) : Canonical s.windowClock := .setReg (.count h)
theorem Canonical.windowBoundary (h : Canonical s) : Canonical s.windowBoundary :=
  .windowClock (.extendAll (.windowSensors (.windowFabric (.foldl (fun _ _ h => h.snapCopy.setBits) h))))
theorem Canonical.openUpTo : ∀ {a : Nat} {s : State}, Canonical s → Canonical (s.openUpTo a)
  | 0, _, h => h
  | _ + 1, _, h => .ite (Canonical.openUpTo h.windowBoundary) h
theorem Canonical.openWindows (h : Canonical s) : Canonical s.openWindows := h.openUpTo
theorem Canonical.keepStats (h : Canonical s) : Canonical (s.keepStats a t) := h
theorem Canonical.keepAllStats (h : Canonical s) : Canonical s.keepAllStats := .foldl (fun _ _ h => .foldl (fun _ _ h => h.keepStats) h) h

/-! ## Placement -/

theorem Canonical.endFrames (h : Canonical s) : Canonical (s.endFrames g st) := h
theorem Canonical.freeSlot (h : Canonical s) : Canonical (s.freeSlot a p) := h.setStream
theorem Canonical.freeSending (h : Canonical s) : Canonical (s.freeSending g) := .foldl (fun _ _ h => h.freeSlot) h
theorem Canonical.endInside (h : Canonical s) : Canonical (s.endInside st) := h.freeSending
theorem Canonical.countOverrun (h : Canonical s) : Canonical s.countOverrun := h.count.setBits.alert
theorem Canonical.endOutside (h : Canonical s) : Canonical (s.endOutside g st) := by
  unfold State.endOutside
  extract_lets _ u
  have hu : Canonical u := .foldl (fun _ _ h => h.freeSlot) h
  exact .ite (.foldl (fun _ _ h => h.countOverrun) hu.endFrames) hu.endFrames

theorem Canonical.retire {r : Retire} (h : Canonical s) : Canonical (s.retire r) := .ite h (.setBits (.logEvent h))
theorem Canonical.retireTile (h : Canonical s) : Canonical (s.retireTile t a) := .ite h h.logEvent.retire
theorem Canonical.holdAll (h : Canonical s) : Canonical s.holdAll := h.withTiles rfl
theorem Canonical.clearMap (h : Canonical s) : Canonical s.clearMap := h
theorem Canonical.rejectImage (h : Canonical s) : Canonical (s.rejectImage a b) :=
  .alert (.logEvent (.setReg (h.holdAll.withCopy h.copy)))
theorem Canonical.loadAll (h : Canonical s) : Canonical (s.loadAll p) := .loadCredits (.foldl (fun _ _ h => h.setTile) h.holdAll)
theorem Canonical.countDropped (h : Canonical s) : Canonical (s.countDropped a) := h
theorem Canonical.placeAgain (h : Canonical s) : Canonical (s.placeAgain t) := by
  unfold State.placeAgain
  extract_lets _ u v w
  have hu : Canonical u := h.setBits.putFld
  have hv : Canonical v := hu.setReg.countDropped.endInside
  have hw : Canonical w := hv.keepAllStats.holdAll.clrBits.setReg
  split
  · exact hw
  · exact .deviceFault hv

theorem Canonical.beginRemap (h : Canonical s) : Canonical (s.beginRemap a) := .ite h (.abandonLoads h.count.alert.setReg)
theorem Canonical.remapTile {cause : BitVec 3} (h : Canonical s) : Canonical (s.remapTile t cause a b) :=
  .ite h (.ite h (.ite (.placeAgain h.beginRemap.setTile) h.beginRemap.setTile))
theorem Canonical.tileFault {m : BitVec 3} (h : Canonical s) : Canonical (s.tileFault t m) := by
  unfold State.tileFault
  extract_lets stage l u
  have hu : Canonical u := h.count.logEvent.retireTile
  clear_value u l
  have again : Canonical (if u.img.restarts ≠ 0 then u.rejectImage 8 0xFFFF
      else { u.holdAll with img := { u.img with st := .placing, restarts := 1 } }) :=
    .ite hu.rejectImage (hu.holdAll.withCopy hu.copy)
  have running : Canonical (match stage with
      | none => u
      | some st => if u.faulted then u else if u.rbit Reg.plcCtl 0 then u.remapTile t m st u.clock.now else u.deviceFault 7) := by
    clear_value stage
    cases stage
    · exact hu
    · exact .ite hu (.ite hu.remapTile hu.deviceFault)
  split
  · exact again
  · exact again
  · exact running
  · exact running
  · exact hu

/-! ## LineBuffer -/

theorem Canonical.freeRows (h : Canonical s) : Canonical (s.freeRows t a) := h.setTile
theorem Canonical.noteRow (h : Canonical s) : Canonical (s.noteRow t a b x) := .ite h h.setTile.freeRows
theorem Canonical.noteAcc (h : Canonical s) : Canonical (s.noteAcc t a) := .ite h (.ite h.setTile.freeRows h.setTile.freeRows)
theorem Canonical.noteSent {kind : BitVec 3} (h : Canonical s) : Canonical (s.noteSent t a b kind) :=
  .ite h (.ite h.setTile.freeRows (.ite h.setTile.freeRows h))

/-! ## PowerOps -/

theorem Canonical.enterLow (h : Canonical s) : Canonical (s.enterLow a) := .ite h.setDom (.ite h.setDom h)
theorem Canonical.leaveLow (h : Canonical s) : Canonical (s.leaveLow a) := .ite h.setDom (.ite (.ite h.setDom h) h)
theorem Canonical.follow (h : Canonical s) : Canonical (s.follow a) :=
  .ite (.ite (.ite h.enterLow h) (.ite h.leaveLow h)) (.ite (.ite h.enterLow (.ite h.leaveLow h)) h)
theorem Canonical.autoPower (h : Canonical s) : Canonical s.autoPower := .foldl (fun _ _ h => h.follow) h
theorem Canonical.idle (h : Canonical s) : Canonical s.idle := .ite h.passTo.autoPower h.passTo
theorem Canonical.refuseLow (h : Canonical s) : Canonical (s.refuseLow a b) := h.setDom.count.setBits
theorem Canonical.beginDrain (h : Canonical s) : Canonical (s.beginDrain p q) := h.setBits
theorem Canonical.sendUnsent (h : Canonical s) : Canonical s.sendUnsent := .foldl (fun _ _ h => h.offer) h
theorem Canonical.leaveBivouac (h : Canonical s) : Canonical s.leaveBivouac := .sendUnsent h.setBits.clrBits
theorem Canonical.gateBlocks (h : Canonical s) : Canonical s.gateBlocks := by
  unfold State.gateBlocks
  extract_lets u
  have hu : Canonical u := .foldl (fun _ _ h => h.enterLow) h
  exact .ite (.ite (.leaveBivouac hu) hu) hu

theorem Canonical.requestGate (h : Canonical s) : Canonical (s.requestGate a) := .ite h (.ite (.gateBlocks h) (.ite h (.beginDrain h)))
theorem Canonical.wakeBlocks (h : Canonical s) : Canonical s.wakeBlocks :=
  .ite (.ite (.gateBlocks (.foldl (fun _ _ h => h.leaveLow) h)) (.foldl (fun _ _ h => h.leaveLow) h)) h
theorem Canonical.writeDctl (h : Canonical s) : Canonical (s.writeDctl a p) := by
  unfold State.writeDctl
  extract_lets
  exact .ite h (.ite h.refuseLow (.ite (.ite h.refuseLow (.ite h.requestGate h.setDom.enterLow)) (.ite (.wakeBlocks h) (.leaveLow h))))

theorem Canonical.loseDomain (h : Canonical s) : Canonical (s.loseDomain a) := by
  unfold State.loseDomain
  extract_lets u
  have hu : Canonical u := .foldl (fun _ _ h => h.keepStats) h
  exact .ite (hu.withTiles (twf_filter _ _ _ hu.tiles).1) (.ite h (.ite h (.ite h (.ite h h))))

/-! ## Journal -/

theorem Canonical.setSctx {x : StreamCtx} (h : Canonical s) : Canonical (s.setSctx a x) := h
theorem Canonical.jPut {b : JBody} (h : Canonical s) : Canonical (s.jPut a b) :=
  .setReg (h.withJournal (Memory.wf_putBytes _ _ _ h.journalWords))
theorem Canonical.jBreak (h : Canonical s) : Canonical s.jBreak := .logEvent h.setBits.count
theorem Canonical.journal {b : JBody} (h : Canonical s) : Canonical (s.journal b) :=
  .ite h (.ite (.ite h.jPut h.jBreak) (.ite h.jPut.jPut h.jBreak))

/-! ## Units -/

theorem Canonical.unitMoved (h : Canonical s) : Canonical (s.unitMoved a) := h
theorem Canonical.unitSend (h : Canonical s) : Canonical (s.unitSend a b x) := h.unitMoved.offer
theorem Canonical.sendCropOwed (h : Canonical s) : Canonical s.sendCropOwed := .foldl (fun _ _ h => h.unitSend) h
theorem Canonical.abortFrame (h : Canonical s) : Canonical (s.abortFrame a b) := by
  unfold State.abortFrame
  extract_lets _ _ _ u
  have hu : Canonical u := .count (.endFrames (.freeSending h))
  split
  · exact h
  · exact .ite (.sendCropOwed (.ite hu hu)) (.ite hu hu)

theorem Canonical.reqWord (h : Canonical s) : Canonical (s.reqWord x) := by
  unfold State.reqWord
  extract_lets
  split <;> exact h

theorem Canonical.sendOwed (h : Canonical s) : Canonical s.sendOwed := .foldl (fun _ _ h => .foldl (fun _ _ h => h.unitSend) h) h
theorem Canonical.sendReplies : ∀ {a : Nat} {s : State}, Canonical s → Canonical (State.sendReplies a s)
  | 0, _, h => h
  | _ + 1, _, h => by
    unfold State.sendReplies
    split
    · split
      · exact Canonical.sendReplies (.sendOwed (.foldl (fun _ _ h => h.unitSend) h))
      · exact h
    · exact h

theorem Canonical.reqEnd (h : Canonical s) : Canonical (s.reqEnd a b) := .sendOwed h
theorem Canonical.keepWord (h : Canonical s) : Canonical (s.keepWord a b c x) := .ite h h
theorem Canonical.dropRows (h : Canonical s) : Canonical (s.dropRows a b c) := h
theorem Canonical.unitTake (h : Canonical s) : Canonical (s.unitTake t a b x) := by
  unfold State.unitTake
  split
  · exact h
  · extract_lets v _ _ _ _ owed
    have hv : Canonical v := h.unitMoved
    have ho : Canonical owed := .ite hv hv
    exact .ite ho (.ite (.ite ho ho) (.ite (.ite (.reqEnd ho) (.abortFrame ho))
      (.ite (.ite (.reqEnd ho) (.ite (.keepWord ho) ho)) (.ite (.reqWord ho) (.ite (.keepWord ho) ho)))))

theorem Canonical.unitsTake (h : Canonical s) : Canonical (s.unitsTake t a b x) := .foldl (fun _ _ h => h.unitTake) h

/-! ## Remap -/

theorem Canonical.start (h : Canonical s) : Canonical s.start := .ite h.cfgIgn h.beginDrain
@[simp] theorem Canonical.execStart (h : Canonical s) : CanonicalOut (execStart s) := .onlyIf h h.start
theorem Canonical.landWord {l : LinkWord} (h : Canonical s) : Canonical (s.landWord l) :=
  .ite h (.foldl (fun _ _ h => h.enqueue) (.ite h.unitTake h.unitsTake))
theorem Canonical.landOnce (h : Canonical s) : Canonical s.landOnce := .foldl (fun _ _ h => h.landWord) h
theorem Canonical.landLinks (h : Canonical s) : Canonical s.landLinks := h.landOnce.landOnce
theorem Canonical.saveTiles (h : Canonical s) : Canonical s.saveTiles := .setReg (.setBits (h.withTiles (twf_tmap _ _ h.tiles)))
theorem Canonical.scanOut (h : Canonical s) : Canonical s.scanOut := h.landLinks.saveTiles
@[simp] theorem Canonical.execDrainComplete (h : Canonical s) : CanonicalOut (execDrainComplete s) := by
  unfold Machine.execDrainComplete
  extract_lets _ u v
  have hu : Canonical u := .ite h.scanOut h
  have hv : Canonical v := hu.clrBits.setBits.clrBits
  exact .onlyIf h (.ite (.gateBlocks hv.setReg) hv.setReg)

theorem Canonical.scanIn (h : Canonical s) : Canonical s.scanIn := .ite h.cfgIgn h
@[simp] theorem Canonical.execScanIn (h : Canonical s) : CanonicalOut (execScanIn s) := .onlyIf h h.scanIn
theorem Canonical.scanRestore (h : Canonical s) : Canonical s.scanRestore := .setReg (.clrBits (.foldl (fun _ _ h => h.setTile) h))
@[simp] theorem Canonical.execScanInComplete (h : Canonical s) : CanonicalOut (execScanInComplete s) := .onlyIf h h.scanRestore.setReg
theorem Canonical.resume (h : Canonical s) : Canonical s.resume := .ite h.cfgIgn h.leaveBivouac
@[simp] theorem Canonical.execResume (h : Canonical s) : CanonicalOut (execResume s) := .onlyIf h h.resume
theorem Canonical.flushAll (h : Canonical s) : Canonical s.flushAll := by
  unfold State.flushAll
  extract_lets v
  have hv : Canonical v := h.emptyFabric.endInside
  clear_value v
  exact .ite h.cfgIgn hv

@[simp] theorem Canonical.execFlushAll (h : Canonical s) : CanonicalOut (execFlushAll s) := .onlyIf h h.flushAll
theorem Canonical.queueFlush (h : Canonical s) : Canonical (s.queueFlush t a) := .ite h.cfgIgn h.flushQueue
@[simp] theorem Canonical.execQueueFlush {t q} (h : Canonical s) : CanonicalOut (execQueueFlush t q s) := .onlyIf h h.queueFlush
theorem Canonical.countLost (h : Canonical s) : Canonical s.countLost := h.count
theorem Canonical.queueAbort (h : Canonical s) : Canonical (s.queueAbort t a b c) := .ite h.setTile (.ite h.setTile h.setTile)
theorem Canonical.abortEdits (h : Canonical s) : Canonical (s.abortEdits a b) :=
  .foldl (fun _ _ h => .foldl (fun _ _ h => h.queueAbort) h.unitsTake) (.foldl (fun _ _ h => h.setTile) h)
theorem Canonical.takeSpare (h : Canonical s) : Canonical (s.takeSpare t) := by
  unfold State.takeSpare
  split
  · exact h
  · have hk : Canonical ((s.stageOfTile t).elim s fun st => s.keepStats st t) := by
      cases s.stageOfTile t
      · exact h
      · exact h.keepStats
    exact .setReg (hk.setTile)

theorem Canonical.loadSpare (h : Canonical s) : Canonical (s.loadSpare t) := by
  unfold State.loadSpare
  split
  · exact h
  · exact h.setTile

theorem Canonical.writeOtherBank (h : Canonical s) : Canonical s.writeOtherBank := .foldl (fun _ _ h => h.setTile) h
theorem Canonical.openRecords (h : Canonical s) : Canonical s.openRecords := .ite h.scanRestore h.countLost.landLinks
theorem Canonical.repair (h : Canonical s) : Canonical s.repair := by
  unfold State.repair
  extract_lets u3 _ _ u5 u6
  have hu3 : Canonical u3 := .foldl (fun _ _ h => .ite h.takeSpare h) h
  have hu5 : Canonical u5 := .foldl (fun _ _ h => h.loadSpare) hu3
  have hu6 : Canonical u6 := .ite (.foldl (fun _ _ h => h.loadSpare) hu5) hu5
  exact .ite hu6 hu6.setBits.count

@[simp] theorem Canonical.execRemapScanOutDone {ue} (h : Canonical s) : CanonicalOut (execRemapScanOutDone ue s) :=
  .onlyIf h (.ite h.deviceFault h.openRecords.abortEdits.repair.writeOtherBank.saveTiles.putFld)
theorem Canonical.remapTimes (h : Canonical s) : Canonical s.remapTimes :=
  .foldl (fun _ _ h => h.logEvent) (.ite h.setReg.setReg h.setReg)
theorem Canonical.remapOver (h : Canonical s) : Canonical s.remapOver := by
  unfold State.remapOver
  extract_lets _ _ _ u v
  have hu : Canonical u := h.clrBits.withTiles h.tiles
  have hv : Canonical v := .foldl (fun _ _ h => by split; exacts [h.remapTile, h]) hu
  exact .ite hv (.foldl (fun _ _ h => h.requestGate) hv)

theorem Canonical.remapFinish (h : Canonical s) : Canonical s.remapFinish := by
  unfold State.remapFinish
  extract_lets s _ _ _ _ _ _ _ u v w x
  have hs : Canonical s := h.scanRestore
  have hu : Canonical u := hs.withTiles (twf_tmap _ _ hs.tiles)
  have hv : Canonical v := hu.putBit.loadCredits
  have hw : Canonical w := .ite hv hv.setBits.sendUnsent
  have hx : Canonical x := .ite hw.putFld hw
  exact hx.remapTimes.remapOver

@[simp] theorem Canonical.execTileFault {t cause} (h : Canonical s) : CanonicalOut (execTileFault t cause s) :=
  .ite .fault (.onlyIf h h.tileFault)
@[simp] theorem Canonical.execTileNoResponseTimeout {t} (h : Canonical s) : CanonicalOut (execTileNoResponseTimeout t s) :=
  .ite .fault (.onlyIf h h.tileFault)
theorem Canonical.countEcc (h : Canonical s) : Canonical (s.countEcc ecc) := by
  unfold State.countEcc
  split
  · exact h
  · exact h.count
  · exact h.count.setBits

@[simp] theorem Canonical.execTileScrubAccess {t ecc held} (h : Canonical s) : CanonicalOut (execTileScrubAccess t ecc held s) :=
  .ite .fault (.onlyIf h (.ite h.setTile.countEcc.tileFault h.setTile.countEcc))
theorem Canonical.stall (h : Canonical s) : Canonical (s.stall a) :=
  .ite (.deviceFault h.count.setReg.setBits.logEvent.alert) (.beginRemap h.count.setReg.setBits.logEvent.alert)
@[simp] theorem Canonical.execStallFault {stage} (h : Canonical s) : CanonicalOut (execStallFault stage s) := .onlyIf h h.until.stall
@[simp] theorem Canonical.execUnitNoProgress {unit} (h : Canonical s) : CanonicalOut (execUnitNoProgress unit s) :=
  .onlyIf h h.until.deviceFault

/-! ## Issue -/

theorem Canonical.countFull (h : Canonical s) : Canonical (s.countFull t) := .foldl (fun _ _ h => .foldl (fun _ _ h => h.setTile) h) h
theorem Canonical.tileContained (h : Canonical s) : Canonical (s.tileContained t a) := h.contained.setTile
theorem Canonical.noteFirst (h : Canonical s) : Canonical (s.noteFirst t a b) := .ite h.setTile h
theorem Canonical.afterSource {n : Need} (h : Canonical s) : Canonical (s.afterSource t hd n a) := by
  unfold State.afterSource
  extract_lets e
  have he : Canonical e := h.countFull.countEcc
  split
  · exact .ite he (.takeHead (.noteRow (.noteFirst (.ite he.countEcc he))))
  · exact he

theorem Canonical.afterIssue {f : Flow} (h : Canonical s) : Canonical (s.afterIssue t hd a f p) := h.setTile.tryRetire
theorem Canonical.tileTick (h : Canonical s) : Canonical (s.tileTick t a) := h.setTile.tryRetire
theorem Canonical.poolParity (h : Canonical s) : Canonical (s.poolParity t a b) := by
  unfold State.poolParity
  extract_lets _ _ _ _ u
  have hu : Canonical u := h.count.setBits.contained
  split
  · exact hu
  · exact .ite hu.setTile (.foldl (fun _ _ h => h.owe) hu.setTile)

/-- A tile's cycle keeps the canonical form where the instruction's own effect does. -/
theorem Canonical.tileCycle {n : Need} {eff : State → Nat → Option QWord → State × Flow} (h : Canonical s)
    (he : ∀ u c w, Canonical u → Canonical (eff u c w).1) : CanonicalOut (s.tileCycle i t hd n eff) := by
  unfold State.tileCycle
  extract_lets u x c retired takes
  have hu : Canonical u := h.openWindows
  have hf : Canonical (u.countFull t) := hu.countFull
  refine .ite .fault (.ite .fault (.ite (.next hu) (.ite (.next hf.tileTick) (.ite (.next hf.tileTick) (.ite (.next hf.tileTick)
    (.ite (.next hu) ?_))))))
  split
  · exact .next hu
  · exact .next hf.tileTick
  · exact .next hf.tileTick
  · exact .next hf.tileTick
  · exact .next hf.tileTick
  · exact .ite (.next hf.countEcc.tileFault) (.ite (.ite (.next hf.countEcc.poolParity.tileTick)
      (.ite (.next hu.afterSource.tileContained.afterIssue) (.next (he _ _ _ hu.afterSource).afterIssue)))
      (.next hf.countEcc.afterIssue))

theorem Canonical.countOvf (h : Canonical s) : Canonical (s.countOvf t a) := .ite h h.setTile.setBits
theorem Canonical.countNonfin (h : Canonical s) : Canonical (s.countNonfin a) := .ite h h.count.setBits
theorem Canonical.sendOut {kind : BitVec 3} (h : Canonical s) : Canonical (s.sendOut t hd a kind z) := by
  unfold State.sendOut
  split
  · exact h
  · exact h.sendLane.noteSent

/-! ## Array -/

@[simp] theorem Canonical.execLdw {t hd bank word ecc} (h : Canonical s) : CanonicalOut (execLdw t hd bank word ecc s) :=
  .ite .fault (h.tileCycle fun _ _ _ h => .iteFst h.countEcc.tileFault h.countEcc.setTile)
@[simp] theorem Canonical.execMma {t hd vreg off bank k fmt diag zero} (h : Canonical s) : CanonicalOut
    (execMma t hd vreg off bank k fmt diag zero s) :=
  .ite .fault (h.tileCycle fun _ _ _ h => h.setTile.countOvf.countNonfin)
@[simp] theorem Canonical.execAcc {t hd k vd bias} (h : Canonical s) : CanonicalOut (execAcc t hd k vd bias s) :=
  h.tileCycle fun _ _ _ h => .noteAcc (.ite h.setTile.countOvf.sendOut h.setTile.countOvf)

/-! ## Store -/

theorem Canonical.dirTouch (h : Canonical s) : Canonical (s.dirTouch a) := .ite h (.count h)
theorem Canonical.setDir {e : BitVec 128} (h : Canonical s) : Canonical (s.setDir a b e) := .dirTouch h
theorem Canonical.setStaked (h : Canonical s) : Canonical (s.setStaked a b p) := h.setDir
theorem Canonical.nearRead (h : Canonical s) : Canonical (s.nearRead a p) := .ite h (.ite (.count h) (.count (.ite h h)))
theorem Canonical.nearPut (h : Canonical s) : Canonical (s.nearPut a) := .ite h h
theorem Canonical.unlink (h : Canonical s) : Canonical (s.unlink a b) := h
theorem Canonical.invalidate (h : Canonical s) : Canonical (s.invalidate a b) := h.setDir.setSctx.unlink
theorem Canonical.slotBad (h : Canonical s) : Canonical (s.slotBad a b) := h.invalidate.count.setBits.logEvent.journal
theorem Canonical.writeSlot (h : Canonical s) : Canonical (s.writeSlot a b v p bs) := .setSctx (.setDir (.nearPut h))
theorem Canonical.stakeSlot (h : Canonical s) : Canonical (s.stakeSlot a b).1 :=
  .iteFst h (.iteFst h (.iteFst h h.setStaked.setSctx.journal))
theorem Canonical.unstakeSlot (h : Canonical s) : Canonical (s.unstakeSlot a b).1 :=
  .iteFst h (by split; exacts [h, h.setStaked.setSctx.journal])
theorem Canonical.unstakeAll (h : Canonical s) : Canonical (s.unstakeAll a) := .foldl (fun _ _ h => h.unstakeSlot) h
theorem Canonical.evictSlot (h : Canonical s) : Canonical (s.evictSlot a b).1 := .iteFst h (.iteFst h h.setDir.setSctx.unlink.journal)
theorem Canonical.evictAll (h : Canonical s) : Canonical (s.evictAll a) := .journal (.setSctx h)
theorem Canonical.clearStream (h : Canonical s) : Canonical (s.clearStream a) := h.evictAll
theorem Canonical.clearStore (h : Canonical s) : Canonical s.clearStore := .setBits h
theorem Canonical.forceEvict (h : Canonical s) : Canonical (s.forceEvict a b) := h.invalidate.count.setBits.journal
theorem Canonical.shrinkQuota (h : Canonical s) : Canonical (s.shrinkQuota a b) := .ite h (.foldl (fun _ _ h => .ite h.forceEvict h) h)
theorem Canonical.growQuota (h : Canonical s) : Canonical (s.growQuota a b) := .ite h (.ite (.setBits h) h)
theorem Canonical.applyQuotas (h : Canonical s) : Canonical s.applyQuotas :=
  .foldl (fun _ _ h => h.setSctx) (.foldl (fun _ _ h => h.growQuota) (.foldl (fun _ _ h => h.shrinkQuota) h))

/-! ## Context -/

theorem Canonical.doneReq {ws : List (ℕ × Burst)} (h : Canonical s) : Canonical (s.doneReq r ws) := .sendReplies (.count h)
theorem Canonical.replyReq {scalars : List Word} {vecs : List Burst} (h : Canonical s) : Canonical (s.replyReq r a b scalars vecs) :=
  .doneReq (.ite h h.count)
theorem Canonical.ackReq (h : Canonical s) : Canonical (s.ackReq r a b) := .ite h.replyReq h.doneReq
theorem Canonical.readDir (h : Canonical s) : Canonical (s.readDir a b fs) := .ite (.dirTouch h) (.ite h.count.dirTouch h.dirTouch)
theorem Canonical.readSlot (h : Canonical s) : Canonical (s.readSlot a b fs p) := .ite (.nearRead h) (.ite h.count.nearRead h.nearRead)
theorem Canonical.appendSlot (h : Canonical s) : Canonical (s.appendSlot r fs) := by
  unfold State.appendSlot
  extract_lets _ _ _ u0 _ u1 _ u2 _ u3 _ u4 _ _ _ u6
  have hu0 : Canonical u0 := h.setSctx.readDir
  have hu1 : Canonical u1 := .ite hu0.slotBad hu0
  have hu2 : Canonical u2 := .ite hu1.unlink.count hu1
  have hu3 : Canonical u3 := hu2.writeSlot
  have hu4 : Canonical u4 := hu3.setSctx.count
  have hu6 : Canonical u6 := .ite hu4.journal hu4.journal
  exact hu6.ackReq

@[simp] theorem Canonical.execAppend {stream fs} (h : Canonical s) : CanonicalOut (execAppend stream fs s) := by
  unfold Machine.execAppend
  split
  · exact .next h
  · exact .next (.ite h.ackReq h.appendSlot)

theorem Canonical.gatherOne {n : Option Nat} (h : Canonical s) : Canonical (s.gatherOne r fs n).1 := by
  unfold State.gatherOne
  split
  · exact h
  · exact .iteFst h.readDir (.iteFst h.readDir.readSlot.slotBad h.readDir.readSlot)

@[simp] theorem Canonical.execGather {m : BitVec 10} (h : Canonical s) : CanonicalOut (execGather m fs s) := by
  unfold Machine.execGather
  split
  · exact .next h
  · extract_lets js m
    have hm : Canonical m.1 := List.foldlRecOn (motive := fun (m : State × _) => Canonical m.1) js _ h fun _ h _ _ => h.gatherOne
    exact .next hm.replyReq

@[simp] theorem Canonical.execAttend {stream fs} (h : Canonical s) : CanonicalOut (execAttend stream fs s) := by
  unfold Machine.execAttend
  extract_lets
  split
  · exact .next h
  · exact .next (.replyReq (.countOvf (.countNonfin (.count (.foldl (fun _ _ h => h.slotBad) (.foldl
      (fun _ _ h => h.readDir.readSlot) h))))))

theorem Canonical.onSlot {f : State → Nat → State × Nat} (h : Canonical s) (hf : ∀ u j, Canonical u → Canonical (f u j).1) :
    Canonical (s.onSlot r fs f) := by
  unfold State.onSlot
  split
  · exact .ite h.ackReq h.free.ackReq
  · exact .ite h.readDir.slotBad.ackReq (hf _ _ h.readDir).ackReq

@[simp] theorem Canonical.execStake {m : Checked (BitVec 10) (List CtxFinding)} (h : Canonical s) : CanonicalOut (execStake m s) := by
  unfold Machine.execStake
  split
  · exact .next h
  · exact .next (h.onSlot fun _ _ h => h.stakeSlot)

@[simp] theorem Canonical.execUnstake {m : Checked (BitVec 10) (List CtxFinding)} (h : Canonical s) : CanonicalOut (execUnstake m s) := by
  unfold Machine.execUnstake
  split
  · exact .next h
  · exact .next (.ite h.unstakeAll.ackReq (h.onSlot fun _ _ h => h.unstakeSlot))

@[simp] theorem Canonical.execEvict {m : Checked (BitVec 10) (List CtxFinding)} (h : Canonical s) : CanonicalOut (execEvict m s) := by
  unfold Machine.execEvict
  split
  · exact .next h
  · exact .next (.ite h.evictAll.ackReq (h.onSlot fun _ _ h => h.evictSlot))

@[simp] theorem Canonical.execStreamClear {stream} (h : Canonical s) : CanonicalOut (execStreamClear stream s) := .onlyIf h h.clearStream
theorem Canonical.clearAll (h : Canonical s) : Canonical s.clearAll := .ite h.cfgIgn h.clearStore
@[simp] theorem Canonical.execClearAll (h : Canonical s) : CanonicalOut (execClearAll s) := .onlyIf h h.clearAll
@[simp] theorem Canonical.execStoreClearComplete (h : Canonical s) : CanonicalOut (execStoreClearComplete s) := .onlyIf h h.clrBits

/-! ## Arrive -/

theorem Canonical.parityError (h : Canonical s) : Canonical (s.parityError t a b x).1 := by
  have hu : ∀ n, Canonical (((s.count Reg.fabLinkParCnt 1).setBits Reg.fabStat 0x100#32).contained 4 n) :=
    fun _ => h.count.setBits.contained
  unfold State.parityError
  extract_lets stream u
  split
  · exact hu stream
  · exact .ite (hu stream).setTile.tileFault (hu stream).setTile

theorem Canonical.driveOuts (h : Canonical s) : Canonical (s.driveOuts t a b x) := by
  refine .foldl (fun u d h => ?_) h
  split_ifs <;> exact h

theorem Canonical.slotUnread (h : Canonical s) : Canonical (s.slotUnread t) := h.countEcc.tileFault
@[simp] theorem Canonical.execLinkWordArrival {t net wire syn} (h : Canonical s) :
    CanonicalOut (execLinkWordArrival t net wire syn s) := by
  unfold Machine.execLinkWordArrival
  extract_lets
  refine .ite .fault ?_
  split
  · exact .next h
  · extract_lets _ u p v
    have hu : Canonical u := .refill h
    have hp : Canonical p.1 := .iteFst hu.openWindows.countEcc.parityError hu.countEcc
    have hv : Canonical v := hp.driveOuts
    exact .ite (.next (.ite hu.unitTake h)) (.ite (.next h) (.ite (.next h.slotUnread) (.ite (.next h.unpredictable)
      (.ite (.next h) (.next (.ite hv.enqueue hv))))))

/-! ## Admission -/

theorem Canonical.wdisc (h : Canonical s) : Canonical s.wdisc := h.count
theorem Canonical.ingressBurst (h : Canonical s) : CanonicalOut (s.ingressBurst p a z b) := by
  unfold State.ingressBurst
  extract_lets _ _ _ _ _ _ _ _ u
  have hu : Canonical u := .ite h h.wdisc
  exact .ite (.next h.wdisc) (.ite (.next h.unpredictable) (.ite (.next hu) (.ite (.next hu.setStream) (.ite (.next hu.setStream)
    (.next (.ite hu.setStream.setBits hu.setStream))))))

theorem Canonical.acceptDoorbell (h : Canonical s) : Canonical (s.acceptDoorbell a p o) := by
  unfold State.acceptDoorbell
  extract_lets _ _ _ _ _ _ _ _ _ _ w a
  have hw : Canonical w := .setReg (.count h.setStream)
  have ha : Canonical a := .ite hw.countOverrun (.ite hw hw.count)
  exact .ite ha.setBits ha

theorem Canonical.refuseDoorbell (h : Canonical s) : Canonical (s.refuseDoorbell a) := h.setStream.count
theorem Canonical.ring (h : Canonical s) : Canonical (s.ring a p o) := .ite h.acceptDoorbell h.refuseDoorbell
theorem Canonical.switchGeometry (h : Canonical s) : Canonical (s.switchGeometry p) :=
  .ite h (.foldl (fun _ _ h => h.offer) (.unitSend h))
theorem Canonical.mapFrame {g : Frame → Frame} (h : Canonical s) : Canonical (s.mapFrame f g) := h
@[simp] theorem Canonical.execSlotStart {ue} (h : Canonical s) : CanonicalOut (execSlotStart ue s) := by
  unfold Machine.execSlotStart
  extract_lets
  refine .next ?_
  refine .ite ?_ h
  split
  · exact h
  · split
    · exact h
    · exact .ite h.until.setReg.contained.endOutside h.until.setReg.switchGeometry.setStream

theorem Canonical.sendStage0 {ws : List QWord} (h : Canonical s) : Canonical (s.sendStage0 ws) := .foldl (fun _ _ h => h.offer) h
@[simp] theorem Canonical.execRowGroupSend {ecc} (h : Canonical s) : CanonicalOut (execRowGroupSend ecc s) := by
  unfold Machine.execRowGroupSend
  refine .next ?_
  split
  · exact h
  · extract_lets _ _ _ _ _ _ _ v _ _ _ _ _ w
    have hv : Canonical v := .ite h.until h.until
    have hw : Canonical w := .sendStage0 (.ite hv.noteFirstRow hv)
    exact .ite h (.ite h (.ite hv.contained.sendStage0.freeSlot.mapFrame
      (.ite (.freeSlot (.mapFrame hw)) (.setStream (.mapFrame hw)))))

@[simp] theorem Canonical.execMaxWaitExpiry {stream slot} (h : Canonical s) : CanonicalOut (execMaxWaitExpiry stream slot s) :=
  .onlyIf h h.until.setStream.endOutside
theorem Canonical.flushWait (h : Canonical s) : Canonical s.flushWait := h.endOutside
@[simp] theorem Canonical.execFlushWait (h : Canonical s) : CanonicalOut (execFlushWait s) := .onlyIf h h.flushWait

/-! ## Egress -/

theorem Canonical.staleRun (h : Canonical s) : Canonical (s.staleRun a b c) := h
theorem Canonical.writeRecord (h : Canonical s) : Canonical (s.writeRecord f) :=
  .ite (.setBits (.count (.ite (.count (.count h)) (.count h)))) (.ite (.count (.count h)) (.count h))
@[simp] theorem Canonical.execRecordWrite {ue} (h : Canonical s) : CanonicalOut (execRecordWrite ue s) := by
  unfold Machine.execRecordWrite
  split
  · exact .next h
  · exact .onlyIf h (.ite h.deviceFault h.writeRecord)

theorem Canonical.writeAll : ∀ {a : Nat} {s : State}, Canonical s → Canonical (s.writeAll a)
  | 0, _, h => h
  | _ + 1, _, h => by
    unfold State.writeAll
    split
    · exact Canonical.writeAll h.writeRecord
    · exact h

@[simp] theorem Canonical.execDeviceFaultDrainEnd (h : Canonical s) : CanonicalOut (execDeviceFaultDrainEnd s) :=
  .onlyIf h (.writeAll (.foldl (fun _ _ h => h.freeSlot) h.freeSending.endFrames))
theorem Canonical.lineDamaged (h : Canonical s) : Canonical (s.lineDamaged a b) := h.staleRun.count.setBits
theorem Canonical.entryDamaged (h : Canonical s) : Canonical (s.entryDamaged a) := .ite h.deviceFault h

/-! ## Stream -/

theorem Canonical.finish (h : Canonical s) : Canonical (s.finish a) := h.setTs
theorem Canonical.armActive {d : Desc} (h : Canonical s) : Canonical (s.armActive a d) := by
  unfold State.armActive
  extract_lets
  split
  · exact h.setTs
  · exact h.setTs
  · exact h.setTs.count.setBits

theorem Canonical.arm {d : Desc} (h : Canonical s) : Canonical (s.arm a d) := .ite h.landed.finish.armActive h.landed.armActive
@[simp] theorem Canonical.execArmDescriptor {ts d} (h : Canonical s) : CanonicalOut (execArmDescriptor ts d s) := .onlyIf h h.arm
@[simp] theorem Canonical.execDescriptorComplete {ts} (h : Canonical s) : CanonicalOut (execDescriptorComplete ts s) :=
  .onlyIf h h.until.landed.finish
theorem Canonical.jraBase (h : Canonical s) : Canonical (s.jraBase v) := .ite h.cfgIgn h.setReg.arm
@[simp] theorem Canonical.execJraBaseWrite {alias4 v} (h : Canonical s) : CanonicalOut (execJraBaseWrite alias4 v s) :=
  .onlyIf h h.jraBase
theorem Canonical.hbmPut (h : Canonical s) : Canonical (s.hbmPut a bs) := by
  unfold State.hbmPut
  extract_lets
  exact .ite h (.ite (h.withCopy (Memory.wf_putBytes _ _ _ h.copy)) (.ite (h.withJournal (Memory.wf_putBytes _ _ _ h.journalWords))
    (h.withArea (Memory.wf_putBytes _ _ _ h.area))))

theorem Canonical.deliver {d : Desc} (h : Canonical s) : Canonical (s.deliver d a bs) := .ite h.setTile h
theorem Canonical.store {d : Desc} (h : Canonical s) : Canonical (s.store d a b) := .ite h.hbmPut (.ite h.hbmPut h)
theorem Canonical.failSlot {p : Option (ℕ × ℕ)} (h : Canonical s) : Canonical (s.failSlot p) := by
  unfold State.failSlot
  split
  · exact .ite h.slotBad h
  · exact h

theorem Canonical.loseSlot (h : Canonical s) : Canonical (s.loseSlot a b) := h.invalidate.count.logEvent.journal
theorem Canonical.moveSlot (h : Canonical s) : Canonical (s.moveSlot a b c d e) := .ite h h
theorem Canonical.withdraw (h : Canonical s) : Canonical (s.withdraw a) := by
  unfold State.withdraw
  extract_lets
  split
  · exact h
  · split
    · exact .foldl (fun _ _ h => h.loseSlot) h
    · extract_lets v
      have hv : Canonical v := .foldl (fun _ _ h => h.moveSlot) h
      clear_value v
      exact hv

theorem Canonical.mapRow (h : Canonical s) : Canonical (s.mapRow a).1 := by
  unfold State.mapRow
  extract_lets c x put
  have hp : ∀ n y, Canonical (put n y) := fun _ _ => ⟨h.regs, h.tiles, h.streams, h.copy, h.journalWords, h.area⟩
  clear_value put
  exact .iteFst (.iteFst (hp _ _) (hp _ _)) (.iteFst (hp _ _) h)

theorem Canonical.retireRow (h : Canonical s) : Canonical (s.retireRow a b) :=
  .ite h (.ite h.setBits.logEvent (.ite h.mapRow.count.logEvent.retire h.mapRow.count.logEvent.retire.withdraw))
theorem Canonical.applyRetired (h : Canonical s) : Canonical s.applyRetired := .foldl (fun _ _ h => .ite h h.mapRow.count) h
theorem Canonical.regionLost (h : Canonical s) : Canonical (s.regionLost a b c) := by
  unfold State.regionLost
  extract_lets _ _ _ _ u _ _ u'
  have hu : Canonical u := h.withCopy (Memory.wf_clear _ _ _ h.copy)
  have hu' : Canonical u' := h.withJournal (Memory.wf_clear _ _ _ h.journalWords)
  exact .ite h.failSlot (.ite h.failSlot.failSlot (.ite (.ite hu.rejectImage (.ite hu.deviceFault hu.setBits)) (.ite
    (.ite hu'.jBreak hu') (.ite (.ite (.ite h.deviceFault h) h) (.ite h.clearStream h)))))

theorem Canonical.corrected (h : Canonical s) : Canonical (s.corrected a) := .ite h.setChan.count.retireRow h.setChan.count
theorem Canonical.uncorrected (h : Canonical s) : Canonical (s.uncorrected a b c) := h.setChan.count.setBits.alert.regionLost.retireRow
theorem Canonical.hbmEcc (h : Canonical s) : Canonical (s.hbmEcc a b c ecc) := by
  unfold State.hbmEcc
  split
  · exact h
  · exact h.corrected
  · exact h.uncorrected

theorem Canonical.clientMoves {rs : List Ready} (h : Canonical s) : Canonical (s.clientMoves rs) :=
  .foldl (fun _ _ h => .ite h h.setOcc) h
theorem Canonical.movePart {r : Ready} {bad : Option ℕ} (h : Canonical s) : Canonical (s.movePart r a bad) := by
  unfold State.movePart
  extract_lets
  split
  · exact h
  · exact .ite h.setTs.store h.setTs.deliver

theorem Canonical.charge {c : List Ready} (h : Canonical s) : Canonical (s.charge c) := .ite (.ite h.setOcc h) h.setTs
theorem Canonical.runCommand {c : List Ready} (h : Canonical s) : Canonical (s.runCommand a c ecc) :=
  .hbmEcc (.count (.setChan (.foldl (fun _ _ h => h.movePart) h.charge)))
@[simp] theorem Canonical.execHbmCommand {ch ready ecc} (h : Canonical s) : CanonicalOut (execHbmCommand ch ready ecc s) :=
  .onlyIf h (by split; exacts [h.until.openWindows.landed.clientMoves.runCommand, h.until.openWindows.landed.clientMoves])
@[simp] theorem Canonical.execHbmScrubRow {word ecc} (h : Canonical s) : CanonicalOut (execHbmScrubRow word ecc s) :=
  .onlyIf h (.ite (.setReg (.ite (.ite h h) (.hbmEcc (.ite h h)))) (.count (.setReg (.ite (.ite h h) (.hbmEcc (.ite h h))))))
@[simp] theorem Canonical.execHbmRefresh {hot} (h : Canonical s) : CanonicalOut (execHbmRefresh hot s) := .onlyIf h h.putBit
theorem Canonical.recalibrate (h : Canonical s) : Canonical (s.recalibrate a) := h.setChan
@[simp] theorem Canonical.execPhyRecalibration {ch} (h : Canonical s) : CanonicalOut (execPhyRecalibration ch s) :=
  .onlyIf h h.until.until.recalibrate
@[simp] theorem Canonical.execForcedRecalibration {ch} (h : Canonical s) : CanonicalOut (execForcedRecalibration ch s) :=
  .onlyIf h h.until.recalibrate.count

/-! ## Convert -/

@[simp] theorem Canonical.execScan {t hd c} (h : Canonical s) : CanonicalOut (execScan t hd c s) := h.tileCycle fun _ _ _ h => h.setTile
@[simp] theorem Canonical.execSeal {t hd c} (h : Canonical s) : CanonicalOut (execSeal t hd c s) :=
  h.tileCycle fun _ _ _ h => h.setTile.sendOut
@[simp] theorem Canonical.execEncode {t hd c} (h : Canonical s) : CanonicalOut (execEncode t hd c s) :=
  h.tileCycle fun _ _ _ h => .ite h.setTile.sendOut h.setTile
@[simp] theorem Canonical.execDecode {t hd c} (h : Canonical s) : CanonicalOut (execDecode t hd c s) :=
  .ite .fault (h.tileCycle fun _ _ _ h => h.setTile.countOvf.countNonfin.sendOut)
@[simp] theorem Canonical.execXsl {t hd c} (h : Canonical s) : CanonicalOut (execXsl t hd c s) := h.tileCycle fun _ _ _ h => h.setTile
@[simp] theorem Canonical.execWsl {t hd c} (h : Canonical s) : CanonicalOut (execWsl t hd c s) := h.tileCycle fun _ _ _ h => h.setTile
@[simp] theorem Canonical.execCarry {t hd c} (h : Canonical s) : CanonicalOut (execCarry t hd c s) := h.tileCycle fun _ _ _ h => h.setTile

/-! ## Capture -/

theorem Canonical.setCapState (h : Canonical s) : Canonical (s.setCapState a) := h.putFld
theorem Canonical.setCap {c : Capture} (h : Canonical s) : Canonical (s.setCap c) := h
theorem Canonical.captureArm (h : Canonical s) : Canonical s.captureArm := .ite h.setCap.setCapState.leaveLow h.setBits
theorem Canonical.captureDisarm (h : Canonical s) : Canonical s.captureDisarm := .ite h.setCapState h
theorem Canonical.captureStop (h : Canonical s) : Canonical s.captureStop := .logEvent (.setCapState (.setCap h))
theorem Canonical.captureTrigger (h : Canonical s) : Canonical s.captureTrigger := .ite h.setCap h.captureStop
theorem Canonical.heldTrigger (h : Canonical s) : Canonical s.heldTrigger := .ite h.captureStop h
theorem Canonical.captureRelease (h : Canonical s) : Canonical s.captureRelease := by
  unfold State.captureRelease
  extract_lets _ _ _ _ u v w b
  have hu : Canonical u := h.withTiles (twf_tmap _ _ h.tiles)
  have hv : Canonical v := hu.loseCrossings
  have hw : Canonical w := .foldl (fun _ _ h => h.leaveLow) hv
  have hb : Canonical b := hw.beginRemap.setCapState
  exact .ite h (.ite hb hw.setCapState)

@[simp] theorem Canonical.execCaptureArm (h : Canonical s) : CanonicalOut (execCaptureArm s) := .onlyIf h h.captureArm
@[simp] theorem Canonical.execCaptureDisarm (h : Canonical s) : CanonicalOut (execCaptureDisarm s) := .onlyIf h h.captureDisarm
@[simp] theorem Canonical.execCaptureTrigger (h : Canonical s) : CanonicalOut (execCaptureTrigger s) := .onlyIf h h.until.captureTrigger
@[simp] theorem Canonical.execCaptureScanEnd (h : Canonical s) : CanonicalOut (execCaptureScanEnd s) := .onlyIf h h.setCap.setCapState
@[simp] theorem Canonical.execCaptureRelease (h : Canonical s) : CanonicalOut (execCaptureRelease s) := .onlyIf h h.captureRelease
theorem Canonical.writeLogEntry {e : LogEntry} {rest : List LogEntry} (h : Canonical s) : Canonical (s.writeLogEntry e rest) :=
  .ite h (.setBits (.count h))
@[simp] theorem Canonical.execFlashLogWrite (h : Canonical s) : CanonicalOut (execFlashLogWrite s) :=
  .next (.ite h (by split; exacts [h, by split; exacts [h.writeLogEntry, h]]))

/-! ## Lifecycle -/

theorem Canonical.ignoreImageCmd (h : Canonical s) : Canonical s.ignoreImageCmd := h.count
theorem Canonical.beginVerify (h : Canonical s) : Canonical s.beginVerify := .leaveLow (.setBits h)
theorem Canonical.failVerify (h : Canonical s) : Canonical (s.failVerify a) := h.count.setBits.rejectImage
theorem Canonical.beginCommit (h : Canonical s) : Canonical s.beginCommit := .autoPower (.setBits (h.holdAll.withCopy h.copy))
theorem Canonical.finishExit (h : Canonical s) : Canonical (s.finishExit a) := .ite h h.setDom.count
theorem Canonical.usedOn (h : Canonical s) : Canonical s.usedOn := .foldl (fun _ _ h => .ite h.finishExit h) h
theorem Canonical.acceptMap {pitch : List (List TileAddr)} (h : Canonical s) : Canonical (s.acceptMap pitch) := by
  unfold State.acceptMap
  extract_lets _ _ v
  have hv : Canonical v := h
  exact hv.applyQuotas

theorem Canonical.commitStore (h : Canonical s) : Canonical s.commitStore := by
  unfold State.commitStore
  extract_lets
  split
  · exact h.setBits
  · exact .ite h.setBits h.clearStore.clrBits.setReg

theorem Canonical.commitNumerics (h : Canonical s) : Canonical s.commitNumerics := h
theorem Canonical.enableBlocks (h : Canonical s) : Canonical s.enableBlocks :=
  .ite (.setBits (.foldl (fun _ _ h => h.setBits) h)) (.foldl (fun _ _ h => h.setBits) h)
theorem Canonical.commitDone (h : Canonical s) : Canonical s.commitDone := by
  unfold State.commitDone
  extract_lets u v _ _ w
  have hu : Canonical u := h.usedOn.commitStore.commitNumerics.loadAll
  have hv : Canonical v := hu.clrBits.clrBits.enableBlocks
  clear_value v
  have hw : Canonical w := hv
  exact hw.autoPower

theorem Canonical.beginRelease (h : Canonical s) : Canonical s.beginRelease :=
  .ite (.flushAll (.endOutside (h.clrBits.clrBits.withCopy h.copy))) (h.clrBits.clrBits.withCopy h.copy)
theorem Canonical.releaseDone (h : Canonical s) : Canonical s.releaseDone := by
  unfold State.releaseDone
  extract_lets u v _ _ _ _ w
  have hu : Canonical u := h.keepAllStats.holdAll.clearMap
  have hv : Canonical v := .foldl (fun _ _ h => h.clrBits) hu.clrBits
  have hw : Canonical w := hv.withStreams (twf_tmap _ _ hv.streams)
  exact hw.autoPower

theorem Canonical.imageCommand (h : Canonical s) : Canonical (s.imageCommand a) :=
  .ite h.ignoreImageCmd (.ite h (by split; exacts [h.beginVerify, h.beginCommit, h.beginRelease, h, h, h, h.ignoreImageCmd]))
@[simp] theorem Canonical.execVerify (h : Canonical s) : CanonicalOut (execVerify s) := .onlyIf h h.imageCommand
@[simp] theorem Canonical.execCommit (h : Canonical s) : CanonicalOut (execCommit s) := .onlyIf h h.imageCommand
@[simp] theorem Canonical.execRelease (h : Canonical s) : CanonicalOut (execRelease s) := .onlyIf h h.imageCommand
@[simp] theorem Canonical.execDiscard (h : Canonical s) : CanonicalOut (execDiscard s) := .onlyIf h h.imageCommand
@[simp] theorem Canonical.execVerificationEnd (h : Canonical s) : CanonicalOut (execVerificationEnd s) :=
  .onlyIf h (.ite (.failVerify h.putBit.count) (.ite (.imageCommand h.putBit.count) h.putBit.count))
@[simp] theorem Canonical.execPlacingEnd (h : Canonical s) : CanonicalOut (execPlacingEnd s) :=
  .onlyIf h (by split; exacts [h.rejectImage.autoPower, h.acceptMap])
theorem Canonical.takeHeld (h : Canonical s) : Canonical s.takeHeld := .ite h (.foldl (fun _ _ h => h.imageCommand) h)
theorem Canonical.placedAgain (h : Canonical s) : Canonical s.placedAgain := by
  unfold State.placedAgain
  extract_lets _ b _ u v _ _ w x y
  have hb : Canonical b := h.usedOn
  clear_value b
  have hu : Canonical u := hb
  have hv : Canonical v := hu.loadAll.putBit
  have hw : Canonical w := hv
  have hx : Canonical x := .ite hw hw.setBits
  have hy : Canonical y := .ite hx.putFld hx
  exact hy.remapTimes.remapOver.takeHeld.heldTrigger.autoPower

@[simp] theorem Canonical.execLoadingEnd {ue} (h : Canonical s) : CanonicalOut (execLoadingEnd ue s) :=
  .ite (.onlyIf h (.ite h.rejectImage.autoPower h.commitDone)) (.onlyIf h (.ite h.deviceFault h.placedAgain))
@[simp] theorem Canonical.execReleaseEnd (h : Canonical s) : CanonicalOut (execReleaseEnd s) := .onlyIf h h.releaseDone
@[simp] theorem Canonical.execRemapScanInDone {ue} (h : Canonical s) : CanonicalOut (execRemapScanInDone ue s) :=
  .onlyIf h (.ite h.deviceFault h.remapFinish.takeHeld.heldTrigger)

/-! ## Window -/

theorem Canonical.snapTake (h : Canonical s) : Canonical (s.snapTake a) := .ite h h.snapCopy.setBits
theorem Canonical.snapDone (h : Canonical s) : Canonical (s.snapDone a) := h.setReg
@[simp] theorem Canonical.execSnapTake {block} (h : Canonical s) : CanonicalOut (execSnapTake block s) := .onlyIf h h.snapTake
@[simp] theorem Canonical.execSnapComplete {block} (h : Canonical s) : CanonicalOut (execSnapComplete block s) := .onlyIf h h.snapDone
@[simp] theorem Canonical.execWindowBoundary (h : Canonical s) : CanonicalOut (execWindowBoundary s) := .onlyIf h h.until.windowBoundary
theorem Canonical.syncEdge (h : Canonical s) : Canonical s.syncEdge :=
  .ite h.openWindows.count (.ite (.count h.openWindows) (.ite (.count h.openWindows) h.openWindows.count))
@[simp] theorem Canonical.execSyncInEdge (h : Canonical s) : CanonicalOut (execSyncInEdge s) := .onlyIf h h.syncEdge
theorem Canonical.raiseEvents (h : Canonical s) : Canonical (s.raiseEvents a) := .ite h h.setBits.count.count.count.logEvent.alert
@[simp] theorem Canonical.execNumEvaluation (h : Canonical s) : CanonicalOut (execNumEvaluation s) :=
  .onlyIf h (.ite (.foldl (fun _ _ h => h.raiseEvents) h) h)

/-! ## Indirect -/

theorem Canonical.writeSlotWord (h : Canonical s) : Canonical (s.writeSlotWord t a b v) := .ite h.unpredictable h.setTile
theorem Canonical.fabWrite (h : Canonical s) : Canonical (s.fabWrite t a v) :=
  .ite (.ite h.cfgIgn h.setTile) (.ite (.ite h.count h.writeSlotWord) (.ite h.setTile (.ite h.queueFlush h)))
theorem Canonical.setThresh (h : Canonical s) : Canonical (s.setThresh a p v) := h
theorem Canonical.stmWrite (h : Canonical s) : Canonical (s.stmWrite a v) :=
  .ite h (by split; exacts [h.landed.setTs, h.landed.setTs, h.landed.setTs, h.landed])
theorem Canonical.setPort {x : Port} (h : Canonical s) : Canonical (s.setPort p x) := .ite h h
theorem Canonical.indWrite (h : Canonical s) : Canonical (s.indWrite a b v) := by
  unfold State.indWrite
  extract_lets
  split
  · exact .ite h.fabWrite h
  · exact .ite h.setThresh (.ite h.setThresh h)
  · exact h.stmWrite
  · exact .ite h.writeDctl h
  · exact h

theorem Canonical.indOvr (h : Canonical s) : Canonical (s.indOvr a) := h.setBits
theorem Canonical.indStart (h : Canonical s) : Canonical (s.indStart a b) := .setBits h
theorem Canonical.indAddrWrite (h : Canonical s) : Canonical (s.indAddrWrite a b v) := .ite h.indOvr h.setReg.indStart
theorem Canonical.indDataWrite (h : Canonical s) : Canonical (s.indDataWrite a v) := .ite h.indOvr h.setReg.indWrite.indStart
theorem Canonical.indDataRead (h : Canonical s) : Canonical (s.indDataRead a).2 := .iteSnd h.indOvr (.iteSnd h.setReg.indStart h)
theorem Canonical.indChecked (h : Canonical s) : Canonical (s.indChecked a ecc v).2 :=
  .iteSnd h (.iteSnd h.countEcc (.iteSnd h.countEcc.free h.countEcc.free.tileFault))
theorem Canonical.indComplete (h : Canonical s) : Canonical (s.indComplete a ecc) :=
  .ite (.setReg (.iteSnd (.indChecked (.clrBits h)) (.clrBits h))) (.ite (.setReg (.clrBits h)) (.clrBits h))
@[simp] theorem Canonical.execIndAddrWrite {block alias4 v} (h : Canonical s) : CanonicalOut (execIndAddrWrite block alias4 v s) :=
  .onlyIf h h.indAddrWrite
@[simp] theorem Canonical.execIndDataWrite {block v} (h : Canonical s) : CanonicalOut (execIndDataWrite block v s) :=
  .onlyIf h h.indDataWrite
@[simp] theorem Canonical.execIndDataRead {block} (h : Canonical s) : CanonicalOut (execIndDataRead block s) := .onlyIf h h.indDataRead
@[simp] theorem Canonical.execIndAccessComplete {block} (h : Canonical s) : CanonicalOut (execIndAccessComplete block s) :=
  .onlyIf h h.indComplete

/-! ## Pair -/

theorem Canonical.lapse (h : Canonical s) : Canonical s.lapse := .ite (.alert (.logEvent (.setBits (.count h)))) h
@[simp] theorem Canonical.execLeaseLapse (h : Canonical s) : CanonicalOut (execLeaseLapse s) := .onlyIf h h.until.lapse
theorem Canonical.renewLease (h : Canonical s) : Canonical (s.renewLease v) :=
  .ite (.setBits (.count (by split; exacts [.ite h.lapse h, h]))) (.setReg (by split; exacts [.ite h.lapse h, h]))
@[simp] theorem Canonical.execLeaseRenew {epoch} (h : Canonical s) : CanonicalOut (execLeaseRenew epoch s) := .onlyIf h h.renewLease
theorem Canonical.setMirror (h : Canonical s) : Canonical (s.setMirror a) := h.putFld
theorem Canonical.startRole (h : Canonical s) : Canonical s.startRole :=
  .ite (.setReg (.setReg (h.withJournal rfl))) (.ite (.setMirror h) h)
theorem Canonical.pairEnable (h : Canonical s) : Canonical (s.pairEnable a) :=
  .ite (.ite h.cfgIgn h) (.startRole (.setBits (.ite h.putFld h)))
@[simp] theorem Canonical.execPairEnable {role} (h : Canonical s) : CanonicalOut (execPairEnable role s) := .onlyIf h h.pairEnable
theorem Canonical.ackJournal (h : Canonical s) : Canonical (s.ackJournal v) := h.setReg
@[simp] theorem Canonical.execJournalAck {v} (h : Canonical s) : CanonicalOut (execJournalAck v s) := .onlyIf h h.ackJournal
theorem Canonical.jRefuse (h : Canonical s) : Canonical s.jRefuse := .ite h.count.setBits h.count.setBits.setMirror
theorem Canonical.setLists (h : Canonical s) : Canonical (s.setLists a b c v) := h.setSctx
theorem Canonical.jApply (h : Canonical s) : Canonical (s.jApply a) := by
  unfold State.jApply
  extract_lets kind _ _ _ _ _ _ v
  have hv : Canonical v := h.unlink.writeSlot
  clear_value kind
  split
  · exact hv.setLists.setSctx
  · exact .ite h.setStaked.setLists h
  · exact .ite h.setStaked.setLists h
  · exact .ite h.invalidate h.evictSlot
  · exact h.evictAll
  · exact h.setSctx
  · exact h.clearStore.setMirror
  · exact h.setMirror
  · exact h

theorem Canonical.jAccept (h : Canonical s) : Canonical (s.jAccept a) := by
  unfold State.jAccept
  extract_lets v
  have hv : Canonical v := h.setReg.jApply
  clear_value v
  exact ⟨hv.regs, hv.tiles, hv.streams, hv.copy, hv.journalWords, hv.area⟩

theorem Canonical.applyJournal (h : Canonical s) : Canonical (s.applyJournal v) := by
  unfold State.applyJournal
  extract_lets u _ w
  have hu : Canonical u := h.setReg
  have hw : Canonical w := hu
  exact .ite hu (.ite hu (by split; exacts [hu, .ite hw.jAccept hu.jRefuse]))

@[simp] theorem Canonical.execJournalApply {v} (h : Canonical s) : CanonicalOut (execJournalApply v s) := .onlyIf h h.applyJournal
@[simp] theorem Canonical.execJournalEntryApply (h : Canonical s) : CanonicalOut (execJournalEntryApply s) :=
  .onlyIf h (.ite h.jAccept h.jRefuse)
theorem Canonical.resync (h : Canonical s) : Canonical s.resync := .ite h (.ite (.journal h.clrBits) (.journal h.clrBits))
@[simp] theorem Canonical.execResync (h : Canonical s) : CanonicalOut (execResync s) := .onlyIf h h.resync
theorem Canonical.walkOn {w : Walk} (h : Canonical s) : Canonical (s.walkOn w) := .ite h h
theorem Canonical.walkSlot (h : Canonical s) : Canonical (s.walkSlot a b) := h.journal
theorem Canonical.walkStep {w : Walk} (h : Canonical s) : Canonical (s.walkStep w) := by
  unfold State.walkStep
  extract_lets
  split
  · exact h.journal
  · extract_lets
    split
    · exact h.walkSlot.walkOn
    · exact h.journal.walkOn

@[simp] theorem Canonical.execResyncWalkStep (h : Canonical s) : CanonicalOut (execResyncWalkStep s) := by
  unfold Machine.execResyncWalkStep
  split
  · exact .next h
  · exact .onlyIf h h.walkStep

/-! ## PostProc -/

theorem Canonical.unitFault (h : Canonical s) : Canonical (s.unitFault a f) := h.contained.abortFrame
@[simp] theorem Canonical.execBoxDecode {ecc' : Ecc} (h : Canonical s) : CanonicalOut (execBoxDecode ecc ecc' s) := by
  unfold Machine.execBoxDecode
  split
  · exact .next h
  · extract_lets _ _ _ _ _ _ _ _ u v w x
    have hu : Canonical u := h.count.count
    have hv : Canonical v := .ite hu.count.setBits hu
    have hx : Canonical x := hv.countNonfin.countOvf.mapFrame.dropRows
    clear_value x
    exact .onlyIf h (.ite h.unitFault hx)

@[simp] theorem Canonical.execSuppression {ecc} (h : Canonical s) : CanonicalOut (execSuppression ecc s) := by
  unfold Machine.execSuppression
  extract_lets
  split
  · exact .next h
  · exact .onlyIf h (.ite h.unitFault h)

@[simp] theorem Canonical.execCropAndResize {words ecc} (h : Canonical s) : CanonicalOut (execCropAndResize words ecc s) := by
  unfold Machine.execCropAndResize
  extract_lets
  split
  · exact .onlyIf h (.ite h.unitFault (.sendCropOwed (.dropRows (.mapFrame (.countNonfin (.countOvf (.count (.count (.foldl
      (fun _ _ h => h.unitSend) h)))))))))
  · exact .next h

@[simp] theorem Canonical.execTrackAssociation {m : List (BitVec 9)} {ecc' : Ecc} (h : Canonical s) :
    CanonicalOut (execTrackAssociation ecc m ecc' s) := by
  unfold Machine.execTrackAssociation
  split
  · exact .next h
  · extract_lets _ _ _ _ _ _ _ _ _ _ _ u0 _ _ _ _ _ u _ _ v x y _ z
    have hu : Canonical u0 := .times (fun _ h => h.contained) h
    clear_value u0
    have hv : Canonical v := .count (.count hu)
    clear_value v
    have hy : Canonical y := .mapFrame (.ite hv hv.count.setBits)
    clear_value y
    have hz : Canonical z := by
      unfold z
      cases s.cropStage
      · exact hy
      · exact hy.dropRows
    exact .onlyIf h (.ite h.unitFault hz)

/-! ## RegWrite -/

theorem Canonical.requestReset (h : Canonical s) : Canonical (s.requestReset a) := .ite h h.putFld
@[simp] theorem Canonical.execSoftReset {viaObject key} (h : Canonical s) : CanonicalOut (execSoftReset viaObject key s) :=
  .onlyIf h h.requestReset
theorem Canonical.submit (h : Canonical s) : Canonical (s.submit v) := .ite h.setReg.putFld h.count
@[simp] theorem Canonical.execMbxSubmit {v} (h : Canonical s) : CanonicalOut (execMbxSubmit v s) := .onlyIf h h.submit
theorem Canonical.drainCtl (h : Canonical s) : Canonical (s.drainCtl a v) := by
  unfold State.drainCtl
  extract_lets
  split
  · exact h.setReg
  · exact h.setReg.start
  · exact h.setReg.resume
  · exact h.setReg.scanIn
  · exact h.setReg.flushAll
  · exact h.setReg.cfgIgn

theorem Canonical.capCtl (h : Canonical s) : Canonical (s.capCtl a v) := by
  unfold State.capCtl
  extract_lets _ _ _ _ w x
  have hw : Canonical w := .ite (.ite h.setReg.setBits h.setReg.captureArm) h.setReg
  have hx : Canonical x := .ite hw.captureDisarm hw
  exact .ite hx.captureRelease hx

theorem Canonical.fieldWrite (h : Canonical s) : Canonical (s.fieldWrite a b v) := .ite h.setReg.cfgIgn h.setReg
theorem Canonical.ctxCtlWrite (h : Canonical s) : Canonical (s.ctxCtlWrite a v) :=
  .ite (.ite h.setReg.cfgIgn h.setReg) (.ite h.setReg.clearStore h.setReg)
theorem Canonical.admCtlWrite (h : Canonical s) : Canonical (s.admCtlWrite a v) := .ite h.fieldWrite.flushWait h.fieldWrite
theorem Canonical.fltCtlWrite (h : Canonical s) : Canonical (s.fltCtlWrite a v) :=
  .ite (.ite h.fieldWrite h.fieldWrite) (.ite h.fieldWrite.startRole h.fieldWrite)
theorem Canonical.commonWrite (h : Canonical s) : Canonical (s.commonWrite a b c v) :=
  .ite (.ite h.snapTake h) (.ite h.setReg (.ite h.indAddrWrite (.ite (.ite h.indDataWrite h) h)))
theorem Canonical.regWrite (h : Canonical s) : Canonical (s.regWrite a b v) := by
  unfold State.regWrite
  extract_lets
  exact .ite h (.ite h.commonWrite (.ite h (.ite (.ite h.requestReset h) (.ite h.admCtlWrite (.ite h.drainCtl (.ite h.ctxCtlWrite
    (.ite h.jraBase (.ite h.landed.fieldWrite (.ite h.settleTokens.fieldWrite (.ite h.fltCtlWrite (.ite (.ite h.renewLease h)
    (.ite h.ackJournal (.ite h.applyJournal (.ite (.ite h.resync h) (.ite h.capCtl (.ite h.submit (.ite
    (.ite h.count h.setReg) h.fieldWrite.driveAlert)))))))))))))))))

theorem Canonical.regRead (h : Canonical s) : Canonical (s.regRead a b).2 := .iteSnd h (.iteSnd (.iteSnd h.indDataRead h) (.iteSnd h h))

/-! ## Objects -/

theorem Canonical.objPut (h : Canonical s) : Canonical (s.objPut a b c) := by
  unfold State.objPut
  extract_lets
  split
  · exact h.putFld
  · exact h.putFld
  · exact h.setReg
  · exact h.setReg
  · exact h
  · exact h.putFld
  · exact h.putFld
  · exact h.setReg
  · exact h.putFld
  · exact h.putFld
  · exact h.putFld
  · exact h.putFld
  · exact h.putFld
  · exact .ite h.clearAll h
  · exact h.putFld
  · exact h.putFld
  · exact h.putFld
  · exact h.ackJournal
  · exact h.putFld
  · exact h.capCtl
  · exact h.setReg.setReg
  · exact h.setReg
  · exact .ite h.setThresh h.setObj

/-! ## Profiles -/

theorem Canonical.beginSave {digest : BitVec 512} {entries : List (ℕ × ℕ × BitVec 64)} (h : Canonical s) : Canonical
    (s.beginSave l digest entries) :=
  h
theorem Canonical.saveActive (h : Canonical s) : Canonical s.saveActive := h.beginSave
theorem Canonical.takeDefaults (h : Canonical s) : Canonical s.takeDefaults := by
  unfold State.takeDefaults
  extract_lets mapped u
  have hu : Canonical u := .foldl (fun _ _ h => h.objPut) h
  clear_value u
  exact hu

theorem Canonical.beginErase (h : Canonical s) : Canonical s.beginErase := h
theorem Canonical.profileCommand (h : Canonical s) : Canonical (s.profileCommand a).2 :=
  .iteSnd h (.iteSnd h (.ite h.saveActive (.ite h.takeDefaults h.beginErase)))
theorem Canonical.writeDigest {m : BitVec 512} (h : Canonical s) : Canonical (s.writeDigest l m).2 :=
  .iteSnd h (.iteSnd h h)
theorem Canonical.showDamaged (h : Canonical s) : Canonical s.showDamaged := h.putBit
theorem Canonical.endSave {r : PRecord} (h : Canonical s) : Canonical (s.endSave l r p) := .ite h (.ite (.free h) (.showDamaged h))
theorem Canonical.endErase (h : Canonical s) : Canonical (s.endErase p) := .showDamaged (.ite h.free h)
theorem Canonical.applyEntries {es : List (ℕ × ℕ × BitVec 64)} (h : Canonical s) : Canonical (s.applyEntries a es) :=
  .foldl (fun _ _ h => by extract_lets; split; exacts [h, .ite h.objPut h]) h
@[simp] theorem Canonical.execSave (h : Canonical s) : CanonicalOut (execSave s) := .onlyIf h h.profileCommand
@[simp] theorem Canonical.execDefaults (h : Canonical s) : CanonicalOut (execDefaults s) := .onlyIf h h.profileCommand
@[simp] theorem Canonical.execErase (h : Canonical s) : CanonicalOut (execErase s) := .onlyIf h h.profileCommand
@[simp] theorem Canonical.execImageDigestWrite {p digest} (h : Canonical s) : CanonicalOut (execImageDigestWrite p digest s) :=
  .onlyIf h h.writeDigest
@[simp] theorem Canonical.execDefaultsComplete (h : Canonical s) : CanonicalOut (execDefaultsComplete s) := .onlyIf h h
@[simp] theorem Canonical.execSaveDeferredStart (h : Canonical s) : CanonicalOut (execSaveDeferredStart s) :=
  have key : ∀ n, CanonicalOut (onlyIf (s.fwUp && s.dict.deferred) s
      { s.until n with dict := { (s.until n).dict with deferred := false } }) := fun _ => .onlyIf h h.until
  key _
@[simp] theorem Canonical.execSaveComplete {failed} (h : Canonical s) : CanonicalOut (execSaveComplete failed s) := by
  unfold Machine.execSaveComplete
  split
  · exact .next h
  · exact .onlyIf h h.endSave

@[simp] theorem Canonical.execEraseComplete {failed} (h : Canonical s) : CanonicalOut (execEraseComplete failed s) := .onlyIf h h.endErase

/-! ## Security -/

theorem Canonical.dropSeg (h : Canonical s) : Canonical s.dropSeg := h
theorem Canonical.takeFirmware (h : Canonical s) : Canonical (s.takeFirmware bs) := .leaveLow (.setBits h)
theorem Canonical.fwSegment {src : Src} (h : Canonical s) : Canonical (s.fwSegment src a p bs).2 := by
  unfold State.fwSegment
  split
  · exact .iteSnd h (.iteSnd h.dropSeg (.iteSnd h.dropSeg (.iteSnd h.takeFirmware h)))
  · exact .iteSnd h (.iteSnd h (.iteSnd h (.iteSnd (.takeFirmware h) h)))

theorem Canonical.fwVerified (h : Canonical s) : Canonical s.fwVerified := by
  unfold State.fwVerified
  extract_lets _ v _ _ w
  have hv : Canonical v := h.putBit.count
  clear_value v
  have hw : Canonical w := hv
  exact .ite hw hw.count.setBits

theorem Canonical.fwCommand (h : Canonical s) : Canonical (s.fwCommand a).2 := .iteSnd (.iteSnd h h) (.iteSnd (.iteSnd h h) h)
theorem Canonical.writeFwMin (h : Canonical s) : Canonical (s.writeFwMin v).2 := .iteSnd h h
theorem Canonical.writeKey {key : BitVec 512} (h : Canonical s) : Canonical (s.writeKey a key).2 := .iteSnd h (.iteSnd h (.iteSnd h h))
theorem Canonical.revoke (h : Canonical s) : Canonical (s.revoke a).2 := .iteSnd h h
theorem Canonical.sign (h : Canonical s) : Canonical (s.sign).2 := .iteSnd h (.leaveLow (.setBits h))
theorem Canonical.signed (h : Canonical s) : Canonical s.signed := h.clrBits.count
@[simp] theorem Canonical.execFwUpdate {offset last bytes} (h : Canonical s) : CanonicalOut (execFwUpdate offset last bytes s) :=
  .onlyIf h h.fwSegment
@[simp] theorem Canonical.execFwUpdateVerifyEnd (h : Canonical s) : CanonicalOut (execFwUpdateVerifyEnd s) := .onlyIf h h.fwVerified
@[simp] theorem Canonical.execActivate (h : Canonical s) : CanonicalOut (execActivate s) := .onlyIf h h.fwCommand
@[simp] theorem Canonical.execEraseInactive (h : Canonical s) : CanonicalOut (execEraseInactive s) := .onlyIf h h.fwCommand
@[simp] theorem Canonical.execFwMinVersionWrite {v} (h : Canonical s) : CanonicalOut (execFwMinVersionWrite v s) := .onlyIf h h.writeFwMin
@[simp] theorem Canonical.execPublicKeyWrite {k key} (h : Canonical s) : CanonicalOut (execPublicKeyWrite k key s) := .onlyIf h h.writeKey
@[simp] theorem Canonical.execRevoke {k} (h : Canonical s) : CanonicalOut (execRevoke k s) := .onlyIf h h.revoke
@[simp] theorem Canonical.execSign (h : Canonical s) : CanonicalOut (execSign s) := .onlyIf h h.sign
@[simp] theorem Canonical.execSigningComplete (h : Canonical s) : CanonicalOut (execSigningComplete s) := .onlyIf h h.signed

/-! ## Dictionary -/

theorem Canonical.actionWrite {m : Nat × State} (h : Canonical s) (hm : s.actionWrite a b c bs = some m) : Canonical m.2 := by
  unfold State.actionWrite at hm
  split at hm
  case h_10 =>
    split at hm
    · rw [← Option.some.inj hm]
      exact h.writeDigest
    split at hm
    · rw [← Option.some.inj hm]
      exact .iteSnd h (.iteSnd h.clearStream h)
    split at hm
    · rw [← Option.some.inj hm]
      exact h.writeKey
    split at hm
    · rw [← Option.some.inj hm]
      exact .iteSnd h (.iteSnd h.revoke h)
    · cases hm
  all_goals rw [← Option.some.inj hm]
  · exact .iteSnd h.requestReset h
  · exact h.profileCommand
  · exact .iteSnd h h.imageCommand
  · exact h.renewLease
  · exact .iteSnd h (.iteSnd h (.iteSnd h.resync h))
  · exact h.writeFwMin
  · exact h.fwCommand
  · exact h
  · exact .iteSnd h.sign h

theorem Canonical.writeObj {src : Src} {m : Req} (h : Canonical s) : Canonical (s.writeObj src m).2 := by
  unfold State.writeObj
  split
  · exact h
  · refine .iteSnd h (.iteSnd h.fwSegment (.iteSnd h (.iteSnd h (.iteSnd h ?_))))
    split
    · exact h.actionWrite ‹_›
    · exact .iteSnd h.objPut h

theorem Canonical.carryOut {src : Src} {r : Req} (h : Canonical s) : Canonical (s.carryOut src r).2 := .iteSnd h (.iteSnd h h.writeObj)
theorem Canonical.mbxReply (h : Canonical s) : Canonical (s.mbxReply bs) :=
  .setReg (.count (.putFld (.setReg (h.withRegs (twf_foldl_tset h.regs)))))
theorem Canonical.mbxRequest (h : Canonical s) : Canonical (s.mbxRequest bs) := .ite h.mbxReply h.carryOut.mbxReply
theorem Canonical.udpRefused (h : Canonical s) : Canonical s.udpRefused := h.setObj
theorem Canonical.udpReply {ip : BitVec 32} {port : BitVec 16} {r : Req} (h : Canonical s) : Canonical (s.udpReply ip port r bs) := h
theorem Canonical.udpRequest {ip : BitVec 32} {port : BitVec 16} (h : Canonical s) : Canonical (s.udpRequest ip port bs) := by
  unfold State.udpRequest
  extract_lets
  split
  · exact h
  · exact .ite h.udpRefused.udpReply (.ite h.udpReply h.carryOut.udpReply)

theorem Canonical.runRequest {q : Src × List Byte} {rest : List (Src × List Byte)} (h : Canonical s) : Canonical
    (s.runRequest q rest) := by
  unfold State.runRequest
  extract_lets
  split
  · exact .ite (.mbxRequest h) h
  · exact .udpRequest h

theorem Canonical.uhled (h : Canonical s) : Canonical (s.uhled a) := by
  unfold State.uhled
  split
  · exact h
  · exact .ite h.runRequest h

@[simp] theorem Canonical.execUhledRead (h : Canonical s) : CanonicalOut (execUhledRead s) := .onlyIf h h.uhled
@[simp] theorem Canonical.execUhledWrite (h : Canonical s) : CanonicalOut (execUhledWrite s) := .onlyIf h h.uhled
@[simp] theorem Canonical.execUhledInfo (h : Canonical s) : CanonicalOut (execUhledInfo s) := .onlyIf h h.uhled
@[simp] theorem Canonical.execUdpDatagram {ip port bytes} (h : Canonical s) : CanonicalOut (execUdpDatagram ip port bytes s) :=
  .onlyIf h (.ite h h.udpRefused)
@[simp] theorem Canonical.execSegmentTimeout (h : Canonical s) : CanonicalOut (execSegmentTimeout s) := by
  unfold Machine.execSegmentTimeout
  split
  · exact .onlyIf h h.until.dropSeg
  · exact .next h

/-! ## HostPort -/

theorem Canonical.registerBurst (h : Canonical s) : Canonical (s.registerBurst a z b) := .foldl (fun _ _ h => .ite h.regWrite h) h
theorem Canonical.cellBurst (h : Canonical s) : CanonicalOut (s.cellBurst p a z b) :=
  .ite (.next h) (.ite (.next h.unpredictable) (.next h.ring))
theorem Canonical.imageBurst (h : Canonical s) : Canonical (s.imageBurst a z b) := .ite (h.withCopy (Memory.wf_putMasked h.copy)) h.count
theorem Canonical.journalBurst (h : Canonical s) : Canonical (s.journalBurst a z b) :=
  .ite (h.withJournal (Memory.wf_putMasked h.journalWords)) h.wdisc
theorem Canonical.writeBurst {b : ℕ × Burst × ℕ} (h : Canonical s) : CanonicalOut (s.writeBurst p b) := by
  unfold State.writeBurst
  split
  · exact .next h.registerBurst
  · exact .next h
  · exact h.cellBurst
  · exact .next h.wdisc
  · exact .next h.wdisc
  · exact .next h.journalBurst
  · exact .next h.imageBurst
  · exact h.ingressBurst
  · exact .next h.wdisc

theorem Canonical.portTime (h : Canonical s) : Canonical (s.portTime p) := h.until
theorem Canonical.countWrites (h : Canonical s) : Canonical (s.countWrites p a) := h.setPort
theorem Canonical.hostWrite {m : HostWrite} (h : Canonical s) : CanonicalOut (s.hostWrite m) := by
  refine .ite (.next h) (.ite (.next h.portTime.countWrites) ?_)
  refine List.foldlRecOn (motive := CanonicalOut) _ _ (.next h.portTime.countWrites) fun o ho b _ => ?_
  split
  · exact (ho _ rfl).writeBurst
  · exact ho

theorem Canonical.writeIn {rs : List Range} {w : HostWrite} (h : Canonical s) : CanonicalOut (s.writeIn rs w) :=
  .ite h.hostWrite (.next h)
@[simp] theorem Canonical.execIngressWrite {w} (h : Canonical s) : CanonicalOut (execIngressWrite w s) := h.writeIn
@[simp] theorem Canonical.execDoorbell {w} (h : Canonical s) : CanonicalOut (execDoorbell w s) := h.writeIn
@[simp] theorem Canonical.execImageWindowWrite {w} (h : Canonical s) : CanonicalOut (execImageWindowWrite w s) := h.writeIn
@[simp] theorem Canonical.execJournalWindowWrite {w} (h : Canonical s) : CanonicalOut (execJournalWindowWrite w s) := h.writeIn
@[simp] theorem Canonical.execRegisterWrite {w} (h : Canonical s) : CanonicalOut (execRegisterWrite w s) := h.writeIn
@[simp] theorem Canonical.execDiscardedWrite {w} (h : Canonical s) : CanonicalOut (execDiscardedWrite w s) := h.writeIn
theorem Canonical.readRegisters (h : Canonical s) : Canonical (s.readRegisters a).2 :=
  List.foldlRecOn (motive := fun (m : Nat × State) => Canonical m.2) (upto 8) _ h fun _ h _ _ => h.regRead
theorem Canonical.readRing (h : Canonical s) : Canonical (s.readRing a p).2 := .iteSnd (.ite h.entryDamaged h) (.ite h.lineDamaged h)
theorem Canonical.readBurst (h : Canonical s) : Canonical (s.readBurst p a q).2 := by
  unfold State.readBurst
  split
  · exact h.readRegisters
  · exact h
  · exact h
  · exact h.readRing
  · exact h
  · exact h

@[simp] theorem Canonical.execHostRead {port addr bl32 ue} (h : Canonical s) : CanonicalOut (execHostRead port addr bl32 ue s) := by
  unfold Machine.execHostRead
  extract_lets
  exact .onlyIf h (.setPort (.iteSnd (.iteSnd h.portTime.readBurst h.portTime) (.iteSnd (.readBurst
    (.iteSnd h.portTime.readBurst h.portTime)) h.portTime)))

theorem Canonical.countHalf (h : Canonical s) : Canonical (s.countHalf a p) := h.putFld
theorem Canonical.setPortPin (h : Canonical s) : Canonical (s.setPortPin p q) := h
@[simp] theorem Canonical.execPortReset {port level} (h : Canonical s) : CanonicalOut (execPortReset port level s) := by
  unfold Machine.execPortReset
  extract_lets _ fall fall2 _ rise
  have hfall : Canonical fall := h.setPortPin.setPort.clrBits.countHalf
  have hfall2 : Canonical fall2 := .ite hfall.leaveLow.leaveLow hfall
  have hrise : Canonical rise := h.setPortPin.setPort
  exact .onlyIf h (.ite hrise (.ite hfall2 h.setPortPin))

@[simp] theorem Canonical.execPortInitReady {port} (h : Canonical s) : CanonicalOut (execPortInitReady port s) :=
  .onlyIf h h.until.setPort.setBits
theorem Canonical.onPort {f : Port → Port} (h : Canonical s) : Canonical (s.onPort p f) := h.portTime.setPort
@[simp] theorem Canonical.execModeRegisterWrite {port mr v} (h : Canonical s) : CanonicalOut (execModeRegisterWrite port mr v s) :=
  .onlyIf h (.ite h.onPort.setBits.setBits h.onPort.setBits)
@[simp] theorem Canonical.execModeRegisterRead {port mr} (h : Canonical s) : CanonicalOut (execModeRegisterRead port mr s) :=
  .onlyIf h h.onPort
@[simp] theorem Canonical.execTrainingCommand {port _kind} (h : Canonical s) : CanonicalOut (execTrainingCommand port _kind s) :=
  .onlyIf h h.onPort
@[simp] theorem Canonical.execZqCalibration {port} (h : Canonical s) : CanonicalOut (execZqCalibration port s) := .onlyIf h h.onPort
@[simp] theorem Canonical.execRefresh {port _kind} (h : Canonical s) : CanonicalOut (execRefresh port _kind s) :=
  .onlyIf h h.portTime.count
@[simp] theorem Canonical.execPowerDownEntry {port} (h : Canonical s) : CanonicalOut (execPowerDownEntry port s) := .onlyIf h h.onPort
@[simp] theorem Canonical.execPowerDownExit {port} (h : Canonical s) : CanonicalOut (execPowerDownExit port s) := .onlyIf h h.onPort
@[simp] theorem Canonical.execSelfRefreshEntry {port withPd} (h : Canonical s) : CanonicalOut (execSelfRefreshEntry port withPd s) :=
  .onlyIf h h.onPort.countHalf.enterLow.autoPower
@[simp] theorem Canonical.execSelfRefreshExit {port} (h : Canonical s) : CanonicalOut (execSelfRefreshExit port s) :=
  .onlyIf h h.onPort.leaveLow.leaveLow
@[simp] theorem Canonical.execFspChange {port fsp} (h : Canonical s) : CanonicalOut (execFspChange port fsp s) :=
  .ite (.next h.unpredictable) (.onlyIf h h.onPort)

/-! ## Power -/

theorem Canonical.engineStop (h : Canonical s) : Canonical (s.engineStop a) := h.deviceFault
@[simp] theorem Canonical.execRefclkLost (h : Canonical s) : CanonicalOut (execRefclkLost s) := .onlyIf h h.setBits.logEvent.engineStop
@[simp] theorem Canonical.execPllLockLost {pll} (h : Canonical s) : CanonicalOut (execPllLockLost pll s) :=
  .onlyIf h h.setBits.logEvent.engineStop
@[simp] theorem Canonical.execOscillatorTrim {err} (h : Canonical s) : CanonicalOut (execOscillatorTrim err s) :=
  have key : ∀ n, Canonical { s.until n with clk := { (s.until n).clk with trimAt := (s.until n).clock.now } } := fun _ => h.until
  .onlyIf h (key _).setReg
theorem Canonical.vidStep (h : Canonical s) : Canonical s.vidStep := .ite h (.ite h h)
@[simp] theorem Canonical.execSensorReading {temps volts} (h : Canonical s) : CanonicalOut (execSensorReading temps volts s) := by
  unfold Machine.execSensorReading
  extract_lets s _ _ again _ _ _ v t
  have hv : Canonical v := .vidStep (h.until.openWindows : Canonical s)
  clear_value v again
  refine .onlyIf h ?_
  unfold t
  split
  · exact hv
  · exact hv.logEvent.setBits.alert.engineStop

theorem Canonical.setFreq (h : Canonical s) : Canonical (s.setFreq a b) := h.putFld
theorem Canonical.thermalSector (h : Canonical s) : Canonical (s.thermalSector a) := by
  unfold State.thermalSector
  extract_lets _ _ _ _ log d _ d' u
  have hd : Canonical d' := h.setFreq.count
  clear_value d'
  have hu : Canonical u := .ite (.logEvent (.ite hd.setBits.alert hd)) (.ite h.setFreq.logEvent h)
  clear_value u
  exact .ite hu hu

@[simp] theorem Canonical.execThermalEvaluation (h : Canonical s) : CanonicalOut (execThermalEvaluation s) :=
  .onlyIf h (.foldl (fun _ _ h => h.thermalSector) h.until)
@[simp] theorem Canonical.execLiftRequest {clock} (h : Canonical s) : CanonicalOut (execLiftRequest clock s) :=
  .next (.ite h (.ite (.count h) (.ite h.leaveLow h)))
@[simp] theorem Canonical.execReqLow {d v} (h : Canonical s) : CanonicalOut (execReqLow d v s) := .onlyIf h h.writeDctl
@[simp] theorem Canonical.execPowerEntryComplete {d} (h : Canonical s) : CanonicalOut (execPowerEntryComplete d s) :=
  .onlyIf h (.ite (.leaveLow h.setDom.count.loseDomain) h.setDom.count.loseDomain)
theorem Canonical.resyncDomain (h : Canonical s) : Canonical (s.resyncDomain a) := h.loseCrossings
@[simp] theorem Canonical.execPowerExitComplete {d lost} (h : Canonical s) : CanonicalOut (execPowerExitComplete d lost s) := by
  unfold Machine.execPowerExitComplete
  extract_lets _ _ _ u l _ w _ t
  have hu : Canonical u := h.setDom.count
  have hl : Canonical l := .ite hu.resyncDomain hu.count.setBits
  clear_value l
  have hw : Canonical w := .ite ⟨hl.regs, hl.tiles, hl.streams, hl.copy, hl.journalWords, hl.area⟩ hl
  clear_value w
  have ht : Canonical t := .ite hw (.ite hw.enterLow hw)
  exact .onlyIf h ht

@[simp] theorem Canonical.execInrushWave (h : Canonical s) : CanonicalOut (execInrushWave s) :=
  .onlyIf h (.foldl (fun _ _ h => h.setDom) h.until)
@[simp] theorem Canonical.execSignatureIdleTimeout (h : Canonical s) : CanonicalOut (execSignatureIdleTimeout s) :=
  .onlyIf h h.until.enterLow
@[simp] theorem Canonical.execBlockReloadComplete {ue} (h : Canonical s) : CanonicalOut (execBlockReloadComplete ue s) :=
  .onlyIf h (.ite h.deviceFault (.gateBlocks (.loadCredits (.rebase (.foldl (fun _ _ h => h.setTile) h)))))

/-! ## Boot -/

theorem Canonical.abandonFlash (h : Canonical s) : Canonical s.abandonFlash := by
  unfold State.abandonFlash
  extract_lets
  split
  · exact .ite h h.endSave
  · exact .ite h.endErase h

theorem Canonical.lostAll (_ : Canonical s) : Canonical s.lostAll := canonical_reset
@[simp] theorem Canonical.execResetNAssert (h : Canonical s) : CanonicalOut (execResetNAssert s) := .onlyIf h h.lostAll
@[simp] theorem Canonical.execLossOfPower (h : Canonical s) : CanonicalOut (execLossOfPower s) := .onlyIf h h.lostAll
@[simp] theorem Canonical.execPowerOn (h : Canonical s) : CanonicalOut (execPowerOn s) := .onlyIf h h
theorem Canonical.setStage (h : Canonical s) : Canonical (s.setStage a) := h.putFld
theorem Canonical.bootCheck (h : Canonical s) : Canonical (s.bootCheck p).2 := by
  unfold State.bootCheck
  extract_lets code v _ w
  have hv : Canonical v := h.count
  clear_value v
  have hw : Canonical w := hv
  clear_value w code
  exact .ite hw hw.count.setBits

theorem Canonical.runBank (h : Canonical s) : Canonical (s.runBank p) := .setBits (.setBits (.putBit h))
theorem Canonical.recover (h : Canonical s) : Canonical (s.recover a) := h.setStage.setBits.clrBits.clrBits.putBit
theorem Canonical.bootFirmware (h : Canonical s) : Canonical s.bootFirmware := by
  unfold State.bootFirmware
  extract_lets _ _ f
  have hf : Canonical f := h.setStage.bootCheck.setBits.logEvent
  exact .ite h.setStage.bootCheck.putBit.runBank (.ite hf.bootCheck.runBank hf.bootCheck.recover)

theorem Canonical.findProfiles (h : Canonical s) : Canonical s.findProfiles := by
  refine .foldl (fun u d h => ?_) h
  extract_lets n _ v
  have hv : Canonical v := h
  exact .ite hv.logEvent.alert hv

theorem Canonical.takeProfile (h : Canonical s) : Canonical s.takeProfile := by
  unfold State.takeProfile
  extract_lets _ _ u _ v
  have hu : Canonical u := h.findProfiles
  clear_value u
  have hv : Canonical v := hu
  exact hv.applyEntries.showDamaged

theorem Canonical.startFirmware (h : Canonical s) : Canonical s.startFirmware := h.setStage.setBits.logEvent.takeProfile
theorem Canonical.march {failing : List TileAddr} (h : Canonical s) : Canonical (s.march failing) :=
  .foldl (fun _ _ h => .ite h.logEvent.retireTile h) h
theorem Canonical.ready (h : Canonical s) : Canonical s.ready := h.applyRetired.setBits.setBits.setBits.setBits.setStage.setBits.autoPower
theorem Canonical.bootTime (h : Canonical s) : Canonical (s.bootTime a) := .setReg h
theorem Canonical.logStart (h : Canonical s) : Canonical s.logStart := h
theorem Canonical.coldPins (h : Canonical s) : Canonical (s.coldPins l) := h
theorem Canonical.coldStart {failing : List TileAddr} (h : Canonical s) : Canonical (s.coldStart l failing) := by
  unfold State.coldStart
  extract_lets _ b c
  have hb : Canonical b := h.coldPins.bootTime.logStart.setReg
  have hc : Canonical c := hb.setBits.setBits.bootFirmware
  exact .ite hc hc.startFirmware.march.ready

@[simp] theorem Canonical.execResetNRelease {prof failing} (h : Canonical s) : CanonicalOut (execResetNRelease prof failing s) :=
  .onlyIf h h.until.coldStart
theorem Canonical.flushLogs (h : Canonical s) : Canonical s.flushLogs := .foldl (fun _ _ h => h.writeLogEntry) h
theorem Canonical.softCleared (h : Canonical s) : Canonical s.softCleared := by
  refine .setObj ⟨twf_tset _ _ _ _ (twf_tset _ _ _ _ (twf_foldl_tset canonical_reset.regs)), rfl, rfl, ?_, rfl, rfl⟩
  dsimp only
  split_ifs
  · exact h.copy
  · rfl

theorem Canonical.softProfile (h : Canonical s) : Canonical (s.softProfile l) := h
theorem Canonical.verifyKept (h : Canonical s) : Canonical s.verifyKept := .ite (.beginVerify h) h
theorem Canonical.softStart (h : Canonical s) : Canonical (s.softStart l) := by
  unfold State.softStart
  extract_lets _ a b c _ d _ _ e
  have ha : Canonical a := h.flushLogs.softCleared.softProfile
  clear_value a
  have hb : Canonical b := ha.bootTime.logStart.setReg
  clear_value b
  have hc : Canonical c := hb.setBits.setBits.bootFirmware
  clear_value c
  have hd : Canonical d := hc.startFirmware
  have he : Canonical e := ⟨hd.regs, hd.tiles, hd.streams, hd.copy, hd.journalWords, hd.area⟩
  clear_value e
  exact .ite ⟨hc.regs, hc.tiles, hc.streams, canonical_reset.copy, hc.journalWords, hc.area⟩ he.ready.verifyKept

@[simp] theorem Canonical.execSoftResetStart {prof} (h : Canonical s) : CanonicalOut (execSoftResetStart prof s) := .onlyIf h h.softStart
@[simp] theorem Canonical.execFaultResetTimer (h : Canonical s) : CanonicalOut (execFaultResetTimer s) := by
  unfold Machine.execFaultResetTimer
  extract_lets
  split
  · exact .next h
  · exact .onlyIf h (.requestReset h.until)

theorem Canonical.restartObjects (h : Canonical s) : Canonical s.restartObjects := .applyEntries h
@[simp] theorem Canonical.execSupervisoryTimerExpiry (h : Canonical s) : CanonicalOut (execSupervisoryTimerExpiry s) := by
  unfold Machine.execSupervisoryTimerExpiry
  extract_lets a b _ c d e
  have ha : Canonical a := h.abandonFlash
  have hb : Canonical b := ha.count.setBits.logEvent
  have hc : Canonical c := .ite hb hb
  have hd : Canonical d := hc.restartObjects.clrBits.bootFirmware
  have he : Canonical e := .ite hd hd.setStage
  exact .onlyIf h he

/-! ## Control -/

theorem Canonical.tileFlow {f : Flow} (h : Canonical s) : CanonicalOut (s.tileFlow i t hd f) := h.tileCycle fun _ _ _ h => h
@[simp] theorem Canonical.execNop {t hd} (h : Canonical s) : CanonicalOut (execNop t hd s) := h.tileFlow
@[simp] theorem Canonical.execWait {t hd} (h : Canonical s) : CanonicalOut (execWait t hd s) := h.tileCycle fun _ _ _ h => h
@[simp] theorem Canonical.execJmp {t hd target} (h : Canonical s) : CanonicalOut (execJmp t hd target s) := h.tileFlow
@[simp] theorem Canonical.execEndOp {t hd} (h : Canonical s) : CanonicalOut (execEndOp t hd s) := h.tileFlow
@[simp] theorem Canonical.execTokr {t hd base mul} (h : Canonical s) : CanonicalOut (execTokr t hd base mul s) := by
  unfold Machine.execTokr
  extract_lets
  exact h.tileCycle fun _ _ _ h => by split; exacts [h, .iteFst h.setTile (.iteFst h (.iteFst (.switchTo (.foldl
    (fun _ _ h => h.sendLane) h.setTile)) h))]

@[simp] theorem Canonical.execTokw {t hd kind arg} (h : Canonical s) : CanonicalOut (execTokw t hd kind arg s) := by
  unfold Machine.execTokw
  split
  · exact .fault
  · exact h.tileCycle fun _ _ _ h => h.sendOut

@[simp] theorem Canonical.execCtx {t hd variant} (h : Canonical s) : CanonicalOut (execCtx t hd variant s) :=
  h.tileCycle fun _ _ _ h => h.switchTo
@[simp] theorem Canonical.execRuleFire {at_} (h : Canonical s) : CanonicalOut (execRuleFire at_ s) := by
  unfold Machine.execRuleFire
  extract_lets _ _ _ _ idle
  have hidle : Canonical idle := h.countEcc.countFull.tileTick
  refine .ite .fault ?_
  refine .onlyIf h ?_
  refine .ite h.countEcc.tileFault ?_
  refine .ite hidle ?_
  split
  · exact h.countEcc.setTile
  · exact hidle

@[simp] theorem Canonical.execTakeCtxEnd {t q} (h : Canonical s) : CanonicalOut (execTakeCtxEnd t q s) := by
  unfold Machine.execTakeCtxEnd
  extract_lets
  refine .ite .fault ?_
  refine .next ?_
  refine .ite ?_ h
  split
  · refine .ite ?_ h
    extract_lets
    split
    · exact h.takeHead.setTile.countFull.tileTick
    · exact h.takeHead.setTile.tryRetire
  · exact h

/-! ## Vector -/

theorem Canonical.vecResult {w : Option QWord} (h : Canonical s) : Canonical (s.vecResult t hd a w b z c) := h.setTile.countOvf.sendOut
theorem Canonical.vec2 {lw : LaneW} {op : BitVec 3} {vd : BitVec 4} {va : BitVec 4} {vb : BitVec 4} {exact_ : Q → Q → Q}
    {f : Word → Word → Word} (h : Canonical s) : CanonicalOut (s.vec2 i t hd lw op vd va vb exact_ f) :=
  h.tileCycle fun _ _ _ h => by extract_lets; split <;> exact h.vecResult
@[simp] theorem Canonical.execVectorAdd {t hd lw vd va vb} (h : Canonical s) : CanonicalOut (execVectorAdd t hd lw vd va vb s) := h.vec2
@[simp] theorem Canonical.execVectorSub {t hd lw vd va vb} (h : Canonical s) : CanonicalOut (execVectorSub t hd lw vd va vb s) := h.vec2
@[simp] theorem Canonical.execVectorMul {t hd lw vd va vb} (h : Canonical s) : CanonicalOut (execVectorMul t hd lw vd va vb s) := h.vec2
@[simp] theorem Canonical.execVectorMax {t hd lw vd va vb} (h : Canonical s) : CanonicalOut (execVectorMax t hd lw vd va vb s) := h.vec2
@[simp] theorem Canonical.execVectorMin {t hd lw vd va vb} (h : Canonical s) : CanonicalOut (execVectorMin t hd lw vd va vb s) := h.vec2
@[simp] theorem Canonical.execRelu {t hd lw vd va} (h : Canonical s) : CanonicalOut (execRelu t hd lw vd va s) :=
  h.tileCycle fun _ _ _ h => h.vecResult
@[simp] theorem Canonical.execShuf {t hd lw vd va vb} (h : Canonical s) : CanonicalOut (execShuf t hd lw vd va vb s) :=
  h.tileCycle fun _ _ _ h => h.vecResult
@[simp] theorem Canonical.execVectorCmp {t hd lw vd va vb} (h : Canonical s) : CanonicalOut (execVectorCmp t hd lw vd va vb s) :=
  h.tileCycle fun _ _ _ h => h.vecResult
@[simp] theorem Canonical.execVectorSel {t hd lw vd va vb vc} (h : Canonical s) : CanonicalOut (execVectorSel t hd lw vd va vb vc s) :=
  h.tileCycle fun _ _ _ h => h.vecResult
@[simp] theorem Canonical.execZpack {t hd word n} (h : Canonical s) : CanonicalOut (execZpack t hd word n s) :=
  .ite .fault (h.tileCycle fun _ _ _ h => .iteFst h.countEcc.tileContained h.countEcc.setTile)
@[simp] theorem Canonical.execZunpack {t hd word n ecc} (h : Canonical s) : CanonicalOut (execZunpack t hd word n ecc s) :=
  .ite .fault (h.tileCycle fun _ _ _ h => h.setTile)

/-! ## Links -/

@[simp] theorem Canonical.execLdv {t hd vd word ecc} (h : Canonical s) : CanonicalOut (execLdv t hd vd word ecc s) :=
  .ite .fault (h.tileCycle fun _ _ _ h => .iteFst h.countEcc.tileContained h.countEcc.vecResult)
@[simp] theorem Canonical.execStv {t hd vs word} (h : Canonical s) : CanonicalOut (execStv t hd vs word s) :=
  .ite .fault (h.tileCycle fun _ _ _ h => h.setTile)
@[simp] theorem Canonical.execLds {t hd sd word hi ecc} (h : Canonical s) : CanonicalOut (execLds t hd sd word hi ecc s) :=
  .ite .fault (h.tileCycle fun _ _ _ h => .iteFst h.countEcc.tileContained h.countEcc.setTile.sendOut)
@[simp] theorem Canonical.execSts {t hd ss word hi} (h : Canonical s) : CanonicalOut (execSts t hd ss word hi s) :=
  .ite .fault (h.tileCycle fun _ _ _ h => h.setTile)
@[simp] theorem Canonical.execRcv {t hd reg ecc} (h : Canonical s) : CanonicalOut (execRcv t hd reg ecc s) :=
  h.tileCycle fun _ _ _ h => h.setTile.sendOut
@[simp] theorem Canonical.execSnd {t hd reg kind packed} (h : Canonical s) : CanonicalOut (execSnd t hd reg kind packed s) := by
  unfold Machine.execSnd
  extract_lets
  split
  · exact .fault
  · exact h.tileCycle fun _ _ _ h => .iteFst (by split; exacts [h.setTile.sendOut, h]) h.sendOut

@[simp] theorem Canonical.execCop {t hd c} (h : Canonical s) : CanonicalOut (execCop t hd c s) :=
  .ite .fault (h.tileCycle fun _ _ _ h => h.sendOut)
@[simp] theorem Canonical.execCreditReturn {t lane} (h : Canonical s) : CanonicalOut (execCreditReturn t lane s) :=
  .ite .fault (.onlyIf h (by split; exacts [.ite (.sendCtxEnds h.setTile) h.setTile, h]))
@[simp] theorem Canonical.execFrameAbort {t} (h : Canonical s) : CanonicalOut (execFrameAbort t s) :=
  .ite .fault (.next (.ite (by split; exacts [.ite h.countFull.abandonFrame.tileTick h.countFull.tileTick, h]) h))

/-! ## Net -/

theorem Canonical.nack (h : Canonical s) : Canonical s.nack := h
@[simp] theorem Canonical.execI3cSetdasa {addr} (h : Canonical s) : CanonicalOut (execI3cSetdasa addr s) := .next (.ite h h.nack)
@[simp] theorem Canonical.execI3cPrivateRead (h : Canonical s) : CanonicalOut (execI3cPrivateRead s) := .next (.ite h h.nack)
@[simp] theorem Canonical.execI3cPrivateWrite {_bytes} (h : Canonical s) : CanonicalOut (execI3cPrivateWrite _bytes s) := .next h.nack
theorem Canonical.loadTap {pins : BitVec 341} (h : Canonical s) : Canonical (s.loadTap y pins) := h
theorem Canonical.loadLow (h : Canonical s) : CanonicalOut (s.loadLow y) :=
  .ite (.next h) (.ite (.next h.unpredictable) (.next h.loadTap))
@[simp] theorem Canonical.execExtest (h : Canonical s) : CanonicalOut (execExtest s) := h.loadLow
@[simp] theorem Canonical.execClamp (h : Canonical s) : CanonicalOut (execClamp s) := h.loadLow
@[simp] theorem Canonical.execHighz (h : Canonical s) : CanonicalOut (execHighz s) := h.loadLow
@[simp] theorem Canonical.execIdcode (h : Canonical s) : CanonicalOut (execIdcode s) := .onlyIf h h.loadTap
@[simp] theorem Canonical.execSamplePreload {pins} (h : Canonical s) : CanonicalOut (execSamplePreload pins s) := .onlyIf h h.loadTap
@[simp] theorem Canonical.execBypass {code} (h : Canonical s) : CanonicalOut (execBypass code s) := .onlyIf h h.loadTap
@[simp] theorem Canonical.execTestLogicReset (h : Canonical s) : CanonicalOut (execTestLogicReset s) := .onlyIf h h
@[simp] theorem Canonical.execTckEdge {rising tms tdi pins} (h : Canonical s) : CanonicalOut (execTckEdge rising tms tdi pins s) :=
  .ite (.next h) (.ite (.next h) (.ite (.next h.unpredictable) (.ite (.next h.unpredictable) (.next h))))
@[simp] theorem Canonical.execLinkUp (h : Canonical s) : CanonicalOut (execLinkUp s) := .onlyIf h h
@[simp] theorem Canonical.execLinkDown (h : Canonical s) : CanonicalOut (execLinkDown s) := .next h
@[simp] theorem Canonical.execLinkLocalAddressTaken {ip} (h : Canonical s) : CanonicalOut (execLinkLocalAddressTaken ip s) := .onlyIf h h
@[simp] theorem Canonical.execArpRequest {ip} (h : Canonical s) : CanonicalOut (execArpRequest ip s) := .onlyIf h h
@[simp] theorem Canonical.execIcmpEchoRequest {ip bytes} (h : Canonical s) : CanonicalOut (execIcmpEchoRequest ip bytes s) := .onlyIf h h

/-! ## Scalar -/

theorem Canonical.scalar2 {sd : BitVec 6} {sa : BitVec 6} {sb : BitVec 6} {f : Word → Word → Word} (h : Canonical s) : CanonicalOut
    (s.scalar2 i t hd sd sa sb f) :=
  h.tileCycle fun _ _ _ h => h.setTile.sendOut
@[simp] theorem Canonical.execScalarAdd {t hd sd sa sb} (h : Canonical s) : CanonicalOut (execScalarAdd t hd sd sa sb s) := h.scalar2
@[simp] theorem Canonical.execScalarSub {t hd sd sa sb} (h : Canonical s) : CanonicalOut (execScalarSub t hd sd sa sb s) := h.scalar2
@[simp] theorem Canonical.execScalarMul {t hd sd sa sb} (h : Canonical s) : CanonicalOut (execScalarMul t hd sd sa sb s) := h.scalar2
@[simp] theorem Canonical.execScalarAnd {t hd sd sa sb} (h : Canonical s) : CanonicalOut (execScalarAnd t hd sd sa sb s) := h.scalar2
@[simp] theorem Canonical.execScalarOr {t hd sd sa sb} (h : Canonical s) : CanonicalOut (execScalarOr t hd sd sa sb s) := h.scalar2
@[simp] theorem Canonical.execScalarXor {t hd sd sa sb} (h : Canonical s) : CanonicalOut (execScalarXor t hd sd sa sb s) := h.scalar2
@[simp] theorem Canonical.execScalarShl {t hd sd sa sb} (h : Canonical s) : CanonicalOut (execScalarShl t hd sd sa sb s) := h.scalar2
@[simp] theorem Canonical.execScalarShr {t hd sd sa sb} (h : Canonical s) : CanonicalOut (execScalarShr t hd sd sa sb s) := h.scalar2
@[simp] theorem Canonical.execScalarCmp {t hd sd sa sb} (h : Canonical s) : CanonicalOut (execScalarCmp t hd sd sa sb s) := h.scalar2
@[simp] theorem Canonical.execScalarSel {t hd sd sa sb sc} (h : Canonical s) : CanonicalOut (execScalarSel t hd sd sa sb sc s) :=
  h.tileCycle fun _ _ _ h => h.setTile.sendOut
@[simp] theorem Canonical.execScalarMin {t hd sd sa sb} (h : Canonical s) : CanonicalOut (execScalarMin t hd sd sa sb s) := h.scalar2
@[simp] theorem Canonical.execScalarMax {t hd sd sa sb} (h : Canonical s) : CanonicalOut (execScalarMax t hd sd sa sb s) := h.scalar2

/-! ## Commands and steps -/

theorem Canonical.exec (h : Canonical s) (i : Instr) : CanonicalOut (exec i s) := by
  cases i <;> simp [h]

/-- A step carries out the command at the front or, with none waiting, lets time pass. -/
theorem Canonical.step (h : Canonical s) : CanonicalOut (step s) := by
  unfold Machine.step
  split
  · exact .next h.idle
  next c rest _ => exact Canonical.exec (s := { s with pending := rest }) h c

end Sys2Proof.Claims

namespace Sys2Proof.Machine

/-- Settles O4: every operation of the state keeps each of the six tables in canonical form, or leaves it alone, and so does every
command and the idle step. -/
theorem canonicalFormIsKept : Obligations.CanonicalFormIsKept := by
  unfold Obligations.CanonicalFormIsKept
  exact fun s u h hu => Claims.Canonical.step h u hu

end Sys2Proof.Machine
end

section
/-! SUPPORT. The part after reset: its counters, power domains, context slots and key slots. -/

namespace Sys2Proof.Machine

theorem reg_reset_of_counter {b a : Nat} (hb : b < 18) (ha : a ∈ counters b) : State.reset.reg a = 0#32 := by
  have all : ∀ a ∈ (List.range 18).flatMap counters, State.reset.reg a = 0#32 := by decide
  exact all a (List.mem_flatMap.2 ⟨b, List.mem_range.2 hb, ha⟩)

theorem tget_map_range' {α : Type} (d x : α) (t : Tbl α) :
    ∀ {n k i : Nat}, k ≤ i → i < k + n → tget d ((List.range' k n).map (fun j => (j, x)) ++ t) i = x
  | 0, _, _, h₁, h₂ => by omega
  | n + 1, k, i, h₁, h₂ => by
    rcases Nat.eq_or_lt_of_le h₁ with rfl | h
    · simp [List.range'_succ, tget]
    · rw [List.range'_succ, List.map_cons, List.cons_append, tget, if_neg (by omega), if_neg (by omega)]
      exact tget_map_range' d x t h (by omega)

/-- Every tile block starts low (R523). -/
theorem dom_reset_tileBlock {d : Nat} (hd : d < 128) : (State.reset.dom d).st = 2 := by
  have doms : State.reset.pwr.doms = resetDoms := rfl
  rw [State.dom, doms, resetDoms, List.map_append, upto, List.range_eq_range', tget_map_range' _ _ _ (Nat.zero_le d) (by omega)]

/-- The twelve domains after the tile blocks start on. -/
theorem dom_reset_on {d : Nat} (h₁ : 128 ≤ d) (h₂ : d < 140) : (State.reset.dom d).st = 0 := by
  have all : ∀ d ∈ List.range' 128 12, (State.reset.dom d).st = 0 := by decide
  exact all d (List.mem_range'_1.2 ⟨h₁, h₂⟩)

/-- The directory starts empty, and an empty entry is not valid. -/
theorem slotValid_reset (st n : Nat) : State.reset.slotValid st n = false := by
  have empty : dirValid 0#128 = false := by decide
  have entry : State.reset.dirAt st n = 0#128 := rfl
  simp [State.slotValid, entry, empty]

/-- The owner's key slots start EMPTY (R442). -/
theorem keyState_reset_owner {k : Nat} (hk : 2 ≤ k) : State.reset.keyState k = 0 := by
  rw [State.keyState, if_neg (by omega)]
  rfl

theorem alertPinRight_reset : Claims.AlertPinRight State.reset := by
  unfold Claims.AlertPinRight
  decide

/-- Settles O6: every clause is a closed fact about `State.reset`, or one of the laws above. -/
theorem resetHoldsTheStatedValues : Obligations.ResetHoldsTheStatedValues := by
  unfold Obligations.ResetHoldsTheStatedValues
  refine ⟨Claims.canonical_reset, alertPinRight_reset, rfl, rfl, rfl, rfl, rfl, rfl, rfl, rfl, by decide, by decide, rfl, rfl, rfl, rfl,
    rfl, rfl, rfl, rfl, rfl, rfl, rfl, rfl, rfl, rfl, rfl, rfl, rfl, by decide, fun b hb a ha => reg_reset_of_counter hb ha,
    fun d hd => dom_reset_tileBlock hd, fun d h₁ h₂ => dom_reset_on h₁ h₂, slotValid_reset, fun k hk _ => keyState_reset_owner hk,
    rfl, rfl, rfl, rfl⟩

end Sys2Proof.Machine
end

section
/-! SUPPORT. The four image commands: what each does in its origin state, and that it is counted as ignored in every other. -/

namespace Sys2Proof.Machine

/-! ## Frames that end, and the fabric emptied -/

section
variable (s : State)

/-- Slots freed one after another change nothing beside admission. -/
theorem State.foldl_freeSlot_frame (l : List Frame) :
    ∃ m, l.foldl (fun u f => u.freeSlot f.stream f.slot) s = { s with adm := { s.adm with streams := m } } := by
  induction l generalizing s with
  | nil => exact ⟨_, rfl⟩
  | cons f l ih =>
    obtain ⟨m, hm⟩ := ih (s.freeSlot f.stream f.slot)
    exact ⟨m, hm⟩

/-- Waiting frames that end otherwise than DROPPED_OVERRUN leave everything beside the streams and the frames as it was. -/
theorem State.endOutside_frame (p : Frame → Bool) {st : Status} (hst : st ≠ .overrun) :
    ∃ m, s.endOutside p st = { s with adm := { s.adm with
      streams := m, frames := s.adm.frames.map (fun f => if p f && f.phase == .waiting then f.dropWith st else f) } } := by
  obtain ⟨m, hm⟩ := s.foldl_freeSlot_frame (s.adm.frames.filter (fun f => p f && f.phase == .waiting))
  refine ⟨m, ?_⟩
  simp only [State.endOutside, if_neg hst, hm]
  rfl

/-- The frames inside end, and the post-processing units let go of theirs. -/
theorem State.endInside_frame (st : Status) :
    ∃ m pp, s.endInside st = { s with ppu := pp, adm := { s.adm with
      streams := m, frames := s.adm.frames.map (fun f => if f.inside then f.dropWith st else f) } } := by
  obtain ⟨m, hm⟩ := s.foldl_freeSlot_frame (s.adm.frames.filter (fun f => f.inside && f.phase == .sending))
  refine ⟨m, { s.ppu with cands := [], rows := [], cropOwed := [] }, ?_⟩
  simp only [State.endInside, State.freeSending, hm]
  rfl

theorem State.loadCredits_frame : ∃ ts, s.loadCredits = { s with fab := { s.fab with tiles := ts } } := by
  rw [State.loadCredits_eq]
  refine List.foldlRecOn (motive := fun u : State => ∃ ts : Tbl Tile, u = { s with fab := { s.fab with tiles := ts } }) _ _
    ⟨s.fab.tiles, rfl⟩ ?_
  rintro _ ⟨ts, rfl⟩ t -
  exact ⟨_, rfl⟩

/-- The registers that emptying the fabric writes. -/
def flushRegs : List Nat := [Reg.fabFlushWordCnt, Reg.fabStat, Reg.fabScanSize]

theorem State.emptyFabric_frame :
    ∃ r fb, s.emptyFabric = { s with regs := r, fab := fb } ∧ ∀ a, a ∉ flushRegs → s.emptyFabric.reg a = s.reg a := by
  unfold State.emptyFabric
  extract_lets words slot _ v
  obtain ⟨ts, hts⟩ := (((v.count Reg.fabFlushWordCnt words).putBit Reg.fabStat 7 false).setReg Reg.fabScanSize 0).loadCredits_frame
  refine ⟨_, _, hts, fun a ha => ?_⟩
  simp only [flushRegs, List.mem_cons, List.not_mem_nil, or_false, not_or] at ha
  obtain ⟨h1, h2, h3⟩ := ha
  have hput : ∀ u : State, (u.putBit Reg.fabStat 7 false).reg a = u.reg a := fun u => by
    rw [State.putBit, if_neg (by decide), State.reg_clrBits, if_neg h2]
  rw [hts]
  change (((v.count Reg.fabFlushWordCnt words).putBit Reg.fabStat 7 false).setReg Reg.fabScanSize 0).reg a = s.reg a
  rw [State.reg_setReg_ne _ _ h3, hput, State.reg_count, if_neg h1]
  rfl

/-- FLUSH_ALL outside a re-placement ends every frame inside, and touches the image and the other registers not at all. -/
theorem State.flushAll_spec (h : s.remapping = false) :
    s.flushAll.img = s.img ∧ (∀ a, a ∉ flushRegs → s.flushAll.reg a = s.reg a) ∧
    s.flushAll.adm.frames = s.adm.frames.map (fun f => if f.inside then f.dropWith .flush else f) := by
  obtain ⟨r, fb, he, hr⟩ := s.emptyFabric_frame
  obtain ⟨m, pp, hi⟩ := s.emptyFabric.endInside_frame .flush
  rw [State.flushAll, if_neg (by simp [h])]
  dsimp only
  refine ⟨?_, fun a ha => ?_, ?_⟩
  · rw [hi, he]
  · rw [← hr a ha, hi]
    rfl
  · rw [hi, he]

end

/-! ## The commands -/

section
variable {s : State}

theorem State.imageCommand_of_faulted (h : s.faulted = true) (n : Nat) : s.imageCommand n = s.count Reg.admCmdIgnCnt 1 := if_pos h

theorem State.imageCommand_of_remapping (hf : s.faulted = false) (hr : s.remapping = true) (n : Nat) :
    s.imageCommand n = { s with img := { s.img with held := s.img.held ++ [BitVec.ofNat 8 n] } } :=
  (if_neg (by simp [hf])).trans (if_pos hr)

/-- The table of R38: the state in which each command acts, and what it does there. -/
theorem State.imageCommand_eq (hf : s.faulted = false) (hr : s.remapping = false) :
    s.imageCommand 1 = (if s.img.st = .writing then s.beginVerify else s.count Reg.admCmdIgnCnt 1) ∧
    s.imageCommand 2 = (if s.img.st = .verified then s.beginCommit else s.count Reg.admCmdIgnCnt 1) ∧
    s.imageCommand 3 = (if s.img.st = .committed then s.beginRelease else s.count Reg.admCmdIgnCnt 1) ∧
    s.imageCommand 4 = (if s.img.st ∈ [ImageState.writing, .verified, .rejected] then { s with img := { s.img with st := .empty } }
      else s.count Reg.admCmdIgnCnt 1) := by
  unfold State.imageCommand
  simp only [hf, hr, Bool.false_eq_true, if_false]
  cases s.img.st <;> exact ⟨rfl, rfl, rfl, rfl⟩

theorem exec_imageCommands (he : s.engineUp = true) :
    exec .verify s = .next (s.imageCommand 1) ∧ exec .commit s = .next (s.imageCommand 2) ∧
    exec .release s = .next (s.imageCommand 3) ∧ exec .discard s = .next (s.imageCommand 4) := by
  refine ⟨?_, ?_, ?_, ?_⟩
  · rw [exec_verify, execVerify, he, onlyIf_true]
  · rw [exec_commit, execCommit, he, onlyIf_true]
  · rw [exec_release, execRelease, he, onlyIf_true]
  · rw [exec_discard, execDiscard, he, onlyIf_true]

end

/-- VERIFY accepted: the signature engine starts, and only its domain may move (R40, R448). -/
theorem State.beginVerify_spec (s : State) :
    s.beginVerify.img = { s.img with st := .verifying, result := 0, verifyDigest := s.dict.digest } ∧
    s.beginVerify.rbit Reg.secStat 0 = true ∧ s.beginVerify.adm = s.adm ∧ s.beginVerify.fab = s.fab := by
  unfold State.beginVerify
  extract_lets _ u
  obtain ⟨p, hp⟩ := OnlyPower.leaveLow (u.setBits Reg.secStat 0x1#32) 150
  rw [hp]
  refine ⟨rfl, ?_, rfl, rfl⟩
  change (u.setBits Reg.secStat 0x1#32).rbit Reg.secStat 0 = true
  simp [State.rbit_setBits_self]

/-- COMMIT accepted: every tile held, the placement engine started, FRAME_RATE taken (R34, R42, R121). -/
theorem State.beginCommit_spec (s : State) :
    s.beginCommit.img.st = .placing ∧ s.beginCommit.img.rate = (s.reg Reg.admRate).toNat ∧
    s.beginCommit.img.result = s.img.result ∧ s.beginCommit.img.copy = s.img.copy ∧ s.beginCommit.img.digest = s.img.digest ∧
    s.beginCommit.img.autoCommit = s.img.autoCommit ∧ s.beginCommit.plc.pitch = [] ∧ s.beginCommit.rbit Reg.plcCtl 0 = true ∧
    (∀ t, (s.beginCommit.tile t).held = true) ∧ s.beginCommit.adm = s.adm := by
  unfold State.beginCommit
  extract_lets _ _ u _ v
  obtain ⟨p, hp⟩ := OnlyPower.autoPower (v.setBits Reg.plcCtl 0x1#32)
  rw [hp]
  refine ⟨rfl, rfl, rfl, rfl, rfl, rfl, rfl, ?_, fun _ => rfl, rfl⟩
  change (v.setBits Reg.plcCtl 0x1#32).rbit Reg.plcCtl 0 = true
  simp [State.rbit_setBits_self]

/-- RELEASE accepted, before it flushes anything. -/
def State.releasing (s : State) : State :=
  { (s.clrBits Reg.admCtl 0x1#32).clrBits Reg.plcCtl 0x1#32 with img := { s.img with st := .releasing } }

theorem State.beginRelease_eq (s : State) : s.beginRelease =
    if fld (s.reg Reg.admCtl) 2 1 = 1 then (s.releasing.endOutside (fun _ => true) .flush).flushAll else s.releasing := rfl

theorem State.reg_releasing (s : State) (a : Nat) :
    s.releasing.reg a = if a = Reg.admCtl ∨ a = Reg.plcCtl then s.reg a &&& ~~~1#32 else s.reg a := by
  have hreg : s.releasing.reg a = ((s.clrBits Reg.admCtl 0x1#32).clrBits Reg.plcCtl 0x1#32).reg a := rfl
  rw [hreg, State.reg_clrBits, State.reg_clrBits, State.reg_clrBits]
  by_cases h1 : a = Reg.admCtl
  · subst h1
    rfl
  · by_cases h2 : a = Reg.plcCtl
    · subst h2
      rfl
    · simp [h1, h2]

theorem State.releasing_disabled (s : State) {a : Nat} (ha : a = Reg.admCtl ∨ a = Reg.plcCtl) : s.releasing.rbit a 0 = false := by
  simp [State.rbit, bit, State.reg_releasing, ha]

theorem State.releasing_remapping (s : State) : s.releasing.remapping = s.remapping := by
  rw [State.remapping, State.rbit, State.reg_releasing, if_neg (by decide)]
  rfl

/-- A frame that waits ends before the frames inside do; each ends once. -/
theorem Frame.flush_flush (f : Frame) :
    (let g := if true && f.phase == .waiting then f.dropWith .flush else f
     if g.inside then g.dropWith .flush else g) = if f.phase == .waiting || f.inside then f.dropWith .flush else f := by
  cases hp : f.phase == .waiting
  · rfl
  · exact ite_self (f.dropWith .flush)

/-- With ADM_CTL asking for it, RELEASE ends the waiting frames and those inside with DROPPED_FLUSH (R45, R58). -/
theorem State.beginRelease_flushes {s : State} (hr : s.remapping = false) (hc : fld (s.reg Reg.admCtl) 2 1 = 1) :
    s.beginRelease.img = s.releasing.img ∧ (∀ a, a ∉ flushRegs → s.beginRelease.reg a = s.releasing.reg a) ∧
    s.beginRelease.adm.frames = s.adm.frames.map (fun f => if f.phase == .waiting || f.inside then f.dropWith .flush else f) := by
  obtain ⟨m, hm⟩ := s.releasing.endOutside_frame (fun _ => true) (st := .flush) (by decide)
  rw [State.beginRelease_eq, if_pos hc, hm]
  obtain ⟨himg, hreg, hframes⟩ := State.flushAll_spec { s.releasing with adm := { s.releasing.adm with
      streams := m, frames := s.releasing.adm.frames.map (fun f => if true && f.phase == .waiting then f.dropWith .flush else f) } }
    (s.releasing_remapping.trans hr)
  refine ⟨himg, hreg, hframes.trans ?_⟩
  rw [List.map_map]
  exact List.map_congr_left fun f _ => f.flush_flush

theorem State.beginRelease_spec {s : State} (hr : s.remapping = false) :
    s.beginRelease.img = { s.img with st := .releasing } ∧
    s.beginRelease.rbit Reg.admCtl 0 = false ∧ s.beginRelease.rbit Reg.plcCtl 0 = false ∧
    (fld (s.reg Reg.admCtl) 2 1 = 0 → s.beginRelease.adm = s.adm ∧ s.beginRelease.fab = s.fab) ∧
    (fld (s.reg Reg.admCtl) 2 1 = 1 → s.beginRelease.adm.frames =
      s.adm.frames.map (fun f => if f.phase == .waiting || f.inside then f.dropWith .flush else f)) := by
  by_cases hc : fld (s.reg Reg.admCtl) 2 1 = 1
  · obtain ⟨himg, hreg, hframes⟩ := State.beginRelease_flushes hr hc
    have hbit : ∀ a, a ∉ flushRegs → a = Reg.admCtl ∨ a = Reg.plcCtl → s.beginRelease.rbit a 0 = false := fun a ha h => by
      rw [State.rbit, hreg a ha]
      exact s.releasing_disabled h
    exact ⟨himg, hbit _ (by decide) (.inl rfl), hbit _ (by decide) (.inr rfl), fun h0 => by omega, fun _ => hframes⟩
  · rw [State.beginRelease_eq, if_neg hc]
    exact ⟨rfl, s.releasing_disabled (.inl rfl), s.releasing_disabled (.inr rfl), fun _ => ⟨rfl, rfl⟩, fun h => absurd h hc⟩

/-- Settles O28: the four commands are `State.imageCommand`, whose table of states is `State.imageCommand_eq`; each entry of the
table has its own law above. -/
theorem imageCommandsFollowStates : Obligations.ImageCommandsFollowStates := by
  unfold Obligations.ImageCommandsFollowStates
  intro s he ignored
  obtain ⟨hv, hc, hr, hd⟩ := exec_imageCommands he
  refine ⟨fun hf c hmem => ?_, fun hf hm n hn => ?_, fun hf hm => ?_⟩
  · simp only [List.mem_cons, List.not_mem_nil, or_false] at hmem
    rcases hmem with rfl | rfl | rfl | rfl
    · rw [hv, State.imageCommand_of_faulted hf]
    · rw [hc, State.imageCommand_of_faulted hf]
    · rw [hr, State.imageCommand_of_faulted hf]
    · rw [hd, State.imageCommand_of_faulted hf]
  · rw [← State.imageCommand_of_remapping hf hm]
    match n, hn with
    | 0, _ => exact hv
    | 1, _ => exact hc
    | 2, _ => exact hr
    | 3, _ => exact hd
  · obtain ⟨h1, h2, h3, h4⟩ := State.imageCommand_eq hf hm
    rw [h1] at hv
    rw [h2] at hc
    rw [h3] at hr
    rw [h4] at hd
    obtain ⟨-, hrate, hresult, hcopy, -, -, hpitch, hen, hheld, hadm⟩ := s.beginCommit_spec
    refine ⟨fun h => ?_, fun h => ?_, fun h => ?_, fun h => ?_, fun h => ?_, fun h => ?_, fun h => ?_, fun h => ?_⟩
    · rw [hv, if_neg h]
    · rw [hc, if_neg h]
    · rw [hr, if_neg h]
    · rw [hd, if_neg h]
    · rw [hd, if_pos h]
    · exact ⟨s.beginVerify, by rw [hv, if_pos h], s.beginVerify_spec⟩
    · exact ⟨s.beginCommit, by rw [hc, if_pos h], s.beginCommit_spec.1, hrate, hresult, hcopy, hpitch, hen, hheld, hadm⟩
    · exact ⟨s.beginRelease, by rw [hr, if_pos h], State.beginRelease_spec hm⟩

end Sys2Proof.Machine
end

section
/-! SUPPORT. The ends of verification, placing, loading and release. -/

namespace Sys2Proof.Machine

/-! ## Registers written one after another -/

section
variable (s : State) (m : Word) (a : Nat)

theorem State.reg_foldl_setBits (l : List Nat) :
    (l.foldl (fun u b => u.setBits b m) s).reg a = if a ∈ l then s.reg a ||| m else s.reg a := by
  induction l generalizing s with
  | nil => rfl
  | cons b l ih =>
    rw [List.foldl_cons, ih, State.reg_setBits]
    by_cases hb : a = b
    · subst hb
      simp [BitVec.or_assoc]
    · simp [hb]

theorem State.reg_foldl_clrBits (l : List Nat) :
    (l.foldl (fun u b => u.clrBits b m) s).reg a = if a ∈ l then s.reg a &&& ~~~m else s.reg a := by
  induction l generalizing s with
  | nil => rfl
  | cons b l ih =>
    rw [List.foldl_cons, ih, State.reg_clrBits]
    by_cases hb : a = b
    · subst hb
      simp [BitVec.and_assoc]
    · simp [hb]

end

/-- Two states differ in register words only. -/
def OnlyRegs (s u : State) : Prop := ∃ r, u = { s with regs := r }

theorem OnlyRegs.foldl {α : Type} {f : State → α → State} (hf : ∀ s a, OnlyRegs s (f s a)) (l : List α) (s : State) :
    OnlyRegs s (l.foldl f s) := by
  refine List.foldlRecOn (motive := OnlyRegs s) l f ⟨s.regs, rfl⟩ ?_
  rintro _ ⟨r, rfl⟩ a -
  obtain ⟨r', h⟩ := hf { s with regs := r } a
  exact ⟨r', h⟩

/-! ## A rejected image (R41, R123, R310) -/

/-- The registers that a rejection writes. -/
def rejectRegs : List Nat := [Reg.plcRejInfo, Reg.telLogCnt, Reg.devAlert]

section
variable (s : State) (code stage : Nat)

theorem State.reg_rejectImage {a : Nat} (ha : a ∉ rejectRegs) : (s.rejectImage code stage).reg a = s.reg a := by
  simp only [rejectRegs, List.mem_cons, List.not_mem_nil, or_false, not_or] at ha
  obtain ⟨h1, h2, h3⟩ := ha
  unfold State.rejectImage
  rw [State.reg_alert, if_neg h3, State.reg_logEvent, if_neg h2, State.reg_setReg, if_neg h1]
  rfl

theorem State.rejectImage_info :
    (s.rejectImage code stage).reg Reg.plcRejInfo = BitVec.ofNat 32 (stage * 65536 + code) := by
  unfold State.rejectImage
  rw [State.reg_alert, if_neg (by decide), State.reg_logEvent, if_neg (by decide), State.reg_setReg_self]

theorem State.rejectImage_alerts : (s.rejectImage code stage).rbit Reg.devAlert 9 = true := by
  unfold State.rejectImage
  rw [State.rbit, State.reg_alert, if_pos rfl]
  simp [bit, bmask]

end

/-- What every rejection shows: the reason, the copy and digest as they were, the alert, and every tile held. -/
def ImageRejected (s u : State) (code : Nat) : Prop :=
  u.img.st = .rejected ∧ u.img.result = BitVec.ofNat 16 code ∧
  u.img.digest = s.img.digest ∧ u.img.copy = s.img.copy ∧ u.rbit Reg.devAlert 9 = true ∧ ∀ t, (u.tile t).held = true

theorem ImageRejected.rejectImage {s v : State} (hd : v.img.digest = s.img.digest) (hc : v.img.copy = s.img.copy) (code stage : Nat) :
    ImageRejected s (v.rejectImage code stage) code :=
  ⟨rfl, rfl, hd, hc, v.rejectImage_alerts code stage, fun _ => rfl⟩

theorem ImageRejected.autoPower {s u : State} {code : Nat} (h : ImageRejected s u code) : ImageRejected s u.autoPower code := by
  obtain ⟨p, hp⟩ := OnlyPower.autoPower u
  rw [hp]
  exact h

/-! ## The end of verification (R40, R41, R436) -/

/-- The signature engine has answered: its work is counted, and a kept image's automatic commit is taken up. -/
def State.verifyOver (s : State) : State :=
  let u := (s.putBit Reg.secStat 0 s.sec.fwVerify).count Reg.secVerifyCnt 1
  { u with pwr := { u.pwr with sigIdleAt := u.clock.now }, img := { u.img with autoCommit := false } }

/-- The image is VERIFIED. -/
def State.verifyOk (s : State) : State :=
  { s.verifyOver with img := { s.verifyOver.img with
    st := .verified, digest := envDigest s.verifyOver.img.copy, keySlot := BitVec.ofNat 8 (envKeySlot s.verifyOver.img.copy) } }

theorem exec_verificationEnd_verifying {s : State} (he : s.engineUp = true) (hs : s.img.st = .verifying) :
    exec .verificationEnd s = .next (if verifyReason s ≠ 0 then s.verifyOver.failVerify (verifyReason s)
      else if s.img.autoCommit then s.verifyOk.imageCommand 2 else s.verifyOk) := by
  have h : exec .verificationEnd s = onlyIf (s.engineUp && s.img.st == .verifying) s
      (if verifyReason s ≠ 0 then s.verifyOver.failVerify (verifyReason s)
        else if s.img.autoCommit then s.verifyOk.imageCommand 2 else s.verifyOk) := rfl
  rw [h, he, hs]
  rfl

theorem State.verifyOver_img (s : State) : s.verifyOver.img = { s.img with autoCommit := false } := by
  simp [State.verifyOver]

theorem State.verifyOver_adm (s : State) : s.verifyOver.adm = s.adm := by simp [State.verifyOver]

theorem State.reg_verifyOver (s : State) {a : Nat} (ha : a ≠ Reg.secStat) :
    s.verifyOver.reg a = if a = Reg.secVerifyCnt then s.reg a + 1#32 else s.reg a := by
  have hput : ∀ b, (s.putBit Reg.secStat 0 b).reg a = s.reg a := fun b => by
    cases b
    · exact (State.reg_clrBits ..).trans (if_neg ha)
    · exact (State.reg_setBits ..).trans (if_neg ha)
  have hreg : s.verifyOver.reg a = ((s.putBit Reg.secStat 0 s.sec.fwVerify).count Reg.secVerifyCnt 1).reg a := rfl
  rw [hreg, State.reg_count]
  split_ifs with h
  · rw [← h, hput]
  · exact hput _

theorem State.reg_failVerify_count (s : State) (code : Nat) :
    (s.failVerify code).reg Reg.secVerifyFailCnt = s.reg Reg.secVerifyFailCnt + 1#32 := by
  rw [State.failVerify, State.reg_rejectImage _ _ _ (by decide), State.reg_setBits, if_neg (by decide), State.reg_count, if_pos rfl]

theorem State.verifyOk_img (s : State) : s.verifyOk.img = { s.img with
    autoCommit := false, st := .verified, digest := envDigest s.img.copy, keySlot := BitVec.ofNat 8 (envKeySlot s.img.copy) } := by
  rw [State.verifyOk, State.verifyOver_img]

/-- After a soft reset the verified image is committed at once (R436). -/
theorem State.verifyOk_commit {s : State} (hf : s.faulted = false) (hr : s.remapping = false) :
    s.verifyOk.imageCommand 2 = s.verifyOk.beginCommit := by
  have hreg : ∀ a, a ≠ Reg.secStat → a ≠ Reg.secVerifyCnt → s.verifyOk.reg a = s.reg a := fun a h1 h2 =>
    (s.reg_verifyOver h1).trans (if_neg h2)
  have hf' : s.verifyOk.faulted = false := by rw [State.faulted, hreg _ (by decide) (by decide)]; exact hf
  have hr' : s.verifyOk.remapping = false := by rw [State.remapping, State.rbit, hreg _ (by decide) (by decide)]; exact hr
  obtain ⟨-, h2, -, -⟩ := State.imageCommand_eq hf' hr'
  rw [h2, if_pos (by rw [State.verifyOk_img])]

/-! ## The end of placing: the quotas take effect (R119, R229, R230) -/

/-- What the quotas of the context engine have nothing to do with: the image, admission, the fabric and the placement engine. -/
def State.besideContext (s : State) : Img × Adm × Fab × Plc := (s.img, s.adm, s.fab, s.plc)

section
variable (s : State) (st j q : Nat)

theorem State.jPut_besideContext (a : Nat) (b : JBody) : (s.jPut a b).besideContext = s.besideContext := rfl

theorem State.journal_besideContext (b : JBody) : (s.journal b).besideContext = s.besideContext := by
  unfold State.journal
  dsimp only
  split_ifs <;> rfl

theorem State.setDir_besideContext (e : BitVec 128) : (s.setDir st j e).besideContext = s.besideContext := by
  unfold State.setDir State.dirTouch
  dsimp only
  split_ifs <;> rfl

theorem State.invalidate_besideContext : (s.invalidate st j).besideContext = s.besideContext := s.setDir_besideContext st j 0

theorem State.forceEvict_besideContext : (s.forceEvict st j).besideContext = s.besideContext := by
  rw [State.forceEvict, State.journal_besideContext]
  exact s.invalidate_besideContext st j

theorem State.shrinkQuota_besideContext : (s.shrinkQuota st q).besideContext = s.besideContext := by
  unfold State.shrinkQuota
  extract_lets c js u
  split_ifs
  · rfl
  · exact foldl_keeps (p := State.besideContext) (fun v i => by split_ifs; exacts [v.forceEvict_besideContext st i, rfl]) js s

theorem State.growQuota_besideContext : (s.growQuota st q).besideContext = s.besideContext := by
  unfold State.growQuota
  dsimp only
  split_ifs <;> rfl

/-- The quota of a stream shrinks, or grows, to its written value, and the staking limit follows. -/
def State.shrinkTo (s : State) (st : Nat) : State := s.shrinkQuota st (s.quotaObj st)
def State.growTo (s : State) (st : Nat) : State := s.growQuota st (s.quotaObj st)
def State.limitTo (s : State) (st : Nat) : State :=
  s.setSctx st { s.sctx st with limit := stakeLimit (s.sctx st).quota (s.stakeMaxObj st) }

theorem State.applyQuotas_eq : s.applyQuotas =
    (upto 1024).foldl State.limitTo ((upto 1024).foldl State.growTo ((upto 1024).foldl State.shrinkTo s)) := rfl

theorem State.applyQuotas_besideContext : s.applyQuotas.besideContext = s.besideContext := by
  rw [State.applyQuotas_eq, foldl_keeps (p := State.besideContext) (g := State.limitTo) (fun _ _ => rfl),
    foldl_keeps (p := State.besideContext) (g := State.growTo) (fun u i => u.growQuota_besideContext i _),
    foldl_keeps (p := State.besideContext) (g := State.shrinkTo) (fun u i => u.shrinkQuota_besideContext i _)]

end

/-- The map is taken, and beside the context engine nothing else changes. -/
theorem State.acceptMap_spec (s : State) (p : List (List TileAddr)) :
    (s.acceptMap p).img = { s.img with st := .loading } ∧ (s.acceptMap p).plc.pitch = p ∧ (s.acceptMap p).adm = s.adm ∧
    (s.acceptMap p).fab = s.fab := by
  unfold State.acceptMap
  extract_lets _ _ v
  have h := v.applyQuotas_besideContext
  simp only [State.besideContext, Prod.mk.injEq] at h
  obtain ⟨himg, hadm, hfab, hplc⟩ := h
  exact ⟨himg, by rw [hplc], hadm, hfab⟩

theorem exec_placingEnd_placing {s : State} (he : s.engineUp = true) (hs : s.img.st = .placing) :
    exec .placingEnd s = .next (match s.placeChecks with
      | .inl r => (s.rejectImage r.1 r.2).autoPower
      | .inr p => s.acceptMap p) := by
  rw [exec_placingEnd, execPlacingEnd, he, hs]
  rfl

/-! ## The end of loading (R42, R98, R156, R257, R523) -/

section
variable (s : State)

/-- Blocks that a map uses finish their exits: power and the count of transitions. -/
theorem State.usedOn_frame :
    (∃ p r, s.usedOn = { s with pwr := p, regs := r }) ∧ ∀ a, a ≠ Reg.pwrTransCnt → s.usedOn.reg a = s.reg a := by
  refine List.foldlRecOn (motive := fun u : State => (∃ p r, u = { s with pwr := p, regs := r }) ∧
    ∀ a, a ≠ Reg.pwrTransCnt → u.reg a = s.reg a) _ _ ⟨⟨s.pwr, s.regs, rfl⟩, fun _ _ => rfl⟩ ?_
  rintro _ ⟨⟨p, r, rfl⟩, hreg⟩ b -
  split_ifs
  · unfold State.finishExit
    dsimp only
    split_ifs
    · exact ⟨⟨p, r, rfl⟩, hreg⟩
    · exact ⟨⟨_, _, rfl⟩, fun a ha => ((State.reg_count ..).trans (if_neg ha)).trans (hreg a ha)⟩
  · exact ⟨⟨p, r, rfl⟩, hreg⟩

/-- What a commit leaves of the context store: all of it for an image without TEMPORAL_ATTENTION or with the same CONTEXT_ID, else
nothing (R257). -/
def StoreCommitted (s u : State) : Prop :=
  (stageOf s.img.copy 0x10 = none → u.ctx.dir = s.ctx.dir ∧ u.ctx.tracks = s.ctx.tracks) ∧
  ∀ st, stageOf s.img.copy 0x10 = some st →
    let id := BitVec.ofNat 32 (pay s.img.copy (stgParams s.img.copy st false + 0x18) 4)
    u.reg Reg.ctxContextId = id ∧
    (if id = s.reg Reg.ctxContextId then u.ctx.dir = s.ctx.dir ∧ u.ctx.tracks = s.ctx.tracks
     else u.ctx.dir = [] ∧ u.ctx.tracks = [])

theorem State.commitStore_frame : ∃ r cx, s.commitStore = { s with regs := r, ctx := cx } := by
  unfold State.commitStore
  dsimp only
  split
  · exact ⟨_, s.ctx, rfl⟩
  · split_ifs
    · exact ⟨_, s.ctx, rfl⟩
    · exact ⟨_, _, rfl⟩

theorem State.commitStore_store : StoreCommitted s s.commitStore := by
  unfold State.commitStore
  dsimp only
  refine ⟨fun h => ?_, fun st h => ?_⟩
  · rw [h]
    exact ⟨rfl, rfl⟩
  · rw [h]
    dsimp only
    split_ifs with hid
    · refine ⟨?_, rfl, rfl⟩
      rw [State.reg_setBits, if_neg (by decide), hid]
    · exact ⟨State.reg_setReg_self .., rfl, rfl⟩

end

section
variable (s : State)

/-- The numbers of an image concern the numeric unit and post-processing alone. -/
theorem State.commitNumerics_frame : ∃ nm pp, s.commitNumerics = { s with num := nm, ppu := pp } := ⟨_, _, rfl⟩

theorem State.commitNumerics_hdrs {i : Nat} (hi : i < imgStages s.img.copy) :
    tget NumHdr.zero s.commitNumerics.num.hdrs i = numHdr s.img.copy i :=
  (tget_foldl_tset NumHdr.zero (numHdr s.img.copy) _ [] i).trans (if_pos (List.mem_range.mpr hi))

/-- Every tile of the map written as the image has it. -/
def State.writeTiles (b : Bool) : State :=
  (mapTiles s.plc.pitch).foldl (fun u p =>
    u.setTile p.2.2 (loadTile s.img.copy s.img.digest s.plc.pitchDigest p.1 p.2.1 p.2.2 (b2n b))) s.holdAll

/-- Frames are counted from the next one on. -/
def State.countFromHere : State := { s with fab := { s.fab with base := s.adm.nextOrdinal } }

theorem State.loadAll_eq (b : Bool) : s.loadAll b = (s.writeTiles b).countFromHere.loadCredits := rfl

theorem State.loadAll_frame (b : Bool) : ∃ fb, s.loadAll b = { s with fab := fb } := by
  have hset : ∃ fb, s.writeTiles b = { s with fab := fb } := by
    refine List.foldlRecOn (motive := fun u : State => ∃ fb, u = { s with fab := fb }) _ _ ⟨_, rfl⟩ ?_
    rintro _ ⟨fb, rfl⟩ p -
    exact ⟨_, rfl⟩
  obtain ⟨fb, hu⟩ := hset
  obtain ⟨ts, h⟩ := (s.writeTiles b).countFromHere.loadCredits_frame
  rw [State.loadAll_eq, h, hu]
  exact ⟨_, rfl⟩

end

/-- A tile as a load leaves it: released, its slot 0 of a bank active. -/
def Tile.loadedIn (x : Tile) (bank : Nat) : Prop := x.held = false ∧ x.active = BitVec.ofNat 2 (2 * bank)

theorem loadTile_loadedIn (c : Memory) (digest map : BitVec 512) (st i : Nat) (t : TileAddr) (bank : Nat) :
    (loadTile c digest map st i t bank).loadedIn bank := ⟨loadTile_held .., by rw [loadTile_eq]; rfl⟩

/-- What holds of every tile written, and of a tile before, holds of it after tiles are written. -/
theorem foldl_setTile_prop {α : Type} {P : Tile → Prop} {f : α → TileAddr} {g : α → Tile} (hg : ∀ a, P (g a)) {t : TileAddr} :
    ∀ (l : List α) (s : State), P (s.tile t) ∨ (∃ a ∈ l, f a = t) → P ((l.foldl (fun u a => u.setTile (f a) (g a)) s).tile t)
  | [], s, h => h.resolve_right (by simp)
  | a :: l, s, h => by
    refine foldl_setTile_prop hg l _ ?_
    rw [State.tile_setTile_of]
    by_cases ha : t = f a
    · rw [if_pos ha]
      exact .inl (hg a)
    · rw [if_neg ha]
      refine h.imp_right fun ⟨b, hb, hf⟩ => ⟨b, (List.mem_cons.mp hb).resolve_left fun e => ha ?_, hf⟩
      rw [← hf, e]

/-- Credits move no tile's active slot. -/
theorem State.loadCredits_tile_active (s : State) (t : TileAddr) : (s.loadCredits.tile t).active = (s.tile t).active := by
  refine foldl_keeps (g := State.giveCredits) (p := fun u => (u.tile t).active) (fun u t' => ?_) _ s
  have credits : ∀ (n : Nat → Nat) (l : List Nat) (x : Tile), (l.foldl (fun y k => y.setCredit k (n k)) x).active = x.active :=
    fun n l x => List.foldlRecOn (motive := fun y : Tile => y.active = x.active) _ _ rfl fun _ hy _ _ => hy
  rw [State.giveCredits, State.tile_setTile_of]
  split_ifs with h
  · rw [credits, credits, h]
  · rfl

theorem State.loadAll_tile (s : State) (b : Bool) {t : TileAddr} (ht : t ∈ s.usedTiles) : ((s.loadAll b).tile t).loadedIn (b2n b) := by
  obtain ⟨st, i, hmem⟩ := mem_mapTiles ht
  have hu : ((s.writeTiles b).tile t).loadedIn (b2n b) :=
    foldl_setTile_prop (f := fun p : Nat × Nat × TileAddr => p.2.2)
      (g := fun p => loadTile s.img.copy s.img.digest s.plc.pitchDigest p.1 p.2.1 p.2.2 (b2n b))
      (P := fun x => x.loadedIn (b2n b)) (fun p => loadTile_loadedIn ..) _ _ (.inr ⟨_, hmem, rfl⟩)
  obtain ⟨hheld, hactive⟩ := hu
  rw [State.loadAll_eq]
  exact ⟨(State.loadCredits_tile_held _ t).trans hheld, (State.loadCredits_tile_active _ t).trans hactive⟩

/-- A committed image's blocks are enabled, and no register but their controls is written. -/
theorem State.enableBlocks_spec (s : State) : OnlyRegs s s.enableBlocks ∧
    (∀ a ∈ [Reg.admCtl, Reg.fabCtl, Reg.numCtl, Reg.ctxCtl, Reg.ppuCtl], s.enableBlocks.rbit a 0 = true) ∧
    ∀ a, a ∉ [Reg.admCtl, Reg.fabCtl, Reg.numCtl, Reg.ctxCtl, Reg.ppuCtl, Reg.cruCtl] → s.enableBlocks.reg a = s.reg a := by
  have hreg := fun a => s.reg_foldl_setBits 0x1#32 a [Reg.admCtl, Reg.fabCtl, Reg.numCtl, Reg.ctxCtl, Reg.ppuCtl]
  obtain ⟨r, hr⟩ := OnlyRegs.foldl (f := fun u b => u.setBits b 0x1#32) (fun u a => ⟨_, rfl⟩)
    [Reg.admCtl, Reg.fabCtl, Reg.numCtl, Reg.ctxCtl, Reg.ppuCtl] s
  unfold State.enableBlocks
  extract_lets u
  have hu : ∀ a, u.reg a = _ := hreg
  have hur : u = { s with regs := r } := hr
  clear_value u
  have hbit : ∀ a ∈ [Reg.admCtl, Reg.fabCtl, Reg.numCtl, Reg.ctxCtl, Reg.ppuCtl], u.rbit a 0 = true := fun a ha => by
    rw [State.rbit, hu, if_pos ha]
    simp [bit]
  have hkeep : ∀ a, a ∉ [Reg.admCtl, Reg.fabCtl, Reg.numCtl, Reg.ctxCtl, Reg.ppuCtl, Reg.cruCtl] → u.reg a = s.reg a := fun a ha => by
    rw [hu, if_neg fun h => ha ?_]
    simp only [List.mem_cons, List.not_mem_nil, or_false] at h ⊢
    tauto
  split_ifs
  · refine ⟨⟨_, by rw [hur]; rfl⟩, fun a ha => ?_, fun a ha => ?_⟩
    · have hb := hbit a ha
      rw [State.rbit, State.reg_setBits]
      split_ifs with h
      · simp [bit]
      · exact hb
    · rw [State.reg_setBits, if_neg fun h => ha (by simp [h]), hkeep a ha]
  · exact ⟨⟨r, hur⟩, hbit, hkeep⟩

theorem StoreCommitted.congr {s s' u u' : State} (h : StoreCommitted s u) (hcopy : s'.img.copy = s.img.copy)
    (hctx : s'.ctx = s.ctx) (hid : s'.reg Reg.ctxContextId = s.reg Reg.ctxContextId) (huctx : u'.ctx = u.ctx)
    (huid : u'.reg Reg.ctxContextId = u.reg Reg.ctxContextId) : StoreCommitted s' u' := by
  unfold StoreCommitted at h ⊢
  rw [hcopy, hctx, hid, huctx, huid]
  exact h

/-- The numbers and the tiles of the image are loaded. -/
def State.fillIn (s : State) : State := s.commitNumerics.loadAll false

theorem State.fillIn_spec (s : State) :
    s.fillIn.img = s.img ∧ s.fillIn.plc = s.plc ∧ s.fillIn.adm = s.adm ∧ s.fillIn.ctx = s.ctx ∧ s.fillIn.regs = s.regs ∧
    (∀ t ∈ s.usedTiles, (s.fillIn.tile t).loadedIn 0) ∧
    (∀ i, i < imgStages s.img.copy → tget NumHdr.zero s.fillIn.num.hdrs i = numHdr s.img.copy i) := by
  obtain ⟨fb, hload⟩ := s.commitNumerics.loadAll_frame false
  have hfill : s.fillIn = { s.commitNumerics with fab := fb } := hload
  refine ⟨?_, ?_, ?_, ?_, ?_, fun t ht => s.commitNumerics.loadAll_tile false ht, fun i hi => ?_⟩
  · rw [hfill]
    rfl
  · rw [hfill]
    rfl
  · rw [hfill]
    rfl
  · rw [hfill]
    rfl
  · rw [hfill]
    rfl
  · rw [hfill]
    exact s.commitNumerics_hdrs hi

/-- Bank 0 is in force, the pass of the scrubber restarts and the image's blocks are enabled. -/
def State.runImage (s : State) : State := ((s.clrBits Reg.fabStat 0x40#32).clrBits Reg.hbmStat 0x20#32).enableBlocks

theorem State.runImage_spec (s : State) :
    OnlyRegs s s.runImage ∧
    (∀ a ∈ [Reg.admCtl, Reg.fabCtl, Reg.numCtl, Reg.ctxCtl, Reg.ppuCtl], s.runImage.rbit a 0 = true) ∧
    s.runImage.rbit Reg.fabStat 6 = false ∧ s.runImage.reg Reg.ctxContextId = s.reg Reg.ctxContextId := by
  obtain ⟨⟨r, hr⟩, hen, hkeep⟩ := ((s.clrBits Reg.fabStat 0x40#32).clrBits Reg.hbmStat 0x20#32).enableBlocks_spec
  refine ⟨⟨r, hr⟩, hen, ?_, ?_⟩
  · rw [State.runImage, State.rbit, hkeep _ (by decide), State.reg_clrBits, if_neg (by decide), State.reg_clrBits, if_pos rfl]
    simp [bit]
  · rw [State.runImage, hkeep _ (by decide), State.reg_clrBits, if_neg (by decide), State.reg_clrBits, if_neg (by decide)]

/-- The running image is COMMITTED. -/
def State.asCommitted (s : State) : State :=
  { s with img := { s.img with st := .committed, copyBad := false }, adm := { s.adm with lastVariant := false } }

theorem State.commitDone_eq (s : State) : s.commitDone = s.usedOn.commitStore.fillIn.runImage.asCommitted.autoPower := by
  unfold State.commitDone State.asCommitted State.runImage State.fillIn
  rfl

/-- What the end of a successful LOADING shows, beside the power domains. -/
def ImageCommitted (s u : State) : Prop :=
  u.img.st = .committed ∧ u.img.digest = s.img.digest ∧ u.plc.pitch = s.plc.pitch ∧ u.adm.frames = s.adm.frames ∧
  (∀ a ∈ [Reg.admCtl, Reg.fabCtl, Reg.numCtl, Reg.ctxCtl, Reg.ppuCtl], u.rbit a 0 = true) ∧ u.rbit Reg.fabStat 6 = false ∧
  (∀ t ∈ s.usedTiles, (u.tile t).held = false ∧ (u.tile t).active = 0#2) ∧
  (∀ i, i < imgStages s.img.copy → tget NumHdr.zero u.num.hdrs i = numHdr s.img.copy i) ∧ StoreCommitted s u

theorem ImageCommitted.autoPower {s u : State} (h : ImageCommitted s u) : ImageCommitted s u.autoPower := by
  obtain ⟨p, hp⟩ := OnlyPower.autoPower u
  obtain ⟨hst, hdigest, hpitch, hframes, hen, hbank, htiles, hhdrs, hstore⟩ := h
  rw [hp]
  exact ⟨hst, hdigest, hpitch, hframes, hen, hbank, htiles, hhdrs, hstore.congr rfl rfl rfl rfl rfl⟩

/-- A state that differs in register words only from a loaded image, with its blocks enabled and bank 0 in force, needs but the
new IMAGE_STATE. -/
theorem ImageCommitted.asCommitted {s v w : State} (hw : OnlyRegs v w) (himg : v.img = s.img) (hplc : v.plc = s.plc)
    (hadm : v.adm = s.adm) (hen : ∀ a ∈ [Reg.admCtl, Reg.fabCtl, Reg.numCtl, Reg.ctxCtl, Reg.ppuCtl], w.rbit a 0 = true)
    (hbank : w.rbit Reg.fabStat 6 = false) (htiles : ∀ t ∈ s.usedTiles, (v.tile t).loadedIn 0)
    (hhdrs : ∀ i, i < imgStages s.img.copy → tget NumHdr.zero v.num.hdrs i = numHdr s.img.copy i)
    (hstore : StoreCommitted s v) (hid : w.reg Reg.ctxContextId = v.reg Reg.ctxContextId) : ImageCommitted s w.asCommitted := by
  obtain ⟨r, rfl⟩ := hw
  refine ⟨rfl, ?_, ?_, ?_, hen, hbank, htiles, hhdrs, hstore.congr rfl rfl rfl rfl hid⟩
  · rw [← himg]
    rfl
  · rw [← hplc]
    rfl
  · rw [← hadm]
    rfl

/-- From a store committed as R257 says, loading the rest gives a committed image. -/
theorem ImageCommitted.of_store {s v : State} (himg : v.img = s.img) (hplc : v.plc = s.plc) (hadm : v.adm = s.adm)
    (hstore : StoreCommitted s v) : ImageCommitted s v.fillIn.runImage.asCommitted := by
  obtain ⟨fimg, fplc, fadm, fctx, fregs, ftiles, fhdrs⟩ := v.fillIn_spec
  obtain ⟨hregs, hen, hbank, hid⟩ := v.fillIn.runImage_spec
  have htiles : v.usedTiles = s.usedTiles := by rw [State.usedTiles, hplc, ← State.usedTiles]
  have hreg : v.fillIn.reg Reg.ctxContextId = v.reg Reg.ctxContextId := by rw [State.reg, fregs, ← State.reg]
  rw [htiles] at ftiles
  rw [himg] at fhdrs
  exact .asCommitted hregs (fimg.trans himg) (fplc.trans hplc) (fadm.trans hadm) hen hbank ftiles fhdrs
    (hstore.congr rfl rfl rfl fctx hreg) hid

theorem State.commitDone_spec (s : State) : ImageCommitted s s.commitDone := by
  obtain ⟨⟨p, r, hused⟩, hregs⟩ := s.usedOn_frame
  obtain ⟨r', cx, hframe⟩ := s.usedOn.commitStore_frame
  have hstore : StoreCommitted s s.usedOn.commitStore :=
    s.usedOn.commitStore_store.congr (by rw [hused]) (by rw [hused]) (hregs _ (by decide)).symm rfl rfl
  rw [State.commitDone_eq]
  exact (ImageCommitted.of_store (by rw [hframe, hused]) (by rw [hframe, hused]) (by rw [hframe, hused]) hstore).autoPower

theorem exec_loadingEnd_loading {s : State} (he : s.engineUp = true) (hs : s.img.st = .loading) (ue : Bool) :
    exec (.loadingEnd ue) s = .next (if (ue || s.img.copyBad) = true then (s.rejectImage 11 0xFFFF).autoPower else s.commitDone) := by
  rw [exec_loadingEnd, execLoadingEnd, if_pos hs, he, onlyIf_true]

/-! ## The end of release (R45, R118, R121) -/

theorem State.keepAllStats_frame (s : State) : ∃ nm, s.keepAllStats = { s with num := nm } := by
  refine List.foldlRecOn (motive := fun u : State => ∃ nm, u = { s with num := nm }) _ _ ⟨s.num, rfl⟩ ?_
  rintro _ ⟨nm, rfl⟩ i -
  refine List.foldlRecOn (motive := fun u : State => ∃ nm, u = { s with num := nm }) _ _ ⟨nm, rfl⟩ ?_
  rintro _ ⟨nm, rfl⟩ t -
  exact ⟨_, rfl⟩

/-- The blocks of a released image are disabled. -/
def State.disableBlocks (s : State) : State :=
  [Reg.numCtl, Reg.ctxCtl, Reg.ppuCtl, Reg.cruCtl].foldl (fun u a => u.clrBits a 0x1#32) (s.clrBits Reg.fabStat 0x40#32)

theorem State.disableBlocks_spec (s : State) : OnlyRegs s s.disableBlocks ∧ s.disableBlocks.rbit Reg.fabStat 6 = false := by
  obtain ⟨r, hr⟩ := OnlyRegs.foldl (f := fun u a => u.clrBits a 0x1#32) (fun u a => ⟨_, rfl⟩)
    [Reg.numCtl, Reg.ctxCtl, Reg.ppuCtl, Reg.cruCtl] (s.clrBits Reg.fabStat 0x40#32)
  refine ⟨⟨r, hr⟩, ?_⟩
  rw [State.disableBlocks, State.rbit, State.reg_foldl_clrBits, if_neg (by decide), State.reg_clrBits, if_pos rfl]
  simp [bit]

/-- What a stream keeps through a release: its slots are emptied. -/
def StreamAdm.emptied (x : StreamAdm) : StreamAdm := { x with slot0 := Slot.empty, slot1 := Slot.empty }

/-- The image is VERIFIED again and every slot empty. -/
def State.asReleased (s : State) : State :=
  { s with
    img := { s.img with st := .verified }
    adm := { s.adm with streams := tmap StreamAdm.zero (fun _ => StreamAdm.emptied) s.adm.streams, lastVariant := false }
    ctx := { s.ctx with reqs := [], owed := [] } }

theorem State.releaseDone_eq (s : State) :
    s.releaseDone = s.keepAllStats.holdAll.clearMap.disableBlocks.asReleased.autoPower := rfl

theorem State.asReleased_stream {s : State} (hw : twf StreamAdm.zero s.adm.streams = true) (n : Nat) :
    s.asReleased.stream n = (s.stream n).emptied :=
  tget_tmap (d := StreamAdm.zero) (f := fun _ => StreamAdm.emptied) (fun _ => rfl) hw n

theorem State.releaseDone_spec {s : State} (hw : twf StreamAdm.zero s.adm.streams = true) :
    s.releaseDone.img = { s.img with st := .verified } ∧ s.releaseDone.plc.pitch = [] ∧
    s.releaseDone.rbit Reg.fabStat 6 = false ∧ (∀ t, (s.releaseDone.tile t).held = true) ∧
    s.releaseDone.adm.frames = s.adm.frames ∧ ∀ n, s.releaseDone.stream n = (s.stream n).emptied := by
  obtain ⟨nm, hk⟩ := s.keepAllStats_frame
  obtain ⟨⟨r, hr⟩, hbank⟩ := s.keepAllStats.holdAll.clearMap.disableBlocks_spec
  obtain ⟨p, hp⟩ := OnlyPower.autoPower s.keepAllStats.holdAll.clearMap.disableBlocks.asReleased
  rw [hk] at hr hbank hp
  rw [State.releaseDone_eq, hk, hp]
  have hstream : ∀ n, (State.disableBlocks (State.clearMap (State.holdAll { s with num := nm }))).asReleased.stream n =
      (s.stream n).emptied := fun n => by
    rw [hr]
    exact State.asReleased_stream (s := { (State.clearMap (State.holdAll { s with num := nm })) with regs := r }) hw n
  refine ⟨?_, ?_, hbank, fun t => ?_, ?_, hstream⟩
  · rw [hr]
    rfl
  · rw [hr]
    rfl
  · rw [hr]
    rfl
  · rw [hr]
    rfl

theorem exec_releaseEnd_releasing {s : State} (he : s.engineUp = true) (hs : s.img.st = .releasing) (hp : s.pipelineEmpty = true)
    (hr : s.remapping = false) : exec .releaseEnd s = .next s.releaseDone := by
  rw [exec_releaseEnd, execReleaseEnd, he, hs, hp, hr]
  rfl

/-- Settles O29: each end is the command that the laws above describe in the state it asks for. -/
theorem imageSequencesEnd : Obligations.ImageSequencesEnd := by
  unfold Obligations.ImageSequencesEnd
  intro s he rejected
  refine ⟨fun hs ha hv => ?_, fun hs ha hv hf hr => ?_, fun hs hv => ?_, fun p hs hp => ?_, fun r hs hp _ => ?_, fun hs => ?_,
    fun hs hc => ?_, fun hs hp hr hw => ?_⟩
  · refine ⟨s.verifyOk, ?_, ?_⟩
    · rw [exec_verificationEnd_verifying he hs, if_neg (by simp [hv]), if_neg (by simp [ha])]
    · dsimp only
      rw [State.verifyOk_img]
      exact ⟨rfl, rfl, rfl, rfl, (s.reg_verifyOver (by decide)).trans (if_pos rfl), s.verifyOver_adm⟩
  · refine ⟨s.verifyOk.beginCommit, ?_, ?_⟩
    · rw [exec_verificationEnd_verifying he hs, if_neg (by simp [hv]), if_pos ha, State.verifyOk_commit hf hr]
    · obtain ⟨hst, -, -, -, hdigest, hauto, -⟩ := s.verifyOk.beginCommit_spec
      rw [State.verifyOk_img] at hdigest hauto
      exact ⟨hst, hdigest, hauto⟩
  · refine ⟨s.verifyOver.failVerify (verifyReason s), ?_, ?_, ?_⟩
    · rw [exec_verificationEnd_verifying he hs, if_pos hv]
    · exact ImageRejected.rejectImage (congrArg (·.digest) s.verifyOver_img) (congrArg (·.copy) s.verifyOver_img) _ _
    · rw [State.reg_failVerify_count, State.reg_verifyOver _ (by decide), if_neg (by decide)]
  · exact ⟨s.acceptMap p, by rw [exec_placingEnd_placing he hs, hp], s.acceptMap_spec p⟩
  · refine ⟨(s.rejectImage r.1 r.2).autoPower, by rw [exec_placingEnd_placing he hs, hp], ?_⟩
    refine ⟨(ImageRejected.rejectImage rfl rfl r.1 r.2).autoPower, ?_⟩
    obtain ⟨q, hq⟩ := OnlyPower.autoPower (s.rejectImage r.1 r.2)
    rw [hq]
    exact ⟨s.rejectImage_info r.1 r.2, rfl⟩
  · refine ⟨(s.rejectImage 11 0xFFFF).autoPower, ?_, (ImageRejected.rejectImage rfl rfl _ _).autoPower⟩
    rw [exec_loadingEnd_loading he hs, if_pos (Bool.true_or _)]
  · obtain ⟨hst, hdigest, hpitch, hframes, hen, hbank, htiles, hhdrs, hnone, hsome⟩ := s.commitDone_spec
    refine ⟨s.commitDone, ?_, hst, hdigest, hpitch, hframes, hen _ (by decide), hen _ (by decide), hen _ (by decide), hen _ (by decide),
      hen _ (by decide), hbank, htiles, hhdrs, hnone, hsome⟩
    rw [exec_loadingEnd_loading he hs, if_neg (by simp [hc])]
  · obtain ⟨himg, hpitch, hbank, hheld, hframes, hstream⟩ := State.releaseDone_spec hw
    refine ⟨s.releaseDone, exec_releaseEnd_releasing he hs hp hr, himg, hpitch, hbank, hheld, hframes, fun n => ?_⟩
    rw [hstream]
    exact ⟨rfl, rfl, rfl⟩

end Sys2Proof.Machine
end

section
/-! SUPPORT. Admission from the waiting slot to the last row group: the end of waiting frames, the start of a slot, and the words
that go to stage 0. -/

namespace Sys2Proof.Machine

/-! ## Frames that end before stage 0 (R58, R63, R65) -/

/-- A slot among those freed is idle and empty, every other slot of a stream and its counters are as they were. -/
theorem State.stream_foldl_freeSlot (l : List Frame) : ∀ (s : State) (n : Nat),
    (∀ b, ((l.foldl (fun u f => u.freeSlot f.stream f.slot) s).stream n).slot b =
      if ∃ f ∈ l, f.stream = n ∧ f.slot = b then Slot.empty else (s.stream n).slot b) ∧
    ((l.foldl (fun u f => u.freeSlot f.stream f.slot) s).stream n).overruns = (s.stream n).overruns := by
  induction l with
  | nil => exact fun s n => ⟨fun b => by simp, rfl⟩
  | cons f l ih =>
    intro s n
    obtain ⟨hslot, hover⟩ := ih (s.freeSlot f.stream f.slot) n
    rw [State.stream_freeSlot] at hslot hover
    refine ⟨fun b => ?_, ?_⟩
    · rw [List.foldl_cons, hslot]
      by_cases hl : ∃ g ∈ l, g.stream = n ∧ g.slot = b
      · obtain ⟨g, hg, hgn⟩ := hl
        rw [if_pos ⟨g, hg, hgn⟩, if_pos ⟨g, List.mem_cons_of_mem _ hg, hgn⟩]
      · rw [if_neg hl]
        by_cases hn : n = f.stream
        · subst hn
          rw [if_pos rfl]
          by_cases hb : f.slot = b
          · subst hb
            rw [StreamAdm.slot_setSlot, if_pos ⟨f, List.mem_cons_self, rfl, rfl⟩]
          · have hb' : b = !f.slot := by
              cases b <;> cases h : f.slot <;> simp_all
            rw [if_neg (by rintro ⟨g, hg, h1, h2⟩
                           rcases List.mem_cons.mp hg with rfl | hg
                           · exact hb h2
                           · exact hl ⟨g, hg, h1, h2⟩), hb', StreamAdm.slot_setSlot_not]
        · rw [if_neg hn, if_neg (by rintro ⟨g, hg, h1, h2⟩
                                    rcases List.mem_cons.mp hg with rfl | hg
                                    · exact hn h1.symm
                                    · exact hl ⟨g, hg, h1, h2⟩)]
    · rw [List.foldl_cons, hover]
      split_ifs with hn
      · subst hn
        cases f.slot <;> rfl
      · rfl

/-- Waiting frames that meet a condition have ended; only the count of overruns is still missing. -/
def State.waitingEnded (s : State) (p : Frame → Bool) (st : Status) : State :=
  ((s.adm.frames.filter (fun f => p f && f.phase == .waiting)).foldl (fun u f => u.freeSlot f.stream f.slot) s).endFrames
    (fun f => p f && f.phase == .waiting) st

theorem State.endOutside_eq (s : State) (p : Frame → Bool) (st : Status) : s.endOutside p st =
    if st = .overrun then (s.adm.frames.filter (fun f => p f && f.phase == .waiting)).foldl (fun v _ => v.countOverrun) (s.waitingEnded p st)
    else s.waitingEnded p st := rfl

section
variable {s : State} {p : Frame → Bool}

theorem State.waitingEnded_frame (st : Status) : ∃ m, s.waitingEnded p st = { s with adm := { s.adm with
    streams := m, frames := s.adm.frames.map (fun f => if p f && f.phase == .waiting then f.dropWith st else f) } } := by
  obtain ⟨m, hm⟩ := s.foldl_freeSlot_frame (s.adm.frames.filter (fun f => p f && f.phase == .waiting))
  refine ⟨m, ?_⟩
  rw [State.waitingEnded, hm]
  rfl

theorem State.waitingEnded_slot (st : Status) {f : Frame} (hf : f ∈ s.adm.frames) (hp : (p f && f.phase == .waiting) = true) :
    ((s.waitingEnded p st).stream f.stream).slot f.slot = Slot.empty :=
  ((State.stream_foldl_freeSlot _ s f.stream).1 f.slot).trans (if_pos ⟨f, List.mem_filter.mpr ⟨hf, hp⟩, rfl, rfl⟩)

theorem State.waitingEnded_overruns (st : Status) (n : Nat) :
    ((s.waitingEnded p st).stream n).overruns = (s.stream n).overruns := (State.stream_foldl_freeSlot _ s n).2

end

theorem State.countOverrun_spec (s : State) :
    (∃ r pn, s.countOverrun = { s with regs := r, pins := pn }) ∧
    s.countOverrun.reg Reg.admOverrunCnt = s.reg Reg.admOverrunCnt + 1#32 ∧ s.countOverrun.rbit Reg.devAlert 5 = true := by
  refine ⟨⟨_, _, rfl⟩, ?_, ?_⟩
  · rw [State.countOverrun, State.reg_alert, if_neg (by decide), State.reg_setBits, if_neg (by decide), State.reg_count, if_pos rfl]
  · rw [State.countOverrun, State.rbit, State.reg_alert, if_pos rfl]
    simp [bit, bmask]

theorem State.foldl_countOverrun {α : Type} (l : List α) : ∀ s : State,
    (∃ r pn, l.foldl (fun v _ => v.countOverrun) s = { s with regs := r, pins := pn }) ∧
    (l.foldl (fun v _ => v.countOverrun) s).reg Reg.admOverrunCnt = s.reg Reg.admOverrunCnt + BitVec.ofNat 32 l.length ∧
    (l ≠ [] ∨ s.rbit Reg.devAlert 5 = true → (l.foldl (fun v _ => v.countOverrun) s).rbit Reg.devAlert 5 = true) := by
  induction l with
  | nil => exact fun s => ⟨⟨s.regs, s.pins, rfl⟩, by simp, fun h => by simpa using h⟩
  | cons a l ih =>
    intro s
    obtain ⟨⟨r, pn, hframe⟩, hcnt, halert⟩ := s.countOverrun_spec
    obtain ⟨⟨r', pn', hframe'⟩, hcnt', halert'⟩ := ih s.countOverrun
    refine ⟨⟨r', pn', ?_⟩, ?_, fun _ => halert' (.inr halert)⟩
    · rw [List.foldl_cons, hframe', hframe]
    · rw [List.foldl_cons, hcnt', hcnt, List.length_cons, BitVec.add_assoc, Nat.add_comm l.length, BitVec.ofNat_add]

/-- What the end of waiting frames shows, whatever their status. -/
theorem State.endOutside_spec (s : State) (p : Frame → Bool) (st : Status) :
    (s.endOutside p st).adm = (s.waitingEnded p st).adm ∧ (s.endOutside p st).fab = s.fab ∧
    (s.endOutside p st).clock = s.clock ∧ (st ≠ .overrun → (s.endOutside p st).regs = s.regs) := by
  obtain ⟨m, hm⟩ := s.waitingEnded_frame (p := p) st
  rw [State.endOutside_eq]
  split_ifs with h
  · obtain ⟨⟨r, pn, hframe⟩, -⟩ := State.foldl_countOverrun (s.adm.frames.filter (fun f => p f && f.phase == .waiting)) (s.waitingEnded p st)
    rw [hframe, hm]
    exact ⟨rfl, rfl, rfl, fun hst => absurd h hst⟩
  · rw [hm]
    exact ⟨rfl, rfl, rfl, fun _ => rfl⟩

theorem State.endOutside_frames (s : State) (p : Frame → Bool) (st : Status) : (s.endOutside p st).adm.frames =
    s.adm.frames.map (fun f => if p f && f.phase == .waiting then f.dropWith st else f) := by
  obtain ⟨m, hm⟩ := s.waitingEnded_frame (p := p) st
  rw [(s.endOutside_spec p st).1, hm]

theorem State.endOutside_stream (s : State) (p : Frame → Bool) (st : Status) (n : Nat) :
    (s.endOutside p st).stream n = (s.waitingEnded p st).stream n := by
  rw [State.stream, (s.endOutside_spec p st).1, ← State.stream]

theorem State.endOutside_slot {s : State} {p : Frame → Bool} (st : Status) {f : Frame} (hf : f ∈ s.adm.frames)
    (hp : p f = true) (hw : f.phase = .waiting) : ((s.endOutside p st).stream f.stream).slot f.slot = Slot.empty := by
  rw [State.endOutside_stream]
  exact State.waitingEnded_slot st hf (by simp [hp, hw])

/-- Every waiting frame that meets the condition counts once as an overrun (R65). -/
theorem State.endOutside_overrun (s : State) (p : Frame → Bool) :
    (s.endOutside p .overrun).reg Reg.admOverrunCnt =
      s.reg Reg.admOverrunCnt + BitVec.ofNat 32 (s.adm.frames.filter (fun f => p f && f.phase == .waiting)).length ∧
    (s.adm.frames.any (fun f => p f && f.phase == .waiting) = true → (s.endOutside p .overrun).rbit Reg.devAlert 5 = true) := by
  obtain ⟨m, hm⟩ := s.waitingEnded_frame (p := p) .overrun
  obtain ⟨-, hcnt, halert⟩ :=
    State.foldl_countOverrun (s.adm.frames.filter (fun f => p f && f.phase == .waiting)) (s.waitingEnded p .overrun)
  rw [State.endOutside_eq, if_pos rfl]
  refine ⟨hcnt.trans ?_, fun hany => halert (.inl fun h => ?_)⟩
  · rw [hm]
    rfl
  · obtain ⟨f, hf, hp⟩ := List.any_eq_true.mp hany
    exact List.filter_eq_nil_iff.mp h f hf hp

theorem le_foldl_max {α : Type} (g : α → Nat) (l : List α) : ∀ (n : Nat),
    n ≤ l.foldl (fun t a => max t (g a)) n ∧ ∀ a ∈ l, g a ≤ l.foldl (fun t a => max t (g a)) n := by
  induction l with
  | nil => exact fun n => ⟨le_rfl, by simp⟩
  | cons b l ih =>
    intro n
    obtain ⟨hn, hl⟩ := ih (max n (g b))
    refine ⟨(le_max_left _ _).trans hn, fun a ha => ?_⟩
    rcases List.mem_cons.mp ha with rfl | ha
    · exact (le_max_right _ _).trans hn
    · exact hl a ha

/-- The frame that waits in a slot of a stream. -/
def waitsIn (n : Nat) (slot : Bool) (f : Frame) : Bool := f.stream == n && f.slot == slot && f.phase == .waiting

theorem waitsIn_iff {n : Nat} {slot : Bool} {f : Frame} : waitsIn n slot f = true ↔ f.stream = n ∧ f.slot = slot ∧ f.phase = .waiting := by
  simp [waitsIn, and_assoc]

theorem waitsIn_waiting (n : Nat) (slot : Bool) (f : Frame) : (waitsIn n slot f && f.phase == .waiting) = waitsIn n slot f := by
  simp [waitsIn, Bool.and_assoc]

/-- The moment at which the last frame of a slot has waited `m` microseconds. -/
def State.waitedSince (s : State) (n : Nat) (slot : Bool) (m : Nat) : Nat :=
  (s.adm.frames.filter (waitsIn n slot)).foldl (fun t f => max t (f.acceptedAt + usSteps m)) 0

theorem State.le_waitedSince {s : State} {n : Nat} {slot : Bool} (m : Nat) {f : Frame} (hf : f ∈ s.adm.frames)
    (hw : waitsIn n slot f = true) : f.acceptedAt + usSteps m ≤ s.waitedSince n slot m :=
  (le_foldl_max (fun f : Frame => f.acceptedAt + usSteps m) _ 0).2 f (List.mem_filter.mpr ⟨hf, hw⟩)

/-- A slot's wait is over, and the overrun counts at its stream. -/
def State.overrunAt (s : State) (n : Nat) (slot : Bool) (m : Nat) : State :=
  (s.until (s.waitedSince n slot m)).setStream n { s.stream n with overruns := (s.stream n).overruns + 1#32 }

theorem State.overrunAt_spec (s : State) (n : Nat) (slot : Bool) (m : Nat) :
    (s.overrunAt n slot m).adm.frames = s.adm.frames ∧ (s.overrunAt n slot m).regs = s.regs ∧ (s.overrunAt n slot m).fab = s.fab ∧
    ((s.overrunAt n slot m).stream n).overruns = (s.stream n).overruns + 1#32 ∧
    s.waitedSince n slot m ≤ (s.overrunAt n slot m).clock.now := by
  unfold State.overrunAt
  refine ⟨?_, ?_, ?_, ?_, ?_⟩
  · rw [State.setStream, State.until_adm]
  · rw [State.setStream_regs, State.until_regs]
  · rw [State.setStream_fab, State.until_fab]
  · rw [State.stream_setStream, if_pos rfl]
  · rw [State.setStream_clock, State.until_now]
    exact le_max_right _ _

theorem exec_maxWaitExpiry_due {s : State} {stream : BitVec 10} {slot : Bool} (he : s.engineUp = true) (hm : s.reg Reg.admMaxWait ≠ 0#32)
    (hany : s.adm.frames.any (waitsIn stream.toNat slot) = true) : exec (.maxWaitExpiry stream slot) s = .next
      ((s.overrunAt stream.toNat slot (s.reg Reg.admMaxWait).toNat).endOutside (waitsIn stream.toNat slot) .overrun) := by
  have hm' : ((s.reg Reg.admMaxWait).toNat != 0) = true := by
    simpa [BitVec.toNat_eq] using hm
  have h : exec (.maxWaitExpiry stream slot) s = onlyIf (s.engineUp && (s.reg Reg.admMaxWait).toNat != 0 &&
      s.adm.frames.any (waitsIn stream.toNat slot)) s
        ((s.overrunAt stream.toNat slot (s.reg Reg.admMaxWait).toNat).endOutside (waitsIn stream.toNat slot) .overrun) := rfl
  rw [h, he, hm', hany]
  rfl

/-- Where the slot of a stream whose overrun was just counted waits, its frame ends and the slot is idle. -/
theorem State.endWaiting_spec {v : State} {n : Nat} {slot : Bool} (hany : v.adm.frames.any (waitsIn n slot) = true) :
    let u := v.endOutside (waitsIn n slot) .overrun
    u.adm.frames = v.adm.frames.map (fun f => if waitsIn n slot f then f.dropWith .overrun else f) ∧
    (u.stream n).slot slot = Slot.empty ∧ (u.stream n).overruns = (v.stream n).overruns ∧ u.clock = v.clock ∧
    u.reg Reg.admOverrunCnt = v.reg Reg.admOverrunCnt + BitVec.ofNat 32 (v.adm.frames.filter (waitsIn n slot)).length ∧
    u.rbit Reg.devAlert 5 = true ∧ u.fab = v.fab := by
  obtain ⟨-, hfab, hclock, -⟩ := v.endOutside_spec (waitsIn n slot) .overrun
  obtain ⟨hcnt, halert⟩ := v.endOutside_overrun (waitsIn n slot)
  have hframes := v.endOutside_frames (waitsIn n slot) .overrun
  simp only [waitsIn_waiting] at hcnt halert hframes
  obtain ⟨f, hf, hw⟩ := List.any_eq_true.mp hany
  obtain ⟨rfl, rfl, hphase⟩ := waitsIn_iff.mp hw
  refine ⟨hframes, State.endOutside_slot _ hf hw hphase, ?_, hclock, hcnt, halert hany, hfab⟩
  rw [State.endOutside_stream, State.waitingEnded_overruns]

theorem waitingFramesEnd : Claims.WaitingFramesEnd := by
  intro s stream slot he p
  refine ⟨fun hm hany => ⟨_, exec_maxWaitExpiry_due he hm hany, ?_⟩, s.flushWait, ?_, ?_⟩
  · obtain ⟨hframes, hregs, hfab, hover, hnow⟩ := s.overrunAt_spec stream.toNat slot (s.reg Reg.admMaxWait).toNat
    obtain ⟨uframes, uslot, uover, uclock, ucnt, ualert, ufab⟩ :=
      State.endWaiting_spec (v := s.overrunAt stream.toNat slot (s.reg Reg.admMaxWait).toNat) (hframes ▸ hany)
    rw [hframes] at uframes ucnt
    refine ⟨uframes, uslot, uover.trans hover, fun f hmem hpf => ?_, ?_, ualert, ufab.trans hfab⟩
    · rw [uclock]
      exact (State.le_waitedSince _ hmem hpf).trans hnow
    · rw [ucnt, State.reg, hregs, ← State.reg]
      rfl
  · rw [exec_flushWait, execFlushWait, he, onlyIf_true]
  · obtain ⟨-, hfab, -, hregs⟩ := s.endOutside_spec (fun _ => true) .flush
    refine ⟨(s.endOutside_frames _ _).trans (List.map_congr_left fun f _ => ?_), fun f hf hw => s.endOutside_slot _ hf rfl hw,
      hregs (by decide), hfab⟩
    simp

/-! ## Words offered to wires (R18, R415) -/

/-- Two states differ in the fabric only. -/
def OnlyFab (s u : State) : Prop := ∃ fb, u = { s with fab := fb }

theorem OnlyFab.offer (s : State) (l : LinkWord) : OnlyFab s (s.offer l) := by
  unfold State.offer
  split_ifs
  · exact ⟨_, rfl⟩
  · exact ⟨_, rfl⟩

theorem OnlyFab.foldl {α : Type} {f : State → α → State} (hf : ∀ s a, OnlyFab s (f s a)) (l : List α) (s : State) :
    OnlyFab s (l.foldl f s) := by
  refine List.foldlRecOn (motive := OnlyFab s) l f ⟨s.fab, rfl⟩ ?_
  rintro _ ⟨fb, rfl⟩ a -
  obtain ⟨fb', h⟩ := hf { s with fab := fb } a
  exact ⟨fb', h⟩

theorem OnlyFab.sendStage0 (s : State) (ws : List QWord) : OnlyFab s (s.sendStage0 ws) := OnlyFab.foldl OnlyFab.offer _ s

theorem OnlyFab.unitSend (s : State) (unit net : Nat) (w : QWord) : OnlyFab s (s.unitSend unit net w) := by
  obtain ⟨fb, h⟩ := OnlyFab.offer (s.unitMoved unit)
    ⟨wireKey (Config.unitWire s.plc.pitchDigest (BitVec.ofNat 5 unit) (BitVec.ofNat 2 net)).1.toNat net
      (Config.unitWire s.plc.pitchDigest (BitVec.ofNat 5 unit) (BitVec.ofNat 2 net)).2.toNat, w⟩
  exact ⟨fb, h⟩

theorem State.offer_fab (s : State) (l : LinkWord) : (s.offer l).fab =
    if s.holdRaised l.wire || s.fab.unsent.any (fun m => m.wire == l.wire) then { s.fab with unsent := s.fab.unsent ++ [l] }
    else { s.fab with links := s.fab.links ++ [l] } := by
  unfold State.offer
  split_ifs <;> rfl

/-- Where a word goes is for the fabric alone to say. -/
theorem State.offer_fab_congr {s v : State} (h : v.fab = s.fab) (l : LinkWord) : (v.offer l).fab = (s.offer l).fab := by
  have hheld : (v.holdRaised l.wire || v.fab.unsent.any (fun m => m.wire == l.wire)) =
      (s.holdRaised l.wire || s.fab.unsent.any (fun m => m.wire == l.wire)) := by
    rw [State.holdRaised, State.holdRaised, State.atWire, State.atWire, h]
  rw [State.offer_fab, State.offer_fab, hheld, h]

theorem foldl_offer_fab_congr (l : List LinkWord) : ∀ {s v : State}, v.fab = s.fab →
    (l.foldl State.offer v).fab = (l.foldl State.offer s).fab := by
  induction l with
  | nil => exact fun h => h
  | cons k l ih => exact fun h => ih (State.offer_fab_congr h k)

/-- Words with room at their wires go out in order. -/
theorem foldl_offer_of_room (l : List LinkWord) : ∀ {s : State}, s.fab.unsent = [] →
    (∀ k ∈ l, (s.atWire k.wire).length + l.length ≤ 16) → l.foldl State.offer s = { s with fab := { s.fab with links := s.fab.links ++ l } } := by
  induction l with
  | nil => exact fun _ _ => by simp
  | cons k l ih =>
    intro s hu hroom
    have hk : s.holdRaised k.wire = false := by
      have h := hroom k List.mem_cons_self
      rw [List.length_cons] at h
      exact decide_eq_false (by unfold dcqHold; omega)
    have hoffer : s.offer k = { s with fab := { s.fab with links := s.fab.links ++ [k] } } := by
      rw [State.offer, if_neg (by simp [hk, hu])]
    rw [List.foldl_cons, hoffer, ih (s := { s with fab := { s.fab with links := s.fab.links ++ [k] } }) hu fun m hm => ?_]
    · simp
    · have h := hroom m (List.mem_cons_of_mem _ hm)
      rw [List.length_cons] at h
      have hone : (State.atWire { s with fab := { s.fab with links := s.fab.links ++ [k] } } m.wire).length ≤
          (s.atWire m.wire).length + 1 := by
        simp only [State.atWire, List.filter_append, List.map_append, List.length_append, List.length_map]
        exact Nat.add_le_add_left (List.length_filter_le ..) _
      omega

/-! ## The start of a slot (R36, R60 to R62, R98, R455) -/

/-- A stream is ready where a frame of it waits that was accepted before engine cycle `c`. -/
def State.streamReady (s : State) (c st : Nat) : Bool := s.waitingFrames.any (fun f => f.stream == st && decide (18 * f.acceptedAt < c))

theorem State.streamReady_iff {s : State} {c st : Nat} :
    s.streamReady c st = true ↔ ∃ g ∈ s.waitingFrames, g.stream = st ∧ 18 * g.acceptedAt < c := by
  simp [State.streamReady]

/-- The first ready stream after the pointer is the one the slot takes (R60, R61). -/
theorem State.nextReady_eq {s : State} {c j : Nat} (hj : j < 1024)
    (hbefore : ∀ i, i < j → s.streamReady c ((fld (s.reg Reg.admRrPtr) 9 0 + 1 + i) % 1024) = false)
    (hat : s.streamReady c ((fld (s.reg Reg.admRrPtr) 9 0 + 1 + j) % 1024) = true) :
    s.nextReady c = some ((fld (s.reg Reg.admRrPtr) 9 0 + 1 + j) % 1024) := by
  have h : s.nextReady c = ((upto 1024).map (fun i => (fld (s.reg Reg.admRrPtr) 9 0 + 1 + i) % 1024)).find? (s.streamReady c) := rfl
  rw [h, List.find?_map, Option.map_eq_some_iff]
  refine ⟨j, List.find?_range_eq_some.mpr ⟨hat, List.mem_range.mpr hj, fun i hi => ?_⟩, rfl⟩
  simp [hbefore i hi]

theorem State.nextReady_of_none {s : State} (h : s.waitingFrames = []) (c : Nat) : s.nextReady c = none := by
  unfold State.nextReady
  simp [h]

theorem State.slotCycle_ge (s : State) : s.engineCycle ≤ s.slotCycle ∧ s.slotDue ≤ s.slotCycle := by
  unfold State.slotCycle
  dsimp only
  split_ifs <;> omega

theorem State.slotDue_ge {s : State} {a : Nat} (h : s.adm.lastStart = some a) : a + slotLength s.img.rate ≤ s.slotDue := by
  rw [State.slotDue, h]

/-- A change of geometry sends words and notes the variant (R98). -/
theorem State.switchGeometry_frame (s : State) (wide : Bool) :
    ∃ fb lv, s.switchGeometry wide = { s with fab := fb, adm := { s.adm with lastVariant := lv } } := by
  unfold State.switchGeometry
  split_ifs
  · exact ⟨s.fab, s.adm.lastVariant, rfl⟩
  · extract_lets old _ u v
    obtain ⟨fb, hv⟩ := OnlyFab.unitSend u 1 2 ⟨BitVec.ofNat 2 old, 5, tokenData old 5 u.admissionSlot, noSrc⟩
    have hv' : v = { u with fab := fb } := hv
    clear_value v
    obtain ⟨fb', hw⟩ := OnlyFab.foldl OnlyFab.offer ((Config.inputWires v.plc.pitchDigest).map (fun p =>
      LinkWord.mk (wireKey p.1.toNat 0 p.2.toNat) (ctxEndWord 0 old noSrc))) v
    refine ⟨fb', wide, ?_⟩
    rw [hw, hv']

/-- The chosen frame is being sent: its slot, its ordinal and its start. -/
def State.startFrame (u : State) (st start : Nat) (f : Frame) : State :=
  let x := u.stream st
  let v := (u.switchGeometry f.wide).setStream st (x.setSlot f.slot { x.slot f.slot with st := .sending })
  let w := v.mapFrame f (fun g => { g with phase := .sending, ordinal := some u.adm.nextOrdinal, startedAt := start })
  { w with adm := { w.adm with nextOrdinal := u.adm.nextOrdinal + 1, lastStart := some start, lastSlots := 1 } }

theorem State.startFrame_spec (u : State) (st start : Nat) (f : Frame) :
    (u.startFrame st start f).regs = u.regs ∧ (u.startFrame st start f).clock = u.clock ∧
    (u.startFrame st start f).adm.nextOrdinal = u.adm.nextOrdinal + 1 ∧ (u.startFrame st start f).adm.lastStart = some start ∧
    (u.startFrame st start f).adm.lastSlots = 1 ∧ (((u.startFrame st start f).stream st).slot f.slot).st = .sending ∧
    (u.startFrame st start f).adm.frames = u.adm.frames.map (fun g => if g.stream = f.stream ∧ g.seq = f.seq then
      { g with phase := .sending, ordinal := some u.adm.nextOrdinal, startedAt := start } else g) := by
  obtain ⟨fb, lv, hg⟩ := u.switchGeometry_frame f.wide
  unfold State.startFrame
  extract_lets x _ v w
  have hstream : v.stream st = x.setSlot f.slot { x.slot f.slot with st := .sending } := by
    rw [State.stream_setStream, if_pos rfl]
  have hv : v = ({ u with fab := fb, adm := { u.adm with lastVariant := lv } } : State).setStream st
      (x.setSlot f.slot { x.slot f.slot with st := .sending }) := by rw [← hg]
  refine ⟨?_, ?_, rfl, rfl, rfl, ?_, ?_⟩
  · exact congrArg (·.regs) hv
  · exact congrArg (·.clock) hv
  · have hsl : (v.stream st).slot f.slot = { x.slot f.slot with st := .sending } := by rw [hstream, StreamAdm.slot_setSlot]
    exact congrArg (·.st) hsl
  · have hframes : v.adm.frames = u.adm.frames := congrArg (·.adm.frames) hv
    exact congrArg (List.map _) hframes

/-- The chosen frame's data cannot be read: it ends DROPPED_FAULT (R455). -/
def State.failFrame (u : State) (st : Nat) (f : Frame) : State :=
  (u.contained 1 st).endOutside (fun g => g.stream == st && g.seq == f.seq) .fault

/-- The slot of a stream has been chosen. -/
def State.slotTaken (s : State) (st : Nat) : State := (s.until (cycleStep s.slotCycle)).setReg Reg.admRrPtr (BitVec.ofNat 32 st)

theorem exec_slotStart_idle {s : State} (h : (s.admRuns && s.stage0Taken) = false ∨ s.waitingFrames = []) (ue : Bool) :
    exec (.slotStart ue) s = .next s := by
  rw [exec_slotStart, execSlotStart]
  rcases h with h | h
  · rw [if_neg (by simp [h])]
  · simp only [State.nextReady_of_none h, ite_self]

theorem exec_slotStart_chosen {s : State} {st : Nat} {f : Frame} (hr : (s.admRuns && s.stage0Taken) = true)
    (hn : s.nextReady s.slotCycle = some st) (hf : s.waitingFrames.find? (fun g => g.stream == st) = some f) (ue : Bool) :
    exec (.slotStart ue) s = .next (if ue then (s.slotTaken st).failFrame st f else (s.slotTaken st).startFrame st s.slotCycle f) := by
  rw [exec_slotStart, execSlotStart, if_pos hr]
  dsimp only
  rw [hn]
  dsimp only
  rw [hf]
  rfl

theorem State.slotTaken_spec (s : State) {st : Nat} (hst : st < 1024) :
    (s.slotTaken st).adm = s.adm ∧ fld ((s.slotTaken st).reg Reg.admRrPtr) 9 0 = st ∧
    (∀ a, a ≠ Reg.admRrPtr → (s.slotTaken st).reg a = s.reg a) ∧ s.slotCycle ≤ (s.slotTaken st).engineCycle := by
  have huntil : ∀ a, (s.until (cycleStep s.slotCycle)).reg a = s.reg a := fun a => by
    rw [State.reg, State.until_regs, ← State.reg]
  unfold State.slotTaken
  refine ⟨?_, ?_, fun a ha => ?_, ?_⟩
  · rw [State.setReg_adm, State.until_adm]
  · rw [State.reg_setReg_self, fld, BitVec.toNat_ofNat]
    omega
  · rw [State.reg_setReg_ne _ _ ha, huntil]
  · rw [State.engineCycle, State.setReg_clock, State.until_now, cycleStep]
    omega

theorem State.failFrame_spec {u : State} {st : Nat} {f : Frame} (hf : f ∈ u.adm.frames) (hst : f.stream = st) (hw : f.phase = .waiting) :
    (∀ a, a ≠ Reg.telLogCnt → (u.failFrame st f).reg a = if a = Reg.fltContainedCnt then u.reg a + 1#32 else u.reg a) ∧
    (u.failFrame st f).adm.nextOrdinal = u.adm.nextOrdinal ∧ ((u.failFrame st f).stream st).slot f.slot = Slot.empty ∧
    (u.failFrame st f).adm.frames = u.adm.frames.map (fun g => if g.stream = st ∧ g.seq = f.seq ∧ g.phase = .waiting then
      g.dropWith .fault else g) := by
  subst hst
  obtain ⟨hadm, -, -, hregs⟩ := (u.contained 1 f.stream).endOutside_spec (fun g => g.stream == f.stream && g.seq == f.seq) .fault
  obtain ⟨m, hm⟩ := (u.contained 1 f.stream).waitingEnded_frame (p := fun g => g.stream == f.stream && g.seq == f.seq) .fault
  unfold State.failFrame
  refine ⟨fun a ha => ?_, ?_, State.endOutside_slot _ (by rwa [State.contained_adm]) (by simp) hw, ?_⟩
  · rw [State.reg, hregs (by decide), ← State.reg, State.reg_contained _ _ _ ha]
  · rw [hadm, hm]
    rfl
  · rw [State.endOutside_frames, State.contained_adm]
    refine List.map_congr_left fun g _ => ?_
    simp [and_assoc]

theorem slotStartRoundRobin : Claims.SlotStartRoundRobin := by
  intro s j f hj p st start
  refine ⟨fun h ue => exec_slotStart_idle h ue, fun hr hbefore hat hf => ?_⟩
  have hst : st < 1024 := Nat.mod_lt _ (by decide)
  have hnext : s.nextReady s.slotCycle = some st := by
    refine State.nextReady_eq hj (fun i hi => ?_) (State.streamReady_iff.mpr hat)
    rw [Bool.eq_false_iff, ne_eq, State.streamReady_iff]
    rintro ⟨g, hg, hgs, hlt⟩
    exact absurd (hbefore i hi g hg hgs) (Nat.not_le.mpr hlt)
  obtain ⟨hcycle, hdue⟩ := s.slotCycle_ge
  have hexec := exec_slotStart_chosen hr hnext hf
  obtain ⟨hadm, hptr, hregs, hnow⟩ := s.slotTaken_spec hst
  have hfst : f.stream = st := by simpa using List.find?_some hf
  obtain ⟨hmem, hwait⟩ : f ∈ s.adm.frames ∧ f.phase = .waiting := by
    simpa [State.waitingFrames] using List.mem_of_find?_eq_some hf
  refine ⟨hcycle, fun a ha => (State.slotDue_ge ha).trans hdue,
    ⟨(s.slotTaken st).startFrame st s.slotCycle f, hexec false, ?_⟩, ⟨(s.slotTaken st).failFrame st f, hexec true, ?_⟩⟩
  · obtain ⟨uregs, uclock, uord, ustart, uslots, usend, uframes⟩ := (s.slotTaken st).startFrame_spec st s.slotCycle f
    rw [hadm] at uord uframes
    refine ⟨?_, uord, ustart, uslots, ?_, usend, uframes⟩
    · rw [State.reg, uregs, ← State.reg, hptr]
    · rw [State.engineCycle, uclock]
      exact hnow
  · obtain ⟨uregs, uord, uslot, uframes⟩ := State.failFrame_spec (u := s.slotTaken st) (hadm ▸ hmem) hfst hwait
    rw [hadm] at uord uframes
    refine ⟨?_, uord, ?_, uslot, uframes⟩
    · rw [uregs _ (by decide), if_neg (by decide), hptr]
    · rw [uregs _ (by decide), if_pos rfl, hregs _ (by decide)]

/-! ## Row groups (R36, R50 to R52, R58, R98, R415, R455) -/

/-- The next row group of a frame opens a slot: a wide frame takes eight. -/
def State.opensSlot (s : State) (f : Frame) : Bool := f.wide && decide (s.adm.lastSlots ≤ wideSlot (s.geomGroups f.wide) f.nextGroup)

/-- The state in which a row group is sent: at the start of its slot. -/
def State.atGroup (s : State) (f : Frame) : State :=
  let start := if s.opensSlot f then max s.slotDue s.engineCycle else f.startedAt
  let u := s.until (cycleStep start)
  if s.opensSlot f then
    { u with adm := { u.adm with lastStart := some start, lastSlots := wideSlot (s.geomGroups f.wide) f.nextGroup + 1 } }
  else u

/-- The words of the next row group, as admission tags them. -/
def State.groupOf (s : State) (f : Frame) (c : Memory) (n : Nat) : List QWord :=
  (groupWords ((s.stream f.stream).slot f.slot) (imgW c f.wide) (imgH c f.wide) (imgFmt c f.wide) f.nextGroup n).map
    (fun p => QWord.mk (BitVec.ofNat 2 s.admissionSlot) (BitVec.ofNat 3 p.2) p.1 noSrc)

/-- What the frame keeps of a row group sent. -/
def Frame.groupSent (f : Frame) (n : Nat) (now : BitVec 64) (g : Frame) : Frame :=
  { g with
    nextGroup := f.nextGroup + 1, tEntry := if f.nextGroup = 0 then now else g.tEntry
    phase := if f.nextGroup + 1 = n then .fabric else .sending }

/-- A row group goes to stage 0, and the pages it was the last to use are free. -/
def State.sendGroup (s : State) (f : Frame) (c : Memory) (n : Nat) : State :=
  let x := s.stream f.stream
  let u := (if f.nextGroup = 0 then s.noteFirstRow (f.ordinal.getD 0) else s).sendStage0 (s.groupOf f c n)
  let v := u.mapFrame f (f.groupSent n s.devTime)
  if f.nextGroup + 1 = n then v.freeSlot f.stream f.slot
  else v.setStream f.stream (x.setSlot f.slot { x.slot f.slot with
    pages := (x.slot f.slot).pages.filter (fun p => f.nextGroup < pageGroup (imgW c f.wide) (imgH c f.wide) (imgFmt c f.wide) p) })

/-- The word that ends a frame whose data cannot be read. -/
def State.groupAbort (s : State) : QWord := abortWord 0 (BitVec.ofNat 2 s.admissionSlot).toNat 2 noSrc

/-- An uncorrectable word ends the frame with an abort on every stage-0 path. -/
def State.abortGroup (s : State) (f : Frame) : State :=
  (((s.contained 1 f.stream).sendStage0 [s.groupAbort]).freeSlot f.stream f.slot).mapFrame f (fun g => { g with phase := .fabric })

section
variable {s : State} {f : Frame}

/-- Admission may send row groups (R98, R106, R415). -/
def State.groupsRun (s : State) : Bool :=
  s.engineUp && !s.fab.stopped && s.rbit Reg.fabCtl 0 && !s.faulted && !s.remapping && s.clk.capture == 0#8

theorem exec_rowGroupSend_eq (hf : s.adm.frames.find? (fun g => g.phase == .sending) = some f) (ecc : Ecc) :
    exec (.rowGroupSend ecc) s = .next (if !(s.atGroup f).groupsRun then s
      else if s.opensSlot f && !s.rowsTaken then s
      else if ecc = .uncorrectable then (s.atGroup f).abortGroup f
      else (s.atGroup f).sendGroup f s.img.copy (s.geomGroups f.wide)) := by
  rw [exec_rowGroupSend, execRowGroupSend]
  dsimp only
  rw [hf]
  rfl

theorem State.atGroup_spec (s : State) (f : Frame) :
    (∃ ck sm pl ls lt, s.atGroup f = { s with
      clock := ck, stm := sm, plc := { s.plc with watch := pl }, adm := { s.adm with lastStart := ls, lastSlots := lt } }) ∧
    (s.opensSlot f = true → s.slotDue ≤ (s.atGroup f).engineCycle ∧ (s.atGroup f).adm.lastStart = some (max s.slotDue s.engineCycle) ∧
      (s.atGroup f).adm.lastSlots = wideSlot (s.geomGroups f.wide) f.nextGroup + 1) ∧
    (s.opensSlot f = false → f.startedAt ≤ (s.atGroup f).engineCycle ∧ (s.atGroup f).adm.lastStart = s.adm.lastStart) := by
  have huntil : ∀ t, ∃ ck sm pl, s.until t = { s with clock := ck, stm := sm, plc := { s.plc with watch := pl } } := fun t => by
    unfold State.until
    split_ifs
    · exact ⟨s.clock, s.stm, s.plc.watch, rfl⟩
    · exact ⟨_, _, _, rfl⟩
  have hcycle : ∀ c, c ≤ (s.until (cycleStep c)).engineCycle := fun c => by
    rw [State.engineCycle, State.until_now, cycleStep]
    omega
  unfold State.atGroup
  extract_lets start u
  obtain ⟨ck, sm, pl, hu⟩ : ∃ ck sm pl, u = { s with clock := ck, stm := sm, plc := { s.plc with watch := pl } } := huntil _
  have hnow : start ≤ u.engineCycle := hcycle start
  clear_value u
  subst hu
  cases ho : s.opensSlot f
  · have hstart : start = f.startedAt := by simp [start, ho]
    rw [if_neg (by decide)]
    refine ⟨⟨ck, sm, pl, s.adm.lastStart, s.adm.lastSlots, rfl⟩, fun h => absurd h (by decide), fun _ => ⟨hstart ▸ hnow, rfl⟩⟩
  · have hstart : start = max s.slotDue s.engineCycle := by simp [start, ho]
    rw [if_pos rfl]
    refine ⟨⟨ck, sm, pl, some start, wideSlot (s.geomGroups f.wide) f.nextGroup + 1, rfl⟩, fun _ => ⟨?_, by rw [hstart], rfl⟩, fun h => absurd h (by decide)⟩
    exact (le_max_left _ _).trans (hstart ▸ hnow)

end

/-- The words that admission puts on every path to stage 0. -/
def State.onEveryPath (s : State) (ws : List QWord) : List LinkWord :=
  ((Config.inputWires s.plc.pitchDigest).map (fun p => ws.map (LinkWord.mk (wireKey p.1.toNat 0 p.2.toNat)))).flatten

theorem State.sendStage0_eq (s : State) (ws : List QWord) : s.sendStage0 ws = (s.onEveryPath ws).foldl State.offer s := rfl

theorem State.noteFirstRow_frame (s : State) (o : Nat) : ∃ tl, s.noteFirstRow o = { s with tel := tl } := by
  unfold State.noteFirstRow
  split_ifs
  · exact ⟨_, rfl⟩
  · exact ⟨s.tel, rfl⟩

theorem State.sendGroup_spec (s : State) (f : Frame) (c : Memory) (n : Nat) :
    (s.sendGroup f c n).fab = ((s.onEveryPath (s.groupOf f c n)).foldl State.offer s).fab ∧
    (s.sendGroup f c n).regs = s.regs ∧ (s.sendGroup f c n).clock = s.clock ∧
    (s.sendGroup f c n).adm.lastStart = s.adm.lastStart ∧ (s.sendGroup f c n).adm.lastSlots = s.adm.lastSlots ∧
    (s.sendGroup f c n).adm.frames = s.adm.frames.map (fun g => if g.stream = f.stream ∧ g.seq = f.seq then
      f.groupSent n s.devTime g else g) ∧
    (f.nextGroup + 1 = n → ((s.sendGroup f c n).stream f.stream).slot f.slot = Slot.empty) ∧
    (f.nextGroup + 1 ≠ n → (((s.sendGroup f c n).stream f.stream).slot f.slot).data = ((s.stream f.stream).slot f.slot).data) := by
  obtain ⟨tl, hnote⟩ : ∃ tl, (if f.nextGroup = 0 then s.noteFirstRow (f.ordinal.getD 0) else s) = { s with tel := tl } := by
    split_ifs
    · exact s.noteFirstRow_frame _
    · exact ⟨s.tel, rfl⟩
  unfold State.sendGroup
  rw [hnote]
  obtain ⟨fb, hsend⟩ := OnlyFab.sendStage0 { s with tel := tl } (s.groupOf f c n)
  have hfb : fb = ((s.onEveryPath (s.groupOf f c n)).foldl State.offer s).fab := by
    rw [← foldl_offer_fab_congr _ (s := s) (v := { s with tel := tl }) rfl]
    exact (congrArg (·.fab) hsend).symm
  rw [hsend]
  dsimp only
  split_ifs with hlast
  · refine ⟨hfb, rfl, rfl, rfl, rfl, rfl, fun _ => ?_, fun h => absurd hlast h⟩
    rw [State.stream_freeSlot, if_pos rfl, StreamAdm.slot_setSlot]
  · refine ⟨hfb, rfl, rfl, rfl, rfl, rfl, fun h => absurd h hlast, fun _ => ?_⟩
    rw [State.stream_setStream, if_pos rfl, StreamAdm.slot_setSlot]

theorem State.abortGroup_spec (s : State) (f : Frame) :
    (s.abortGroup f).fab = ((s.onEveryPath [s.groupAbort]).foldl State.offer s).fab ∧
    ((s.abortGroup f).stream f.stream).slot f.slot = Slot.empty ∧
    (s.abortGroup f).adm.frames = s.adm.frames.map (fun g => if g.stream = f.stream ∧ g.seq = f.seq then
      { g with phase := .fabric } else g) := by
  obtain ⟨fb, hsend⟩ := OnlyFab.sendStage0 (s.contained 1 f.stream) [s.groupAbort]
  have hfb : fb = ((s.onEveryPath [s.groupAbort]).foldl State.offer s).fab := by
    rw [← foldl_offer_fab_congr _ (State.contained_fab s 1 f.stream)]
    exact (congrArg (·.fab) hsend).symm
  unfold State.abortGroup
  rw [hsend]
  refine ⟨hfb, ?_, rfl⟩
  have hslot := State.stream_freeSlot { s.contained 1 f.stream with fab := fb } f.stream f.stream f.slot
  rw [if_pos rfl] at hslot
  exact (congrArg (StreamAdm.slot · f.slot) hslot).trans (StreamAdm.slot_setSlot ..)

/-- The opening of a slot leaves what the words of its row group are made of. -/
theorem State.atGroup_words (s : State) (f : Frame) (c : Memory) (n : Nat) (ws : List QWord) :
    (s.atGroup f).fab = s.fab ∧ (s.atGroup f).regs = s.regs ∧ (s.atGroup f).adm.frames = s.adm.frames ∧
    (s.atGroup f).stream f.stream = s.stream f.stream ∧ (s.atGroup f).groupsRun = s.groupsRun ∧
    (s.atGroup f).groupOf f c n = s.groupOf f c n ∧ (s.atGroup f).groupAbort = s.groupAbort ∧
    (s.atGroup f).onEveryPath ws = s.onEveryPath ws := by
  obtain ⟨⟨ck, sm, pl, ls, lt, h⟩, -⟩ := s.atGroup_spec f
  rw [h]
  exact ⟨rfl, rfl, rfl, rfl, rfl, rfl, rfl, rfl⟩

/-- Words offered to wires with room go out at once. -/
def Offered (s u : State) (l : List LinkWord) : Prop :=
  u.fab = (l.foldl State.offer s).fab ∧
  (s.fab.unsent = [] → (∀ k ∈ l, (s.atWire k.wire).length + l.length ≤ 16) → u.fab = { s.fab with links := s.fab.links ++ l })

theorem Offered.of_fab {s u v : State} {l : List LinkWord} (hv : v.fab = s.fab) (hu : u.fab = (l.foldl State.offer v).fab) :
    Offered s u l := by
  have h := hu.trans (foldl_offer_fab_congr l hv)
  exact ⟨h, fun hun hroom => by rw [h, foldl_offer_of_room l hun hroom]⟩

theorem rowGroupsGoInOrder : Claims.RowGroupsGoInOrder := by
  intro s f hfind he hstop hfab hflt hrem hcap c n y opens tag ws wires sent offered
  have hopens : opens ↔ s.opensSlot f = true := by simp [opens, State.opensSlot, n, y]
  obtain ⟨-, hopen, hnot⟩ := s.atGroup_spec f
  obtain ⟨gfab, gregs, gframes, gstream, grun, gws, gabort, -⟩ := s.atGroup_words f c n []
  have gpath := fun l => (s.atGroup_words f c n l).2.2.2.2.2.2.2
  have hrun : (s.atGroup f).groupsRun = true := by
    rw [grun]
    simp [State.groupsRun, he, hstop, hfab, hflt, hrem, hcap]
  have hexec := exec_rowGroupSend_eq hfind
  refine ⟨fun ho hr ecc => ?_, fun hr => ?_⟩
  · rw [hexec, if_neg (by simp [hrun]), if_pos (by simp [hopens.mp ho, hr])]
  have hready : ¬ (s.opensSlot f && !s.rowsTaken) = true := by
    intro h
    obtain ⟨ho, ht⟩ := Bool.and_eq_true_iff.mp h
    simp [hr (hopens.mpr ho)] at ht
  refine ⟨fun ecc hecc => ⟨(s.atGroup f).sendGroup f c n, ?_, ?_⟩, (s.atGroup f).abortGroup f, ?_, ?_⟩
  · rw [hexec, if_neg (by simp [hrun]), if_neg hready, if_neg hecc]
  · obtain ⟨ufab, uregs, uclock, ustart, uslots, uframes, ulast, umore⟩ := (s.atGroup f).sendGroup_spec f c n
    rw [gws, gpath] at ufab
    have hcycle : ((s.atGroup f).sendGroup f c n).engineCycle = (s.atGroup f).engineCycle := by
      rw [State.engineCycle, uclock, ← State.engineCycle]
    have htime : ((s.atGroup f).sendGroup f c n).devTime = (s.atGroup f).devTime := by
      rw [State.devTime, uclock, ← State.devTime]
    refine ⟨Offered.of_fab gfab ufab, uregs.trans gregs, ?_, fun ho => ?_, fun ho => ?_, ulast, fun h => ?_⟩
    · rw [uframes, gframes, htime]
      rfl
    · rw [hcycle, ustart, uslots]
      exact hopen (hopens.mp ho)
    · rw [hcycle, ustart]
      exact hnot (Bool.eq_false_iff.mpr fun h => ho (hopens.mpr h))
    · rw [umore h, gstream]
  · rw [hexec, if_neg (by simp [hrun]), if_neg hready, if_pos rfl]
  · obtain ⟨ufab, uslot, uframes⟩ := (s.atGroup f).abortGroup_spec f
    rw [gabort, gpath] at ufab
    exact ⟨Offered.of_fab gfab ufab, uslot, uframes.trans (by rw [gframes])⟩

/-- Settles O32, by its three claims: the round-robin, the row groups and the ends before stage 0. -/
theorem slotsAndRowGroups : Obligations.SlotsAndRowGroups := ⟨slotStartRoundRobin, rowGroupsGoInOrder, waitingFramesEnd⟩

end Sys2Proof.Machine
end

section
/-! SUPPORT. The record of a frame: the bytes of its first line, the ring and its index, and the drain of a device fault. -/

namespace Sys2Proof.Machine

/-! ## Little-endian numbers -/

theorem leNum_div_pow (n : Nat) : ∀ bs : List Byte, leNum bs / 256 ^ n = leNum (bs.drop n) := by
  induction n with
  | zero => simp
  | succ n ih =>
    intro bs
    cases bs with
    | nil => simp [leNum]
    | cons b bs =>
      have hb := b.isLt
      rw [List.drop_succ_cons, ← ih, pow_succ', ← Nat.div_div_eq_div_mul]
      congr 1
      simp only [leNum, List.foldr_cons]
      omega

theorem leNum_mod_pow (n : Nat) : ∀ bs : List Byte, leNum bs % 256 ^ n = leNum (bs.take n) := by
  induction n with
  | zero => simp [Nat.mod_one, leNum]
  | succ n ih =>
    intro bs
    cases bs with
    | nil => simp [leNum]
    | cons b bs =>
      have hb := b.isLt
      have hstep : leNum (b :: bs) = b.toNat + 256 * leNum bs := rfl
      rw [List.take_succ_cons, pow_succ', Nat.mod_mul, hstep, show leNum (b :: bs.take n) = b.toNat + 256 * leNum (bs.take n) from rfl, ← ih]
      congr 1
      · omega
      · congr 2
        omega

theorem leNum_leBytes (n : Nat) : ∀ v : Nat, leNum (leBytes n v) = v % 256 ^ n := by
  induction n with
  | zero => simp [leBytes, leNum, Nat.mod_one]
  | succ n ih =>
    intro v
    rw [pow_succ', Nat.mod_mul, ← ih]
    simp [leBytes, leNum]

/-- A field of a line that lies within its 64 bytes. -/
theorem leNum_field (bs : List Byte) {w off size : Nat} (hw : w = 8 * 64) (h : off + size ≤ 64) :
    (BitVec.ofNat w (leNum (bs.take 64))).toNat / 2 ^ (8 * off) % 2 ^ (8 * size) = leNum ((bs.drop off).take size) := by
  have hpow : ∀ n m : Nat, m = 8 * n → 2 ^ m = 256 ^ n := fun n m hm => by rw [hm, pow_mul]; norm_num
  rw [BitVec.toNat_ofNat, hpow 64 w hw, leNum_mod_pow, hpow off _ rfl, hpow size _ rfl, leNum_div_pow, leNum_mod_pow,
    List.take_take, Nat.min_self, List.drop_take, List.take_take, Nat.min_eq_left (by omega)]

/-! ## The bytes of a record (R284) -/

/-- The detections a record counts. -/
def Frame.recordDets (f : Frame) : Nat := if f.status = .ok then f.dets.length else 0

@[simp] theorem length_leBytes (n v : Nat) : (leBytes n v).length = n := by
  induction n generalizing v with
  | zero => rfl
  | succ n ih => rw [leBytes, List.length_cons, ih]

/-- A part of a byte string put together from parts. -/
theorem take_drop_flatten {parts : List (List Byte)} {i off size : Nat} {p : List Byte} (hp : parts[i]? = some p)
    (ho : ((parts.take i).map List.length).sum = off) (hs : p.length = size) : (parts.flatten.drop off).take size = p := by
  obtain ⟨hi, rfl⟩ := List.getElem?_eq_some_iff.mp hp
  have hsplit : parts.flatten = (parts.take i).flatten ++ (parts[i] ++ (parts.drop (i + 1)).flatten) := by
    rw [← List.flatten_cons, ← List.flatten_append, ← List.drop_eq_getElem_cons, List.take_append_drop]
  rw [hsplit, ← ho, ← List.length_flatten, List.drop_left, ← hs, List.take_left]

/-- The fields of a record's first 64 bytes in their order, then its detection entries. -/
def State.recordParts (s : State) (f : Frame) : List (List Byte) :=
  [leBytes 4 f.seq.toNat, leBytes 2 f.stream, leBytes 2 f.recordDets, leBytes 8 f.tag.toNat, leBytes 1 f.status.code,
    leBytes 1 (s.rflags f), leBytes 2 0, leBytes 4 (s.reg Reg.fltEpoch).toNat, leBytes 8 f.tDoorbell.toNat, leBytes 8 f.tEntry.toNat,
    leBytes 8 s.devTime.toNat, leBytes 4 (if f.status == .ok then f.candidates.toNat else 0),
    leBytes 2 (if f.status == .ok then f.tracks.toNat else 0), leBytes 10 0,
    ((if f.status == .ok then f.dets else []).map Det.bytes).flatten]

theorem State.recordBytes_eq_flatten (s : State) (f : Frame) : s.recordBytes f = (s.recordParts f).flatten := by
  have hdets : (if f.status == .ok then f.dets else []).length = f.recordDets := by
    rw [Frame.recordDets]
    cases f.status <;> rfl
  simp only [State.recordBytes, State.recordParts, hdets, List.flatten_cons, List.flatten_nil, List.append_nil, List.append_assoc]

/-- The field at place `i` among the parts, with its first byte and its size, as its line holds it. -/
theorem State.recordField (s : State) (f : Frame) {i off size v : Nat} (hp : (s.recordParts f)[i]? = some (leBytes size v))
    (ho : (((s.recordParts f).take i).map List.length).sum = off) (hoff : off + size ≤ 64) (hv : v < 256 ^ size) :
    (BitVec.ofNat 512 (leNum ((s.recordBytes f).take 64))).toNat / 2 ^ (8 * off) % 2 ^ (8 * size) = v := by
  rw [leNum_field _ rfl hoff, State.recordBytes_eq_flatten, take_drop_flatten hp ho (length_leBytes ..), leNum_leBytes, Nat.mod_eq_of_lt hv]

/-! ## Tables that many keys of which change -/

/-- A table changed at every key, read at a key that holds a value before and after. -/
theorem tget_tmap_of_ne {α : Type} [DecidableEq α] {d : α} {f : Nat → α → α} {t : Tbl α} {j : Nat} (h : tget d t j ≠ d)
    (hf : f j (tget d t j) ≠ d) : tget d (tmap d f t) j = f j (tget d t j) := by
  induction t with
  | nil => exact absurd rfl h
  | cons p t ih =>
    obtain ⟨k, v⟩ := p
    rw [tmap_cons]
    simp only [tget] at h hf ⊢
    by_cases hlt : j < k
    · exact absurd (if_pos hlt) h
    · by_cases hj : j = k
      · subst hj
        simp only [lt_irrefl, if_false, if_true] at hf ⊢
        rw [if_neg hf]
        simp [tget]
      · simp only [if_neg hlt, if_neg hj] at h hf ⊢
        split_ifs
        · exact ih h hf
        · rw [tget, if_neg hlt, if_neg hj]
          exact ih h hf

/-- A run of keys written. -/
theorem tget_foldl_tset_run {α : Type} [DecidableEq α] (d : α) (f : Nat → α) (b n : Nat) (m : Tbl α) (j : Nat) :
    tget d ((upto n).foldl (fun m i => tset d m (b + i) (f i)) m) j = if b ≤ j ∧ j < b + n then f (j - b) else tget d m j := by
  induction n with
  | zero => rw [if_neg (by omega)]; rfl
  | succ n ih =>
    rw [upto, List.range_succ, List.foldl_append, List.foldl_cons, List.foldl_nil, tget_tset]
    split_ifs with h1 h2 h2
    · congr 1; omega
    · omega
    · rw [← upto, ih, if_pos (by omega)]
    · rw [← upto, ih, if_neg (by omega)]

/-! ## What a record leaves (R340 to R342) -/

/-- The line at which the record of a frame starts. -/
def State.recordStart (s : State) (f : Frame) : Nat :=
  if 1024 < s.writeLine f.stream + f.recordLines then 64 else s.writeLine f.stream

/-- The rings with the record of a frame in place. -/
def State.ringsWith (s : State) (f : Frame) : Egr :=
  let e := ((s.staleRun f.stream (s.recordStart f) f.recordLines).putLines f.stream (s.recordStart f) f.recordLines (s.recordBytes f)).egr
  { e with
    index := tset 0#64 e.index (512 * f.stream + f.seq.toNat % 512) (ixEntry f.seq (s.recordStart f) f.recordLines)
    damaged := e.damaged.filter (· != 512 * f.stream + f.seq.toNat % 512)
    wline := tset 64 e.wline f.stream (s.recordStart f + f.recordLines)
    lastSeq := tset 0#32 e.lastSeq f.stream f.seq
    records := tset 0#32 e.records f.stream (tget 0#32 e.records f.stream + 1#32) }

/-- The frames without the one that has its record. -/
def State.framesWithout (s : State) (f : Frame) : List Frame := s.adm.frames.filter (fun g => !(g.stream == f.stream && g.seq == f.seq))

/-- The counts of a record. -/
def State.countRecord (s : State) (f : Frame) (unleased : Bool) : State :=
  let c := s.count f.status.counter 1
  let d := if f.status = .ok then c.count Reg.ppuDetCnt f.dets.length else c
  if unleased then (d.count Reg.egrUnleasedCnt 1).setBits Reg.egrStat 2#32 else d

theorem State.writeRecord_eq (s : State) (f : Frame) : s.writeRecord f =
    State.countRecord { s with egr := s.ringsWith f, adm := { s.adm with frames := s.framesWithout f } } f (s.unleased f) := rfl

theorem State.countRecord_frame (s : State) (f : Frame) (b : Bool) : OnlyRegs s (s.countRecord f b) := by
  unfold State.countRecord
  split_ifs <;> exact ⟨_, rfl⟩

theorem State.reg_countRecord (s : State) (f : Frame) (b : Bool) :
    (s.countRecord f b).reg f.status.counter = s.reg f.status.counter + 1#32 := by
  have hne : f.status.counter ≠ Reg.ppuDetCnt ∧ f.status.counter ≠ Reg.egrUnleasedCnt ∧ f.status.counter ≠ Reg.egrStat := by
    cases f.status <;> decide
  obtain ⟨h1, h2, h3⟩ := hne
  unfold State.countRecord
  split_ifs <;> simp [State.reg_setBits, State.reg_count, h1, h2, h3]

/-- The record of a frame written changes registers, rings and the frames without a record alone. -/
theorem State.writeRecord_frame (s : State) (f : Frame) : ∃ r,
    s.writeRecord f = { s with regs := r, egr := s.ringsWith f, adm := { s.adm with frames := s.framesWithout f } } := by
  obtain ⟨r, hr⟩ := State.countRecord_frame { s with egr := s.ringsWith f, adm := { s.adm with frames := s.framesWithout f } } f (s.unleased f)
  exact ⟨r, (s.writeRecord_eq f).trans hr⟩

theorem ixEntry_fields (seq : Word) {start lines : Nat} (hs : start < 1024) (hl : lines < 1024) :
    ixSeq (ixEntry seq start lines) = seq ∧ ixStart (ixEntry seq start lines) = start ∧ ixLines (ixEntry seq start lines) = lines ∧
    ixStale (ixEntry seq start lines) = false := by
  have hq := seq.isLt
  have hn : (ixEntry seq start lines).toNat = seq.toNat + 2 ^ 32 * start + 2 ^ 42 * lines := by
    rw [ixEntry, BitVec.toNat_ofNat, Nat.mod_eq_of_lt (by omega)]
  refine ⟨?_, ?_, ?_, ?_⟩
  · rw [ixSeq, fld, hn]
    apply BitVec.eq_of_toNat_eq
    rw [BitVec.toNat_ofNat]
    omega
  · rw [ixStart, fld, hn]
    omega
  · rw [ixLines, fld, hn]
    omega
  · rw [ixStale, bit, BitVec.getLsbD, hn, Nat.testBit_eq_decide_div_mod_eq]
    simp only [decide_eq_false_iff_not]
    omega

section
variable {s : State} {f : Frame}

theorem State.recordStart_add_le (hd : f.dets.length ≤ 512) (hw : s.writeLine f.stream ≤ 1024) :
    s.recordStart f < 1024 ∧ f.recordLines < 1024 ∧ 0 < f.recordLines := by
  have hk : 0 < f.recordLines ∧ f.recordLines ≤ 257 := by
    unfold Frame.recordLines
    split_ifs <;> omega
  unfold State.recordStart
  split_ifs <;> omega

theorem State.ringsWith_lines (a : Nat) : tget 0#512 (s.ringsWith f).lines a =
    if 1024 * f.stream + s.recordStart f ≤ a ∧ a < 1024 * f.stream + s.recordStart f + f.recordLines
    then BitVec.ofNat 512 (leNum (((s.recordBytes f).drop (64 * (a - (1024 * f.stream + s.recordStart f)))).take 64))
    else tget 0#512 s.egr.lines a :=
  tget_foldl_tset_run 0#512 (fun i => BitVec.ofNat 512 (leNum (((s.recordBytes f).drop (64 * i)).take 64)))
    (1024 * f.stream + s.recordStart f) f.recordLines s.egr.lines a

theorem State.ringsWith_entry : tget 0#64 (s.ringsWith f).index (512 * f.stream + f.seq.toNat % 512) =
    ixEntry f.seq (s.recordStart f) f.recordLines := tget_tset_self ..

theorem ixStale_or (e : BitVec 64) : ixStale (e ||| BitVec.ofNat 64 (2 ^ 63)) = true := by
  rw [ixStale, bit, BitVec.getLsbD_or]
  simp

/-- A record whose lines a new one takes becomes STALE. -/
theorem State.ringsWith_stale {key : Nat} (hst : key / 512 = f.stream) (hkey : key ≠ 512 * f.stream + f.seq.toNat % 512)
    (hl : ixLines (tget 0#64 s.egr.index key) ≠ 0)
    (hlo : ixStart (tget 0#64 s.egr.index key) < s.recordStart f + f.recordLines)
    (hhi : s.recordStart f < ixStart (tget 0#64 s.egr.index key) + ixLines (tget 0#64 s.egr.index key)) :
    ixStale (tget 0#64 (s.ringsWith f).index key) = true := by
  have hne : ∀ e : BitVec 64, ixStale e = true → e ≠ 0#64 := by
    rintro _ h rfl
    exact absurd h (by decide)
  have hentry : tget 0#64 (s.ringsWith f).index key = tget 0#64 s.egr.index key ||| BitVec.ofNat 64 (2 ^ 63) := by
    have hne0 : tget 0#64 s.egr.index key ≠ 0#64 := fun h => hl (by rw [h]; rfl)
    simp only [State.ringsWith, State.putLines, State.staleRun]
    rw [tget_tset_ne _ _ _ hkey, tget_tmap_of_ne hne0 ?_]
    · exact if_pos ⟨hst, hl, hlo, hhi⟩
    · rw [if_pos ⟨hst, hl, hlo, hhi⟩]
      exact hne _ (ixStale_or _)
  rw [hentry, ixStale_or]

end

/-- RECORD_WRITE (R66, R340 to R342). -/
theorem recordIsWrittenOnce : Claims.RecordIsWrittenOnce := by
  intro s f hfind he hen hf hst hdets hw k w line field
  have hexec : exec (.recordWrite false) s = .next (s.writeRecord f) := by
    have hrun : (s.engineUp && s.rbit Reg.egrCtl 0 && !s.faulted) = true := by rw [he, hen, hf]; rfl
    change execRecordWrite false s = _
    rw [execRecordWrite, hfind]
    simp only [hrun, onlyIf_true, Bool.false_eq_true, if_false]
  obtain ⟨r, hu⟩ := s.writeRecord_frame f
  obtain ⟨hw1, hk1, hk0⟩ := State.recordStart_add_le (s := s) hdets hw
  have hreg : (s.writeRecord f).reg f.status.counter = s.reg f.status.counter + 1#32 := by
    rw [State.writeRecord_eq, State.reg_countRecord]
    rfl
  have hegr : (s.writeRecord f).egr = s.ringsWith f := by rw [hu]
  have hline : line (s.writeRecord f) 0 = (BitVec.ofNat 512 (leNum ((s.recordBytes f).take 64))).toNat := by
    change (tget 0#512 (s.writeRecord f).egr.lines (1024 * f.stream + s.recordStart f + 0)).toNat = _
    rw [hegr, Nat.add_zero, State.ringsWith_lines, if_pos (by omega), Nat.sub_self, Nat.mul_zero, List.drop_zero]
  have hfield : ∀ {off size v : Nat}, (BitVec.ofNat 512 (leNum ((s.recordBytes f).take 64))).toNat / 2 ^ (8 * off) % 2 ^ (8 * size) = v →
      field (s.writeRecord f) off size = v := by
    rintro off size v rfl
    change line (s.writeRecord f) 0 / 2 ^ (8 * off) % 2 ^ (8 * size) = _
    rw [hline]
  refine ⟨_, hexec, by rw [hu]; rfl, ?_, ?_, ?_, ?_, ?_, ?_, ?_, ?_, ?_, ?_, ?_, ?_, hreg, by rw [hu], by rw [hu]⟩
  · exact hfield (s.recordField f (i := 0) rfl rfl (by decide) f.seq.isLt)
  · exact hfield (s.recordField f (i := 1) rfl rfl (by decide) (by omega))
  · exact hfield (s.recordField f (i := 3) rfl rfl (by decide) f.tag.isLt)
  · exact hfield (s.recordField f (i := 4) rfl rfl (by decide) (by cases f.status <;> decide))
  · exact hfield (s.recordField f (i := 7) rfl rfl (by decide) (s.reg Reg.fltEpoch).isLt)
  · exact hfield (s.recordField f (i := 8) rfl rfl (by decide) f.tDoorbell.isLt)
  · exact hfield (s.recordField f (i := 9) rfl rfl (by decide) f.tEntry.isLt)
  · refine hfield (s.recordField f (i := 2) rfl rfl (by decide) ?_)
    split_ifs <;> omega
  · change ixSeq (tget 0#64 (s.writeRecord f).egr.index _) = _ ∧ _
    rw [hegr, State.ringsWith_entry]
    exact ixEntry_fields f.seq hw1 hk1
  · change tget 64 (s.writeRecord f).egr.wline f.stream = _
    rw [hegr]
    exact tget_tset_self ..
  · intro key hkst hkne e hl hlo hhi
    rw [hegr]
    exact State.ringsWith_stale hkst hkne hl hlo hhi
  · intro a ha
    rw [hegr, State.ringsWith_lines, if_neg]
    change ¬ (1024 * f.stream + w ≤ a ∧ a < 1024 * f.stream + w + k)
    omega

/-! ## The drain of a device fault (R456) -/

theorem State.recordDue_congr {s u : State} (h : u.adm = s.adm) : u.recordDue = s.recordDue := by
  funext f
  rw [State.recordDue, State.recordDue, h]

/-- The frame whose record is written leaves the list. -/
theorem State.length_framesWithout_lt {s : State} {f : Frame} (hf : f ∈ s.adm.frames) : (s.framesWithout f).length < s.adm.frames.length :=
  List.length_filter_lt_length_iff_exists.mpr ⟨f, hf, by simp⟩

/-- Records written while one is due: none is due any more, and only registers, rings and the list of frames have changed. -/
theorem State.writeAll_spec (n : Nat) : ∀ s : State, s.adm.frames.length ≤ n →
    (s.writeAll n).adm.frames.find? (s.writeAll n).recordDue = none ∧ (∀ f ∈ (s.writeAll n).adm.frames, f ∈ s.adm.frames) ∧
    ∃ r e m, s.writeAll n = { s with regs := r, egr := e, adm := { s.adm with frames := m } } := by
  induction n with
  | zero =>
    intro s hn
    have hnil : s.adm.frames = [] := List.length_eq_zero_iff.mp (Nat.le_zero.mp hn)
    refine ⟨?_, fun f hf => hf, ⟨s.regs, s.egr, s.adm.frames, rfl⟩⟩
    rw [State.writeAll, hnil, List.find?_nil]
  | succ n ih =>
    intro s hn
    cases hfind : s.adm.frames.find? s.recordDue with
    | none =>
      rw [State.writeAll, hfind]
      exact ⟨hfind, fun f hf => hf, ⟨s.regs, s.egr, s.adm.frames, rfl⟩⟩
    | some f =>
      obtain ⟨r, hw⟩ := s.writeRecord_frame f
      have hfr : (s.writeRecord f).adm.frames = s.framesWithout f := by rw [hw]
      have hlt := State.length_framesWithout_lt (List.mem_of_find?_eq_some hfind)
      obtain ⟨hnone, hsub, r', e, m, hu⟩ := ih (s.writeRecord f) (by rw [hfr]; omega)
      rw [State.writeAll, hfind]
      refine ⟨hnone, fun g hg => ?_, r', e, m, ?_⟩
      · have hg' := hsub g hg
        rw [hfr] at hg'
        exact (List.mem_filter.mp hg').1
      · dsimp only
        rw [hu, hw]

/-- What the drain writes records from: every frame has ended DROPPED_FAULT and no slot is in use. -/
def State.drained (s : State) : State :=
  (s.adm.frames.filter (fun f => f.phase == .waiting)).foldl (fun u f => u.freeSlot f.stream f.slot)
    ((s.freeSending (fun _ => true)).endFrames (fun _ => true) .fault)

theorem State.drained_frame (s : State) : ∃ m,
    s.drained = { s with adm := { s.adm with streams := m, frames := s.adm.frames.map (fun f => f.dropWith .fault) } } := by
  obtain ⟨m, hm⟩ := s.foldl_freeSlot_frame (s.adm.frames.filter (fun f => true && f.phase == .sending))
  obtain ⟨m', hm'⟩ := State.foldl_freeSlot_frame ((s.freeSending (fun _ => true)).endFrames (fun _ => true) .fault)
    (s.adm.frames.filter (fun f => f.phase == .waiting))
  refine ⟨m', hm'.trans ?_⟩
  rw [State.freeSending, hm]
  rfl

theorem exec_deviceFaultDrainEnd_draining {s : State} (he : s.engineUp = true) (hf : s.faulted = true) (hd : s.dev.draining = true) :
    exec .deviceFaultDrainEnd s = .next
      { s.drained.writeAll s.drained.adm.frames.length with
        ppu := { (s.drained.writeAll s.drained.adm.frames.length).ppu with cands := [], rows := [], cropOwed := [] }
        dev := { (s.drained.writeAll s.drained.adm.frames.length).dev with draining := false }
        clk := { (s.drained.writeAll s.drained.adm.frames.length).clk with stopped := true } } := by
  have hrun : (s.engineUp && s.faulted && s.dev.draining) = true := by rw [he, hf, hd]; rfl
  change execDeviceFaultDrainEnd s = _
  rw [execDeviceFaultDrainEnd]
  simp only [hrun, onlyIf_true]
  rfl

/-- DEVICE_FAULT_DRAIN_END (R456). -/
theorem deviceFaultDrainEnds : Claims.DeviceFaultDrainEnds := by
  intro s he hf hd
  refine ⟨_, exec_deviceFaultDrainEnd_draining he hf hd, ?_⟩
  obtain ⟨m, hm⟩ := s.drained_frame
  obtain ⟨hnone, hsub, r, e, m', hw⟩ := s.drained.writeAll_spec s.drained.adm.frames.length le_rfl
  refine ⟨?_, ?_, ?_, ?_, ?_, ?_⟩
  · exact hnone
  · intro f hfr
    have hin := hsub f hfr
    rw [hm] at hin
    obtain ⟨g, -, rfl⟩ := List.mem_map.mp hin
    exact ⟨rfl, rfl⟩
  all_goals
    dsimp only
    rw [hw, hm]

/-- Settles O33: the record of a frame lies in its ring with its fields in place, and the drain of a device fault leaves no record
due. -/
theorem recordsOfFrames : Obligations.RecordsOfFrames := ⟨recordIsWrittenOnce, deviceFaultDrainEnds⟩

end Sys2Proof.Machine
end

section
/-! SUPPORT. What a write command of a host port does: its bursts in order, and each burst by the range it lies in. -/

namespace Sys2Proof.Machine

/-! ## The bursts of a write -/

/-- Every range begins and ends on a boundary of two bursts, so an address lies in the range that its burst lies in. -/
theorem rangeOf_eq_of_block {a b : Nat} (h : b / 64 = a / 64) : rangeOf b = rangeOf a := by
  have hlt : ∀ c, (b < 64 * c) = (a < 64 * c) := fun c => propext (by omega)
  simp only [rangeOf, show 0x120000 = 64 * 0x4800 from rfl, show 0x1000000 = 64 * 0x40000 from rfl, show 0x1008000 = 64 * 0x40200 from rfl,
    show 0x1010000 = 64 * 0x40400 from rfl, show 0x4000000 = 64 * 0x100000 from rfl, show 0x8000000 = 64 * 0x200000 from rfl,
    show 0x10000000 = 64 * 0x400000 from rfl, show 0x20000000 = 64 * 0x800000 from rfl, show 0x40000000 = 64 * 0x1000000 from rfl,
    show 0xC0000000 = 64 * 0x3000000 from rfl, hlt]

theorem burstsOf_short {w : HostWrite} (h : w.bl32 = false) :
    burstsOf w = [(w.addr.toNat / 32 * 32, BitVec.ofNat 256 w.data.toNat, w.mask.toNat % 2 ^ 32)] := by
  simp [burstsOf, h]

theorem burstsOf_long {w : HostWrite} (h : w.bl32 = true) :
    burstsOf w = [(w.addr.toNat / 64 * 64, BitVec.ofNat 256 w.data.toNat, w.mask.toNat % 2 ^ 32),
      (w.addr.toNat / 64 * 64 + 32, BitVec.ofNat 256 (w.data.toNat / 2 ^ 256), w.mask.toNat / 2 ^ 32 % 2 ^ 32)] := by
  simp [burstsOf, h]

theorem State.cellBurst_next (s : State) (p : Bool) (a : Nat) (d : Burst) (m : Nat) : ∃ t, s.cellBurst p a d m = .next t := by
  unfold State.cellBurst
  split_ifs <;> exact ⟨_, rfl⟩

theorem State.ingressBurst_next (s : State) (p : Bool) (a : Nat) (d : Burst) (m : Nat) : ∃ t, s.ingressBurst p a d m = .next t := by
  unfold State.ingressBurst
  extract_lets
  split_ifs <;> exact ⟨_, rfl⟩

/-- A burst is never refused. -/
theorem State.writeBurst_next (s : State) (p : Bool) (b : Nat × Burst × Nat) : ∃ t, s.writeBurst p b = .next t := by
  unfold State.writeBurst
  split
  case h_3 => exact s.cellBurst_next ..
  case h_8 => exact s.ingressBurst_next ..
  all_goals exact ⟨_, rfl⟩

/-! ## A write command -/

section
variable {s : State} {w : HostWrite}

/-- The state in which the bursts of a write find the part. -/
def State.portReady (s : State) (w : HostWrite) : State := (s.portTime w.port).countWrites w.port (if w.bl32 then 2 else 1)

theorem State.portReady_eq (s : State) (w : HostWrite) :
    s.portReady w = (s.portTime w.port).countWrites w.port (burstsOf w).length := by
  rw [State.portReady]
  cases h : w.bl32
  · rw [burstsOf_short h]; rfl
  · rw [burstsOf_long h]; rfl

theorem State.hostWrite_closed (ho : s.portOpen w.port = false) : s.hostWrite w = .next s := by
  simp only [State.hostWrite, ho, Bool.not_false, if_true]

/-- With the engine clock stopped every burst is discarded (R456). -/
theorem State.hostWrite_stopped (ho : s.portOpen w.port = true) (he : s.engineUp = false) : s.hostWrite w = .next (s.portReady w) := by
  simp only [State.hostWrite, ho, he, Bool.not_true, Bool.not_false, Bool.false_eq_true, if_true, if_false, State.portReady_eq]

theorem State.hostWrite_short (hb : w.bl32 = false) (ho : s.portOpen w.port = true) (he : s.engineUp = true) :
    s.hostWrite w = (s.portReady w).writeBurst w.port (w.addr.toNat / 32 * 32, BitVec.ofNat 256 w.data.toNat, w.mask.toNat % 2 ^ 32) := by
  rw [State.portReady_eq, State.hostWrite, ho, he, burstsOf_short hb]
  rfl

theorem State.hostWrite_long (hb : w.bl32 = true) (ho : s.portOpen w.port = true) (he : s.engineUp = true) :
    ∃ u, (s.portReady w).writeBurst w.port (w.addr.toNat / 64 * 64, BitVec.ofNat 256 w.data.toNat, w.mask.toNat % 2 ^ 32) = .next u ∧
      s.hostWrite w = u.writeBurst w.port
        (w.addr.toNat / 64 * 64 + 32, BitVec.ofNat 256 (w.data.toNat / 2 ^ 256), w.mask.toNat / 2 ^ 32 % 2 ^ 32) := by
  obtain ⟨u, hu⟩ := (s.portReady w).writeBurst_next w.port
    (w.addr.toNat / 64 * 64, BitVec.ofNat 256 w.data.toNat, w.mask.toNat % 2 ^ 32)
  refine ⟨u, hu, ?_⟩
  rw [State.portReady_eq, burstsOf_long hb] at hu
  simp only [State.hostWrite, ho, he, burstsOf_long hb, Bool.not_true, Bool.false_eq_true, if_false, List.foldl_cons, List.foldl_nil, hu]

/-- A write command of the table's row for the range of its address is a write of its port. -/
theorem exec_portWrite {e : Instr × List Range} (he : e ∈ Claims.portWrites w) (hr : rangeOf w.addr.toNat ∈ e.2) :
    exec e.1 s = s.hostWrite w := by
  have hin : s.writeIn e.2 w = s.hostWrite w := if_pos (List.contains_iff_mem.mpr hr)
  rw [← hin]
  simp only [Claims.portWrites, List.mem_cons, List.not_mem_nil, or_false] at he
  rcases he with rfl | rfl | rfl | rfl | rfl | rfl <;> rfl

theorem State.portReady_beside (s : State) (w : HostWrite) : (s.portReady w).besidePorts = s.besidePorts := by
  rw [State.portReady, State.countWrites_besidePorts, State.portTime, State.until_besidePorts]

end

/-- Every write command of a port (R335, R456). -/
theorem longWritesAreTwoBursts : Claims.LongWritesAreTwoBursts := by
  intro s w e he hr p n v a
  rw [exec_portWrite he hr]
  refine ⟨fun ho => ?_, fun ho hs => ?_, fun ho hup hb => ?_⟩
  · exact State.hostWrite_closed ho
  · exact State.hostWrite_stopped ho hs
  · obtain ⟨u, hu, hw⟩ := State.hostWrite_long (s := s) hb ho hup
    obtain ⟨t, ht⟩ := u.writeBurst_next w.port
      (w.addr.toNat / 64 * 64 + 32, BitVec.ofNat 256 (w.data.toNat / 2 ^ 256), w.mask.toNat / 2 ^ 32 % 2 ^ 32)
    exact ⟨u, hu, hw, t, hw.trans ht⟩

/-! ## One burst by its range -/

/-- The bytes that a mask names are written, every other byte stays. -/
theorem Memory.read_putMasked (m : Memory) (a : Nat) (data : Burst) (mask n : Nat) : Memory.read (Memory.putMasked m a data mask) n =
    if a ≤ n ∧ n < a + 32 ∧ mask / 2 ^ (n - a) % 2 = 1 then byteOf data (n - a) else Memory.read m n := by
  have hrun : ∀ k, Memory.read ((upto k).foldl (fun m i => if mask / 2 ^ i % 2 = 1 then Memory.write m (a + i) (byteOf data i) else m) m) n =
      if a ≤ n ∧ n < a + k ∧ mask / 2 ^ (n - a) % 2 = 1 then byteOf data (n - a) else Memory.read m n := by
    intro k
    induction k with
    | zero => rw [if_neg (by omega)]; rfl
    | succ k ih =>
      rw [upto, List.range_succ, List.foldl_append, List.foldl_cons, List.foldl_nil]
      by_cases hn : n = a + k
      · subst hn
        rw [← upto]
        by_cases hbit : mask / 2 ^ k % 2 = 1
        · rw [if_pos hbit, Memory.read_write, if_pos rfl, Nat.add_sub_cancel_left, if_pos ⟨by omega, by omega, hbit⟩]
        · rw [if_neg hbit, ih, Nat.add_sub_cancel_left, if_neg (by tauto), if_neg (by tauto)]
      · have hlt : n < a + (k + 1) ↔ n < a + k := by omega
        simp only [hlt, ← ih]
        rw [← upto]
        split_ifs
        · rw [Memory.read_write, if_neg hn]
        · rfl
  exact hrun 32

theorem State.registerBurst_word (s : State) (a : Nat) (data : Burst) {i : Nat} (hi : i < 8) :
    s.registerBurst a data (15 * 2 ^ (4 * i)) =
      s.regWrite ((a + 4 * i) / 16 * 16) ((a + 4 * i) / 4 % 4) (BitVec.ofNat 32 (data.toNat / 2 ^ (32 * i))) := by
  have hmask : ∀ j < 8, ∀ i < 8, 15 * 2 ^ (4 * i) / 2 ^ (4 * j) % 16 = 15 ↔ j = i := by decide
  have hrun : ∀ k, k ≤ 8 → (upto k).foldl (fun u j => if 15 * 2 ^ (4 * i) / 2 ^ (4 * j) % 16 = 15 then
      u.regWrite ((a + 4 * j) / 16 * 16) ((a + 4 * j) / 4 % 4) (BitVec.ofNat 32 (data.toNat / 2 ^ (32 * j))) else u) s =
      if i < k then s.regWrite ((a + 4 * i) / 16 * 16) ((a + 4 * i) / 4 % 4) (BitVec.ofNat 32 (data.toNat / 2 ^ (32 * i))) else s := by
    intro k hk
    induction k with
    | zero => rfl
    | succ k ih =>
      rw [upto, List.range_succ, List.foldl_append, List.foldl_cons, List.foldl_nil, ← upto, ih (by omega)]
      by_cases hki : k = i
      · subst hki
        rw [if_pos ((hmask k (by omega) k hi).mpr rfl), if_neg (lt_irrefl k), if_pos (Nat.lt_succ_self k)]
      · rw [if_neg (mt (hmask k (by omega) i hi).mp hki)]
        exact if_congr (by omega) rfl rfl
  exact (hrun 8 le_rfl).trans (if_pos hi)

theorem State.registerBurst_none (s : State) (a : Nat) (data : Burst) {m : Nat} (hm : ∀ i, i < 8 → m / 2 ^ (4 * i) % 16 ≠ 15) :
    s.registerBurst a data m = s := by
  refine List.foldlRecOn (motive := fun u => u = s) (upto 8) _ rfl ?_
  intro u hu i hi
  rw [if_neg (hm i (List.mem_range.mp hi)), hu]

/-- The bursts of the image window that are taken (R37, R39). -/
theorem State.imageBurst_taken {s : State} (hst : s.img.st ∈ [ImageState.empty, .writing]) (hen : s.rbit Reg.stmCtl 0 = true)
    (a : Nat) (data : Burst) (m : Nat) : s.imageBurst a data m =
      { s with img := { s.img with st := .writing, copy := Memory.putMasked s.img.copy (a - 0x10000000) data m } } :=
  if_pos ⟨by simpa using hst, hen⟩

theorem State.imageBurst_discarded {s : State} (h : s.img.st ∉ [ImageState.empty, .writing] ∨ s.rbit Reg.stmCtl 0 = false)
    (a : Nat) (data : Burst) (m : Nat) : s.imageBurst a data m = s.count Reg.admImgwDiscCnt 1 := by
  refine if_neg ?_
  rintro ⟨hst, hen⟩
  rcases h with h | h
  · exact h (by simpa using hst)
  · exact Bool.false_ne_true (h.symm.trans hen)

theorem State.secondary_of_besidePorts {s v : State} (hv : v.besidePorts = s.besidePorts) : v.secondary = s.secondary := by
  simp only [State.secondary, rbit_of_besidePorts hv, reg_of_besidePorts hv]

theorem hbm_of_besidePorts {s v : State} (hv : v.besidePorts = s.besidePorts) : v.hbm = s.hbm := congrArg (·.hbm) hv
theorem flt_of_besidePorts {s v : State} (hv : v.besidePorts = s.besidePorts) : v.flt = s.flt := congrArg (·.flt) hv

section
variable {s v : State} (hv : v.besidePorts = s.besidePorts)
include hv

theorem besidePorts_with_img (i : Img) : { v with img := i }.besidePorts = { s.besidePorts with img := i } :=
  congrArg (fun x : State => { x with img := i }) hv

theorem besidePorts_with_regs (r : Tbl Word) : { v with regs := r }.besidePorts = { s.besidePorts with regs := r } :=
  congrArg (fun x : State => { x with regs := r }) hv

theorem besidePorts_with_journal (h : Hbm) (f : Flt) :
    { v with hbm := h, flt := f }.besidePorts = { s.besidePorts with hbm := h, flt := f } :=
  congrArg (fun x : State => { x with hbm := h, flt := f }) hv

end

/-- Writes of one burst by range (R37, R39, R330, R332, R469). -/
theorem oneBurstIsWritten : Claims.OneBurstIsWritten := by
  intro s w hb ho he a m r data v
  have hv : v.besidePorts = s.besidePorts := State.portReady_besidePorts s w.port
  have hrange : rangeOf a = r := rangeOf_eq_of_block (by omega)
  have hburst : ∀ {e}, e ∈ Claims.portWrites w → r ∈ e.2 → exec e.1 s = v.writeBurst w.port (a, data, m) := by
    intro e hmem hr
    rw [exec_portWrite hmem hr, State.hostWrite_short hb ho he, State.portReady, hb]
    rfl
  refine ⟨fun hr hst hen => ?_, fun hr hdisc => ?_, fun hr hsec => ?_, fun hr hsec => ?_, fun hr => ?_, fun hr => ?_, fun hr i hi hm => ?_,
    fun hr hm => ?_⟩
  · have hw : v.writeBurst w.port (a, data, m) = .next (v.imageBurst a data m) := by simp only [State.writeBurst, hrange, hr]
    rw [State.imageBurst_taken (by rwa [img_of_besidePorts hv]) ((rbit_of_besidePorts hv ..).trans hen), img_of_besidePorts hv] at hw
    refine ⟨_, (hburst (e := (.imageWindowWrite w, [.image])) (by simp [Claims.portWrites]) (by simp [hr])).trans hw, ?_, rfl,
      Memory.read_putMasked s.img.copy (a - 0x10000000) data m⟩
    exact besidePorts_with_img hv _
  · have hw : v.writeBurst w.port (a, data, m) = .next (v.imageBurst a data m) := by simp only [State.writeBurst, hrange, hr]
    rw [State.imageBurst_discarded (by rwa [img_of_besidePorts hv, rbit_of_besidePorts hv])] at hw
    refine ⟨_, (hburst (e := (.imageWindowWrite w, [.image])) (by simp [Claims.portWrites]) (by simp [hr])).trans hw, ?_, ?_, ?_⟩
    · exact besidePorts_with_regs hv _
    · rw [State.reg_count, if_pos rfl, reg_of_besidePorts hv]
    · intro b hb
      rw [State.reg_count, if_neg hb, reg_of_besidePorts hv]
  · have hw : v.writeBurst w.port (a, data, m) = .next (v.journalBurst a data m) := by simp only [State.writeBurst, hrange, hr]
    rw [State.journalBurst, if_pos ((State.secondary_of_besidePorts hv).trans hsec), hbm_of_besidePorts hv, flt_of_besidePorts hv] at hw
    refine ⟨_, (hburst (e := (.journalWindowWrite w, [.journal])) (by simp [Claims.portWrites]) (by simp [hr])).trans hw, ?_, rfl, rfl⟩
    exact besidePorts_with_journal hv _ _
  · rw [hburst (e := (.journalWindowWrite w, [.journal])) (by simp [Claims.portWrites]) (by simp [hr])]
    have hnot : ¬ v.secondary = true := by rw [State.secondary_of_besidePorts hv, hsec]; decide
    simp only [State.writeBurst, hrange, hr, State.journalBurst, if_neg hnot]
  · rw [hburst (e := (.discardedWrite w, [.restOfWindow, .cellView, .rings, .nothing])) (by simp [Claims.portWrites]) (by simp [hr])]
    simp only [State.writeBurst, hrange, hr]
  · have hmem : r ∈ [Range.restOfWindow, .cellView, .rings, .nothing] := List.mem_cons_of_mem _ hr
    rw [hburst (e := (.discardedWrite w, [.restOfWindow, .cellView, .rings, .nothing])) (by simp [Claims.portWrites]) hmem]
    simp only [List.mem_cons, List.not_mem_nil, or_false] at hr
    rcases hr with hr | hr | hr <;> simp only [State.writeBurst, hrange, hr]
  · rw [hburst (e := (.registerWrite w, [.registers])) (by simp [Claims.portWrites]) (by simp [hr])]
    simp only [State.writeBurst, hrange, hr, hm, State.registerBurst_word _ _ _ hi]
  · rw [hburst (e := (.registerWrite w, [.registers])) (by simp [Claims.portWrites]) (by simp [hr])]
    simp only [State.writeBurst, hrange, hr, State.registerBurst_none _ _ _ hm]

/-- Settles O44: each write command of a port is its bursts in order, and each burst acts by the range it lies in. -/
theorem hostWritesByRange : Obligations.HostWritesByRange := ⟨oneBurstIsWritten, longWritesAreTwoBursts⟩

end Sys2Proof.Machine
end

section
/-! SUPPORT. What a read burst of a host port shows in each range, and what a read command leaves. -/

namespace Sys2Proof.Machine

/-! ## What a read leaves of the ports -/

theorem State.port_setPort_other (s : State) (p : Bool) (x : Port) : (s.setPort p x).port (!p) = s.port (!p) := by
  cases p <;> rfl

theorem State.setPort_besidePorts (s : State) (p : Bool) (x : Port) : (s.setPort p x).besidePorts = s.besidePorts := by
  cases p <;> rfl

/-- Neither port differs. -/
def SamePorts (s u : State) : Prop := ∀ q, u.port q = s.port q

theorem SamePorts.of_fields {s u : State} (h0 : u.hp0 = s.hp0) (h1 : u.hp1 = s.hp1) : SamePorts s u := by
  intro q
  cases q
  · exact h0
  · exact h1

theorem SamePorts.trans {s u v : State} (h : SamePorts s u) (h' : SamePorts u v) : SamePorts s v := fun q => (h' q).trans (h q)

theorem SamePorts.refl (s : State) : SamePorts s s := fun _ => rfl

theorem SamePorts.portTime (s : State) (p : Bool) : SamePorts s (s.portTime p) := by
  unfold State.portTime State.until
  split_ifs
  · exact SamePorts.refl s
  · exact SamePorts.of_fields rfl rfl

theorem SamePorts.deviceFault (s : State) (c : Nat) : SamePorts s (s.deviceFault c) :=
  SamePorts.of_fields (s.deviceFault_hp0 c) (s.deviceFault_hp1 c)

theorem SamePorts.entryDamaged (s : State) (k : Nat) : SamePorts s (s.entryDamaged k) := by
  unfold State.entryDamaged
  split_ifs
  · exact SamePorts.deviceFault s 8
  · exact SamePorts.of_fields rfl rfl

theorem SamePorts.lineDamaged (s : State) (st line : Nat) : SamePorts s (s.lineDamaged st line) := by
  unfold State.lineDamaged
  exact SamePorts.of_fields (by rw [State.setBits_hp0, State.count_hp0]; rfl) (by rw [State.setBits_hp1, State.count_hp1]; rfl)

theorem SamePorts.regRead (s : State) (a k : Nat) : SamePorts s (s.regRead a k).2 := by
  unfold State.regRead State.indDataRead
  extract_lets
  split_ifs <;> exact SamePorts.of_fields rfl rfl

theorem SamePorts.readRegisters (s : State) (a : Nat) : SamePorts s (s.readRegisters a).2 := by
  refine List.foldlRecOn (motive := fun r : Nat × State => SamePorts s r.2) (upto 8) _ (SamePorts.refl s) ?_
  intro r hr i _
  exact hr.trans (SamePorts.regRead r.2 _ _)

theorem SamePorts.readRing (s : State) (a : Nat) (ue : Bool) : SamePorts s (s.readRing a ue).2 := by
  unfold State.readRing
  extract_lets o st line k
  split_ifs
  · exact SamePorts.entryDamaged s k
  · exact SamePorts.refl s
  · exact SamePorts.lineDamaged s st line
  · exact SamePorts.refl s

theorem SamePorts.readBurst (s : State) (p : Bool) (a : Nat) (ue : Bool) : SamePorts s (s.readBurst p a ue).2 := by
  unfold State.readBurst
  split
  case h_1 => exact SamePorts.readRegisters s a
  case h_4 => exact SamePorts.readRing s a ue
  all_goals exact SamePorts.refl s

/-! ## A read command -/

/-- The state a read command leaves: the port holds the data, and has counted the bursts. -/
def State.readOut (s : State) (p : Bool) (d n : Nat) : State :=
  s.setPort p { s.port p with out := BitVec.ofNat 512 d, rbursts := (s.port p).rbursts + BitVec.ofNat 64 n }

section
variable {s : State} {p : Bool} {addr : BitVec 32} {ue : Bool}

theorem exec_hostRead_closed (ho : s.portOpen p = false) (bl32 : Bool) : exec (.hostRead p addr bl32 ue) s = .next s := by
  change execHostRead p addr bl32 ue s = _
  rw [execHostRead, ho]
  rfl

theorem State.engineUp_portTime (s : State) (p : Bool) : (s.portTime p).engineUp = s.engineUp := by
  unfold State.portTime State.until
  split_ifs <;> rfl

theorem exec_hostRead_stopped (ho : s.portOpen p = true) (he : s.engineUp = false) (bl32 : Bool) :
    exec (.hostRead p addr bl32 ue) s = .next ((s.portTime p).readOut p 0 (if bl32 then 2 else 1)) := by
  have he' : ¬ (s.portTime p).engineUp = true := by rw [State.engineUp_portTime, he]; decide
  change execHostRead p addr bl32 ue s = _
  rw [execHostRead, ho]
  simp only [if_neg he', onlyIf_true]
  cases bl32 <;> rfl

theorem exec_hostRead_short (ho : s.portOpen p = true) (he : s.engineUp = true) :
    exec (.hostRead p addr false ue) s = .next (((s.portTime p).readBurst p (addr.toNat / 32 * 32) ue).2.readOut p
      (((s.portTime p).readBurst p (addr.toNat / 32 * 32) ue).1 % 2 ^ 256) 1) := by
  have he' : (s.portTime p).engineUp = true := by rw [State.engineUp_portTime, he]
  change execHostRead p addr false ue s = _
  rw [execHostRead, ho]
  simp only [if_pos he', onlyIf_true]
  rfl

theorem exec_hostRead_long (ho : s.portOpen p = true) (he : s.engineUp = true) :
    exec (.hostRead p addr true ue) s =
      (let r1 := (s.portTime p).readBurst p (addr.toNat / 64 * 64) ue
      let r2 := r1.2.readBurst p (addr.toNat / 64 * 64 + 32) ue
      .next (r2.2.readOut p (r1.1 % 2 ^ 256 + 2 ^ 256 * r2.1) 2)) := by
  have he' : (s.portTime p).engineUp = true := by rw [State.engineUp_portTime, he]
  change execHostRead p addr true ue s = _
  rw [execHostRead, ho]
  simp only [if_pos he', onlyIf_true]
  rfl

/-- What a read command leaves where the state before its port's own change has the ports of `s`. -/
theorem State.readOut_spec {u : State} (hu : SamePorts s u) (d n : Nat) :
    (u.readOut p d n).besidePorts = u.besidePorts ∧ ((u.readOut p d n).port p).rbursts = (s.port p).rbursts + BitVec.ofNat 64 n ∧
    (u.readOut p d n).port (!p) = s.port (!p) ∧ ((u.readOut p d n).port p).out = BitVec.ofNat 512 d := by
  refine ⟨u.setPort_besidePorts p _, ?_, (u.port_setPort_other p _).trans (hu !p), ?_⟩
  · rw [State.readOut, State.port_setPort, if_pos rfl, hu p]
  · rw [State.readOut, State.port_setPort, if_pos rfl]

end

/-- Two halves of a word: what lies above the second half has no place in it. -/
theorem ofNat_two_halves (k x y : Nat) :
    BitVec.ofNat (k + k) (x % 2 ^ k + 2 ^ k * y) = BitVec.ofNat (k + k) (x % 2 ^ k + 2 ^ k * (y % 2 ^ k)) := by
  apply BitVec.eq_of_toNat_eq
  have hy : x % 2 ^ k + 2 ^ k * y = x % 2 ^ k + 2 ^ k * (y % 2 ^ k) + 2 ^ k * 2 ^ k * (y / 2 ^ k) := by
    rw [add_assoc, mul_assoc, ← mul_add, Nat.mod_add_div]
  rw [BitVec.toNat_ofNat, BitVec.toNat_ofNat, pow_add, hy, Nat.add_mul_mod_self_left]

/-- A read command (R334, R338, R339, R456). -/
theorem readsComplete : Claims.ReadsComplete := by
  intro s p addr ue s0 a b r r1 r2 counted
  have h0 : SamePorts s s0 := SamePorts.portTime s p
  refine ⟨fun ho bl32 => exec_hostRead_closed ho bl32, fun ho he bl32 => ?_, fun ho he => ⟨?_, ?_⟩⟩
  · obtain ⟨hbeside, hcount, hother, hout⟩ := State.readOut_spec (p := p) h0 0 (if bl32 then 2 else 1)
    refine ⟨_, exec_hostRead_stopped ho he bl32, hbeside.trans (State.until_besidePorts s _), ⟨?_, hother⟩, hout⟩
    rw [hcount]
    cases bl32 <;> rfl
  · obtain ⟨hbeside, hcount, hother, hout⟩ := State.readOut_spec (p := p) (h0.trans (SamePorts.readBurst s0 p a ue)) (r.1 % 2 ^ 256) 1
    exact ⟨_, exec_hostRead_short ho he, hbeside, ⟨hcount, hother⟩, hout⟩
  · obtain ⟨hbeside, hcount, hother, hout⟩ := State.readOut_spec (p := p)
      ((h0.trans (SamePorts.readBurst s0 p b ue)).trans (SamePorts.readBurst r1.2 p (b + 32) ue)) (r1.1 % 2 ^ 256 + 2 ^ 256 * r2.1) 2
    exact ⟨_, exec_hostRead_long ho he, hbeside, ⟨hcount, hother⟩, hout.trans (ofNat_two_halves 256 _ _)⟩

/-! ## Numbers put together from digits -/

/-- A number summed digit by digit, least significant first, shows each of its digits. -/
theorem foldl_digits {w : Nat} {f : Nat → Nat} (hf : ∀ i, f i < 2 ^ w) (n : Nat) :
    (upto n).foldl (fun x i => x + f i * 2 ^ (w * i)) 0 < 2 ^ (w * n) ∧
    ∀ i, i < n → (upto n).foldl (fun x i => x + f i * 2 ^ (w * i)) 0 / 2 ^ (w * i) % 2 ^ w = f i := by
  induction n with
  | zero => exact ⟨by simp [upto], fun i hi => absurd hi (Nat.not_lt_zero i)⟩
  | succ n ih =>
    obtain ⟨hlt, hdig⟩ := ih
    rw [upto, List.range_succ, List.foldl_append, List.foldl_cons, List.foldl_nil, ← upto]
    generalize (upto n).foldl (fun x i => x + f i * 2 ^ (w * i)) 0 = x at hlt hdig ⊢
    refine ⟨?_, fun i hi => ?_⟩
    · calc x + f n * 2 ^ (w * n) < 2 ^ (w * n) + f n * 2 ^ (w * n) := Nat.add_lt_add_right hlt _
        _ = (f n + 1) * 2 ^ (w * n) := by ring
        _ ≤ 2 ^ w * 2 ^ (w * n) := Nat.mul_le_mul_right _ (hf n)
        _ = 2 ^ (w * (n + 1)) := by ring
    · rcases Nat.lt_succ_iff_lt_or_eq.mp hi with hlow | rfl
      · obtain ⟨d, rfl⟩ := Nat.exists_eq_add_of_lt hlow
        have hsplit : f (i + d + 1) * 2 ^ (w * (i + d + 1)) = 2 ^ (w * i) * (2 ^ w * (2 ^ (w * d) * f (i + d + 1))) := by ring
        rw [hsplit, Nat.add_mul_div_left _ _ (Nat.two_pow_pos _), Nat.add_mul_mod_self_left, hdig i hlow]
      · rw [Nat.add_mul_div_right _ _ (Nat.two_pow_pos _), Nat.div_eq_of_lt hlt, Nat.zero_add, Nat.mod_eq_of_lt (hf i)]

/-- Byte `i` of the number that a list of bytes spells. -/
theorem leNum_byte (bs : List Byte) (i : Nat) : leNum bs / 2 ^ (8 * i) % 2 ^ 8 = (bs.getD i 0#8).toNat := by
  rw [pow_mul, show 2 ^ 8 = 256 ^ 1 from rfl, pow_one, leNum_div_pow, ← pow_one 256, leNum_mod_pow, List.getD_eq_getElem?_getD,
    ← List.head?_drop]
  cases bs.drop i <;> simp [leNum]

/-! ## Registers (R331, R385, R397) -/

section
variable {s : State} {a k : Nat}

/-- A read of a register other than the value word of IND_DATA changes nothing. -/
theorem State.regRead_state (h : a % 0x10000 = 0xFF20 → k ≠ 0) : (s.regRead a k).2 = s := by
  unfold State.regRead
  extract_lets b
  split_ifs with _ hind hk
  · rfl
  · exact absurd hk (h hind)
  all_goals rfl

/-- A register of a block shows its value in each of its words. -/
theorem State.regRead_value (hb : a / 0x10000 < 18) (hi : a % 0x10000 ≠ 0xFF20) (hl : a ≠ Reg.fltLease) (hr : a ≠ Reg.devReset) :
    (s.regRead a k).1 = s.readReg a := by
  simp only [State.regRead, if_neg (Nat.not_le.mpr hb), if_neg hi, hl, hr, or_self, if_false]

theorem State.regRead_indData (hb : a / 0x10000 < 18) (hi : a % 0x10000 = 0xFF20) : s.regRead a 0 = s.indDataRead (a / 0x10000) := by
  simp only [State.regRead, if_neg (Nat.not_le.mpr hb), if_pos hi, if_true]

end

/-- Word `i` of a burst of the register window as a read returns it. -/
def State.burstWord (s : State) (a i : Nat) : Word × State := s.regRead ((a + 4 * i) / 16 * 16) ((a + 4 * i) / 4 % 4)

/-- Reads that change nothing: the burst spells the words in their order. -/
theorem State.readRegisters_of_still {s : State} {a : Nat} (h : ∀ i, i < 8 → (s.burstWord a i).2 = s) :
    s.readRegisters a = ((upto 8).foldl (fun n i => n + (s.burstWord a i).1.toNat * 2 ^ (32 * i)) 0, s) := by
  have hrun : ∀ k, k ≤ 8 → (upto k).foldl (fun (r : Nat × State) i =>
      (r.1 + (r.2.burstWord a i).1.toNat * 2 ^ (32 * i), (r.2.burstWord a i).2)) (0, s) =
      ((upto k).foldl (fun n i => n + (s.burstWord a i).1.toNat * 2 ^ (32 * i)) 0, s) := by
    intro k hk
    induction k with
    | zero => rfl
    | succ k ih =>
      rw [upto, List.range_succ, List.foldl_append, List.foldl_append, ← upto, ih (by omega)]
      simp only [List.foldl_cons, List.foldl_nil, h k (by omega)]
  exact hrun 8 le_rfl

/-- Words 1 to 7 of a burst change neither the state nor word 0, where only word 0 can. -/
theorem State.readRegisters_of_first {s u : State} {a : Nat} {w : Word} (h0 : s.burstWord a 0 = (w, u))
    (h : ∀ i, 0 < i → i < 8 → (u.burstWord a i).2 = u) : (s.readRegisters a).2 = u ∧ (s.readRegisters a).1 % 2 ^ 32 = w.toNat := by
  have hrun : ∀ k, k < 8 → ∃ n, (upto (k + 1)).foldl (fun (r : Nat × State) i =>
      (r.1 + (r.2.burstWord a i).1.toNat * 2 ^ (32 * i), (r.2.burstWord a i).2)) (0, s) = (n, u) ∧ n % 2 ^ 32 = w.toNat := by
    intro k hk
    induction k with
    | zero =>
      refine ⟨w.toNat, ?_, Nat.mod_eq_of_lt w.isLt⟩
      simp [upto, h0]
    | succ k ih =>
      obtain ⟨n, hn, hw⟩ := ih (by omega)
      refine ⟨n + (u.burstWord a (k + 1)).1.toNat * 2 ^ (32 * (k + 1)), ?_, ?_⟩
      · rw [upto, List.range_succ, List.foldl_append, ← upto, hn]
        simp only [List.foldl_cons, List.foldl_nil, h (k + 1) (by omega) hk]
      · rw [show 2 ^ (32 * (k + 1)) = 2 ^ (32 * k) * 2 ^ 32 by ring, ← mul_assoc, Nat.add_mul_mod_self_right, hw]
  obtain ⟨n, hn, hw⟩ := hrun 7 (by decide)
  have hr : s.readRegisters a = (n, u) := hn
  rw [hr]
  exact ⟨rfl, hw⟩

theorem rangeOf_eq_registers {a : Nat} (h : rangeOf a = .registers) : a < 0x120000 := by
  by_contra hn
  rw [rangeOf, if_neg hn] at h
  refine absurd h ?_
  clear h
  repeat' split
  all_goals decide

theorem rangeOf_eq_cellView {a : Nat} (h : rangeOf a = .cellView) : 0x1008000 ≤ a := by
  by_contra hn
  have hlt : a < 0x1008000 := Nat.lt_of_not_le hn
  rw [rangeOf, if_pos hlt] at h
  refine absurd h ?_
  clear h
  repeat' split
  all_goals decide

section
variable {s : State} {p : Bool} {a : Nat} {ue : Bool}

/-- The register of word `i`: the burst begins at one register and holds the next one too. -/
theorem burstWord_reg (ha : a % 32 = 0) (i : Nat) : (a + 4 * i) / 16 * 16 = a + 16 * (i / 4) := by omega

/-- The register window (R331, R385). -/
theorem State.readBurst_registers (hr : rangeOf a = .registers) (ha : a % 32 = 0) (hi : a % 0x10000 ≠ 0xFF20) :
    (s.readBurst p a ue).2 = s ∧ ∀ j, j < 8 → a + 16 * (j / 4) ≠ Reg.devReset → a + 16 * (j / 4) ≠ Reg.fltLease →
      (s.readBurst p a ue).1 / 2 ^ (32 * j) % 2 ^ 32 = (s.readReg (a + 16 * (j / 4))).toNat := by
  have hlt := rangeOf_eq_registers hr
  have hburst : s.readBurst p a ue = s.readRegisters a := by simp only [State.readBurst, hr]
  have hnot : ∀ j, j < 8 → (a + 16 * (j / 4)) % 0x10000 ≠ 0xFF20 := fun j hj => by omega
  have hstill : ∀ i, i < 8 → (s.burstWord a i).2 = s := by
    intro i hi
    rw [State.burstWord, burstWord_reg ha i]
    exact State.regRead_state fun h => absurd h (hnot i hi)
  rw [hburst, State.readRegisters_of_still hstill]
  refine ⟨rfl, fun j hj h1 h2 => ?_⟩
  rw [(foldl_digits (fun i => (s.burstWord a i).1.isLt) 8).2 j hj, State.burstWord, burstWord_reg ha j,
    State.regRead_value (by omega) (hnot j hj) h2 h1]

/-- The burst that holds IND_DATA of a block (R397). -/
theorem State.readBurst_indData (hr : rangeOf a = .registers) (ha : a % 32 = 0) (hi : a % 0x10000 = 0xFF20) :
    (s.readBurst p a ue).2 = (s.indDataRead (a / 0x10000)).2 ∧
    (s.readBurst p a ue).1 % 2 ^ 32 = (s.indDataRead (a / 0x10000)).1.toNat := by
  have hlt := rangeOf_eq_registers hr
  have hburst : s.readBurst p a ue = s.readRegisters a := by simp only [State.readBurst, hr]
  rw [hburst]
  refine State.readRegisters_of_first ?_ fun i h0 hi8 => ?_
  · rw [State.burstWord, show (a + 4 * 0) / 16 * 16 = a by omega, show (a + 4 * 0) / 4 % 4 = 0 by omega,
      State.regRead_indData (by omega) hi]
  · exact State.regRead_state fun h => by omega

/-- The index and the record lines of a ring (R340, R341, R455). -/
theorem State.readRing_index (h : (a - 0x4000000) % 0x10000 < 4096) :
    (∀ i, i < 4 → (s.readRing a ue).1 / 2 ^ (64 * i) % 2 ^ 64 =
      (tget 0#64 s.egr.index (512 * ((a - 0x4000000) / 0x10000) + (a - 0x4000000) % 0x10000 / 8 + i)).toNat) ∧
    (s.readRing a ue).2 =
      if ue = true then s.entryDamaged (512 * ((a - 0x4000000) / 0x10000) + (a - 0x4000000) % 0x10000 / 8) else s := by
  unfold State.readRing
  extract_lets o st line k v
  have hline : line < 64 := by omega
  rw [if_pos hline]
  exact ⟨(foldl_digits (fun i => (tget 0#64 s.egr.index (k + i)).isLt) 4).2, rfl⟩

theorem State.readRing_line (h : 4096 ≤ (a - 0x4000000) % 0x10000) : s.readRing a ue =
    ((tget 0#512 s.egr.lines (1024 * ((a - 0x4000000) / 0x10000) + (a - 0x4000000) % 0x10000 / 64)).toNat / 2 ^ (256 * (a / 32 % 2))
      % 2 ^ 256,
      if ue = true then s.lineDamaged ((a - 0x4000000) / 0x10000) ((a - 0x4000000) % 0x10000 / 64) else s) := by
  unfold State.readRing
  extract_lets o st line k v
  have hline : ¬ line < 64 := by omega
  rw [if_neg hline]

theorem State.lineDamaged_spec (s : State) (st line : Nat) :
    (s.lineDamaged st line).reg Reg.egrUeCnt = s.reg Reg.egrUeCnt + 1#32 ∧ (s.lineDamaged st line).rbit Reg.egrStat 2 = true ∧
    (s.lineDamaged st line).egr.lines = s.egr.lines := by
  refine ⟨?_, ?_, ?_⟩
  · rw [State.lineDamaged, State.reg_setBits, if_neg (by decide), State.reg_count, if_pos rfl]
    rfl
  · rw [State.lineDamaged, State.rbit_setBits_self]
    exact Bool.or_true _
  · rw [State.lineDamaged, State.setBits_egr, State.count_egr]
    rfl

/-- The read-ahead lines (R305). -/
theorem State.readJournal_spec (s : State) (a : Nat) :
    let o := a - 0x8000000
    let l := tget (0, []) s.landed.stm.jra (o / 2048 % 512)
    (l.1 ≠ o / 2048 + 1 → s.readJournal a = 0) ∧
    (l.1 = o / 2048 + 1 → ∀ i, i < 32 → s.readJournal a / 2 ^ (8 * i) % 2 ^ 8 = (l.2.getD (o % 2048 + i) 0#8).toNat) := by
  intro o l
  refine ⟨fun h => if_neg h, fun h i hi => ?_⟩
  have hr : s.readJournal a = leNum ((l.2.drop (o % 2048)).take 32) := if_pos h
  rw [hr, leNum_byte, List.getD_eq_getElem?_getD, List.getElem?_take_of_lt hi, List.getElem?_drop, ← List.getD_eq_getElem?_getD]

end

/-- What a burst shows (R43, R305, R330, R331, R340, R341, R385, R397, R455). -/
theorem burstsShowState : Claims.BurstsShowState := by
  intro s p a ue ha r
  refine ⟨fun hr => ?_, fun hr => ?_, fun hr => ?_, fun hr => ?_, fun hr => ?_,
    fun hr => ⟨fun hi => State.readBurst_registers hr ha hi, fun hi => State.readBurst_indData hr ha hi⟩⟩
  · change s.readBurst p a ue = _
    simp only [List.mem_cons, List.not_mem_nil, or_false] at hr
    rcases hr with hr | hr | hr | hr <;> simp only [State.readBurst, hr]
  · have hb := (rangeOf_eq_cells.mp hr).1
    change s.readBurst p a ue = _
    simp only [State.readBurst, hr, show (a - 0x1000000) % 64 = a % 64 by omega]
  · have hb := rangeOf_eq_cellView hr
    change s.readBurst p a ue = _
    simp only [State.readBurst, hr, show (a - 0x1008000) % 64 = a % 64 by omega]
  · intro o st k line
    have hread : r = s.readRing a ue := by simp only [r, State.readBurst, hr]
    rw [hread]
    refine ⟨fun ho => ?_, fun ho => ?_⟩
    · obtain ⟨hdig, hstate⟩ := State.readRing_index (s := s) (ue := ue) ho
      refine ⟨hdig, hstate.trans ?_⟩
      cases ue
      · rfl
      · exact (if_pos rfl).trans (if_neg (by decide)).symm
    · rw [State.readRing_line ho]
      refine ⟨rfl, fun h => by rw [h]; rfl, fun h => ?_⟩
      rw [h]
      exact s.lineDamaged_spec st line
  · intro o l
    have hread : r = (s.readJournal a, s) := by simp only [r, State.readBurst, hr]
    rw [hread]
    exact ⟨rfl, s.readJournal_spec a⟩

/-- Settles O45: a read command completes with the data of its bursts, and each burst shows what its range holds. -/
theorem hostReadsShowState : Obligations.HostReadsShowState := ⟨readsComplete, burstsShowState⟩

end Sys2Proof.Machine
end

section
/-! SUPPORT. What an issue moves on in its tile (R86, R89 to R91, R114), and what an instruction leaves whose effect is on its own tile,
the numeric registers and its lanes. -/

namespace Sys2Proof.Machine

open Sys2Proof

/-! ## The step, the handler and the counters -/

theorem Tile.decCounter_counter (x : Tile) (c k j : Nat) :
    tget 0#16 (x.decCounter c k).c j =
      if j = k then (if tget 0#16 x.c k = 0#16 then x.reload c k - 1#16 else tget 0#16 x.c k - 1#16) else tget 0#16 x.c j :=
  tget_tset 0#16 x.c k j _

theorem Tile.bump_counts (x : Tile) (k j : Nat) :
    tget 0#32 (x.bump k).counts j = tget 0#32 x.counts j + if j = k then 1#32 else 0#32 := by
  simp only [Tile.bump, tget_tset]
  split_ifs with h
  · rw [h]
  · rw [BitVec.add_zero]

/-- The tile as DEC leaves it (R91). -/
def Tile.decremented (x : Tile) (h : Hdr) (c : Nat) : Tile := if h.dec then x.decCounter c h.csel.toNat else x

/-- Where a running handler goes on (R90). -/
def handlerAfter (p : Nat × Nat × Nat) (f : Flow) : Option (Nat × Nat × Nat) :=
  if p.2.2 ≤ 1 then none
  else match f with | .on => some (p.1, p.2.1 + 1, p.2.2 - 1) | .jump n => some (p.1, n, p.2.2 - 1) | .done => none

/-- Where a static schedule goes on from a step (R89). -/
def stepAfter (step : BitVec 13) (f : Flow) : BitVec 13 :=
  match f with | .on => step + 1#13 | .jump n => BitVec.ofNat 13 n | .done => 0#13

theorem Tile.decremented_eq (x : Tile) (h : Hdr) (c : Nat) :
    x.decremented h c = { x with c := (x.decremented h c).c } := by
  unfold Tile.decremented
  split_ifs <;> rfl

/-- An issue is DEC, then the step of a static schedule or the handler of a rule, then the count of its cycle. -/
theorem Tile.advance_eq (x : Tile) (h : Hdr) (c : Nat) (f : Flow) (r : Bool) :
    x.advance h c f r =
      { x with
        c := (x.decremented h c).c
        steps := if x.ruleMode c then x.steps else tset 0#13 x.steps c (stepAfter (tget 0#13 x.steps c) f)
        handler := if x.ruleMode c then x.handler.bind (fun p => handlerAfter p f) else x.handler
        counts := (x.bump (if r then cRetire else cIssue)).counts
        cycle := x.cycle + 1, qbanks := 0 } := by
  have hy := x.decremented_eq h c
  unfold Tile.advance
  rw [show (if h.dec = true then x.decCounter c h.csel.toNat else x) = x.decremented h c from rfl, hy]
  dsimp only
  have hr : ({ x with c := (x.decremented h c).c } : Tile).ruleMode c = x.ruleMode c := rfl
  rw [hr]
  cases hm : x.ruleMode c with
  | false => cases f <;> rfl
  | true =>
    cases hh : x.handler with
    | none => cases f <;> rfl
    | some p =>
      obtain ⟨k, n, left⟩ := p
      cases f with
      | on => rfl
      | jump m => rfl
      | done => simp only [handlerAfter, Option.bind_some, ite_self, if_true]; rfl

/-- Settles O7: an issue is DEC, the step or handler, and one count, each in its own field of the tile. -/
theorem issueMovesTileOn : Obligations.IssueMovesTileOn := by
  intro x h c f r y step k
  have hy : y = _ := Tile.advance_eq x h c f r
  refine ⟨fun j => ?_, fun hm => ⟨?_, fun j hj => ?_, ?_⟩, fun hm => ⟨?_, fun slot at_ left hh => ?_⟩, fun j => ?_, ?_, ?_, ?_⟩
  · rw [hy]
    dsimp only [Tile.decremented]
    cases hd : h.dec with
    | false => simp
    | true => simpa [hd] using x.decCounter_counter c k j
  · simp [hy, hm]
  · simpa [hy, hm] using tget_tset_ne 0#13 x.steps _ hj
  · simp only [hy, hm, Bool.false_eq_true, if_false, tget_tset_self]
    rfl
  · simp [hy, hm]
  · simp only [hy, hm, hh, if_true, Option.bind_some]
    rfl
  · rw [hy]
    exact x.bump_counts _ j
  · exact x.advance_content h c f r
  · rw [hy]
  · rw [hy]

end Sys2Proof.Machine
end

section
/-! SUPPORT. What an instruction leaves whose effect is on its own tile, the registers of numerics and its lane: one law for the state
before the issue is counted, and one for the issue (R76, R86, R89, R96). -/

namespace Sys2Proof.Machine

open Sys2Proof

/-- The content and the course of a tile are all that the course after an issue depends on. -/
theorem Tile.advance_course_congr {x y : Tile} (hc : x.content = y.content) (hk : x.course = y.course) (h : Hdr) (c : Nat) (f : Flow)
    (r : Bool) : (x.advance h c f r).course = (y.advance h c f r).course := by
  have hx : x = { y with
      queues := x.queues, credits := x.credits, retiring := x.retiring, delivered := x.delivered, ctxEnds := x.ctxEnds
      sent := x.sent, taken := x.taken, work := x.work } := by
    cases x
    cases y
    simp only [Tile.content, Tile.course, Tile.mk.injEq] at hc hk ⊢
    simp only [hc, hk, and_self]
  rw [hx, Tile.advance_eq, Tile.advance_eq]
  cases hd : h.dec <;> simp only [Tile.decremented, hd, Bool.false_eq_true, if_false, if_true] <;> rfl

/-- The word that an instruction puts on its lane, as the lane's network carries it (R76), if OUT names a lane. -/
def outWords (t : TileAddr) (c : Nat) (out kind : BitVec 3) (data : Burst) : List LinkWord :=
  let l := out.toNat - 1
  if out = 0#3 then []
  else [⟨wireKey t.toNat (l / 2) (4 + l % 2), ⟨BitVec.ofNat 2 c, kind, laneData (l / 2) c kind data, 8 * t.toNat + l⟩⟩]

theorem State.sendOut_links (s : State) (t : TileAddr) (h : Hdr) (c : Nat) (k : BitVec 3) (d : Burst) :
    (s.sendOut t h c k d).fab.links = s.fab.links ++ outWords t c h.out k d := by
  by_cases ho : h.out = 0#3
  · simp [State.sendOut, outLane, outWords, ho]
  · have hn : h.out.toNat ≠ 0 := fun e => ho (BitVec.eq_of_toNat_eq e)
    simp only [State.sendOut, outLane, outWords, hn, ho, if_false]
    rw [State.noteSent_links, State.sendLane_links]

/-- From the state `b` in which an instruction finds its operands it has made `m`: its tile has the content and the course of `y`,
registers at `rs` and the words `out` on its lanes apart nothing else differs. -/
structure Leaves (b m : State) (t : TileAddr) (rs : List Nat) (y : Tile) (out : List LinkWord) : Prop where
  frame : TileFrame b m t rs
  content : (m.tile t).content = y.content
  course : (m.tile t).course = y.course
  links : m.fab.links = b.fab.links ++ out

namespace Leaves

variable {b m : State} {t : TileAddr} {rs : List Nat} {y : Tile} {out : List LinkWord}

theorem refl (b : State) (t : TileAddr) (rs : List Nat) : Leaves b b t rs (b.tile t) [] :=
  ⟨(Quiet.refl b).frame t rs, rfl, rfl, (List.append_nil _).symm⟩

theorem setTile (hl : Leaves b m t rs y out) (x : Tile) : Leaves b (m.setTile t x) t rs x out :=
  ⟨hl.frame.trans (TileFrame.setTile m t x rs), by rw [State.tile_setTile], by rw [State.tile_setTile], hl.links⟩

/-- A quiet operation that keeps the course and the links. -/
theorem quiet {u : State} (hl : Leaves b m t rs y out) (q : Quiet m u) (hk : (u.tile t).course = (m.tile t).course)
    {more : List LinkWord} (hw : u.fab.links = m.fab.links ++ more) : Leaves b u t rs y (out ++ more) :=
  ⟨hl.frame.trans (q.frame t rs), (q.content t).trans hl.content, hk.trans hl.course, by rw [hw, hl.links, List.append_assoc]⟩

theorem sendOut (hl : Leaves b m t rs y []) (h : Hdr) (c : Nat) (k : BitVec 3) (d : Burst) :
    Leaves b (m.sendOut t h c k d) t rs y (outWords t c h.out k d) := by
  refine hl.quiet (Quiet.sendOut m t h c k d) ?_ (State.sendOut_links m t h c k d)
  obtain ⟨cr, sn, wk, e⟩ := State.sendOut_tile m t h c k d
  rw [e]
  rfl

theorem noteAcc (hl : Leaves b m t rs y out) (c : Nat) : Leaves b (m.noteAcc t c) t rs y out := by
  have hk : ((m.noteAcc t c).tile t).course = (m.tile t).course ∧ (m.noteAcc t c).fab.links = m.fab.links := by
    unfold State.noteAcc State.freeRows
    dsimp only
    split_ifs
    · exact ⟨rfl, rfl⟩
    · exact ⟨by rw [State.tile_setTile, State.tile_setTile]; rfl, rfl⟩
    · exact ⟨by rw [State.tile_setTile, State.tile_setTile]; rfl, rfl⟩
  have := hl.quiet (Quiet.noteAcc m t c) hk.1 (more := []) (by rw [hk.2, List.append_nil])
  rwa [List.append_nil] at this

theorem countEcc (hl : Leaves b m t rs y out) {e : Ecc} (he : e ≠ .uncorrectable) (hr : ∀ a ∈ eccRegs, a ∈ rs) :
    Leaves b (m.countEcc e) t rs y out := by
  obtain ⟨h1, h2, h3, h4⟩ := State.countEcc_frame m t he
  have hf : TileFrame m (m.countEcc e) t rs := ⟨h1, h2, fun a ha => h3 a fun k => ha (hr a k), h4⟩
  exact ⟨hl.frame.trans hf, by rw [State.countEcc_tile, hl.content], by rw [State.countEcc_tile, hl.course],
    by rw [State.countEcc_fab, hl.links]⟩

/-- Registers of numerics change. -/
theorem regs {u : State} (hl : Leaves b m t rs y out) (hb : u.besideFabric = m.besideFabric) (hf : u.fab = m.fab)
    (hr : ∀ a, a ∉ rs → u.reg a = m.reg a) : Leaves b u t rs y out := by
  have ht : ∀ t', u.tile t' = m.tile t' := fun t' => by rw [State.tile, hf]; rfl
  exact ⟨hl.frame.trans ⟨hb, by rw [hf], hr, fun t' _ => by rw [ht]⟩, by rw [ht, hl.content], by rw [ht, hl.course],
    by rw [hf, hl.links]⟩

end Leaves

/-! ## The counts of numerics (R199, R208, R215) -/

/-- Results that took the largest finite value, counted in ACC_OVF while NUM_CTL.EN is 1 (R208, R215). -/
def Tile.withOvf (y : Tile) (en : Bool) (n : Nat) : Tile := if en then { y with accOvf := times satInc n y.accOvf } else y

theorem Tile.withOvf_zero (y : Tile) (en : Bool) : y.withOvf en 0 = y := by
  unfold Tile.withOvf
  split_ifs <;> rfl

theorem State.countOvf_of_pos (s : State) (t : TileAddr) {n : Nat} (hn : n ≠ 0) :
    s.countOvf t n = (s.setTile t ((s.tile t).withOvf (s.blockEn 5) n)).setBits Reg.numStat 0x10#32 := if_neg hn

theorem State.reg_countOvf (s : State) (t : TileAddr) (n a : Nat) :
    (s.countOvf t n).reg a = if a = Reg.numStat ∧ n ≠ 0 then s.reg a ||| 0x10#32 else s.reg a := by
  by_cases hn : n = 0
  · simp [State.countOvf, hn]
  · rw [State.countOvf_of_pos s t hn, State.reg_setBits]
    by_cases ha : a = Reg.numStat
    · rw [if_pos ha, if_pos ⟨ha, hn⟩, ha]
      rfl
    · rw [if_neg ha, if_neg fun k => ha k.1]
      rfl

theorem Leaves.countOvf {b m : State} {t : TileAddr} {rs : List Nat} {y : Tile} (hl : Leaves b (m.setTile t y) t rs y [])
    (hr : Reg.numStat ∈ rs) (n : Nat) : Leaves b ((m.setTile t y).countOvf t n) t rs (y.withOvf (m.blockEn 5) n) [] := by
  by_cases hn : n = 0
  · subst hn
    rwa [Tile.withOvf_zero]
  · rw [State.countOvf_of_pos _ t hn, State.tile_setTile]
    refine (hl.setTile _).regs rfl rfl fun a ha => ?_
    have hne : a ≠ Reg.numStat := fun k => ha (k ▸ hr)
    rw [State.reg_setBits, if_neg hne]
    rfl

theorem State.reg_countNonfin (s : State) (n a : Nat) :
    (s.countNonfin n).reg a = if a = Reg.numNonfinCnt then s.reg a + BitVec.ofNat 32 n
      else if a = Reg.numStat ∧ n ≠ 0 then s.reg a ||| 0x8#32 else s.reg a := by
  unfold State.countNonfin
  by_cases hn : n = 0
  · simp [hn]
  · rw [if_neg hn, State.reg_setBits]
    by_cases ha : a = Reg.numStat
    · rw [if_pos ha, ha, if_neg (by decide), if_pos ⟨rfl, hn⟩, State.reg_count, if_neg (by decide)]
    · rw [if_neg ha, State.reg_count]
      simp only [ha, false_and, if_false]
      split_ifs with h
      · rw [h]
      · rfl

theorem Leaves.countNonfin {b m : State} {t : TileAddr} {rs : List Nat} {y : Tile} {out : List LinkWord} (hl : Leaves b m t rs y out)
    (hr : Reg.numStat ∈ rs) (hn : Reg.numNonfinCnt ∈ rs) (n : Nat) : Leaves b (m.countNonfin n) t rs y out := by
  have hs : ∀ u : State, u = m.countNonfin n → u.besideFabric = m.besideFabric ∧ u.fab = m.fab := fun u hu => by
    subst hu
    unfold State.countNonfin
    split_ifs <;> exact ⟨rfl, rfl⟩
  obtain ⟨hb, hf⟩ := hs _ rfl
  refine hl.regs hb hf fun a ha => ?_
  have hne : a ≠ Reg.numNonfinCnt := fun k => ha (k ▸ hn)
  have hst : ¬(a = Reg.numStat ∧ n ≠ 0) := fun k => ha (k.1 ▸ hr)
  rw [State.reg_countNonfin, if_neg hne, if_neg hst]

/-! ## The issue -/

/-- What the checks of R74 count, and beside it what numerics count. -/
theorem State.reg_afterSource {s : State} {t : TileAddr} {h : Hdr} {n : Need} {c : Nat} (H : Issues s t h n c) {a : Nat}
    (ha : a ∉ eccRegs) : (s.afterSource t h n c).reg a = s.reg a :=
  (State.afterSource_frame s t h n c H.fetch H.check).2.2.1 a ha

theorem State.blockEn_afterSource {s : State} {t : TileAddr} {h : Hdr} {n : Need} {c : Nat} (H : Issues s t h n c) :
    (s.afterSource t h n c).blockEn 5 = s.blockEn 5 := by
  rw [State.blockEn, State.rbit, State.reg_afterSource H (by decide)]
  rfl

/-- The words on the links after the issue: those of the instruction, and CTX_END words that a retired slot owes (R96). -/
def Adds (s u : State) (out : List LinkWord) : Prop :=
  ∃ ends, u.fab.links = s.fab.links ++ out ++ ends ∧ ∀ e ∈ ends, isCtxEnd (keyNet e.wire) e.w = true

theorem sends_nothing {s u : State} (h : Adds s u []) (t : TileAddr) (c : Nat) : Sends s u t c 0#3 0#3 0#256 := h

/-- An instruction that issues with the effect described completes as `TileDoes` says. -/
theorem tileDoes_of_leaves {s : State} {t : TileAddr} {h : Hdr} {n : Need} {c : Nat} {i : Instr} (H : Issues s t h n c)
    {eff : State → Nat → Option QWord → State × Flow} (hi : exec i s = s.tileCycle i t h n eff) {m : State} {f : Flow}
    (he : eff (s.afterSource t h n c) c (sourceWord (s.tile t) h n c) = (m, f)) {rs : List Nat} {y : Tile} {out : List LinkWord}
    (hl : Leaves (s.afterSource t h n c) m t (rs ++ eccRegs) y out) {p : State → Prop}
    (hp : ∀ u, Adds s u out → (∀ a, u.reg a = m.reg a) → p u) :
    TileDoes s t h c i (rs ++ eccRegs) f y p := by
  intro hm
  refine ⟨_, hi.trans (State.tileCycle_issues H hm eff), ?_⟩
  rw [he]
  dsimp only
  generalize countsRetire (s.tile t) = r
  have q := Quiet.afterIssue m t h c f r
  obtain ⟨h1, h2, h3, h4⟩ := State.afterSource_frame s t h n c H.fetch H.check
  have hs : TileFrame s (s.afterSource t h n c) t (rs ++ eccRegs) :=
    ⟨h1, h2, fun a ha => h3 a fun k => ha (List.mem_append_right rs k), h4⟩
  refine ⟨(hs.trans hl.frame).trans (q.frame t _), (q.content t).trans hl.content, ?_, hp _ ?_ fun a => congrArg (tget 0#32 · a) q.regs⟩
  · unfold State.afterIssue
    rw [State.tryRetire_course, State.tile_setTile]
    exact Tile.advance_course_congr hl.content hl.course h c f r
  · obtain ⟨ends, e1, e2⟩ := State.afterIssue_links m t h c f r
    exact ⟨ends, by rw [e1, hl.links, State.afterSource_links], e2⟩

end Sys2Proof.Machine
end

section
/-! SUPPORT. The scalar and the vector instructions (R69, R86, R87, R208; log entries 21 and 22). -/

namespace Sys2Proof.Machine

open Sys2Proof

/-! ## Scalar instructions -/

/-- The last source of a scalar instruction as the model forms it. -/
theorem scalarSource_eq (w : Option QWord) (r : Word) :
    BitVec.ofNat 32 (qinData w (BitVec.ofNat 256 r.toNat)).toNat = scalarSource w r := by
  cases w with
  | some q => exact BitVec.ofNat_toNat 32 q.data
  | none =>
    have hr := r.isLt
    apply BitVec.eq_of_toNat_eq
    simp only [qinData, scalarSource, BitVec.toNat_ofNat]
    omega

section
variable {s : State} {t : TileAddr} {h : Hdr} {c : Nat} {i : Instr}

/-- An instruction that writes a scalar register and sends what it wrote. -/
theorem scalarWrite_does {n : Need} (H : Issues s t h n c) {eff : State → Nat → Option QWord → State × Flow}
    (hi : exec i s = s.tileCycle i t h n eff) {sd : BitVec 6} {r : Word}
    (he : eff (s.afterSource t h n c) c (sourceWord (s.tile t) h n c) =
      (((s.afterSource t h n c).setTile t (((s.afterSource t h n c).tile t).setS sd.toNat r)).sendOut t h c
        (resultKind h (sourceWord (s.tile t) h n c)) (BitVec.ofNat 256 r.toNat), .on)) :
    TileDoes s t h c i eccRegs .on (((s.afterSource t h n c).tile t).setS sd.toNat r)
      (fun u => Sends s u t c h.out (resultKind h (sourceWord (s.tile t) h n c)) (r.setWidth 256)) := by
  rw [BitVec.ofNat_toNat] at he
  exact tileDoes_of_effect H hi he

/-- A scalar instruction of two sources writes and sends what its function gives on them. -/
theorem scalar2_does (H : Issues s t h (needOf h) c) {sd sa sb : BitVec 6} {f : Word → Word → Word} {r : Word}
    (hi : exec i s = s.scalar2 i t h sd sa sb f)
    (hf : f (((s.afterSource t h (needOf h) c).tile t).sreg sa.toNat)
      (scalarSource (sourceWord (s.tile t) h (needOf h) c) (((s.afterSource t h (needOf h) c).tile t).sreg sb.toNat)) = r) :
    TileDoes s t h c i eccRegs .on (((s.afterSource t h (needOf h) c).tile t).setS sd.toNat r)
      (fun u => Sends s u t c h.out (resultKind h (sourceWord (s.tile t) h (needOf h) c)) (r.setWidth 256)) :=
  scalarWrite_does H hi (by simp only [scalarSource_eq, hf])

end

theorem scalarArithmeticResults : Claims.ScalarArithmeticResults := by
  intro s t h sd sa sb c H w x a b gives
  exact ⟨scalar2_does H (exec_scalarAdd ..) rfl, scalar2_does H (exec_scalarSub ..) rfl, scalar2_does H (exec_scalarMul ..) rfl,
    scalar2_does H (exec_scalarAnd ..) rfl, scalar2_does H (exec_scalarOr ..) rfl, scalar2_does H (exec_scalarXor ..) rfl⟩

theorem scalarLess_of_same_sign {a b : Word} (h : bit a 31 = bit b 31) : scalarLess a b = true ↔ a.toNat < b.toNat := by
  rw [scalarLess, if_pos h, decide_eq_true_eq]

theorem scalarShiftAndChoice : Claims.ScalarShiftAndChoice := by
  intro s t h sd sa sb sc c H w x a b gives
  refine ⟨fun hb => scalar2_does H (exec_scalarShl ..) (if_pos hb),
    fun hb ha => scalar2_does H (exec_scalarShr ..) (if_pos ⟨hb, fun k => Bool.noConfusion (ha.symm.trans k)⟩),
    fun hs => scalar2_does H (exec_scalarMin ..) (if_congr (scalarLess_of_same_sign hs) rfl rfl),
    fun hs => scalar2_does H (exec_scalarMax ..) (if_congr (scalarLess_of_same_sign hs) rfl rfl), ?_,
    ⟨_, scalar2_does H (exec_scalarCmp ..) rfl⟩⟩
  · have hsel : ∀ r, r = (if Config.selOpen (BitVec.ofNat 32 (qinData w (BitVec.ofNat 256 (x.sreg sc.toNat).toNat)).toNat)
        then x.sreg sa.toNat else x.sreg sb.toNat) → gives (.scalarSel t h sd sa sb sc) r := fun r hr =>
      scalarWrite_does H (exec_scalarSel ..) (by rw [hr])
    cases hk : Config.selOpen (BitVec.ofNat 32 (qinData w (BitVec.ofNat 256 (x.sreg sc.toNat).toNat)).toNat) with
    | true => exact .inl (hsel _ (by rw [hk]; rfl))
    | false => exact .inr (hsel _ (by rw [hk]; rfl))

/-- Settles O9: every scalar instruction writes its destination and sends what it wrote; the branch its source takes names the result. -/
theorem scalarInstructions : Obligations.ScalarInstructions := ⟨scalarArithmeticResults, scalarShiftAndChoice⟩

/-! ## Vector instructions -/

section
variable {s : State} {t : TileAddr} {h : Hdr} {c : Nat} {i : Instr} {n : Need}

/-- The state after a vector result, from one in which only the checks of R74 have counted more. -/
theorem Leaves.vecResult {b m : State} {x : Tile} (hl : Leaves b m t (Reg.numStat :: eccRegs) x []) (h : Hdr) (c : Nat)
    (w : Option QWord) (vd : Nat) (r : Burst) (n : Nat) :
    Leaves b (m.vecResult t h c w vd r n) t (Reg.numStat :: eccRegs) (((m.tile t).setV vd r).withOvf (m.blockEn 5) n)
      (outWords t c h.out (resultKind h w) r) :=
  ((hl.setTile _).countOvf (List.mem_cons_self ..) n).sendOut h c _ r

theorem State.reg_sendOut (s : State) (t : TileAddr) (h : Hdr) (c : Nat) (k : BitVec 3) (d : Burst) (a : Nat) :
    (s.sendOut t h c k d).reg a = s.reg a := congrArg (tget 0#32 · a) (Quiet.sendOut s t h c k d).regs

/-- A vector result whose rounding took the largest finite value in `n` lanes. -/
theorem vecResult_does (H : Issues s t h n c) {eff : State → Nat → Option QWord → State × Flow}
    (hi : exec i s = s.tileCycle i t h n eff) {vd : BitVec 4} {r : Burst} {k : Nat}
    (he : eff (s.afterSource t h n c) c (sourceWord (s.tile t) h n c) =
      ((s.afterSource t h n c).vecResult t h c (sourceWord (s.tile t) h n c) vd.toNat r k, .on)) :
    let w := sourceWord (s.tile t) h n c
    let y := ((s.afterSource t h n c).tile t).setV vd.toNat r
    TileDoes s t h c i (Reg.numStat :: eccRegs) .on (if s.blockEn 5 then { y with accOvf := times satInc k y.accOvf } else y)
      (fun u => Sends s u t c h.out (resultKind h w) r ∧
        u.reg Reg.numStat = if k = 0 then s.reg Reg.numStat else s.reg Reg.numStat ||| 0x10#32) := by
  intro w y
  have hl := (Leaves.refl (s.afterSource t h n c) t (Reg.numStat :: eccRegs)).vecResult h c w vd.toNat r k
  rw [State.blockEn_afterSource H] at hl
  refine tileDoes_of_leaves (rs := [Reg.numStat]) H hi he hl fun u hu hr => ⟨hu, ?_⟩
  rw [hr, State.vecResult, State.reg_sendOut, State.reg_countOvf]
  have h0 : ((s.afterSource t h n c).setTile t y).reg Reg.numStat = s.reg Reg.numStat := State.reg_afterSource H (by decide)
  rw [h0]
  by_cases hk : k = 0 <;> simp [hk]

/-- A vector result without a count. -/
theorem vecPlain_does (H : Issues s t h n c) {eff : State → Nat → Option QWord → State × Flow}
    (hi : exec i s = s.tileCycle i t h n eff) {vd : BitVec 4} {r : Burst}
    (he : eff (s.afterSource t h n c) c (sourceWord (s.tile t) h n c) =
      ((s.afterSource t h n c).vecResult t h c (sourceWord (s.tile t) h n c) vd.toNat r 0, .on)) :
    TileDoes s t h c i eccRegs .on (((s.afterSource t h n c).tile t).setV vd.toNat r)
      (fun u => Sends s u t c h.out (resultKind h (sourceWord (s.tile t) h n c)) r) :=
  tileDoes_of_effect H hi he

end

theorem no_overflow_of_zero : overflows ⟨0, 1⟩ = false := by decide

section
variable {s : State} {t : TileAddr} {h : Hdr} {c : Nat} {i : Instr} {vd va vb : BitVec 4} {op : BitVec 3} {q : Q → Q → Q}
  {f : Word → Word → Word}

/-- A two-source instruction on FP32 lanes. -/
theorem vec2_does (H : Issues s t h (needOf h) c) (hi : exec i s = s.vec2 i t h .w32 op vd va vb q f) :
    let w := sourceWord (s.tile t) h (needOf h) c
    let x := (s.afterSource t h (needOf h) c).tile t
    let a := x.vreg va.toNat
    let b := vectorSource w (x.vreg vb.toNat)
    let r := ofLanes (fun i => f (lane32 a i) (lane32 b i))
    let k := ((upto 8).filter (fun i => overflows (q (f32 (lane32 a i)) (f32 (lane32 b i))))).length
    let y := x.setV vd.toNat r
    TileDoes s t h c i (Reg.numStat :: eccRegs) .on (if s.blockEn 5 then { y with accOvf := times satInc k y.accOvf } else y)
      (fun u => Sends s u t c h.out (resultKind h w) r ∧
        u.reg Reg.numStat = if k = 0 then s.reg Reg.numStat else s.reg Reg.numStat ||| 0x10#32) :=
  vecResult_does H hi rfl

/-- A two-source instruction on lanes whose results are open. -/
theorem vec2_open_does (H : Issues s t h (needOf h) c) {lw : LaneW} (hlw : lw ≠ .w32)
    (hi : exec i s = s.vec2 i t h lw op vd va vb q f) :
    ∃ r, TileDoes s t h c i eccRegs .on (((s.afterSource t h (needOf h) c).tile t).setV vd.toNat r)
      (fun u => Sends s u t c h.out (resultKind h (sourceWord (s.tile t) h (needOf h) c)) r) := by
  cases lw with
  | w8 => exact ⟨_, vecPlain_does H hi rfl⟩
  | w16 => exact ⟨_, vecPlain_does H hi rfl⟩
  | w32 => exact absurd rfl hlw

end

theorem vectorFloatResults : Claims.VectorFloatResults := by
  intro s t h vd va vb c H w x a b gives
  refine ⟨vec2_does H (exec_vectorAdd ..), vec2_does H (exec_vectorSub ..), vec2_does H (exec_vectorMul ..), ?_, ?_,
    vecResult_does H (exec_relu ..) rfl⟩
  · have hmax := vec2_does H (exec_vectorMax t h .w32 vd va vb s)
    simp only [no_overflow_of_zero] at hmax
    exact hmax
  · have hmin := vec2_does H (exec_vectorMin t h .w32 vd va vb s)
    simp only [no_overflow_of_zero] at hmin
    exact hmin

theorem vectorOpenResultsComplete : Claims.VectorOpenResultsComplete := by
  intro s t h vd va vb vc lw c H w x writes
  refine ⟨⟨_, vecPlain_does H (exec_shuf ..) rfl⟩, ⟨_, vecPlain_does H (exec_vectorCmp ..) rfl⟩, ⟨_, vecPlain_does H (exec_vectorSel ..) rfl⟩,
    fun hlw => ⟨vec2_open_does H hlw (exec_vectorAdd ..), vec2_open_does H hlw (exec_vectorSub ..), vec2_open_does H hlw (exec_vectorMul ..),
      vec2_open_does H hlw (exec_vectorMax ..), vec2_open_does H hlw (exec_vectorMin ..), ?_⟩⟩
  cases lw with
  | w8 => exact ⟨_, vecPlain_does H (exec_relu ..) rfl⟩
  | w16 => exact ⟨_, vecPlain_does H (exec_relu ..) rfl⟩
  | w32 => exact absurd rfl hlw

/-- Settles O10: FP32 results are one law of a vector result with its count of overflows, open ones the same without a count. -/
theorem vectorInstructions : Obligations.VectorInstructions := ⟨vectorFloatResults, vectorOpenResultsComplete⟩

end Sys2Proof.Machine
end

section
/-! SUPPORT. Loads and stores of SRAM words (R69, R73, R74, R87). -/

namespace Sys2Proof.Machine

open Sys2Proof

/-! ## What an SRAM word reads after a write -/

/-- The 64-bit words of a 32-byte write stand at its four places. -/
theorem Tile.writeV_sram (x : Tile) (word k : Nat) (v : Burst) :
    tget 0#64 (x.writeV word v).sram k =
      if word ≤ k ∧ k < word + 4 then BitVec.ofNat 64 (v.toNat / 2 ^ (64 * (k - word))) else tget 0#64 x.sram k := by
  simp only [Tile.writeV, upto, List.range_succ, List.range_zero, List.nil_append, List.cons_append, List.foldl_cons, List.foldl_nil,
    tget_tset]
  by_cases h : word ≤ k ∧ k < word + 4
  · obtain rfl | rfl | rfl | rfl : k = word + 3 ∨ k = word + 2 ∨ k = word + 1 ∨ k = word + 0 := by omega
    all_goals simp
  · rw [if_neg h, if_neg (by omega), if_neg (by omega), if_neg (by omega), if_neg (by omega)]

theorem Tile.readV_writeV (x : Tile) (word : Nat) (v : Burst) : (x.writeV word v).readV word = v := by
  have hw : ∀ i, i < 4 → (tget 0#64 (x.writeV word v).sram (word + i)).toNat = v.toNat / 2 ^ (64 * i) % 2 ^ 64 := fun i hi => by
    rw [Tile.writeV_sram, if_pos (by omega), Nat.add_sub_cancel_left, BitVec.toNat_ofNat]
  have hv := v.isLt
  apply BitVec.eq_of_toNat_eq
  simp only [Tile.readV, upto, List.range_succ, List.range_zero, List.nil_append, List.cons_append, List.foldr_cons, List.foldr_nil,
    BitVec.toNat_ofNat, hw 0 (by decide), hw 1 (by decide), hw 2 (by decide), hw 3 (by decide)]
  omega

theorem Tile.setHalf_sram (x : Tile) (word k : Nat) (hi : Bool) (r : Word) :
    tget 0#64 (x.setHalf word hi r).sram k =
      if k = word then
        BitVec.ofNat 64 (if hi then (x.half word (!hi)).toNat + 2 ^ 32 * r.toNat else r.toNat + 2 ^ 32 * (x.half word (!hi)).toNat)
      else tget 0#64 x.sram k := tget_tset ..

/-- The half written reads back, and the other half of the word keeps its value. -/
theorem Tile.half_setHalf (x : Tile) (word : Nat) (hi half : Bool) (r : Word) :
    (x.setHalf word hi r).half word half = if half = hi then r else x.half word half := by
  have hr := r.isLt
  have ho := (x.half word (!hi)).isLt
  apply BitVec.eq_of_toNat_eq
  rw [Tile.half, Tile.setHalf_sram, if_pos rfl]
  cases hi <;> cases half <;>
    simp only [Bool.not_true, Bool.not_false, b2n, if_true, if_false, reduceCtorEq, BitVec.toNat_ofNat] at ho ⊢ <;> omega

theorem sramReadsBackWrites : Claims.SramReadsBackWrites := by
  intro x word other hi v r
  refine ⟨x.readV_writeV word v, ?_, ?_, fun h => ?_, fun h => ?_⟩
  · rw [Tile.half_setHalf, if_pos rfl]
  · rw [Tile.half_setHalf, if_neg (by cases hi <;> decide)]
  · rw [Tile.setHalf_sram, if_neg h]
  · rw [Tile.writeV_sram, if_neg (by omega)]

/-! ## Loads and stores -/

section
variable {s : State} {t : TileAddr} {h : Hdr} {c : Nat} {i : Instr} {n : Need}

/-- A load of a readable word into a register, which goes out on OUT. -/
theorem load_does (H : Issues s t h n c) {ecc : Ecc} (hecc : ecc ≠ .uncorrectable) {eff : State → Nat → Option QWord → State × Flow}
    (hi : exec i s = s.tileCycle i t h n eff) {y : Tile} {d : Burst}
    (he : eff (s.afterSource t h n c) c (sourceWord (s.tile t) h n c) =
      ((((s.afterSource t h n c).countEcc ecc).setTile t y).sendOut t h c (resultKind h (sourceWord (s.tile t) h n c)) d, .on)) :
    TileDoes s t h c i eccRegs .on y (fun u => Sends s u t c h.out (resultKind h (sourceWord (s.tile t) h n c)) d) :=
  tileDoes_of_leaves (rs := []) H hi he
    ((((Leaves.refl (s.afterSource t h n c) t eccRegs).countEcc hecc fun _ ha => ha).setTile y).sendOut h c _ d) fun _ hu _ => hu

/-- An instruction that changes its own tile and sends nothing. -/
theorem store_does (H : Issues s t h n c) {eff : State → Nat → Option QWord → State × Flow}
    (hi : exec i s = s.tileCycle i t h n eff) {y : Tile}
    (he : eff (s.afterSource t h n c) c (sourceWord (s.tile t) h n c) = ((s.afterSource t h n c).setTile t y, .on)) :
    TileDoes s t h c i eccRegs .on y (fun u => Sends s u t c 0#3 0#3 0#256) :=
  tileDoes_of_leaves (rs := []) H hi he ((Leaves.refl (s.afterSource t h n c) t eccRegs).setTile y) fun _ hu _ => hu

end

theorem sramInstructionsMoveData : Claims.SramInstructionsMoveData := by
  intro s t h vreg sr word hi ecc c hecc quiet
  refine ⟨fun hwf H => ⟨?_, ?_⟩, fun hwf H => ⟨?_, ?_⟩⟩
  · have hl : ¬ lastWord < word.toNat + 3 := by have := le_lastWord_of_wfWord hwf; omega
    refine load_does H hecc ((exec_ldv ..).trans (if_neg hl)) ?_
    dsimp only
    rw [if_neg hecc, State.vecResult, State.countEcc_tile]
    rfl
  · have hl : ¬ lastWord < word.toNat + 3 := by have := le_lastWord_of_wfWord hwf; omega
    exact store_does H ((exec_stv ..).trans (if_neg hl)) rfl
  · have hl : ¬ lastWord < word.toNat := by have := le_lastWord_of_wfWord hwf; omega
    refine load_does H hecc ((exec_lds ..).trans (if_neg hl)) ?_
    dsimp only
    rw [if_neg hecc, State.countEcc_tile, BitVec.ofNat_toNat]
  · have hl : ¬ lastWord < word.toNat := by have := le_lastWord_of_wfWord hwf; omega
    exact store_does H ((exec_sts ..).trans (if_neg hl)) (by simp only [scalarSource_eq])

/-- Settles O11: a load is the words read into its register, a store the register into the words named, and words written read back. -/
theorem sramInstructions : Obligations.SramInstructions := ⟨sramInstructionsMoveData, sramReadsBackWrites⟩

end Sys2Proof.Machine
end

section
/-! SUPPORT. The MAC array (R70 to R72, R164 to R166, R208 to R210): LDW, MMA and ACC complete, and what an MMA adds. -/

namespace Sys2Proof.Machine

open Sys2Proof

/-! ## LDW, MMA and ACC -/

section
variable {s : State} {t : TileAddr} {h : Hdr} {c : Nat}

theorem ldw_does {bank : Bool} {word : BitVec 13} {ecc : Ecc} (H : Issues s t h (ldwNeed h bank word.toNat) c)
    (hwf : wfWord word 8 = true) (hecc : ecc ≠ .uncorrectable) :
    let x := (s.afterSource t h (ldwNeed h bank word.toNat) c).tile t
    let w := BitVec.ofNat 512 ((x.readV word.toNat).toNat + 2 ^ 256 * (x.readV (word.toNat + 4)).toNat)
    TileDoes s t h c (.ldw t h bank word ecc) eccRegs .on (if bank then { x with w1 := w } else { x with w0 := w })
      (fun u => Sends s u t c 0#3 0#3 0#256) := by
  intro x w
  have hl : ¬ lastWord < word.toNat + 7 := by have := le_lastWord_of_wfWord hwf; omega
  refine tileDoes_of_leaves (rs := []) H ((exec_ldw ..).trans (if_neg hl)) ?_
    (((Leaves.refl (s.afterSource t h (ldwNeed h bank word.toNat) c) t eccRegs).countEcc hecc fun _ ha => ha).setTile _) fun _ hu _ => hu
  dsimp only
  rw [if_neg hecc, State.countEcc_tile]

theorem mma_does {vreg : BitVec 4} {off : BitVec 2} {bank : Bool} {k fmt : BitVec 3} {diag zero : Bool} (H : Issues s t h (needOf h) c)
    (hfmt : wfFmt fmt = true) (hdiag : diag = true → vreg.toNat % 2 = 0 ∧ off = 0#2) :
    let w := sourceWord (s.tile t) h (needOf h) c
    let b := s.afterSource t h (needOf h) c
    let x := b.tile t
    let r := x.mma (b.hdrAt t c) (vectorSource w (x.vreg vreg.toNat)) (x.vreg (vreg.toNat + 1)) off.toNat bank k.toNat fmt.toNat diag zero
    TileDoes s t h c (.mma t h vreg off bank k fmt diag zero) (Reg.numStat :: Reg.numNonfinCnt :: eccRegs) .on
      (r.1.withOvf (s.blockEn 5) r.2.1)
      (fun u => Sends s u t c 0#3 0#3 0#256 ∧ u.reg Reg.numNonfinCnt = s.reg Reg.numNonfinCnt + BitVec.ofNat 32 r.2.2) := by
  intro w b x r
  have hg : ¬(5 ≤ fmt.toNat ∨ (diag = true ∧ (vreg.toNat % 2 = 1 ∨ off.toNat ≠ 0))) := by
    rintro (hf | ⟨hd, hv | ho⟩)
    · exact absurd (of_decide_eq_true hfmt) (Nat.not_lt.mpr hf)
    · have := (hdiag hd).1
      omega
    · exact ho (by rw [(hdiag hd).2]; rfl)
  have hl := (((Leaves.refl b t (Reg.numStat :: Reg.numNonfinCnt :: eccRegs)).setTile r.1).countOvf (List.mem_cons_self ..)
    r.2.1).countNonfin (List.mem_cons_self ..) (List.mem_cons_of_mem _ (List.mem_cons_self ..)) r.2.2
  rw [State.blockEn_afterSource H] at hl
  refine tileDoes_of_leaves (rs := [Reg.numStat, Reg.numNonfinCnt]) H ((exec_mma ..).trans (if_neg hg)) rfl hl fun u hu hr => ⟨hu, ?_⟩
  rw [hr, State.reg_countNonfin, if_pos rfl, State.reg_countOvf, if_neg fun k => absurd k.1 (by decide)]
  exact congrArg (· + _) (State.reg_afterSource H (by decide))

theorem acc_does {k : BitVec 3} {vd bias : BitVec 4} (H : Issues s t h (accNeed h k.toNat) c) :
    let w := sourceWord (s.tile t) h (accNeed h k.toNat) c
    let b := s.afterSource t h (accNeed h k.toNat) c
    let x := b.tile t
    let hd := b.hdrAt t c
    let y := if tget 0 x.mmas k.toNat % (groupSize hd.gsel / chunkLen hd.cfmt) = 0 then (x, 0) else x.closeRow hd k.toNat
    let r := accLanes hd y.1 k.toNat (vectorSource w (y.1.vreg bias.toNat))
    TileDoes s t h c (.acc t h k vd bias) (Reg.numStat :: eccRegs) .on ((y.1.setV vd.toNat r.1).withOvf (s.blockEn 5) (y.2 + r.2))
      (fun u => Sends s u t c (if b.accInside t c k.toNat then h.out else 0#3) (resultKind h w) r.1) := by
  intro w b x hd y r
  have hy : (if (tget 0 x.mmas k.toNat % (groupSize hd.gsel / chunkLen hd.cfmt) != 0) = true then x.closeRow hd k.toNat else (x, 0)) = y := by
    by_cases h0 : tget 0 x.mmas k.toNat % (groupSize hd.gsel / chunkLen hd.cfmt) = 0
    · rw [show y = (x, 0) from if_pos h0, if_neg (by simp [h0])]
    · rw [show y = x.closeRow hd k.toNat from if_neg h0, if_pos (by simp [h0])]
  have hl := ((Leaves.refl b t (Reg.numStat :: eccRegs)).setTile (y.1.setV vd.toNat r.1)).countOvf (List.mem_cons_self ..) (y.2 + r.2)
  rw [State.blockEn_afterSource H] at hl
  set v := (b.setTile t (y.1.setV vd.toNat r.1)).countOvf t (y.2 + r.2) with hv
  have hout : Leaves b (if b.accInside t c k.toNat then v.sendOut t h c (resultKind h w) r.1 else v) t (Reg.numStat :: eccRegs)
      ((y.1.setV vd.toNat r.1).withOvf (s.blockEn 5) (y.2 + r.2))
      (outWords t c (if b.accInside t c k.toNat then h.out else 0#3) (resultKind h w) r.1) := by
    cases b.accInside t c k.toNat with
    | true => exact hl.sendOut h c _ r.1
    | false => exact hl
  refine tileDoes_of_leaves (rs := [Reg.numStat]) H (exec_acc ..) ?_ (hout.noteAcc c) fun u hu _ => hu
  dsimp only
  rw [hy]
  rfl

end

theorem arrayInstructions : Claims.ArrayInstructions := by
  intro s t h bank diag zero word ecc vreg vd off k fmt c quiet
  exact ⟨fun H hwf hecc => ldw_does H hwf hecc, fun H hfmt hdiag => mma_does H hfmt hdiag, fun H => acc_does H⟩

end Sys2Proof.Machine
end

section
/-! SUPPORT. The sums of integer products that an MMA adds (R70, R209). -/

namespace Sys2Proof.Machine

open Sys2Proof

/-! ## Rows of the accumulators -/

/-- Writes at keys other than `j` leave the entry of `j`. -/
theorem tget_foldl_of_ne {α : Type} [DecidableEq α] (d : α) (κ : Nat → Nat) (v : Tbl α → Nat → α) {j : Nat} {l : List Nat}
    (hl : ∀ c ∈ l, κ c ≠ j) : ∀ m : Tbl α, tget d (l.foldl (fun m c => tset d m (κ c) (v m c)) m) j = tget d m j := by
  induction l with
  | nil => exact fun m => rfl
  | cons a l ih =>
    intro m
    rw [List.foldl_cons, ih fun c hc => hl c (List.mem_cons_of_mem a hc),
      tget_tset_ne d m _ (fun e => hl a (List.mem_cons_self ..) e.symm)]

/-- Amounts added to entries one after another add up. -/
theorem tget_foldl_add (κ : Nat → Nat) (f : Nat → Int) (j : Nat) (l : List Nat) : ∀ m : Tbl Int,
    tget 0 (l.foldl (fun m c => tset 0 m (κ c) (tget 0 m (κ c) + f c)) m) j =
      tget 0 m j + ((l.filter (fun c => decide (κ c = j))).map f).sum := by
  induction l with
  | nil => intro m; simp
  | cons a l ih =>
    intro m
    rw [List.foldl_cons, ih, tget_tset]
    by_cases h : κ a = j
    · simp [h]
      omega
    · simp [h, Ne.symm h]

/-- Entry (k, c) of a table of eight rows of eight is in no other row. -/
theorem row_key_ne {k k' c c' : Nat} (hk : k < 8) (hk' : k' < 8) (h : k' ≠ k) : 8 * c + k ≠ 8 * c' + k' := by omega

theorem filter_row_key {k c : Nat} (hc : c < 8) : (upto 8).filter (fun a => decide (8 * a + k = 8 * c + k)) = [c] := by
  have hp : (fun a => decide (8 * a + k = 8 * c + k)) = fun a => decide (a = c) := by
    funext a
    exact decide_eq_decide.mpr (by omega)
  have hone : ∀ c, c < 8 → (upto 8).filter (fun a => decide (a = c)) = [c] := by decide
  rw [hp, hone c hc]

/-- The tile as ZERO leaves it: row `k` starts from zero (R70). -/
def Tile.zeroRow (x : Tile) (k : Nat) : Tile :=
  { x with
    a := (upto 8).foldl (fun m c => tset 0#32 m (8 * c + k) 0#32) x.a
    g := (upto 8).foldl (fun m c => tset 0 m (8 * c + k) 0) x.g
    mmas := tset 0 x.mmas k 0 }

/-- The tile in which an MMA adds. -/
def Tile.mmaStart (x : Tile) (k : Nat) (zero : Bool) : Tile := if zero then x.zeroRow k else x

theorem Tile.mmaStart_g (x : Tile) {k c : Nat} (zero : Bool) (hc : c < 8) :
    tget 0 (x.mmaStart k zero).g (8 * c + k) = if zero then 0 else tget 0 x.g (8 * c + k) := by
  cases zero with
  | false => rfl
  | true =>
    have hmap : (upto 8).foldl (fun m c => tset 0 m (8 * c + k) 0) x.g =
        ((upto 8).map (8 * · + k)).foldl (fun m i => tset 0 m i ((fun _ => (0 : Int)) i)) x.g := by rw [List.foldl_map]
    have hmem : 8 * c + k ∈ (upto 8).map (8 * · + k) := List.mem_map.mpr ⟨c, List.mem_range.mpr hc, rfl⟩
    change tget 0 ((upto 8).foldl (fun m c => tset 0 m (8 * c + k) 0) x.g) (8 * c + k) = 0
    rw [hmap, tget_foldl_tset, if_pos hmem]

theorem Tile.mmaStart_mmas (x : Tile) (k : Nat) (zero : Bool) :
    tget 0 (x.mmaStart k zero).mmas k = if zero then 0 else tget 0 x.mmas k := by
  cases zero with
  | false => rfl
  | true => exact tget_tset_self ..

theorem Tile.mmaStart_other (x : Tile) {k k' : Nat} (c : Nat) (zero : Bool) (hk : k < 8) (hk' : k' < 8) (h : k' ≠ k) :
    tget 0 (x.mmaStart k zero).g (8 * c + k') = tget 0 x.g (8 * c + k') ∧
    tget 0#32 (x.mmaStart k zero).a (8 * c + k') = tget 0#32 x.a (8 * c + k') := by
  have hne : ∀ a ∈ upto 8, 8 * a + k ≠ 8 * c + k' := fun a _ => row_key_ne hk hk' h
  cases zero with
  | false => exact ⟨rfl, rfl⟩
  | true => exact ⟨tget_foldl_of_ne 0 (8 * · + k) (fun _ _ => 0) hne x.g, tget_foldl_of_ne 0#32 (8 * · + k) (fun _ _ => 0#32) hne x.a⟩

theorem Tile.closeRow_other (x : Tile) (hd : NumHdr) {k k' : Nat} (c : Nat) (hk : k < 8) (hk' : k' < 8) (h : k' ≠ k) :
    tget 0 (x.closeRow hd k).1.g (8 * c + k') = tget 0 x.g (8 * c + k') ∧
    tget 0#32 (x.closeRow hd k).1.a (8 * c + k') = tget 0#32 x.a (8 * c + k') := by
  have hne : ∀ a ∈ upto 8, 8 * a + k ≠ 8 * c + k' := fun a _ => row_key_ne hk hk' h
  exact ⟨tget_foldl_of_ne 0 (8 * · + k) (fun _ _ => 0) hne x.g, tget_foldl_of_ne 0#32 (8 * · + k) (fun _ c =>
    f32Of (((upto 8).map (closeOne hd x k)).getD c ⟨0, 1⟩) (tget 0#32 x.a (8 * c + k)) 0#32) hne x.a⟩

/-! ## One chunk -/

/-- Eight bytes at byte 8 OFF of a vector. -/
def chunkAt (v0 v1 : Burst) (off : Nat) : Burst := BitVec.ofNat 256 ((v0.toNat + 2 ^ 256 * v1.toNat) / 2 ^ (64 * off) % 2 ^ 64)

/-- What one column gains, in units of 2^-32. -/
def Tile.mmaGain (x : Tile) (v0 v1 : Burst) (off : Nat) (bank : Bool) (k fmt c : Nat) : Int :=
  (mmaSum fmt (chunkAt v0 v1 off) (if bank then x.w1 else x.w0) c (tget Scale.zero x.xsc k).konst (tget Scale.zero x.wsc c).konst).1

/-- The tile with the chunk's products in its group registers. -/
def Tile.mmaAdded (x : Tile) (v0 v1 : Burst) (off : Nat) (bank : Bool) (k fmt : Nat) (zero : Bool) : Tile :=
  let y := x.mmaStart k zero
  { y with
    g := (upto 8).foldl (fun m c => tset 0 m (8 * c + k) (tget 0 m (8 * c + k) +
      (((upto 8).map (fun c => mmaSum fmt (chunkAt v0 v1 off) (if bank then y.w1 else y.w0) c (tget Scale.zero y.xsc k).konst
        (tget Scale.zero y.wsc c).konst)).getD c (0, 0)).1)) y.g
    mmas := tset 0 y.mmas k (tget 0 y.mmas k + 1)
    accAt := tset 0 y.accAt k (y.cycle + 1)
    bankAt := tset 0 y.bankAt (b2n bank) (y.cycle + 1) }

/-- An MMA without DIAG adds its chunk and closes the group where it is complete. -/
theorem Tile.mma_tile (x : Tile) (hd : NumHdr) (v0 v1 : Burst) (off : Nat) (bank : Bool) (k fmt : Nat) (zero : Bool) :
    (x.mma hd v0 v1 off bank k fmt false zero).1 =
      if ((if zero then 0 else tget 0 x.mmas k) + 1) % (groupSize hd.gsel / chunkLen fmt) = 0
      then ((x.mmaAdded v0 v1 off bank k fmt zero).closeRow hd k).1 else x.mmaAdded v0 v1 off bank k fmt zero := by
  rw [← Tile.mmaStart_mmas x k zero]
  exact apply_ite Prod.fst ((tget 0 (x.mmaStart k zero).mmas k + 1) % (groupSize hd.gsel / chunkLen fmt) = 0)
    ((x.mmaAdded v0 v1 off bank k fmt zero).closeRow hd k) (x.mmaAdded v0 v1 off bank k fmt zero, 0)

theorem Tile.mmaAdded_other (x : Tile) (v0 v1 : Burst) (off : Nat) (bank : Bool) {k k' : Nat} (fmt c : Nat) (zero : Bool) (hk : k < 8)
    (hk' : k' < 8) (h : k' ≠ k) :
    tget 0 (x.mmaAdded v0 v1 off bank k fmt zero).g (8 * c + k') = tget 0 x.g (8 * c + k') ∧
    tget 0#32 (x.mmaAdded v0 v1 off bank k fmt zero).a (8 * c + k') = tget 0#32 x.a (8 * c + k') := by
  obtain ⟨hg, ha⟩ := x.mmaStart_other c zero hk hk' h
  exact ⟨(tget_foldl_of_ne 0 (8 * · + k) _ (fun a _ => row_key_ne hk hk' h) _).trans hg, ha⟩

theorem Tile.mma_other (x : Tile) (hd : NumHdr) (v0 v1 : Burst) (off : Nat) (bank : Bool) {k k' : Nat} (fmt c : Nat) (zero : Bool)
    (hk : k < 8) (hk' : k' < 8) (h : k' ≠ k) : let y := (x.mma hd v0 v1 off bank k fmt false zero).1
    tget 0 y.g (8 * c + k') = tget 0 x.g (8 * c + k') ∧ tget 0#32 y.a (8 * c + k') = tget 0#32 x.a (8 * c + k') := by
  intro y
  obtain ⟨hg, ha⟩ := x.mmaAdded_other v0 v1 off bank fmt c zero hk hk' h
  simp only [y, Tile.mma_tile]
  generalize (if zero then 0 else tget 0 x.mmas k) + 1 = n
  split_ifs
  · obtain ⟨hg', ha'⟩ := (x.mmaAdded v0 v1 off bank k fmt zero).closeRow_other hd c hk hk' h
    exact ⟨hg'.trans hg, ha'.trans ha⟩
  · exact ⟨hg, ha⟩

theorem Tile.mmaAdded_g (x : Tile) (v0 v1 : Burst) (off : Nat) (bank : Bool) {k c : Nat} (fmt : Nat) (zero : Bool) (hc : c < 8) :
    tget 0 (x.mmaAdded v0 v1 off bank k fmt zero).g (8 * c + k) =
      (if zero then 0 else tget 0 x.g (8 * c + k)) + x.mmaGain v0 v1 off bank k fmt c := by
  have hy : x.mmaStart k zero = { x with a := (x.mmaStart k zero).a, g := (x.mmaStart k zero).g, mmas := (x.mmaStart k zero).mmas } := by
    cases zero <;> rfl
  unfold Tile.mmaAdded
  dsimp only
  rw [tget_foldl_add (8 * · + k), filter_row_key hc, Tile.mmaStart_g x zero hc, hy, List.map_singleton, List.sum_singleton]
  dsimp only
  rw [List.getD_eq_getElem?_getD, List.getElem?_map, show (upto 8)[c]? = some c from List.getElem?_range hc]
  rfl

/-! ## Products of integer elements -/

theorem foldl_pair_fst (f : Nat → Int) (g : Nat → Nat) (l : List Nat) : ∀ p : Int × Nat,
    (l.foldl (fun a j => (a.1 + f j, a.2 + g j)) p).1 = p.1 + (l.map f).sum := by
  induction l with
  | nil => intro p; simp
  | cons a l ih =>
    intro p
    rw [List.foldl_cons, ih, List.map_cons, List.sum_cons]
    omega

theorem mmaSum_fst (fmt : Nat) (x : Burst) (w : BitVec 512) (c : Nat) (kx kw : Bool) :
    (mmaSum fmt x w c kx kw).1 =
      ((upto (chunkLen fmt)).map (fun j => (mmaElem fmt kx (elemAt fmt x j)).1 * (mmaElem fmt kw (weightAt fmt w j c)).1)).sum :=
  (foldl_pair_fst _ _ _ (0, 0)).trans (zero_add _)

/-- A field inside the low `m` bits. -/
theorem field_of_mod (a : Nat) {i n m : Nat} (h : i + n ≤ m) : a % 2 ^ m / 2 ^ i % 2 ^ n = a / 2 ^ i % 2 ^ n := by
  obtain ⟨d, rfl⟩ := Nat.le.dest h
  rw [show i + n + d = i + (n + d) by omega, Nat.pow_add, Nat.mod_mul_right_div_self, Nat.pow_add, Nat.mod_mul_right_mod]

theorem chunkAt_field (v0 v1 : Burst) {off i n : Nat} (ho : off < 4) (hi : i + n ≤ 64) :
    (chunkAt v0 v1 off).toNat / 2 ^ i % 2 ^ n = v0.toNat / 2 ^ (64 * off + i) % 2 ^ n := by
  have hlow : (v0.toNat + 2 ^ 256 * v1.toNat) / 2 ^ (64 * off) % 2 ^ 64 = v0.toNat / 2 ^ (64 * off) % 2 ^ 64 := by
    interval_cases off <;> omega
  rw [chunkAt, hlow, BitVec.toNat_ofNat, Nat.mod_eq_of_lt (lt_of_lt_of_le (Nat.mod_lt _ (by decide)) (by decide)), field_of_mod _ hi,
    Nat.div_div_eq_div_mul, ← Nat.pow_add]

/-- Elements of an integer format count in units of 2^-16, their products in units of 2^-32. -/
theorem int_products (w : Nat) (f g : Nat → Nat) (l : List Nat) :
    (l.map (fun j => sInt w (f j) * 65536 * (sInt w (g j) * 65536))).sum = 2 ^ 32 * (l.map (fun j => sInt w (f j) * sInt w (g j))).sum := by
  rw [← List.sum_map_mul_left]
  exact congrArg List.sum (List.map_congr_left fun j _ => by ring)

section
variable (x : Tile) (v0 v1 : Burst) {off k c : Nat} (bank : Bool)

theorem Tile.mmaGain_int8 (ho : off < 4) (hx : (tget Scale.zero x.xsc k).konst = false) (hw : (tget Scale.zero x.wsc c).konst = false) :
    x.mmaGain v0 v1 off bank k 2 c = 2 ^ 32 * ((upto 8).map (fun j =>
      sInt 8 (byteOf v0 (8 * off + j)).toNat * sInt 8 (byteOf (if bank then x.w1 else x.w0) (8 * j + c)).toNat)).sum := by
  rw [Tile.mmaGain, mmaSum_fst, hx, hw, ← int_products]
  refine congrArg List.sum (List.map_congr_left fun j hj => ?_)
  have hj8 : j < 8 := List.mem_range.mp hj
  have hc := chunkAt_field v0 v1 (i := 8 * j) (n := 8) ho (by omega)
  have hv : (byteOf v0 (8 * off + j)).toNat = elemAt 2 (chunkAt v0 v1 off) j := by
    rw [byteOf, BitVec.toNat_ofNat, show 8 * (8 * off + j) = 64 * off + 8 * j by omega]
    exact hc.symm
  have hb : (byteOf (if bank then x.w1 else x.w0) (8 * j + c)).toNat = weightAt 2 (if bank then x.w1 else x.w0) j c := by
    rw [byteOf, BitVec.toNat_ofNat]
    rfl
  rw [hv, hb]
  rfl

theorem Tile.mmaGain_int4 (ho : off < 4) (hx : (tget Scale.zero x.xsc k).konst = false) (hw : (tget Scale.zero x.wsc c).konst = false) :
    x.mmaGain v0 v1 off bank k 4 c = 2 ^ 32 * ((upto 16).map (fun j =>
      sInt 4 (v0.toNat / 2 ^ (64 * off + 4 * j) % 16) *
        sInt 4 ((if bank then x.w1 else x.w0).toNat / 2 ^ (4 * (8 * j + c)) % 16))).sum := by
  rw [Tile.mmaGain, mmaSum_fst, hx, hw, ← int_products]
  refine congrArg List.sum (List.map_congr_left fun j hj => ?_)
  have hj16 : j < 16 := List.mem_range.mp hj
  have hc := chunkAt_field v0 v1 (i := 4 * j) (n := 4) ho (by omega)
  rw [show (16 : Nat) = 2 ^ 4 from rfl, ← hc]
  rfl

end

theorem mmaAddsIntegerProducts : Claims.MmaAddsIntegerProducts := by
  intro x hd v0 v1 off bank zero k c ho hk hc hkx hkw n w old y8 y4
  refine ⟨fun hn => ?_, fun hn => ?_, fun k' c' hk' hc' hne => x.mma_other hd v0 v1 off bank 2 c' zero hk hk' hne⟩
  · rw [show y8 = x.mmaAdded v0 v1 off bank k 2 zero from (Tile.mma_tile ..).trans (if_neg hn), Tile.mmaAdded_g x v0 v1 off bank 2 zero hc,
      Tile.mmaGain_int8 x v0 v1 bank ho hkx hkw]
  · rw [show y4 = x.mmaAdded v0 v1 off bank k 4 zero from (Tile.mma_tile ..).trans (if_neg hn), Tile.mmaAdded_g x v0 v1 off bank 4 zero hc,
      Tile.mmaGain_int4 x v0 v1 bank ho hkx hkw]

end Sys2Proof.Machine
end

section
/-! SUPPORT. What kernel positions read, the expanded row, and the operators that stay on the map (R154 to R162, R167, R169 to R172). -/

namespace Sys2Proof.Machine

open Sys2Proof

/-! ## Kernel positions (R154 to R156) -/

theorem Spatial.tap_eq_some_iff (p : Spatial) (oy ox kh kw y x : Nat) :
    p.tap oy ox kh kw = some (y, x) ↔ (y : Int) = p.rowAt oy kh ∧ (x : Int) = p.colAt ox kw ∧ y < p.inH ∧ x < p.inW := by
  unfold Spatial.tap
  dsimp only
  split_ifs with h
  · simp only [Option.some.injEq, Prod.mk.injEq]
    omega
  · simp only [false_iff]
    omega

theorem Spatial.element_of_padding {p : Spatial} {oy ox kh kw : Nat} (h : p.tap oy ox kh kw = none) (m : FMap) (ci : Nat) :
    p.element m ci oy ox kh kw = p.fillWord := by
  simp only [Spatial.element, h]

/-- The kernel position of a flat index inside the kernel. -/
theorem kernel_position {kH kW i : Nat} (h : i < kH * kW) : i / kW < kH ∧ i % kW < kW := by
  have hw : 0 < kW := Nat.pos_of_ne_zero fun e => by simp [e] at h
  exact ⟨(Nat.div_lt_iff_lt_mul hw).mpr h, Nat.mod_lt _ hw⟩

section
variable {p : Spatial} {oy ox : Nat}

/-- In a window of padding only every flat index of the kernel is padding. -/
theorem Spatial.tap_of_padding (h : ∀ i j, i < p.kH → j < p.kW → p.tap oy ox i j = none) {i : Nat} (hi : i < p.kH * p.kW) :
    p.tap oy ox (i / p.kW) (i % p.kW) = none := by
  obtain ⟨h1, h2⟩ := kernel_position hi
  exact h _ _ h1 h2

theorem Spatial.window_of_padding (h : ∀ i j, i < p.kH → j < p.kW → p.tap oy ox i j = none) (m : FMap) (c : Nat) :
    p.window m c oy ox = [] := by
  refine List.filterMap_eq_nil_iff.mpr fun i hi => ?_
  rw [Spatial.tap_of_padding h (List.mem_range.mp hi)]
  rfl

theorem Spatial.conv_of_padding (h : ∀ i j, i < p.kH → j < p.kW → p.tap oy ox i j = none) (m m' : FMap) (wt : Nat → Q) (bias : Word)
    (g : Nat) : p.conv m wt bias g oy ox = p.conv m' wt bias g oy ox := by
  refine congrArg (Q.add · _) (List.foldl_ext _ _ _ fun a e he => ?_)
  have hlen : 0 < p.len := Nat.pos_of_mul_pos_left (lt_of_le_of_lt (Nat.zero_le e) (List.mem_range.mp he))
  have htap : p.tap oy ox (e % p.len / p.kW) (e % p.len % p.kW) = none := Spatial.tap_of_padding h (Nat.mod_lt e hlen)
  rw [Spatial.element_of_padding htap, Spatial.element_of_padding htap]

end

theorem kernelPositionsReadTheMap : Claims.KernelPositionsReadTheMap := by
  intro p m m' g ci oy ox kh kw
  refine ⟨fun y x => p.tap_eq_some_iff oy ox kh kw y x, fun y x h => ?_, fun h => p.element_of_padding h m ci,
    fun h => ⟨fun wt bias => Spatial.conv_of_padding h m m' wt bias g, ?_⟩⟩
  · simp only [Spatial.element, h]
  · simp only [Spatial.poolMax, Spatial.window_of_padding h]
    rfl

/-! ## The expanded row (R157, R158, R160, R162, R167) -/

/-- The digits of a flat index of channel, kernel row and kernel column. -/
theorem flat_index {kH kW ci kh kw : Nat} (hh : kh < kH) (hw : kw < kW) : let e := kH * kW * ci + kW * kh + kw
    e / (kH * kW) = ci ∧ e % (kH * kW) / kW = kh ∧ e % (kH * kW) % kW = kw := by
  intro e
  have hlt : kW * kh + kw < kH * kW := by
    calc kW * kh + kw < kW * kh + kW := by omega
      _ = kW * (kh + 1) := by ring
      _ ≤ kH * kW := by rw [Nat.mul_comm kH]; exact Nat.mul_le_mul_left kW hh
  have he : e = kH * kW * ci + (kW * kh + kw) := Nat.add_assoc ..
  have hmod : e % (kH * kW) = kW * kh + kw := by rw [he, Nat.mul_add_mod, Nat.mod_eq_of_lt hlt]
  refine ⟨?_, ?_, ?_⟩
  · rw [he, Nat.mul_add_div (by omega), Nat.div_eq_of_lt hlt, Nat.add_zero]
  · rw [hmod, Nat.mul_add_div (by omega), Nat.div_eq_of_lt hw, Nat.add_zero]
  · rw [hmod, Nat.mul_add_mod, Nat.mod_eq_of_lt hw]

theorem Spatial.expanded_plain {p : Spatial} (m : FMap) (g oy ox : Nat) {ci kh kw : Nat} (hd : p.diag = false) (hh : kh < p.kH)
    (hw : kw < p.kW) (hc : ci < p.perGroup) :
    p.expanded m g oy ox (p.kH * p.kW * ci + p.kW * kh + kw) = p.element m (g * p.perGroup + ci) oy ox kh kw := by
  obtain ⟨h1, h2, h3⟩ := flat_index (ci := ci) hh hw
  have hpos : 0 < p.kH * p.kW := Nat.mul_pos (by omega) (by omega)
  have hlt : p.kH * p.kW * ci + p.kW * kh + kw < p.perGroup * p.len := (Nat.div_lt_iff_lt_mul hpos).mp (by rw [h1]; exact hc)
  simp only [Spatial.expanded, hd, Bool.false_eq_true, if_false, if_pos hlt]
  rw [Spatial.len, h1, h2, h3]

theorem Spatial.expanded_diag {p : Spatial} (m : FMap) (g oy ox : Nat) {ci kh kw : Nat} (hd : p.diag = true) (hh : kh < p.kH)
    (hw : kw < p.kW) (hc : ci < 8) (hin : 8 * g + ci < p.cIn) : let i := p.kW * kh + kw
    p.expanded m g oy ox (64 * (i / 8) + 8 * ci + i % 8) = p.element m (8 * g + ci) oy ox kh kw := by
  intro i
  obtain ⟨h1, h2, h3⟩ := flat_index (ci := 0) hh hw
  rw [Nat.mul_zero, Nat.zero_add] at h1 h2 h3
  have hpos : 0 < p.kH * p.kW := Nat.mul_pos (by omega) (by omega)
  have hlt : i < p.kH * p.kW := (Nat.div_eq_zero_iff_lt hpos).mp h1
  rw [Nat.mod_eq_of_lt hlt] at h2 h3
  have ei : 8 * ((64 * (i / 8) + 8 * ci + i % 8) / 64) + (64 * (i / 8) + 8 * ci + i % 8) % 8 = i := by omega
  have ec : (64 * (i / 8) + 8 * ci + i % 8) / 8 % 8 = ci := by omega
  simp only [Spatial.expanded, hd, if_true, ei, ec]
  rw [if_pos ⟨hlt, hin⟩, h2, h3]

theorem expandedRowsFollowTheKernel : Claims.ExpandedRowsFollowTheKernel := by
  intro p m g ci oy ox kh kw hh hw
  refine ⟨fun hd hc => Spatial.expanded_plain m g oy ox hd hh hw hc, fun hd e he => ?_,
    fun hd hc hin => Spatial.expanded_diag m g oy ox hd hh hw hc hin, fun gs => ⟨?_, fun hox v hv => ?_⟩, fun op y o ho hwant => ?_,
    fun op y => ?_⟩
  · simp only [Spatial.expanded, hd, Bool.false_eq_true, if_false]
    exact if_neg (Nat.not_lt.mpr he)
  · rw [Spatial.blockRow, List.length_map, upto, List.length_range]
  · obtain ⟨e, _, rfl⟩ := List.mem_map.mp hv
    exact if_neg (Nat.not_lt.mpr hox)
  · obtain ⟨k, hk, hr⟩ := List.any_eq_true.mp hwant
    obtain ⟨hle, hread⟩ := Bool.and_eq_true_iff.mp hr
    exact List.any_eq_true.mpr ⟨k, hk, Bool.and_eq_true_iff.mpr ⟨decide_eq_true (ho.trans (of_decide_eq_true hle)), hread⟩⟩
  · simp only [Spatial.covered, Spatial.wanted, Nat.zero_le, decide_true, Bool.true_and]

/-! ## Pooling and resampling (R169 to R172) -/

/-- A fraction cut off above at a whole number has its floor at or below it. -/
theorem Q.floor_min_ofInt_le {a : Q} (ha : 0 < a.den) (k : Int) : (a.min (Q.ofInt k)).floor ≤ k := by
  have hd : (0 : Int) < a.den := Int.natCast_pos.mpr ha
  unfold Q.min
  split_ifs with h
  · have h' : a.num ≤ k * a.den := by simpa [Q.le, Q.ofInt] using h
    exact Int.ediv_le_of_le_mul hd h'
  · simp [Q.floor, Q.ofInt]

/-- The half-pixel rule reads two neighbours on the axis, or one twice. -/
theorem lerp_positions {f n : Nat} (hf : 0 < f) (hn : 0 < n) (o : Nat) : let l := lerp f n o
    l.i0 < n ∧ l.i1 < n ∧ l.i0 ≤ l.i1 ∧ l.i1 ≤ l.i0 + 1 := by
  intro l
  have hden : 0 < (((((Q.ofInt o).add ⟨1, 2⟩).mul ⟨1, f⟩).sub ⟨1, 2⟩).max (Q.ofInt 0)).den := by
    unfold Q.max
    split_ifs
    · exact Nat.one_pos
    · simp only [Q.ofInt, Q.add, Q.mul, Q.sub]
      omega
  have hfloor := Q.floor_min_ofInt_le hden ((n : Int) - 1)
  have h0 : l.i0 < n := by
    change (Q.floor _).toNat < n
    omega
  have h1 : l.i1 = min (l.i0 + 1) (n - 1) := rfl
  omega

theorem Spatial.bilinear_congr {p : Spatial} {m m' : FMap} {c oy ox : Nat} (hH : 0 < p.fH) (hW : 0 < p.fW) (hy : oy < p.inH * p.fH)
    (hx : ox < p.inW * p.fW) (h : ∀ y x, y < p.inH → x < p.inW → m c y x = m' c y x) : p.bilinear m c oy ox = p.bilinear m' c oy ox := by
  obtain ⟨hy0, hy1, -, -⟩ := lerp_positions (n := p.inH) hH (Nat.pos_of_ne_zero fun e => by simp [e] at hy) oy
  obtain ⟨hx0, hx1, -, -⟩ := lerp_positions (n := p.inW) hW (Nat.pos_of_ne_zero fun e => by simp [e] at hx) ox
  have hline : ∀ y, y < p.inH →
      (if p.fW = 1 then (m c y ox, 0) else blend (fNum (lerp p.fW p.inW ox).w0) (fNum (lerp p.fW p.inW ox).w1)
        (m c y (lerp p.fW p.inW ox).i0) (m c y (lerp p.fW p.inW ox).i1)) =
      (if p.fW = 1 then (m' c y ox, 0) else blend (fNum (lerp p.fW p.inW ox).w0) (fNum (lerp p.fW p.inW ox).w1)
        (m' c y (lerp p.fW p.inW ox).i0) (m' c y (lerp p.fW p.inW ox).i1)) := fun y hyb => by
    rw [h y _ hyb hx0, h y _ hyb hx1]
    split_ifs with h1
    · rw [h y ox hyb (by rwa [h1, Nat.mul_one] at hx)]
    · rfl
  unfold Spatial.bilinear
  dsimp only
  rw [hline _ hy0, hline _ hy1]
  split_ifs with h1 h2
  · rw [h oy ox (by rwa [h1, Nat.mul_one] at hy) (by rwa [h2, Nat.mul_one] at hx)]
  · have := hline oy (by rwa [h1, Nat.mul_one] at hy)
    rwa [if_neg h2, if_neg h2] at this
  · rfl
  · rfl

theorem operatorsStayOnTheMap : Claims.OperatorsStayOnTheMap := by
  intro p m m' c oy ox f n o
  refine ⟨fun hc h => ?_, fun hf hn => lerp_positions hf hn o, fun hH hW hy hx h => ⟨?_, Spatial.bilinear_congr hH hW hy hx h⟩,
    fun hH hW => ⟨?_, ?_⟩⟩
  · simp only [Spatial.poolAvg, hc, Bool.false_eq_true, if_false, Spatial.window_of_padding h, List.isEmpty_nil, if_true]
    rfl
  · exact h _ _ ((Nat.div_lt_iff_lt_mul hH).mpr hy) ((Nat.div_lt_iff_lt_mul hW).mpr hx)
  · simp only [Spatial.bilinear, hH, hW, if_true]
  · simp only [Spatial.nearest, hH, hW, Nat.div_one]

/-- Settles O15: the instructions by the law of an issue, an MMA's sum by the writes of its row, and the operators by where a kernel
position or a resampled position lies on the map. -/
theorem arrayCommands : Obligations.ArrayCommands :=
  ⟨arrayInstructions, mmaAddsIntegerProducts, kernelPositionsReadTheMap, expandedRowsFollowTheKernel, operatorsStayOnTheMap⟩

end Sys2Proof.Machine
end

section
/-! SUPPORT. Cycles in which a tile issues nothing, or issues an instruction whose PRED is false (R86, R88 to R90, R114). -/

namespace Sys2Proof.Machine

open Sys2Proof

/-! ## What holds an instruction back (R89) -/

theorem issueChecksInOrder : Claims.IssueChecksInOrder := by
  intro x h n c hv hr
  have hruns : (if x.ruleMode c then x.handler.any (fun k => k.1 == c) else true) = true := by
    rcases hr with hr | ⟨k, hk, hc⟩
    · rw [hr]
      rfl
    · rw [hk, Option.any_some, hc, beq_self_eq_true, ite_self]
  have hstart : ∀ g, (if !x.predHolds h then Gate.go
      else if n.word x c && ((x.present h.qin.toNat c).isNone || (!n.isWait && x.rowsWait c h.qin.toNat)) then
        (if n.isWait then .wait else .stallIn)
      else if !x.creditsFor (n.lanes x c) then .stallOut
      else if n.hazard x then .hazard else .go) = g → issueStatus x h n c = g := fun g hg => by
    rw [← hg, issueStatus, hruns, hv]
    rfl
  have hwaits : (n.word x c && ((x.present h.qin.toNat c).isNone || (!n.isWait && x.rowsWait c h.qin.toNat))) = true ↔
      n.word x c = true ∧ (x.present h.qin.toNat c = none ∨ (n.isWait = false ∧ x.rowsWait c h.qin.toNat = true)) := by
    simp only [Bool.and_eq_true, Bool.or_eq_true, Option.isNone_iff_eq_none, Bool.not_eq_true']
  refine ⟨fun hp => hstart _ (by rw [hp]; rfl), fun hp => ⟨fun hw => hstart _ ?_, fun hw hl => hstart _ ?_, fun hw hl => hstart _ ?_⟩⟩
  · rw [hp, if_neg (by decide), if_pos (hwaits.mpr hw)]
  · obtain ⟨l, hmem, h0⟩ := hl
    have hcred : x.creditsFor (n.lanes x c) = false := List.all_eq_false.mpr ⟨l, hmem, by simp [h0]⟩
    rw [hp, if_neg (by decide), if_neg fun k => hw (hwaits.mp k), hcred]
    rfl
  · have hcred : x.creditsFor (n.lanes x c) = true := List.all_eq_true.mpr fun l hmem => by simp [hl l hmem]
    rw [hp, if_neg (by decide), if_neg fun k => hw (hwaits.mp k), hcred]
    rfl

/-! ## Cycles without an instruction (R114) -/

/-- Counting FULL cycles at queues moves nothing of a tile that its queues do not hold. -/
theorem State.countFull_keeps {β : Type} {p : Tile → β} (hp : ∀ y q v, p (y.setQueue q v) = p y) (s : State) (t t' : TileAddr) :
    p ((s.countFull t).tile t') = p (s.tile t') := by
  unfold State.countFull
  refine foldl_keeps (p := fun u => p (u.tile t')) (fun u l => ?_) _ s
  refine foldl_keeps (p := fun u => p (u.tile t')) (fun v d => ?_) _ u
  dsimp only
  rw [State.tile_setTile_of]
  split_ifs with ht
  · rw [ht, hp]
  · rfl

theorem State.countFull_course (s : State) (t t' : TileAddr) : ((s.countFull t).tile t').course = (s.tile t').course :=
  State.countFull_keeps (p := Tile.course) (fun _ _ _ => rfl) s t t'

theorem State.tileTick_course (s : State) (t : TileAddr) (k : Nat) :
    ((s.tileTick t k).tile t).course = { ((s.tile t).bump k).course with cycle := (s.tile t).cycle + 1, qbanks := 0#8 } := by
  unfold State.tileTick
  rw [State.tryRetire_course, State.tile_setTile]
  rfl

/-- The course of a counted cycle depends on the course alone. -/
theorem Tile.bump_course_congr {x y : Tile} (h : x.course = y.course) (k : Nat) :
    ({ (x.bump k).course with cycle := x.cycle + 1, qbanks := 0#8 } : Tile) =
      { (y.bump k).course with cycle := y.cycle + 1, qbanks := 0#8 } := by
  simp only [Tile.course, Tile.mk.injEq] at h
  simp only [Tile.course, Tile.bump, h]

/-- A cycle that issues nothing counts as `k`, and beside it only CTX_END words that are owed leave (R96, R114). -/
theorem State.idleCycle (s : State) (t : TileAddr) (c k : Nat) : let u := (s.countFull t).tileTick t k
    TileFrame s u t [] ∧ (u.tile t).content = (s.tile t).content ∧
    (u.tile t).course = { ((s.tile t).bump k).course with cycle := (s.tile t).cycle + 1, qbanks := 0#8 } ∧
    Sends s u t c 0#3 0#3 0#256 := by
  intro u
  have q : Quiet s u := (Quiet.countFull s t).trans (Quiet.tileTick _ t k)
  refine ⟨q.frame t [], q.content t, ?_, ?_⟩
  · rw [State.tileTick_course]
    exact Tile.bump_course_congr (s.countFull_course t t) k
  · obtain ⟨ends, he, hc⟩ := State.tryRetire_links ((s.countFull t).setTile t
      { ((s.countFull t).tile t).bump k with cycle := (((s.countFull t).tile t).bump k).cycle + 1, qbanks := 0 }) t
    exact sends_nothing ⟨ends, by rw [List.append_nil, ← s.countFull_links t]; exact he, hc⟩ t c

/-! ## A cycle that comes to the checks of R89 -/

/-- Tile `t` runs, nothing stands in the way of slot `c`, and the slot's word spells the command. -/
structure Reaches (s : State) (t : TileAddr) (h : Hdr) (c : Nat) (i : Instr) : Prop where
  tile : isTile t = true
  wf : h.wf = true
  window : s.boundaryDue = false
  running : s.tileOn t = true
  freeze : (s.tile t).freeze = false
  going : s.fab.stopped = false
  ownAbort : (s.tile t).aborting = none
  slot : issueSlot (s.tile t) = c
  noAbort : (s.tile t).abortHeads c = []
  valid : (s.tile t).slotValid c = true
  spells : (s.tile t).meets c i = true

section
variable {s : State} {t : TileAddr} {h : Hdr} {c : Nat} {i : Instr} {n : Need} {eff : State → Nat → Option QWord → State × Flow}

theorem Reaches.codes (R : Reaches s t h c i) : ¬(h.pred.toNat = 3 ∨ h.out.toNat = 7) := by
  obtain ⟨h1, h2⟩ := Bool.and_eq_true_iff.mp R.wf
  rintro (e | e)
  · exact absurd (BitVec.eq_of_toNat_eq (y := 3#2) e) (by simpa using h1)
  · exact absurd (BitVec.eq_of_toNat_eq (y := 7#3) e) (by simpa using h2)

/-- A check that holds the instruction counts the cycle as its own (R89, R114). -/
theorem Reaches.stalls (R : Reaches s t h c i) {g : Gate} {m : Nat} (hg : s.issueGate t h n c = g)
    (hm : g = .wait ∧ m = cWait ∨ g = .stallIn ∧ m = cStallIn ∨ g = .stallOut ∧ m = cStallOut ∨ g = .hazard ∧ m = cHazard) :
    s.tileCycle i t h n eff = .next ((s.countFull t).tileTick t m) := by
  unfold State.tileCycle
  rw [State.openWindows_of_not_due R.window]
  dsimp only
  rw [R.slot, hg, if_neg (by simp [R.tile]), if_neg R.codes, if_neg (by simp [R.running]), if_neg (by simp [R.freeze, R.going]),
    if_neg (by simp [R.ownAbort, R.noAbort]), if_neg (by simp [R.valid]), if_neg (by simp [R.spells])]
  rcases hm with ⟨rfl, rfl⟩ | ⟨rfl, rfl⟩ | ⟨rfl, rfl⟩ | ⟨rfl, rfl⟩ <;> rfl

theorem Reaches.stall_completes (R : Reaches s t h c i) {g : Gate} {m : Nat} (hi : exec i s = s.tileCycle i t h n eff)
    (hg : s.issueGate t h n c = g)
    (hm : g = .wait ∧ m = cWait ∨ g = .stallIn ∧ m = cStallIn ∨ g = .stallOut ∧ m = cStallOut ∨ g = .hazard ∧ m = cHazard) :
    Completes i s (fun u => TileFrame s u t [] ∧ (u.tile t).content = (s.tile t).content ∧
      (u.tile t).course = { ((s.tile t).bump m).course with cycle := (s.tile t).cycle + 1, qbanks := 0#8 } ∧
      Sends s u t c 0#3 0#3 0#256) :=
  ⟨_, hi.trans (R.stalls hg hm), s.idleCycle t c m⟩

/-- An instruction whose PRED is false issues at once, whatever it would have needed (R86). -/
theorem Reaches.falsePred (R : Reaches s t h c i) (hf : h.fetch = .ok) (hr : (s.tile t).retiring = none)
    (hp : (s.tile t).predHolds h = false)
    (hrun : (s.tile t).ruleMode c = false ∨ ∃ k, (s.tile t).handler = some k ∧ k.1 = c) :
    s.tileCycle i t h n eff = .next ((s.countFull t).afterIssue t h c .on false) := by
  have hgate : s.issueGate t h n c = .go := by
    have hgo : issueStatus (s.tile t) h n c = .go := (issueChecksInOrder (s.tile t) h n c R.valid hrun).1 hp
    simp [State.issueGate, hgo, hp]
  have hret : issuesRetiring (s.tile t) = false := by rw [issuesRetiring, hr]; rfl
  unfold State.tileCycle
  rw [State.openWindows_of_not_due R.window]
  dsimp only
  rw [R.slot, hgate, if_neg (by simp [R.tile]), if_neg R.codes, if_neg (by simp [R.running]), if_neg (by simp [R.freeze, R.going]),
    if_neg (by simp [R.ownAbort, R.noAbort]), if_neg (by simp [R.valid]), if_neg (by simp [R.spells])]
  dsimp only
  rw [hf, if_neg (by decide), hret, if_neg (by simp [hp])]
  rfl

theorem State.afterIssue_course (s : State) (t : TileAddr) (h : Hdr) (c : Nat) (f : Flow) (r : Bool) :
    ((s.afterIssue t h c f r).tile t).course = ((s.tile t).advance h c f r).course := by
  unfold State.afterIssue
  rw [State.tryRetire_course, State.tile_setTile]

theorem State.afterIssue_queue (s : State) (t : TileAddr) (h : Hdr) (c : Nat) (f : Flow) (r : Bool) (q : Nat) :
    ((s.afterIssue t h c f r).tile t).queue q = (s.tile t).queue q := by
  unfold State.afterIssue
  rw [State.tryRetire_queue, State.tile_setTile, Tile.advance_eq]
  rfl

/-- An issue without an effect moves its tile on, and takes and sends nothing. -/
theorem State.emptyIssue (s : State) (t : TileAddr) (h : Hdr) (c : Nat) : let u := (s.countFull t).afterIssue t h c .on false
    TileFrame s u t [] ∧ (u.tile t).content = (s.tile t).content ∧
    (u.tile t).course = ((s.tile t).advance h c .on false).course ∧ Sends s u t c 0#3 0#3 0#256 ∧
    ∀ q, ((u.tile t).queue q).words = ((s.tile t).queue q).words := by
  intro u
  have q : Quiet s u := (Quiet.countFull s t).trans (Quiet.afterIssue _ t h c .on false)
  refine ⟨q.frame t [], q.content t, ?_, ?_, fun k => ?_⟩
  · exact (State.afterIssue_course ..).trans
      (Tile.advance_course_congr ((Quiet.countFull s t).content t) (s.countFull_course t t) h c .on false)
  · obtain ⟨ends, he, hc⟩ := State.afterIssue_links (s.countFull t) t h c .on false
    exact sends_nothing ⟨ends, by rw [List.append_nil, ← s.countFull_links t]; exact he, hc⟩ t c
  · rw [← s.countFull_sameWords t t k]
    exact congrArg Queue.words (State.afterIssue_queue (s.countFull t) t h c .on false k)

end

theorem exec_nop_cycle (t : TileAddr) (h : Hdr) (s : State) :
    exec (.nop t h) s = s.tileCycle (.nop t h) t h (needOf h) (fun u _ _ => (u, .on)) := rfl

theorem exec_jmp_cycle (t : TileAddr) (h : Hdr) (target : BitVec 13) (s : State) :
    exec (.jmp t h target) s = s.tileCycle (.jmp t h target) t h (needOf h) (fun u _ _ => (u, .jump target.toNat)) := rfl

theorem State.scalar2_cycle (s : State) (i : Instr) (t : TileAddr) (h : Hdr) (sd sa sb : BitVec 6) (f : Word → Word → Word) :
    ∃ eff, s.scalar2 i t h sd sa sb f = s.tileCycle i t h (needOf h) eff := by
  unfold State.scalar2
  exact ⟨_, rfl⟩

theorem State.vec2_cycle (s : State) (i : Instr) (t : TileAddr) (h : Hdr) (lw : LaneW) (op : BitVec 3) (vd va vb : BitVec 4)
    (q : Q → Q → Q) (f : Word → Word → Word) : ∃ eff, s.vec2 i t h lw op vd va vb q f = s.tileCycle i t h (needOf h) eff := by
  unfold State.vec2
  exact ⟨_, rfl⟩

theorem stallsHoldTheStep : Claims.StallsHoldTheStep := by
  intro s t h bank word ecc k vd bias reg htile hwf hwin hon hfr hgo hab hword holds
  have reach : ∀ i, (s.tile t).abortHeads (issueSlot (s.tile t)) = [] → (s.tile t).slotValid (issueSlot (s.tile t)) = true →
      (s.tile t).meets (issueSlot (s.tile t)) i = true → Reaches s t h (issueSlot (s.tile t)) i := fun i h1 h2 h3 =>
    ⟨htile, hwf, hwin, hon, hfr, hgo, hab, rfl, h1, h2, h3⟩
  have hl : ¬ lastWord < word.toNat + 7 := by have := le_lastWord_of_wfWord hword; omega
  refine ⟨fun h1 h2 h3 g m hg hm => (reach _ h1 h2 h3).stall_completes (exec_nop_cycle t h s) hg hm,
    fun h1 h2 h3 g m hg hm => (reach _ h1 h2 h3).stall_completes (exec_wait ..) hg hm, fun h1 h2 h3 g m hg hm => ?_,
    fun h1 h2 h3 g m hg hm => (reach _ h1 h2 h3).stall_completes ((exec_ldw ..).trans (if_neg hl)) hg hm,
    fun h1 h2 h3 g m hg hm => (reach _ h1 h2 h3).stall_completes (exec_acc ..) hg hm⟩
  have hfound : Reaches s t (h.found ecc) (issueSlot (s.tile t)) (.rcv t h reg ecc) :=
    ⟨htile, hwf, hwin, hon, hfr, hgo, hab, rfl, h1, h2, h3⟩
  exact hfound.stall_completes (exec_rcv ..) hg hm

theorem falsePredicateIssuesAsNop : Claims.FalsePredicateIssuesAsNop := by
  intro s t h a b d va vb vd word target reg htile hwf hfetch hwin hon hfr hgo hab hret x c hheads hvalid hrun hpred hword i hmem hmeets
  have hslot : issueSlot (s.tile t) = c := by
    have hr : issuesRetiring (s.tile t) = false := by rw [issuesRetiring, hret]; rfl
    rw [issueSlot, hr]
    rfl
  have hruns : x.ruleMode c = false ∨ ∃ k, x.handler = some k ∧ k.1 = c := by
    cases hm : x.ruleMode c with
    | false => exact .inl rfl
    | true => exact .inr (hrun hm)
  have hl : ¬ lastWord < word.toNat + 3 := by have := le_lastWord_of_wfWord hword; omega
  have R : Reaches s t h c i := ⟨htile, hwf, hwin, hon, hfr, hgo, hab, hslot, hheads, hvalid, hmeets⟩
  have done : ∀ {n eff}, exec i s = s.tileCycle i t h n eff → Completes i s (fun u => TileFrame s u t [] ∧ (u.tile t).content = x.content ∧
      (u.tile t).course = (x.advance h c .on false).course ∧ Sends s u t c 0#3 0#3 0#256 ∧
      ∀ q, ((u.tile t).queue q).words = (x.queue q).words) := fun hi =>
    ⟨_, hi.trans (R.falsePred hfetch hret hpred hruns), s.emptyIssue t h c⟩
  simp only [List.mem_cons, List.not_mem_nil, or_false] at hmem
  rcases hmem with rfl | rfl | rfl | rfl | rfl | rfl
  · obtain ⟨eff, he⟩ := s.scalar2_cycle (.scalarAdd t h d a b) t h d a b (· + ·)
    exact done ((exec_scalarAdd t h d a b s).trans he)
  · obtain ⟨eff, he⟩ := s.vec2_cycle (.vectorAdd t h .w32 vd va vb) t h .w32 0 vd va vb Q.add f32Add
    exact done ((exec_vectorAdd t h .w32 vd va vb s).trans he)
  · exact done (exec_jmp_cycle t h target s)
  · exact done ((exec_ldv ..).trans (if_neg hl))
  · exact done ((exec_stv ..).trans (if_neg hl))
  · have hfound : Reaches s t (h.found .ok) c (.rcv t h reg .ok) :=
      ⟨htile, hwf, hwin, hon, hfr, hgo, hab, hslot, hheads, hvalid, hmeets⟩
    exact ⟨_, (exec_rcv ..).trans (hfound.falsePred hfetch hret hpred hruns), s.emptyIssue t (h.found .ok) c⟩

/-- Settles O17: the checks of R89 are the branches of `issueStatus`, a check that holds counts the cycle and nothing more, and a false
PRED passes every check. -/
theorem issueStalls : Obligations.IssueStalls := ⟨stallsHoldTheStep, issueChecksInOrder, falsePredicateIssuesAsNop⟩

end Sys2Proof.Machine
end

section
/-! SUPPORT. What a tile does without an instruction: the choice of a rule (R90) and the taking of a CTX_END (R96). -/

namespace Sys2Proof.Machine

open Sys2Proof

/-! ## The choice of a rule (R90) -/

theorem ruleFireStartsNextReadyRule : Claims.RuleFireStartsNextReadyRule := by
  intro s t x c htile hon hret hvalid hrule hhandler hfr hgo hab hheads
  have hctx : x.contexts.filter (fun a => x.slotValid a && x.ruleMode a) = [c] := by
    rw [Tile.contexts, hret]
    change [c].filter _ = [c]
    simp [hvalid, hrule]
  have hheld : (x.freeze || s.fab.stopped || x.aborting.isSome || [c].any (fun a => !(x.abortHeads a).isEmpty)) = false := by
    simp [hfr, hgo, hab, hheads]
  have hexec : exec (.ruleFire ⟨t, .ok⟩) s = .next (
      match [c].filterMap (fun a => (issueNextRule x a).map (fun r => (a, r))) with
      | (a, r) :: _ => s.setTile t { x with
          rulePtr := BitVec.ofNat 3 r
          handler := some (a, fld (x.slotWord a (0x20 + 8 * r)) 28 16, fld (x.slotWord a (0x20 + 8 * r)) 4 0 + 1) }
      | [] => (s.countFull t).tileTick t cWait) := by
    rw [exec_ruleFire]
    unfold execRuleFire
    dsimp only
    rw [if_neg (by simp [htile]), hctx, hheld, hhandler, hon]
    rfl
  refine ⟨fun r hr _ => ?_, fun hnone => ⟨_, hexec, ?_⟩⟩
  · rw [hexec, List.filterMap_cons, hr]
    rfl
  · rw [List.filterMap_cons, hnone]
    exact s.idleCycle t c cWait

/-! ## The taking of a CTX_END (R96) -/

theorem isEnd_of_isCtxEnd {net : Nat} {w : QWord} (h : isCtxEnd net w = true) : isEnd net w = false := by
  unfold isCtxEnd at h
  unfold isEnd
  split_ifs at h ⊢
  · rw [beq_iff_eq.mp h]
    rfl
  · rw [beq_iff_eq.mp h]
    rfl

/-- A word read from a queue is the word stored, with its data from SRAM. -/
theorem Tile.wordAt_tag_kind (x : Tile) (q n : Nat) (w : QWord) : (x.wordAt q n w).tag = w.tag ∧ (x.wordAt q n w).kind = w.kind := by
  unfold Tile.wordAt
  dsimp only
  split_ifs <;> exact ⟨rfl, rfl⟩

theorem isCtxEnd_wordAt (x : Tile) (q n net : Nat) (w : QWord) : isCtxEnd net (x.wordAt q n w) = isCtxEnd net w := by
  unfold isCtxEnd
  rw [(x.wordAt_tag_kind q n w).2]

/-- A word that ends no frame leaves its queue, and nothing else of the tile changes. -/
theorem State.takeHead_tile {s : State} {t : TileAddr} {q : Nat} {w : QWord} {ws : List QWord} (hw : ((s.tile t).queue q).words = w :: ws)
    (hp : ((s.tile t).queue q).pend = []) (he : isEnd (netOfQueue q) w = false) :
    ∃ v : Queue, v.words = ws ∧ (s.takeHead t q).tile t = (s.tile t).setQueue q v := by
  have hsettle : ∀ (x : Tile) (v : Queue), v.pend = [] → (x.setQueue q v).settle q = x.setQueue q v := fun x v hv => by
    unfold Tile.settle
    rw [Tile.queue_setQueue, if_pos rfl]
    dsimp only
    rw [hv, List.length_nil, Nat.zero_min, if_pos rfl]
  have howe : ∀ (u : State), (u.owe t q w).tile t = u.tile t := fun u => by
    unfold State.owe
    split_ifs <;> rfl
  refine ⟨{ ((s.tile t).queue q) with
      words := ws, rpos := (((s.tile t).queue q).rpos + 1) % max ((s.tile t).queue q).depth 1
      begun := !isEnd (netOfQueue q) w && (((s.tile t).queue q).begun || !(isCtxEnd (netOfQueue q) w || isCtxSwitch (netOfQueue q) w)) },
    rfl, ?_⟩
  unfold State.takeHead
  dsimp only
  rw [hw]
  dsimp only
  rw [howe, State.tile_setTile, if_neg (by rw [he]; decide)]
  exact hsettle _ _ hp

/-- CTX_END words that leave move neither the markers taken nor a retirement. -/
theorem State.sendCtxEnds_delivered (s : State) (t : TileAddr) :
    ((s.sendCtxEnds t).tile t).delivered = (s.tile t).delivered ∧ ((s.sendCtxEnds t).tile t).retiring = (s.tile t).retiring := by
  have hk : (fun u : State => ((u.tile t).delivered, (u.tile t).retiring)) (s.sendCtxEnds t) =
      ((s.tile t).delivered, (s.tile t).retiring) := by
    unfold State.sendCtxEnds
    refine foldl_keeps (p := fun u : State => ((u.tile t).delivered, (u.tile t).retiring)) (fun u k => ?_) _ s
    dsimp only
    split_ifs
    · rfl
    · rw [State.sendLane_tile, State.tile_setTile]
  exact ⟨congrArg Prod.fst hk, congrArg Prod.snd hk⟩

/-- A marker taken stays until its retirement ends. -/
theorem State.tryRetire_delivered (s : State) (t : TileAddr) {k : Nat} (hk : k ∈ (s.tile t).delivered) :
    k ∈ ((s.tryRetire t).tile t).delivered ∨ ((s.tile t).retiring ≠ none ∧ ((s.tryRetire t).tile t).retiring = none) := by
  have hsend := fun u : State => u.sendCtxEnds_delivered t
  unfold State.tryRetire
  dsimp only
  cases hr : (s.tile t).retiring with
  | none => exact .inl ((hsend s).1 ▸ hk)
  | some a =>
    dsimp only
    split_ifs
    · exact .inr ⟨Option.some_ne_none a, by rw [(hsend _).2, State.tile_setTile]⟩
    · exact .inl ((hsend s).1 ▸ hk)

/-- What a cycle adds to the counts: one cycle of one counter, or nothing. -/
def addsOne (x y : Tile) (k : Option Nat) : Prop := ∀ j, tget 0#32 y.counts j = tget 0#32 x.counts j + if k = some j then 1#32 else 0#32

/-- The cycle after the marker is taken: it counts as the wait named, if any, and a retirement that is complete ends. -/
def State.afterMarker (v : State) (t : TileAddr) (k : Option Nat) : State :=
  match k with
  | some k => (v.countFull t).tileTick t k
  | none => v.tryRetire t

theorem State.afterMarker_spec (v : State) (t : TileAddr) (k : Option Nat) {d : Nat} (hd : d ∈ (v.tile t).delivered) :
    let u := v.afterMarker t k
    Quiet v u ∧ Adds v u [] ∧ addsOne (v.tile t) (u.tile t) k ∧ (∀ q, ((u.tile t).queue q).words = ((v.tile t).queue q).words) ∧
    (d ∈ (u.tile t).delivered ∨ ((v.tile t).retiring ≠ none ∧ (u.tile t).retiring = none)) := by
  cases k with
  | none =>
    obtain ⟨ends, he, hc⟩ := State.tryRetire_links v t
    refine ⟨Quiet.tryRetire v t, ⟨ends, by rw [List.append_nil]; exact he, hc⟩, fun j => ?_, fun q => ?_, v.tryRetire_delivered t hd⟩
    · have hcounts : ((v.tryRetire t).tile t).counts = (v.tile t).counts := (congrArg Tile.counts (v.tryRetire_course t) :)
      exact (congrArg (tget 0#32 · j) hcounts).trans (by simp)
    · exact congrArg Queue.words (v.tryRetire_queue t q)
  | some k =>
    obtain ⟨hf, -, hcourse, hsends⟩ := v.idleCycle t 0 k
    have hkeep := State.countFull_keeps (p := fun y : Tile => (y.delivered, y.retiring)) (fun _ _ _ => rfl) v t t
    have hdel : ((v.countFull t).tile t).delivered = (v.tile t).delivered := congrArg Prod.fst hkeep
    have hret : ((v.countFull t).tile t).retiring = (v.tile t).retiring := congrArg Prod.snd hkeep
    refine ⟨(Quiet.countFull v t).trans (Quiet.tileTick _ t k), hsends, fun j => ?_, fun q => ?_, ?_⟩
    · have hcounts : ((v.afterMarker t (some k)).tile t).counts = ((v.tile t).bump k).counts := (congrArg Tile.counts hcourse :)
      rw [hcounts, Tile.bump_counts]
      simp only [Option.some.injEq, eq_comm]
    · exact (congrArg Queue.words (State.tileTick_queue _ t k q)).trans (v.countFull_sameWords t t q)
    · set y := { ((v.countFull t).tile t).bump k with cycle := (((v.countFull t).tile t).bump k).cycle + 1, qbanks := 0 } with hy
      have hr := ((v.countFull t).setTile t y).tryRetire_delivered t (k := d) (by rw [State.tile_setTile]; exact hdel ▸ hd)
      rw [State.tile_setTile, show y.retiring = (v.tile t).retiring from hret] at hr
      exact hr

theorem ctxEndIsTaken : Claims.CtxEndIsTaken := by
  intro s t q w ws x htile hon hgo hw hp he
  obtain ⟨v, hv, htake⟩ := State.takeHead_tile hw hp (isEnd_of_isCtxEnd he)
  set u := s.takeHead t q.toNat
  set m := u.setTile t { (u.tile t) with delivered := (u.tile t).delivered ++ [16 * w.tag.toNat + q.toNat] } with hm
  have hexec : exec (.takeCtxEnd t q) s = .next (m.afterMarker t (s.waitCounter t)) := by
    have hhead : x.head q.toNat = some (x.wordAt q.toNat 0 w) := by
      unfold Tile.head
      dsimp only
      rw [hw]
    rw [exec_takeCtxEnd]
    unfold execTakeCtxEnd
    dsimp only
    rw [if_neg (by simp [htile]), if_pos (by simp [hon, hgo]), hhead]
    dsimp only
    rw [isCtxEnd_wordAt, if_pos he, (x.wordAt_tag_kind q.toNat 0 w).1]
    rfl
  have hmt : m.tile t = { (x.setQueue q.toNat v) with delivered := x.delivered ++ [16 * w.tag.toNat + q.toNat] } := by
    rw [hm, State.tile_setTile, htake]
    rfl
  obtain ⟨hq, ⟨ends, hl, hc⟩, hcounts, hwords, hdel⟩ := m.afterMarker_spec t (s.waitCounter t) (d := 16 * w.tag.toNat + q.toNat)
    (by rw [hmt]; exact List.mem_append_right _ (List.mem_singleton_self _))
  refine ⟨_, hexec, ?_, ?_, ?_, ?_, ⟨s.waitCounter t, ?_⟩, ?_⟩
  · rw [hwords, hmt]
    exact (congrArg Queue.words (Tile.queue_setQueue x q.toNat q.toNat v)).trans (by rw [if_pos rfl, hv])
  · rw [hq.content, hmt]
    rfl
  · exact ((s.takeHead_frame t q.toNat []).trans (TileFrame.setTile u t _ [])).trans (hq.frame t [])
  · refine sends_nothing ⟨ends, ?_, hc⟩ t 0
    rw [hl]
    exact congrArg (· ++ [] ++ ends) (s.takeHead_links t q.toNat)
  · intro j
    rw [hcounts j, hmt]
    rfl
  · rw [hmt] at hdel
    exact hdel

/-- Settles O18: RULE_FIRE is a choice among the ready rules of the one context, and a CTX_END is taken by one queue of the tile. -/
theorem tileTransitions : Obligations.TileTransitions := ⟨ruleFireStartsNextReadyRule, ctxEndIsTaken⟩

end Sys2Proof.Machine
end

section
/-! SUPPORT. Drain, bivouac and scan (R110 to R113): the commands by the state of the fabric, their ends, and a record's restore. -/

namespace Sys2Proof.Machine
open Sys2Proof

/-! ## Ignored commands (R388, R521) -/

theorem State.cfgIgn_reg (s : State) (b a : Nat) (h1 : a ≠ b * 0x10000 + 0x10) (h2 : a ≠ b * 0x10000 + 0x20) :
    (s.cfgIgn b).reg a = s.reg a := by
  rw [State.cfgIgn, State.reg_count, if_neg h2, State.reg_setBits, if_neg h1]

theorem State.cfgIgn_sets (s : State) (b : Nat) : (s.cfgIgn b).rbit (b * 0x10000 + 0x10) 31 = true := by
  rw [State.cfgIgn, State.rbit, State.reg_count, if_neg (by omega), ← State.rbit, State.rbit_setBits_self]
  simp

theorem State.cfgIgn_counts (s : State) (b : Nat) : (s.cfgIgn b).reg (b * 0x10000 + 0x20) = s.reg (b * 0x10000 + 0x20) + 1#32 := by
  rw [State.cfgIgn, State.reg_count, if_pos rfl, State.reg_setBits, if_neg (by omega)]

/-- A command whose result is an ignored configuration write is ignored. -/
theorem ignored_of_cfgIgn {s : State} {i : Instr} {b : Nat} (h : exec i s = .next (s.cfgIgn b)) : Claims.Ignored s i b :=
  ⟨_, h, s.cfgIgn_sets b, s.cfgIgn_counts b, s.cfgIgn_reg b, rfl⟩

/-! ## START, SCAN_IN and RESUME -/

theorem start_begins {s : State} (he : s.engineUp = true) (h : (s.remapping || s.draining || s.bivouac) = false) :
    Completes .start s (fun u =>
      u.draining = true ∧ (∀ a, a ≠ Reg.fabStat → u.reg a = s.reg a) ∧ u.besideFabric = s.besideFabric ∧
      u.fab = { s.fab with drainAt := s.clock.now, drainScan := s.rbit Reg.fabDrainCtl 0, drainGate := false,
                           stopped := s.rbit Reg.fabDrainCtl 0 }) := by
  have hx : exec .start s = .next (s.beginDrain (s.rbit Reg.fabDrainCtl 0) false) := by
    rw [exec_start, execStart, he, onlyIf_true, State.start, if_neg (by simp [h])]
  refine ⟨_, hx, ?_, fun a ha => ?_, rfl, rfl⟩
  · change (s.setBits Reg.fabStat 0x10#32).rbit Reg.fabStat 4 = true
    rw [State.rbit_setBits_self]
    simp
  · exact (s.reg_setBits Reg.fabStat a 0x10#32).trans (if_neg ha)

/-- What offers leave alone of the fabric. -/
theorem State.sendUnsent_fab (s : State) :
    s.sendUnsent.fab.stopped = s.fab.stopped ∧ s.sendUnsent.fab.drainGate = s.fab.drainGate := by
  have hoffer : ∀ (u : State) (l : LinkWord), (u.offer l).fab.stopped = u.fab.stopped ∧
      (u.offer l).fab.drainGate = u.fab.drainGate := fun u l => by
    rw [State.offer_fab]
    split_ifs
    · exact ⟨rfl, rfl⟩
    · exact ⟨rfl, rfl⟩
  exact ⟨foldl_keeps (p := fun u => u.fab.stopped) (fun u l => (hoffer u l).1) _ _,
    foldl_keeps (p := fun u => u.fab.drainGate) (fun u l => (hoffer u l).2) _ _⟩

theorem OnlyFab.sendUnsent (s : State) : OnlyFab s s.sendUnsent := by
  obtain ⟨fb, h⟩ := OnlyFab.foldl OnlyFab.offer s.fab.unsent { s with fab := { s.fab with unsent := [] } }
  exact ⟨fb, h⟩

theorem State.sendUnsent_nothing {s : State} (h : s.fab.unsent = []) : s.sendUnsent = s := by
  rw [State.sendUnsent, h, List.foldl_nil, ← h]

/-- The fabric enabled again, before the units send what found no room. -/
def State.enabledAgain (s : State) : State :=
  let u := ((s.setBits Reg.fabCtl 1#32).clrBits Reg.fabStat 0x20#32)
  { u with fab := { u.fab with stopped := false, drainGate := false } }

theorem resume_leaves {s : State} (he : s.engineUp = true) (h : (s.remapping || !s.bivouac || s.scanHeld) = false) :
    Completes .resume s (fun u =>
      u.rbit Reg.fabCtl 0 = true ∧ u.bivouac = false ∧ (∀ a, a ≠ Reg.fabStat → a ≠ Reg.fabCtl → u.reg a = s.reg a) ∧
      u.besideFabric = s.besideFabric ∧ u.fab.tiles = s.fab.tiles ∧ u.fab.stopped = false ∧ u.fab.drainGate = false ∧
      (s.fab.unsent = [] → u.fab = { s.fab with stopped := false, drainGate := false })) := by
  have hx : exec .resume s = .next s.leaveBivouac := by
    rw [exec_resume, execResume, he, onlyIf_true, State.resume, if_neg (by simp [h])]
  obtain ⟨hen, hbiv, -, -⟩ := s.leaveBivouac_spec
  obtain ⟨hregs, -, htiles⟩ := s.enabledAgain.sendUnsent_keeps
  obtain ⟨hstop, hgate⟩ := s.enabledAgain.sendUnsent_fab
  obtain ⟨fb, hfb⟩ := OnlyFab.sendUnsent s.enabledAgain
  refine ⟨_, hx, hen, hbiv, fun a h1 h2 => ?_, ?_, htiles, hstop, hgate, fun hun => ?_⟩
  · have hreg : s.leaveBivouac.reg a = ((s.setBits Reg.fabCtl 1#32).clrBits Reg.fabStat 0x20#32).reg a :=
      congrArg (tget 0#32 · a) hregs
    rw [hreg, State.reg_clrBits, if_neg h1, State.reg_setBits, if_neg h2]
  · exact (congrArg State.besideFabric hfb :)
  · exact congrArg State.fab (State.sendUnsent_nothing (s := s.enabledAgain) hun)

theorem drainCommandsByFabricState : Claims.DrainCommandsByFabricState := by
  intro s he
  refine ⟨fun h1 h2 h3 => start_begins he (by simp [h1, h2, h3]), fun h1 h2 h3 => ?_,
    fun h1 h2 h3 => resume_leaves he (by simp [h1, h2, h3]), fun h => ?_, fun h => ?_, fun h => ?_, fun h => ?_⟩
  · rw [exec_scanIn, execScanIn, he, onlyIf_true, State.scanIn, if_neg (by simp [h1, h2, h3])]
  · apply ignored_of_cfgIgn
    rw [exec_start, execStart, he, onlyIf_true, State.start, if_pos (by simpa [or_assoc] using h)]
  · apply ignored_of_cfgIgn
    rw [exec_scanIn, execScanIn, he, onlyIf_true, State.scanIn, if_pos (by simpa [or_assoc] using h)]
  · apply ignored_of_cfgIgn
    rw [exec_resume, execResume, he, onlyIf_true, State.resume, if_pos (by simpa [or_assoc] using h)]
  · apply ignored_of_cfgIgn
    rw [exec_flushAll, execFlushAll, he, onlyIf_true, State.flushAll, if_pos h]

/-! ## Words that land leave the power domains alone (R110) -/

theorem State.ite_pwr {s u v : State} {c : Prop} [Decidable c] (hu : u.pwr = s.pwr) (hv : v.pwr = s.pwr) :
    (if c then u else v).pwr = s.pwr := by
  split_ifs
  · exact hu
  · exact hv

section
variable (s : State)

theorem State.unitSend_pwr (unit net : Nat) (w : QWord) : (s.unitSend unit net w).pwr = s.pwr := by
  obtain ⟨fb, h⟩ := OnlyFab.unitSend s unit net w
  rw [h]

theorem State.owe_pwr (t : TileAddr) (q : Nat) (w : QWord) : (s.owe t q w).pwr = s.pwr := by
  unfold State.owe
  split_ifs
  · rfl
  · rfl

theorem State.enqueue_pwr (t : TileAddr) (q : Nat) (w : QWord) : (s.enqueue t q w).pwr = s.pwr := by
  unfold State.enqueue
  extract_lets
  split
  · exact State.owe_pwr ..
  · rfl

theorem State.sendCropOwed_pwr : s.sendCropOwed.pwr = s.pwr :=
  foldl_keeps (p := State.pwr) (fun u (o : Nat × BitVec 2 × Nat) => u.unitSend_pwr 8 0 (abortWord 0 o.2.1.toNat o.2.2 noSrc)) _ _

theorem State.freeSending_pwr (p : Frame → Bool) : (s.freeSending p).pwr = s.pwr :=
  foldl_keeps (p := State.pwr) (fun u (f : Frame) => u.freeSlot_pwr f.stream f.slot) _ _

theorem State.abortFrame_pwr (ordinal reason : Nat) : (s.abortFrame ordinal reason).pwr = s.pwr := by
  unfold State.abortFrame
  extract_lets p _ v u
  have hu : u.pwr = s.pwr := v.freeSending_pwr p
  split
  · rfl
  · exact State.ite_pwr ((State.sendCropOwed_pwr _).trans (State.ite_pwr hu hu)) (State.ite_pwr hu hu)

theorem State.reqWord_pwr (w : QWord) : (s.reqWord w).pwr = s.pwr := by
  unfold State.reqWord
  split
  · rfl
  · rfl

theorem State.sendOwed_pwr : s.sendOwed.pwr = s.pwr :=
  foldl_keeps (p := State.pwr) (fun u (o : CtxOwed) =>
    foldl_keeps (p := State.pwr) (fun v net => v.unitSend_pwr 6 net (endWord net o.tag (o.ended.getD 0))) [1, 0, 2] u) _ _

theorem State.reqEnd_pwr (ordinal reason : Nat) : (s.reqEnd ordinal reason).pwr = s.pwr := State.sendOwed_pwr _

theorem State.keepWord_pwr (unit ordinal key : Nat) (w : QWord) : (s.keepWord unit ordinal key w).pwr = s.pwr := by
  unfold State.keepWord
  split_ifs
  · rfl
  · rfl

theorem State.unitTake_pwr (t : TileAddr) (dir net : Nat) (w : QWord) : (s.unitTake t dir net w).pwr = s.pwr := by
  unfold State.unitTake
  split
  · rfl
  · extract_lets v _ _ _ _ owed put ended _ done
    have ho : owed.pwr = s.pwr := State.ite_pwr rfl rfl
    exact State.ite_pwr ho (State.ite_pwr (State.ite_pwr ho ho)
      (State.ite_pwr (State.ite_pwr ((State.reqEnd_pwr ..).trans ho) ((State.abortFrame_pwr ..).trans ho))
        (State.ite_pwr (State.ite_pwr ((State.reqEnd_pwr ..).trans ho) (State.ite_pwr ((State.keepWord_pwr ..).trans ho) ho))
          (State.ite_pwr ((State.reqWord_pwr ..).trans ho) (State.ite_pwr ((State.keepWord_pwr ..).trans ho) ho)))))

theorem State.unitsTake_pwr (t : TileAddr) (net wire : Nat) (w : QWord) : (s.unitsTake t net wire w).pwr = s.pwr :=
  foldl_keeps (p := State.pwr) (fun u (k : Nat) => u.unitTake_pwr (BitVec.ofNat 16 ((k - 2 ^ 20) / 4)) (k % 4) net w) _ _

theorem State.landWord_pwr (l : LinkWord) : (s.landWord l).pwr = s.pwr := by
  unfold State.landWord
  extract_lets ds
  split
  · rfl
  · refine (foldl_keeps (p := State.pwr) (fun u (d : TileAddr × Nat) => u.enqueue_pwr d.1 d.2 l.w) _ _).trans ?_
    split
    · exact State.unitTake_pwr ..
    · exact State.unitsTake_pwr ..

theorem State.landOnce_pwr : s.landOnce.pwr = s.pwr := foldl_keeps (p := State.pwr) State.landWord_pwr _ _

theorem State.scanOut_pwr : s.scanOut.pwr = s.pwr := s.landOnce.landOnce_pwr.trans s.landOnce_pwr

end

/-! ## The ends of a drain and of a scan-in -/

theorem Tile.emptied_words (x : Tile) (q : Nat) : (x.emptied.queue q).words = [] :=
  tget_tmap_prop (d := Queue.zero) (f := fun _ v => { v with words := [], pend := [] }) (P := fun v : Queue => v.words = []) rfl
    (fun _ _ => rfl) x.queues q

/-- A scan-out holds the records and leaves every queue empty. -/
theorem State.saveTiles_spec (s : State) :
    s.saveTiles.scanHeld = true ∧ ∀ t q, ((s.saveTiles.tile t).queue q).words = [] := by
  refine ⟨?_, fun t q => ?_⟩
  · rw [State.scanHeld, State.saveTiles, State.rbit, State.reg_setReg_ne _ _ (by decide), ← State.rbit, State.rbit_setBits_self]
    simp
  · exact tget_tmap_prop (P := fun x : Tile => (x.queue q).words = []) (d := Tile.zero) rfl (fun _ x => x.emptied_words q) _ t.toNat

/-- A state at the end of its drain, with the duration recorded (R110). -/
def State.drainEnded (u : State) (us : Nat) : State :=
  let w := (((u.clrBits Reg.fabStat 0x10#32).setBits Reg.fabStat 0x20#32).clrBits Reg.fabCtl 1#32).setReg Reg.fabDrainTime (BitVec.ofNat 32 us)
  { w with fab := { w.fab with stopped := false } }

theorem State.drainEnded_bits (u : State) (us : Nat) :
    (u.drainEnded us).rbit Reg.fabCtl 0 = false ∧ (u.drainEnded us).bivouac = true ∧ (u.drainEnded us).draining = false ∧
    (u.drainEnded us).scanHeld = u.scanHeld ∧ (u.drainEnded us).reg Reg.fabDrainTime = BitVec.ofNat 32 us := by
  let v : State := (u.clrBits Reg.fabStat 0x10#32).setBits Reg.fabStat 0x20#32
  have hreg : ∀ a, (u.drainEnded us).reg a = ((v.clrBits Reg.fabCtl 1#32).setReg Reg.fabDrainTime (BitVec.ofNat 32 us)).reg a :=
    fun _ => rfl
  have hctl : (u.drainEnded us).reg Reg.fabCtl = v.reg Reg.fabCtl &&& ~~~1#32 := by
    rw [hreg, State.reg_setReg_ne _ _ (by decide), State.reg_clrBits, if_pos rfl]
  have hstat : (u.drainEnded us).reg Reg.fabStat = (u.reg Reg.fabStat &&& ~~~0x10#32) ||| 0x20#32 := by
    rw [hreg, State.reg_setReg_ne _ _ (by decide), State.reg_clrBits, if_neg (by decide), State.reg_setBits, if_pos rfl,
      State.reg_clrBits, if_pos rfl]
  simp only [State.bivouac, State.draining, State.scanHeld, State.rbit, hctl, hstat]
  refine ⟨?_, ?_, ?_, ?_, State.reg_setReg_self ..⟩
  · simp [bit]
  · simp [bit]
  · simp [bit]
  · simp [bit]

theorem exec_drainComplete_ends {s : State} (he : s.engineUp = true) (hd : s.draining = true) (hr : s.remapping = false)
    (hg : s.pwr.gating = false) (hempty : s.fab.drainScan = true ∨ s.runEmpty = true) :
    exec .drainComplete s =
      .next ((if s.fab.drainScan then s.scanOut else s).drainEnded ((s.clock.now - s.fab.drainAt) / 100)) := by
  rw [exec_drainComplete, execDrainComplete]
  have hok : (s.engineUp && s.draining && !s.remapping && (s.fab.drainScan || s.runEmpty)) = true := by
    simpa [he, hd, hr] using hempty
  rw [hok, onlyIf_true, if_neg]
  · rfl
  · have hpwr : (if s.fab.drainScan then s.scanOut else s).pwr = s.pwr := by
      split_ifs
      · exact s.scanOut_pwr
      · rfl
    change ¬ (if s.fab.drainScan then s.scanOut else s).pwr.gating = true
    rw [hpwr, hg]
    decide

theorem State.scanRestore_frame (s : State) :
    ∃ ts, s.scanRestore = (({ s with fab := { s.fab with tiles := ts, scan := [], scanning := false } }.clrBits Reg.fabStat
      0x80#32).setReg Reg.fabScanSize 0) := by
  unfold State.scanRestore
  have h : ∃ ts, s.fab.scan.foldl (fun u p => let t := BitVec.ofNat 16 p.1; u.setTile t ((u.tile t).restore p.2)) s =
      { s with fab := { s.fab with tiles := ts } } := by
    refine List.foldlRecOn (motive := fun u : State => ∃ ts, u = { s with fab := { s.fab with tiles := ts } }) _ _
      ⟨s.fab.tiles, rfl⟩ ?_
    rintro _ ⟨ts, rfl⟩ p -
    exact ⟨_, rfl⟩
  obtain ⟨ts, hts⟩ := h
  exact ⟨ts, by rw [hts]⟩

theorem scanInComplete_ends {s : State} (he : s.engineUp = true) (hs : s.fab.scanning = true) (hh : s.scanHeld = true)
    (hr : s.remapping = false) :
    Completes .scanInComplete s (fun u =>
      u.scanHeld = false ∧ u.reg Reg.fabScanSize = 0#32 ∧ u.fab.scan = [] ∧ u.fab.scanning = false ∧
      u.reg Reg.fabDrainTime = BitVec.ofNat 32 ((s.clock.now - s.fab.drainAt) / 100) ∧ u.besideFabric = s.besideFabric) := by
  have hx : exec .scanInComplete s =
      .next (s.scanRestore.setReg Reg.fabDrainTime (BitVec.ofNat 32 ((s.clock.now - s.fab.drainAt) / 100))) := by
    have hok : (s.engineUp && s.fab.scanning && s.scanHeld && !s.remapping) = true := by simp [he, hs, hh, hr]
    rw [exec_scanInComplete, execScanInComplete, hok, onlyIf_true]
  obtain ⟨ts, hts⟩ := s.scanRestore_frame
  rw [hts] at hx
  refine ⟨_, hx, ?_, ?_, rfl, rfl, State.reg_setReg_self .., rfl⟩
  · rw [State.scanHeld, State.rbit, State.reg_setReg_ne _ _ (by decide), State.reg_setReg_ne _ _ (by decide), State.reg_clrBits,
      if_pos rfl]
    simp [bit]
  · rw [State.reg_setReg_ne _ _ (by decide), State.reg_setReg_self]
    rfl

theorem drainAndScanInEnd : Claims.DrainAndScanInEnd := by
  intro s he us
  refine ⟨fun hd hr hg hempty => ⟨_, exec_drainComplete_ends he hd hr hg hempty, ?_⟩, fun hs hh hr => scanInComplete_ends he hs hh hr⟩
  obtain ⟨hen, hbiv, hdr, hheld, htime⟩ :=
    (if s.fab.drainScan then s.scanOut else s).drainEnded_bits ((s.clock.now - s.fab.drainAt) / 100)
  refine ⟨hen, hbiv, hdr, htime, fun h => ?_, fun h => ?_⟩
  · rw [h]
    rfl
  · rw [hheld, if_pos h]
    exact s.landLinks.saveTiles_spec

/-! ## The restore of a record (R111, R113) -/

/-- What putting words into queues leaves alone of a tile: everything but its queues, its SRAM and the marks of the banks. -/
def Tile.besideQueues (x : Tile) : Tile := { x with queues := [], sram := [], qbanks := 0 }

theorem Tile.storeWord_spec (x : Tile) (q n : Nat) (d : Burst) (port : Bool) :
    (x.storeWord q n d port).besideQueues = x.besideQueues ∧ (x.storeWord q n d port).queues = x.queues := by
  unfold Tile.storeWord
  extract_lets
  split_ifs
  · exact ⟨rfl, rfl⟩
  · exact ⟨rfl, rfl⟩
  · exact ⟨rfl, rfl⟩

theorem Tile.putWords_spec (x : Tile) (q : Nat) (ws : List QWord) :
    (x.putWords q ws).besideQueues = x.besideQueues ∧ ((x.putWords q ws).queue q).words = ws ∧
    ((x.putWords q ws).queue q).pend = (x.queue q).pend ∧ ∀ k, k ≠ q → (x.putWords q ws).queue k = x.queue k := by
  unfold Tile.putWords
  extract_lets v y
  have h : ((ws.zip (upto ws.length)).foldl (fun y p => y.storeWord q p.2 p.1.data false) y).besideQueues = y.besideQueues ∧
      ((ws.zip (upto ws.length)).foldl (fun y p => y.storeWord q p.2 p.1.data false) y).queues = y.queues := by
    refine List.foldlRecOn (motive := fun z : Tile => z.besideQueues = y.besideQueues ∧ z.queues = y.queues) _ _ ⟨rfl, rfl⟩ ?_
    rintro z ⟨h1, h2⟩ p -
    obtain ⟨g1, g2⟩ := z.storeWord_spec q p.2 p.1.data false
    exact ⟨g1.trans h1, g2.trans h2⟩
  obtain ⟨hbeside, hqueues⟩ := h
  have hqueue : ∀ k, ((ws.zip (upto ws.length)).foldl (fun y p => y.storeWord q p.2 p.1.data false) y).queue k =
      if k = q then { v with words := ws, high := if v.high.toNat < ws.length then BitVec.ofNat 32 ws.length else v.high }
      else x.queue k :=
    fun k => (congrArg (tget Queue.zero · k) hqueues).trans (x.queue_setQueue q k _)
  refine ⟨hbeside, ?_, ?_, fun k hk => ?_⟩
  · rw [hqueue, if_pos rfl]
  · rw [hqueue, if_pos rfl]
  · rw [hqueue, if_neg hk]

theorem Tile.settle_spec (x : Tile) (q : Nat) :
    (x.settle q).besideQueues = x.besideQueues ∧ ((x.queue q).pend = [] → (x.settle q).queue q = x.queue q) ∧
    ∀ k, k ≠ q → (x.settle q).queue k = x.queue k := by
  unfold Tile.settle
  extract_lets v n ws
  split_ifs with h
  · exact ⟨rfl, fun _ => rfl, fun _ _ => rfl⟩
  · obtain ⟨hbeside, -, -, hother⟩ := (x.setQueue q { v with pend := v.pend.drop n }).putWords_spec q (x.queueWords q ++ ws)
    refine ⟨hbeside, fun hp => absurd ?_ h, fun k hk => ?_⟩
    · change min v.pend.length (v.depth - v.words.length) = 0
      rw [show v.pend = [] from hp]
      exact Nat.zero_min _
    · rw [hother k hk, Tile.queue_setQueue, if_neg hk]

/-- The queues of a list get the words of a record, one after another. -/
def Tile.refilled (x r : Tile) (l : List Nat) : Tile := l.foldl (fun z k => (z.putWords k (r.queue k).words).settle k) x

theorem Tile.refilled_cons (x r : Tile) (k : Nat) (l : List Nat) :
    x.refilled r (k :: l) = ((x.putWords k (r.queue k).words).settle k).refilled r l := rfl

theorem Tile.refilled_beside (r : Tile) (l : List Nat) (x : Tile) : (x.refilled r l).besideQueues = x.besideQueues := by
  induction l generalizing x with
  | nil => rfl
  | cons k l ih => exact (ih _).trans ((Tile.settle_spec ..).1.trans (Tile.putWords_spec ..).1)

/-- A queue whose words stand, with no pending abort, keeps its words as the others get theirs, and as it gets the same again. -/
theorem Tile.refilled_words (r : Tile) (l : List Nat) (q : Nat) (x : Tile) (hp : (x.queue q).pend = [])
    (hx : q ∈ l ∨ (x.queue q).words = (r.queue q).words) : ((x.refilled r l).queue q).words = (r.queue q).words := by
  induction l generalizing x with
  | nil => exact hx.resolve_left List.not_mem_nil
  | cons k l ih =>
    obtain ⟨-, hwords, hpend, hother⟩ := x.putWords_spec k (r.queue k).words
    obtain ⟨-, hself, hothers⟩ := (x.putWords k (r.queue k).words).settle_spec k
    rw [Tile.refilled_cons]
    by_cases hk : q = k
    · subst hk
      have hq := hself (hpend.trans hp)
      exact ih _ (by rw [hq, hpend, hp]) (.inr (by rw [hq, hwords]))
    · have hq := (hothers q hk).trans (hother q hk)
      exact ih _ (by rw [hq, hp]) (hx.imp (fun h => (List.mem_cons.mp h).resolve_left hk) (fun h => by rw [hq, h]))

/-- A tile with the registers of a record, and its queues still empty. -/
def Tile.blanked (x r : Tile) : Tile :=
  { r with
    sram := x.sram, slots := x.slots, hold := x.hold, held := x.held, freeze := x.freeze, fault := x.fault
    counts := x.counts, heldCounts := x.heldCounts, converted := x.converted, sat := x.sat, ufl := x.ufl, sqerr := x.sqerr,
    trip := x.trip, accOvf := x.accOvf, scrubPos := x.scrubPos, linkErrs := x.linkErrs
    queues := tfill Queue.zero 16 (fun k =>
      { x.queue k with words := [], rpos := 0, pend := (r.queue k).pend, discard := (r.queue k).discard,
                       drop := (r.queue k).drop, begun := (r.queue k).begun }) [] }

theorem Tile.restore_eq (x r : Tile) : x.restore r = (x.blanked r).refilled r (upto 16) := rfl

theorem Tile.blanked_pend (x r : Tile) {q : Nat} (hq : q < 16) : ((x.blanked r).queue q).pend = (r.queue q).pend := by
  rw [Tile.queue, Tile.blanked, tfill, tget_foldl_tset, if_pos (List.mem_range.mpr hq)]

theorem Tile.fields_of_besideQueues {y z : Tile} (h : y.besideQueues = z.besideQueues) :
    y.s = z.s ∧ y.v = z.v ∧ y.a = z.a ∧ y.g = z.g ∧ y.c = z.c ∧ y.steps = z.steps ∧ y.active = z.active ∧ y.retiring = z.retiring ∧
    y.handler = z.handler ∧ y.w0 = z.w0 ∧ y.w1 = z.w1 ∧ y.slots = z.slots ∧ y.counts = z.counts ∧ y.hold = z.hold :=
  ⟨(congrArg Tile.s h :), (congrArg Tile.v h :), (congrArg Tile.a h :), (congrArg Tile.g h :), (congrArg Tile.c h :), (congrArg Tile.steps h :),
    (congrArg Tile.active h :), (congrArg Tile.retiring h :), (congrArg Tile.handler h :), (congrArg Tile.w0 h :), (congrArg Tile.w1 h :),
    (congrArg Tile.slots h :), (congrArg Tile.counts h :), (congrArg Tile.hold h :)⟩

theorem scanRecordRestoresTile : Claims.ScanRecordRestoresTile := by
  intro x r y
  have hy : y = (x.blanked r).refilled r (upto 16) := x.restore_eq r
  clear_value y
  subst hy
  obtain ⟨h1, h2, h3, h4, h5, h6, h7, h8, h9, h10, h11, h12, h13, h14⟩ :=
    Tile.fields_of_besideQueues (Tile.refilled_beside r (upto 16) (x.blanked r))
  exact ⟨h1, h2, h3, h4, h5, h6, h7, h8, h9, h10, h11, h12, h13, h14, fun q hq hpend =>
    Tile.refilled_words r (upto 16) q _ ((x.blanked_pend r hq).trans hpend) (.inl (List.mem_range.mpr hq))⟩

/-- Settles O22: the commands by the state of the fabric, the ends of a drain and of a scan-in, and the restore of a record. -/
theorem drainStates : Obligations.DrainStates :=
  ⟨drainCommandsByFabricState, drainAndScanInEnd, scanRecordRestoresTile⟩

end Sys2Proof.Machine
end

section
/-! SUPPORT. Faults of tiles (R126, R132, R135, R452, R454, R520) and the scrub of a tile (R74, R490). -/

namespace Sys2Proof.Machine
open Sys2Proof

/-! ## A tile retired (R132, R452) -/

/-- The tile fault is counted and logged, and the tile retired. -/
def State.faultRecorded (s : State) (t : TileAddr) (cause : BitVec 3) : State :=
  ((s.count Reg.fltTileFaultCnt 1).logEvent 2
    (logArgs [(t.toNat, 2), ((s.stageOfTile t).getD 0xFFFF, 2), (cause.toNat, 1)])).retireTile t cause.toNat

/-- What of a state decides about a tile fault and its count. -/
structure SameForFault (s v : State) : Prop where
  img : v.img = s.img
  plc : v.plc = s.plc
  adm : v.adm = s.adm
  tel : v.tel = s.tel
  flash : v.flash = s.flash
  reg : ∀ a ∈ [Reg.fltTileFaultCnt, Reg.devAlert, Reg.plcStat, Reg.plcCtl, Reg.plcRemapCnt, Reg.fltDevfault], v.reg a = s.reg a

theorem SameForFault.refl (s : State) : SameForFault s s := ⟨rfl, rfl, rfl, rfl, rfl, fun _ _ => rfl⟩

theorem any_snoc_retire (p : Retire → Bool) (f : Retire → TileAddr) (g : TileAddr → Bool) (a b c : List Retire) (r : Retire)
    (hr : p r = true) : (((a ++ (b ++ [r]) ++ c).filter p).map f).any g = ((((a ++ b ++ c).filter p).map f).any g || g (f r)) := by
  simp only [List.filter_append, List.map_append, List.any_append, List.filter_cons, List.filter_nil, hr, if_true, List.map_cons,
    List.map_nil, List.any_cons, List.any_nil, Bool.or_false]
  ac_rfl

section
variable {s v : State} {t : TileAddr} {cause : BitVec 3}

/-- Where the table has room, the fault leaves everything alone but the count, the log and the table. -/
theorem State.faultRecorded_spec (hv : SameForFault s v) (hr : s.isRetired t = false) (hc : s.retireCount < 8192) :
    (v.faultRecorded t cause).plc = s.plc ∧ (v.faultRecorded t cause).img = s.img ∧ (v.faultRecorded t cause).adm = s.adm ∧
    (v.faultRecorded t cause).reg Reg.fltTileFaultCnt = s.reg Reg.fltTileFaultCnt + 1#32 ∧
    (∀ a ∈ [Reg.devAlert, Reg.plcStat, Reg.plcCtl, Reg.plcRemapCnt, Reg.fltDevfault], (v.faultRecorded t cause).reg a = s.reg a) ∧
    ∀ t', (v.faultRecorded t cause).isRetired t' = (s.isRetired t' || (t == t')) := by
  obtain ⟨himg, hplc, hadm, htel, hflash, hreg⟩ := hv
  let l : State := (v.count Reg.fltTileFaultCnt 1).logEvent 2
    (logArgs [(t.toNat, 2), ((v.stageOfTile t).getD 0xFFFF, 2), (cause.toNat, 1)])
  let l' : State := l.logEvent 3 (logArgs [(t.toNat, 2)])
  let r : Retire := ⟨1, BitVec.ofNat 8 cause.toNat, 0, BitVec.ofNat 32 t.toNat⟩
  have hlr : l.isRetired t = false := by
    change (((v.flash.retired ++ v.tel.toRetire ++ v.tel.volatile).filter (fun r => r.type == 1#8)).map
      (fun r => BitVec.ofNat 16 r.addr.toNat)).any (· == t) = false
    rw [htel, hflash]
    exact hr
  have hlc : l'.retireCount < 8192 := by
    change v.flash.retired.length + v.tel.toRetire.length < 8192
    rw [htel, hflash]
    exact hc
  have he : v.faultRecorded t cause = { l' with tel := { l'.tel with toRetire := l'.tel.toRetire ++ [r] } } := by
    change l.retireTile t cause.toNat = _
    rw [State.retireTile, if_neg (by simp [hlr]), State.retire, if_pos hlc]
  have hregs : ∀ a, (v.faultRecorded t cause).reg a = l'.reg a := fun a => by rw [he]; rfl
  rw [he]
  refine ⟨hplc, himg, hadm, ?_, fun a ha => ?_, fun t' => ?_⟩
  · change l'.reg _ = _
    rw [State.reg_logEvent, if_neg (by decide), State.reg_logEvent, if_neg (by decide), State.reg_count, if_pos rfl,
      hreg _ (by decide)]
  · change l'.reg a = _
    have hne : a ≠ Reg.telLogCnt ∧ a ≠ Reg.fltTileFaultCnt := by
      revert a
      decide
    rw [State.reg_logEvent, if_neg hne.1, State.reg_logEvent, if_neg hne.1, State.reg_count, if_neg hne.2,
      hreg _ (List.mem_cons_of_mem _ ha)]
  · have ht : BitVec.ofNat 16 (BitVec.ofNat 32 t.toNat).toNat = t := by bv_omega
    change (((v.flash.retired ++ (v.tel.toRetire ++ [r]) ++ v.tel.volatile).filter (fun r => r.type == 1#8)).map
      (fun r => BitVec.ofNat 16 r.addr.toNat)).any (· == t') = _
    rw [any_snoc_retire _ _ _ _ _ _ r rfl, htel, hflash, ht]
    rfl

end

/-! ## What the fault does by the use of the tile (R126, R135, R454, R520) -/

section
variable {s : State} {t : TileAddr} {cause : BitVec 3}

/-- Under a committed image the use of the tile decides. -/
theorem State.tileFault_committed (himg : s.img.st = .committed) : s.tileFault t cause =
    match s.stageOfTile t with
    | none => s.faultRecorded t cause
    | some st => if (s.faultRecorded t cause).faulted then s.faultRecorded t cause
      else if (s.faultRecorded t cause).rbit Reg.plcCtl 0
        then (s.faultRecorded t cause).remapTile t cause st (s.faultRecorded t cause).clock.now
        else (s.faultRecorded t cause).deviceFault 7 := by
  unfold State.tileFault State.faultRecorded
  rw [himg] <;> rfl

/-- A register's low nibble reads back. -/
theorem fld_setFld_nibble (w : Word) (v : Nat) : fld (setFld w 3 0 v) 3 0 = v % 16 := by
  have hmask : (~~~BitVec.ofNat 32 ((2 ^ (3 + 1 - 0) - 1) * 1)).toNat % 2 ^ (3 + 1 - 0) = 0 := rfl
  simp only [fld, setFld, BitVec.toNat_or, BitVec.toNat_and, Nat.pow_zero, Nat.div_one]
  rw [Nat.or_mod_two_pow, Nat.and_mod_two_pow, hmask, Nat.and_zero, Nat.zero_or, BitVec.toNat_ofNat]
  omega

/-- The first device fault is recorded with its cause, and DEV_STATE is 3 (R454). -/
theorem State.deviceFault_recorded (h : s.faulted = false) (c : Nat) :
    (s.deviceFault c).reg Reg.fltDevfault = BitVec.ofNat 32 c ∧ (s.deviceFault c).devState = 3 ∧
    (s.deviceFault c).retiredTiles = s.retiredTiles := by
  have he : s.deviceFault c = _ := if_neg (by simp [h])
  rw [he]
  refine ⟨?_, ?_, rfl⟩
  · rw [State.reg_count, if_neg (by decide)]
    change (State.clrBits _ _ _).reg _ = _
    rw [State.reg_clrBits, if_neg (by decide), State.reg_alert, if_neg (by decide), State.reg_setReg_self]
  · rw [State.devState, State.reg_count, if_neg (by decide)]
    change fld ((State.clrBits _ _ _).reg _) 3 0 = _
    rw [State.reg_clrBits, if_neg (by decide), State.reg_alert, if_neg (by decide), State.reg_setReg_ne _ _ (by decide),
      State.reg_putFld, if_pos rfl, fld_setFld_nibble]

/-! ## A re-placement that begins (R135) -/

/-- A re-placement starts from the fault's moment, with HOLD on the tile and its stage affected. -/
def State.remapBegun (s : State) (t : TileAddr) (stage at_ : Nat) : State :=
  let u := s.beginRemap at_
  let v := u.setTile t { u.tile t with hold := true, held := true, fault := true }
  { v with plc := { v.plc with
      failed := v.plc.failed ++ [(t, 0xFFFF#16)], affected := (v.plc.affected ++ [stage]).eraseDups } }

theorem posOf_packTile (b : Nat) {k : Nat} (hk : k < 4) : posOf (packTile (b / 16) (b % 16) (64 + k)) = 64 + k := by
  simp only [posOf, packTile, BitVec.toNat_ofNat]
  omega

/-- The spares of a block stand whichever of its active tiles is retired. -/
theorem State.usableSpares_congr {s u : State} {t : TileAddr} (hcover : u.plc.cover = s.plc.cover)
    (hret : ∀ t', u.isRetired t' = (s.isRetired t' || (t == t'))) (ht : posOf t < 64) :
    u.usableSpares (gblockOf t) = s.usableSpares (gblockOf t) := by
  refine List.filter_congr fun k hk => ?_
  have hk : k < 4 := List.mem_range.mp hk
  have hne : (t == packTile (gblockOf t / 16) (gblockOf t % 16) (64 + k)) = false := by
    refine beq_false_of_ne fun h => ?_
    have hpos := posOf_packTile (gblockOf t) hk
    rw [← h] at hpos
    omega
  simp only [hret, hne, Bool.or_false, State.spareInUse, hcover]

theorem State.beginRemap_spec (h : s.remapping = false) (at_ : Nat) :
    (s.beginRemap at_).remapping = true ∧ (s.beginRemap at_).reg Reg.plcRemapCnt = s.reg Reg.plcRemapCnt + 1#32 ∧
    (s.beginRemap at_).fab = { s.fab with stopped := true } ∧ (s.beginRemap at_).plc.affected = [] ∧
    (s.beginRemap at_).plc.failed = [] ∧ (s.beginRemap at_).plc.whole = s.plc.whole ∧ (s.beginRemap at_).plc.cover = s.plc.cover ∧
    (s.beginRemap at_).retiredTiles = s.retiredTiles := by
  have he : s.beginRemap at_ = _ := if_neg (by simp [h])
  rw [he]
  refine ⟨?_, ?_, rfl, rfl, rfl, rfl, rfl, rfl⟩
  · change bit ((State.setReg _ _ _).reg Reg.plcStat) 5 = true
    rw [State.reg_setReg_self]
    simp [setFld, bit]
  · change (State.setReg _ _ _).reg Reg.plcRemapCnt = _
    rw [State.reg_setReg_ne _ _ (by decide), State.reg_alert, if_neg (by decide), State.reg_count, if_pos rfl]

/-- With a usable spare in its block, the fault of a used tile begins a re-placement on it. -/
theorem State.remapTile_begins {st at_ : Nat} (hrun : s.remapping = false) (hwhole : s.plc.whole = false)
    (hspare : s.usableSpares (gblockOf t) ≠ []) : s.remapTile t cause st at_ = s.remapBegun t st at_ := by
  obtain ⟨-, -, -, -, hfailed, hw, hcover, hret⟩ := State.beginRemap_spec hrun at_
  have hlen : 1 ≤ (s.usableSpares (gblockOf t)).length := List.length_pos_iff.mpr hspare
  have hneed : ((s.remapBegun t st at_).plc.failed.filter (fun p => gblockOf p.1 == gblockOf t)).length = 1 := by
    change (((s.beginRemap at_).plc.failed ++ [(t, 0xFFFF#16)]).filter (fun p => gblockOf p.1 == gblockOf t)).length = 1
    rw [hfailed]
    simp
  have hspares : (s.remapBegun t st at_).usableSpares (gblockOf t) = s.usableSpares (gblockOf t) := by
    refine List.filter_congr fun k _ => ?_
    have hr : (s.remapBegun t st at_).retiredTiles = s.retiredTiles := hret
    have hc : (s.remapBegun t st at_).plc.cover = s.plc.cover := hcover
    simp only [State.isRetired, State.spareInUse, hr, hc]
  have hfound : ((s.remapBegun t st at_).plc.whole || decide (((s.remapBegun t st at_).usableSpares (gblockOf t)).length <
      ((s.remapBegun t st at_).plc.failed.filter (fun p => gblockOf p.1 == gblockOf t)).length)) = false := by
    have hw' : (s.remapBegun t st at_).plc.whole = false := hw.trans hwhole
    rw [hneed, hspares, hw', Bool.false_or, decide_eq_false (by omega)]
  rw [State.remapTile, if_neg (by simp [hrun]), if_neg (by simp [hrun])]
  exact if_neg (by rw [Bool.not_eq_true]; exact hfound)

end

/-! ## The commands that report a tile fault -/

/-- What a command that reports a fault of tile `t` does by the use of the tile. -/
def FaultByUse (s : State) (t : TileAddr) (i : Instr) : Prop :=
  (s.img.st = .committed → s.stageOfTile t = none → Completes i s (fun u =>
    u.reg Reg.fltTileFaultCnt = s.reg Reg.fltTileFaultCnt + 1#32 ∧ u.isRetired t = true ∧ u.plc = s.plc ∧
    u.adm = s.adm ∧ u.remapping = s.remapping ∧ u.reg Reg.devAlert = s.reg Reg.devAlert)) ∧
  (∀ st, s.img.st = .committed → s.stageOfTile t = some st → s.faulted = false → s.remapping = false → s.plc.whole = false →
    s.rbit Reg.plcCtl 0 = true → s.usableSpares (gblockOf t) ≠ [] → gblockOf t < 128 → posOf t < 64 →
    Completes i s (fun u => u.remapping = true ∧ (u.tile t).hold = true ∧ u.plc.affected = [st] ∧
      u.reg Reg.plcRemapCnt = s.reg Reg.plcRemapCnt + 1#32 ∧ u.fab.stopped = true ∧ u.isRetired t = true)) ∧
  (∀ st, s.img.st = .committed → s.stageOfTile t = some st → s.faulted = false → s.rbit Reg.plcCtl 0 = false →
    Completes i s (fun u => u.reg Reg.fltDevfault = 7#32 ∧ u.devState = 3 ∧ u.isRetired t = true))

/-- A command that answers the tile fault of a state in which nothing that decides about it differs. -/
theorem faultByUse_of_tileFault {s v : State} {t : TileAddr} {cause : BitVec 3} {i : Instr} (hx : exec i s = .next (v.tileFault t cause))
    (hv : SameForFault s v) (hr : s.isRetired t = false) (hc : s.retireCount < 8192) : FaultByUse s t i := by
  obtain ⟨hplc, himg, hadm, hcnt, hreg, hret⟩ := State.faultRecorded_spec (cause := cause) hv hr hc
  have hself : (v.faultRecorded t cause).isRetired t = true := by rw [hret, beq_self_eq_true, Bool.or_true]
  have hstage : v.stageOfTile t = s.stageOfTile t := by simp only [State.stageOfTile, hv.plc]
  have hbit : ∀ a ∈ [Reg.devAlert, Reg.plcStat, Reg.plcCtl, Reg.plcRemapCnt, Reg.fltDevfault], ∀ k,
      (v.faultRecorded t cause).rbit a k = s.rbit a k := fun a ha k => by rw [State.rbit, hreg a ha, State.rbit]
  have hfaulted : (v.faultRecorded t cause).faulted = s.faulted := by
    simp only [State.faulted, hreg Reg.fltDevfault (by decide)]
  refine ⟨fun hi hst => ?_, fun st hi hst hf hrun hwhole hen hspare _ ht => ?_, fun st hi hst hf hen => ?_⟩ <;>
    rw [Completes, hx, State.tileFault_committed (hv.img ▸ hi), hstage, hst]
  · exact ⟨_, rfl, hcnt, hself, hplc, hadm, hbit Reg.plcStat (by decide) 5, hreg _ (by decide)⟩
  · have hrun' : (v.faultRecorded t cause).remapping = false := (hbit Reg.plcStat (by decide) 5).trans hrun
    have hspare' : (v.faultRecorded t cause).usableSpares (gblockOf t) ≠ [] := by
      rw [State.usableSpares_congr (congrArg Plc.cover hplc) hret ht]
      exact hspare
    obtain ⟨hgoes, hrcnt, hfab, haff, -, -, -, hrret⟩ := State.beginRemap_spec hrun' (v.faultRecorded t cause).clock.now
    refine ⟨_, rfl, ?_⟩
    dsimp only
    rw [if_neg (by simp [hfaulted, hf]), if_pos (by rw [hbit _ (by decide), hen]), State.remapTile_begins hrun' (hplc ▸ hwhole) hspare']
    refine ⟨hgoes, ?_, ?_, hrcnt.trans ?_, congrArg Fab.stopped hfab, ?_⟩
    · exact congrArg Tile.hold (State.tile_setTile _ t _)
    · change ((State.beginRemap _ _).plc.affected ++ [st]).eraseDups = [st]
      rw [haff]
      rfl
    · rw [hreg _ (by decide)]
    · change (State.beginRemap _ _).retiredTiles.any (· == t) = true
      rw [hrret]
      exact hself
  · obtain ⟨hcause, hstate, hdret⟩ := State.deviceFault_recorded (hfaulted.trans hf) 7
    refine ⟨_, rfl, ?_⟩
    dsimp only
    rw [if_neg (by simp [hfaulted, hf]), if_neg (by simp [hbit, hen])]
    refine ⟨hcause, hstate, ?_⟩
    rw [State.isRetired, hdret]
    exact hself

theorem State.countEcc_uncorrectable_reg (s : State) {a : Nat} (h1 : a ≠ Reg.fabEccUncorrCnt) (h2 : a ≠ Reg.fabStat) :
    (s.countEcc .uncorrectable).reg a = s.reg a := by
  rw [State.countEcc, State.reg_setBits, if_neg h2, State.reg_count, if_neg h1]

/-- A tile whose scrub has gone on by one access (R490). -/
def State.scrubbed (s : State) (t : TileAddr) (held : Bool) : State :=
  let x := s.tile t
  s.setTile t { x with
    scrubPos := (x.scrubPos + 1) % 1536
    counts := if held && s.rbit Reg.fabCtl 0 && !x.held then tset 0#32 x.counts 3 (tget 0#32 x.counts 3 + 1#32) else x.counts }

theorem exec_scrub_on {s : State} {t : TileAddr} {e : Ecc} {held : Bool} (ht : isTile t = true) (he : s.engineUp = true)
    (hctl : s.rbit Reg.fabCtl 1 = true) (hon : (s.dom (gblockOf t)).st = 0) : exec (.tileScrubAccess t e held) s =
      .next (if e = .uncorrectable then ((s.scrubbed t held).countEcc e).tileFault t 4 else (s.scrubbed t held).countEcc e) := by
  have hok : (s.engineUp && s.rbit Reg.fabCtl 1 && (s.dom (gblockOf t)).st == 0) = true := by simp [he, hctl, hon]
  rw [exec_tileScrubAccess, execTileScrubAccess]
  rw [if_neg (by simp [ht]), hok, onlyIf_true]
  rfl

theorem tileFaultByUse : Claims.TileFaultByUse := by
  intro s t cause ht he hr hc all
  refine ⟨?_, fun hcap => ?_, fun hctl hon => ?_⟩
  · refine faultByUse_of_tileFault (v := s) (cause := cause) ?_ (.refl s) hr hc
    rw [exec_tileFault, execTileFault, if_neg (by simp [ht]), he, onlyIf_true]
  · refine faultByUse_of_tileFault (v := s) (cause := 3) ?_ (.refl s) hr hc
    rw [exec_tileNoResponseTimeout, execTileNoResponseTimeout, if_neg (by simp [ht]), he, hcap]
    rfl
  · refine faultByUse_of_tileFault (exec_scrub_on ht he hctl hon) ⟨rfl, rfl, rfl, rfl, rfl, fun a ha => ?_⟩ hr hc
    have hne : a ≠ Reg.fabEccUncorrCnt ∧ a ≠ Reg.fabStat := by
      revert a
      decide
    exact State.countEcc_uncorrectable_reg _ hne.1 hne.2

/-! ## The scrub of a tile (R74, R490) -/

theorem State.scrubbed_tile (s : State) (t : TileAddr) (held : Bool) :
    ((s.scrubbed t held).tile t).sram = (s.tile t).sram ∧
    ((s.scrubbed t held).tile t).scrubPos = ((s.tile t).scrubPos + 1) % 1536 ∧
    tget 0#32 ((s.scrubbed t held).tile t).counts cHazard = tget 0#32 (s.tile t).counts cHazard +
      (if held = true ∧ s.rbit Reg.fabCtl 0 = true ∧ (s.tile t).held = false then 1#32 else 0#32) := by
  rw [State.scrubbed, State.tile_setTile]
  refine ⟨rfl, rfl, ?_⟩
  by_cases h : held = true ∧ s.rbit Reg.fabCtl 0 = true ∧ (s.tile t).held = false
  · rw [if_pos (by simp [h]), if_pos h]
    exact tget_tset_self ..
  · rw [if_neg (by simpa [and_assoc] using h), if_neg h, BitVec.add_zero]

theorem tileScrubCountsAndGoesOn : Claims.TileScrubCountsAndGoesOn := by
  intro s t held ht he hctl hon x after
  obtain ⟨hsram, hpos, hhaz⟩ := s.scrubbed_tile t held
  refine ⟨⟨_, exec_scrub_on ht he hctl hon, ⟨hsram, hpos, hhaz, rfl⟩, rfl⟩,
    ⟨_, exec_scrub_on ht he hctl hon, ⟨hsram, hpos, hhaz, rfl⟩, ?_⟩⟩
  exact (State.reg_count _ _ _ _).trans (if_pos rfl)

/-- Settles O23: the fault of a tile by its use, and the scrub that goes on. -/
theorem tileFaults : Obligations.TileFaults := ⟨tileFaultByUse, tileScrubCountsAndGoesOn⟩

end Sys2Proof.Machine
end

section
/-! SUPPORT. Box decoding and suppression (R262 to R273), and an unreadable word of a post-processing unit (R109, R455). -/

namespace Sys2Proof.Machine
open Sys2Proof

/-! ## The suppression order (R271) -/

theorem insertBy_eq_orderedInsert {α : Type} (le : α → α → Bool) (x : α) (l : List α) :
    insertBy le x l = l.orderedInsert (fun a b => le a b = true) x := by
  induction l with
  | nil => rfl
  | cons y l ih => rw [insertBy, List.orderedInsert_cons, ih]

theorem sortBy_eq_insertionSort {α : Type} (le : α → α → Bool) (l : List α) :
    sortBy le l = l.insertionSort (fun a b => le a b = true) := by
  induction l with
  | nil => rfl
  | cons x l ih => rw [sortBy, ih, insertBy_eq_orderedInsert, List.insertionSort_cons]

/-- The place of a candidate in the order of R271: SCORE falling, then class, then index. -/
def Cand.rank (c : Cand) : ℕ ×ₗ ℕ ×ₗ ℕ := toLex (65535 - c.score.toNat, toLex (c.cls.toNat, c.idx))

theorem candBefore_iff (a b : Cand) : candBefore a b = true ↔ a.rank ≤ b.rank := by
  have ha := a.score.isLt
  have hb := b.score.isLt
  unfold candBefore Cand.rank
  rw [Prod.Lex.toLex_le_toLex, Prod.Lex.toLex_le_toLex]
  by_cases hs : a.score = b.score
  · by_cases hc : a.cls = b.cls
    · simp [hs, hc]
    · have hne : a.cls.toNat ≠ b.cls.toNat := fun h => hc (BitVec.eq_of_toNat_eq h)
      simp [hs, hc, hne]
  · have hne : a.score.toNat ≠ b.score.toNat := fun h => hs (BitVec.eq_of_toNat_eq h)
    simp only [ne_eq, hs, not_false_eq_true, if_true, decide_eq_true_eq]
    omega

theorem sortBy_candBefore_pairwise (l : List Cand) : (sortBy candBefore l).Pairwise (fun a b => candBefore a b = true) := by
  rw [sortBy_eq_insertionSort]
  have htrans : IsTrans Cand (fun a b => candBefore a b = true) :=
    ⟨fun a b c hab hbc => (candBefore_iff a c).2 (((candBefore_iff a b).1 hab).trans ((candBefore_iff b c).1 hbc))⟩
  have htotal : Std.Total (fun a b : Cand => candBefore a b = true) :=
    ⟨fun a b => (le_total a.rank b.rank).imp (candBefore_iff a b).2 (candBefore_iff b a).2⟩
  exact List.pairwise_insertionSort _ l

/-! ## Decoded candidates (R269, R270) -/

/-- A candidate stands for a box of the frame that is not empty, with a score of `score` or more. -/
def Cand.Good (w h score : Nat) (c : Cand) : Prop :=
  score ≤ c.score.toNat ∧ c.x0.toNat < c.x1.toNat ∧ c.y0.toNat < c.y1.toNat ∧ c.x1.toNat ≤ 16 * w ∧ c.y1.toNat ≤ 16 * h

theorem clampBox_le (w h : Nat) (x0 y0 x1 y1 : Int) :
    let b := (clampBox w h x0 y0 x1 y1).1
    b.x0 ≤ 16 * w ∧ b.y0 ≤ 16 * h ∧ b.x1 ≤ 16 * w ∧ b.y1 ≤ 16 * h :=
  ⟨min_le_right .., min_le_right .., min_le_right .., min_le_right ..⟩

theorem decodeAnchor_good {m : Memory} {o w h score gy gx a : Nat} {cx cy : Word} {v : List Word} {c : Cand}
    (hw : w ≤ 4095) (hh : h ≤ 4095) (hc : (decodeAnchor m o w h score gy gx a cx cy v).cand = some c) : c.Good w h score := by
  unfold decodeAnchor at hc
  extract_lets obj cls p sc scI xy sixteen q n b ovf at hc
  obtain ⟨hx0, hy0, hx1, hy1⟩ := clampBox_le w h (n 0) (n 1) (n 2) (n 3)
  have hs : scI ≤ 65535 := by
    change (min _ (65535 : Int)).toNat ≤ 65535
    omega
  change b.1.x0 ≤ _ at hx0
  change b.1.y0 ≤ _ at hy0
  change b.1.x1 ≤ _ at hx1
  change b.1.y1 ≤ _ at hy1
  clear_value scI b
  split at hc
  · cases hc
  · next hempty =>
    split at hc
    · cases hc
    · next hscore =>
      have hbox : b.1.x0 < b.1.x1 ∧ b.1.y0 < b.1.y1 := by simpa [Box.empty] using hempty
      cases hc
      simp only [Cand.Good, BitVec.toNat_ofNat]
      omega

theorem State.headCells_good {s : State} {f : Frame} {score : Nat} (hw : imgW s.img.copy f.wide ≤ 4095)
    (hh : imgH s.img.copy f.wide ≤ 4095) {c : Cand}
    (hc : c ∈ (((s.headCells f score).map (·.2.1)).flatten).filterMap (·.cand)) :
    c.Good (imgW s.img.copy f.wide) (imgH s.img.copy f.wide) score := by
  obtain ⟨d, hd, hdc⟩ := List.mem_filterMap.mp hc
  obtain ⟨l, hl, hdl⟩ := List.mem_flatten.mp hd
  obtain ⟨cell, hcell, rfl⟩ := List.mem_map.mp hl
  obtain ⟨g, -, rfl⟩ := List.mem_map.mp hcell
  obtain ⟨a, -, rfl⟩ := List.mem_map.mp hdl
  exact decodeAnchor_good hw hh hdc

theorem mem_sortBy {α : Type} (le : α → α → Bool) (l : List α) (x : α) : x ∈ sortBy le l ↔ x ∈ l := by
  rw [sortBy_eq_insertionSort, List.mem_insertionSort]

/-! ## BOX_DECODE -/

/-- Two states with the same frames and the same context. -/
def SameFrames (s u : State) : Prop := u.adm = s.adm ∧ u.ctx = s.ctx

theorem State.countOvf_sameFrames (s : State) (t : TileAddr) (n : Nat) : SameFrames s (s.countOvf t n) := by
  unfold State.countOvf
  split_ifs
  · exact ⟨rfl, rfl⟩
  · exact ⟨rfl, rfl⟩
  · exact ⟨rfl, rfl⟩

theorem State.countNonfin_sameFrames (s : State) (n : Nat) : SameFrames s (s.countNonfin n) := by
  unfold State.countNonfin
  split_ifs
  · exact ⟨rfl, rfl⟩
  · exact ⟨rfl, rfl⟩

/-- The counts that a decoded frame leaves: empty boxes, candidates, a cut list, and what the values gave. -/
def State.decodeCounts (s : State) (empties kept bad ovf : Nat) : State :=
  let u := (s.count Reg.ppuEmptyBoxCnt empties).count Reg.ppuCandCnt kept
  let v := if decide (16384 < kept) then (u.count Reg.ppuCandLimitCnt 1).setBits Reg.ppuStat 1#32 else u
  (v.countNonfin bad).countOvf (s.firstTile s.headStage) ovf

theorem State.decodeCounts_spec (s : State) (empties kept bad ovf : Nat) :
    SameFrames s (s.decodeCounts empties kept bad ovf) ∧
    (s.decodeCounts empties kept bad ovf).reg Reg.ppuCandCnt = s.reg Reg.ppuCandCnt + BitVec.ofNat 32 kept ∧
    (s.decodeCounts empties kept bad ovf).reg Reg.ppuEmptyBoxCnt = s.reg Reg.ppuEmptyBoxCnt + BitVec.ofNat 32 empties := by
  unfold State.decodeCounts
  extract_lets u v
  have hv : SameFrames s v ∧ v.reg Reg.ppuCandCnt = u.reg Reg.ppuCandCnt ∧ v.reg Reg.ppuEmptyBoxCnt = u.reg Reg.ppuEmptyBoxCnt := by
    unfold v
    split_ifs
    · refine ⟨⟨rfl, rfl⟩, ?_, ?_⟩
      · rw [State.reg_setBits, if_neg (by decide), State.reg_count, if_neg (by decide)]
      · rw [State.reg_setBits, if_neg (by decide), State.reg_count, if_neg (by decide)]
    · exact ⟨⟨rfl, rfl⟩, rfl, rfl⟩
  obtain ⟨⟨hadm, hctx⟩, hcand, hempty⟩ := hv
  obtain ⟨hadm1, hctx1⟩ := v.countNonfin_sameFrames bad
  obtain ⟨hadm2, hctx2⟩ := (v.countNonfin bad).countOvf_sameFrames (s.firstTile s.headStage) ovf
  have hreg : ∀ a, a ≠ Reg.numStat → a ≠ Reg.numNonfinCnt →
      ((v.countNonfin bad).countOvf (s.firstTile s.headStage) ovf).reg a = v.reg a := fun a h1 h2 => by
    rw [State.reg_countOvf, if_neg (fun h => h1 h.1), State.reg_countNonfin, if_neg h2, if_neg (fun h => h1 h.1)]
  refine ⟨⟨hadm2.trans (hadm1.trans hadm), hctx2.trans (hctx1.trans hctx)⟩, ?_, ?_⟩
  · rw [hreg _ (by decide) (by decide), hcand]
    exact (State.reg_count ..).trans ((if_pos rfl).trans
      (congrArg (· + BitVec.ofNat 32 kept) ((State.reg_count ..).trans (if_neg (by decide)))))
  · rw [hreg _ (by decide) (by decide), hempty]
    exact (State.reg_count ..).trans ((if_neg (by decide)).trans ((State.reg_count ..).trans (if_pos rfl)))

/-- The candidates of the positions of a head's grid, in the order of R271. -/
def keptOf (cells : List (List Elem × List Decoded × Nat)) : List Cand :=
  sortBy candBefore (((cells.map (·.2.1)).flatten).filterMap (·.cand))

/-- The state in which a frame's head words have been decoded: counted, the frame passed on, and the candidates held. -/
def State.boxDecoded (s : State) (f : Frame) (cells : List (List Elem × List Decoded × Nat)) : State :=
  let ds := (cells.map (·.2.1)).flatten
  let es := (cells.map (·.1)).flatten
  let w := s.decodeCounts (ds.filter (·.empty)).length (keptOf cells).length (es.foldl (fun n e => n + e.bad) 0)
    (ds.foldl (fun n d => n + d.ovf) 0 + es.foldl (fun n e => n + e.ovf) 0 + cells.foldl (fun n p => n + p.2.2) 0)
  let x := (w.mapFrame f (fun g => { g with
    phase := .decoded, thresholds := s.thresholds f.wide, candidates := BitVec.ofNat 32 (keptOf cells).length,
    candLimit := decide (16384 < (keptOf cells).length) })).dropRows 7 s.headStage (f.ordinal.getD 0)
  { x with ppu := { x.ppu with cands := (keptOf cells).take 16384 } }

/-- The box decoder runs for a frame: it is enabled, the frame's sending is over, no frame waits behind it, and the whole output of
the head stage for it is there. -/
def State.decodes (s : State) (f : Frame) : Bool :=
  s.engineUp && s.blockEn 7 && !s.faulted && f.phase == .fabric && (s.frameIn (· == .decoded)).isNone &&
    s.unitHas 7 s.headStage (2 * b2n s.bank + b2n f.wide) (f.ordinal.getD 0)

theorem exec_boxDecode_eq {s : State} {f : Frame} (hf : s.frameIn (fun p => p == .sending || p == .fabric) = some f) (words ecc : Ecc) :
    exec (.boxDecode words ecc) s = onlyIf (s.decodes f) s (if words = .uncorrectable ∨ ecc = .uncorrectable then s.unitFault 7 f
      else s.boxDecoded f (s.headCells f ((s.thresholds f.wide).getD 0 0))) := by
  rw [exec_boxDecode, execBoxDecode, hf]
  dsimp only
  generalize s.headCells f ((s.thresholds f.wide).getD 0 0) = cells
  rfl

theorem State.decodes_eq {s : State} {f : Frame} (hphase : f.phase = .fabric) (hnone : s.frameIn (· == .decoded) = none)
    (he : s.engineUp = true) (hen : s.blockEn 7 = true) (hflt : s.faulted = false) (hhas : s.unitHas 7 s.headStage
      (2 * b2n s.bank + b2n f.wide) (f.ordinal.getD 0) = true) : s.decodes f = true := by
  rw [State.decodes, hhas]
  simp [he, hen, hflt, hphase, hnone]

theorem boxDecodeKeepsCandidates : Claims.BoxDecodeKeepsCandidates := by
  intro s words ecc f hf whole w h th ds kept
  have hx := exec_boxDecode_eq hf words ecc
  refine ⟨fun hphase hnone he hen hflt hwhole hwords hecc hw hh => ?_, fun hwhole => ?_⟩
  · rw [State.decodes_eq hphase hnone he hen hflt hwhole, onlyIf_true, if_neg (by simp [hwords, hecc])] at hx
    refine ⟨_, hx, ?_⟩
    have hgood : ∀ c ∈ kept, c.Good w h (th.getD 0 0) := fun c hc => State.headCells_good hw hh ((mem_sortBy _ _ _).mp hc)
    have hsort : kept.Pairwise (fun a b => candBefore a b = true) := sortBy_candBefore_pairwise _
    change (s.boxDecoded f (s.headCells f (th.getD 0 0))).adm.frames = _ ∧ _
    have hkept : kept = keptOf (s.headCells f (th.getD 0 0)) := rfl
    have hds : ds = ((s.headCells f (th.getD 0 0)).map (·.2.1)).flatten := rfl
    clear_value kept ds
    subst hkept hds
    generalize s.headCells f (th.getD 0 0) = cells at hgood hsort ⊢
    obtain ⟨⟨hadm, hctx⟩, hcand, hempty⟩ := State.decodeCounts_spec s (((cells.map (·.2.1)).flatten).filter (·.empty)).length
      (keptOf cells).length (((cells.map (·.1)).flatten).foldl (fun n e => n + e.bad) 0)
      (((cells.map (·.2.1)).flatten).foldl (fun n d => n + d.ovf) 0 + ((cells.map (·.1)).flatten).foldl (fun n e => n + e.ovf) 0 +
        cells.foldl (fun n p => n + p.2.2) 0)
    exact ⟨congrArg (fun a : Adm => a.frames.map _) hadm, rfl, hsort.sublist (List.take_sublist ..),
      fun c hc => hgood c (List.mem_of_mem_take hc), hcand, hempty, hctx⟩
  · have hoff : s.decodes f = false := by
      rw [State.decodes, show s.unitHas 7 s.headStage (2 * b2n s.bank + b2n f.wide) (f.ordinal.getD 0) = false from hwhole,
        Bool.and_false]
    rw [hx, hoff, onlyIf_false]

/-! ## SUPPRESSION (R272, R273) -/

/-- A kept candidate suppresses another: of its class, or of any under AGNOSTIC, with an IoU above the threshold. -/
def Cand.beats (agnostic : Bool) (t : Nat) (k c : Cand) : Bool := (agnostic || k.cls == c.cls) && k.box.exceeds c.box t

/-- Suppression keeps candidates in order, none beaten by an earlier one; while it may keep more, it passes over beaten ones only. -/
theorem suppress_spec (ag : Bool) (t : Nat) (cs : List Cand) (n : Nat) (kept : List Cand)
    (hkept : kept.Pairwise (fun a b => a.beats ag t b = false)) :
    ∃ ks, suppress ag t n kept cs = kept ++ ks ∧ ks.Sublist cs ∧ ks.length ≤ n ∧
      (kept ++ ks).Pairwise (fun a b => a.beats ag t b = false) ∧
      (ks.length < n → ∀ c ∈ cs, c ∈ ks ∨ ∃ k ∈ kept ++ ks, k.beats ag t c = true) := by
  induction cs generalizing n kept with
  | nil =>
    refine ⟨[], ?_, .refl _, Nat.zero_le _, by simpa using hkept, fun _ c hc => absurd hc List.not_mem_nil⟩
    cases n <;> simp [suppress]
  | cons c cs ih =>
    cases n with
    | zero => exact ⟨[], by simp [suppress], List.nil_sublist _, le_rfl, by simpa using hkept, fun h => absurd h (Nat.lt_irrefl 0)⟩
    | succ n =>
      by_cases hbeat : kept.any (fun k => k.beats ag t c) = true
      · obtain ⟨ks, hks, hsub, hlen, hpair, hall⟩ := ih (n + 1) kept hkept
        refine ⟨ks, (if_pos hbeat).trans hks, hsub.cons _, hlen, hpair, fun h d hd => ?_⟩
        obtain rfl | hd := List.mem_cons.mp hd
        · obtain ⟨k, hk, hkd⟩ := List.any_eq_true.mp hbeat
          exact .inr ⟨k, List.mem_append_left _ hk, hkd⟩
        · exact hall h d hd
      · have hnone : ∀ k ∈ kept, k.beats ag t c = false := by simpa using hbeat
        obtain ⟨ks, hks, hsub, hlen, hpair, hall⟩ := ih n (kept ++ [c])
          (List.pairwise_append.mpr ⟨hkept, List.pairwise_singleton .., fun k hk d hd => by
            rw [List.mem_singleton.mp hd]
            exact hnone k hk⟩)
        rw [List.append_assoc, List.singleton_append] at hks hpair
        refine ⟨c :: ks, (if_neg hbeat).trans hks, hsub.cons_cons _, Nat.succ_le_succ hlen, hpair, fun h d hd => ?_⟩
        obtain rfl | hd := List.mem_cons.mp hd
        · exact .inl List.mem_cons_self
        · have hrest := hall (Nat.lt_of_succ_lt_succ h) d hd
          rw [List.append_assoc, List.singleton_append] at hrest
          exact hrest.imp (List.mem_cons_of_mem _) id

/-- The frame has left suppression with these candidates as its detections. -/
def State.suppressedTo (s : State) (f : Frame) (ks : List Cand) : State :=
  let u := s.mapFrame f (fun g => { g with phase := .suppressed, dets := ks.map Cand.det })
  { u with ppu := { u.ppu with cands := [] } }

theorem exec_suppression_eq {s : State} {ecc : Ecc} {f : Frame} (hf : s.frameIn (· == .decoded) = some f) (he : s.engineUp = true)
    (hen : s.blockEn 7 = true) (hflt : s.faulted = false) :
    exec (.suppression ecc) s = .next (if ecc = .uncorrectable then s.unitFault 7 f
      else s.suppressedTo f (suppress (pay s.img.copy (s.headPar f.wide + 0xF) 1 / 2 % 2 == 1) (f.thresholds.getD 1 0)
        (pay s.img.copy (s.headPar f.wide + 0x16) 2) [] s.ppu.cands)) := by
  have hok : (s.engineUp && s.blockEn 7 && !s.faulted) = true := by simp [he, hen, hflt]
  rw [exec_suppression, execSuppression, hf]
  dsimp only [State.suppressedTo]
  rw [hok, onlyIf_true]

theorem suppressionKeepsBest : Claims.SuppressionKeepsBest := by
  intro s ecc f hf he hen hflt hecc o limit beats
  obtain ⟨ks, hks, hsub, hlen, hpair, hall⟩ := suppress_spec (pay s.img.copy (o + 0xF) 1 / 2 % 2 == 1) (f.thresholds.getD 1 0)
    s.ppu.cands limit [] .nil
  rw [List.nil_append] at hks hpair hall
  have hx := exec_suppression_eq (ecc := ecc) hf he hen hflt
  rw [if_neg hecc, hks] at hx
  exact ⟨_, hx, ks, hsub, hlen, hpair, hall, rfl, rfl, rfl, rfl⟩

/-! ## An unreadable word of a unit (R109, R455) -/

theorem foldl_earlier_mem (l : List Frame) (b : Option Frame) (f : Frame) (h : l.foldl earlier b = some f) : f ∈ l ∨ b = some f := by
  induction l generalizing b with
  | nil => exact .inr h
  | cons g l ih =>
    obtain hmem | hb := ih _ h
    · exact .inl (List.mem_cons_of_mem _ hmem)
    · cases b with
      | none => exact .inl (by rw [← Option.some.inj hb]; exact List.mem_cons_self)
      | some b =>
        simp only [earlier] at hb
        split at hb
        · exact .inl (by rw [← Option.some.inj hb]; exact List.mem_cons_self)
        · exact .inr hb

/-- The frame before a unit is one of the frames, has entered stage 0, and stands in the phase asked for. -/
theorem State.frameIn_some {s : State} {p : Phase → Bool} {f : Frame} (h : s.frameIn p = some f) :
    f ∈ s.adm.frames ∧ f.ordinal.isSome = true ∧ p f.phase = true := by
  have hmem := (foldl_earlier_mem _ _ _ h).resolve_right (by simp)
  simpa [and_assoc] using hmem

theorem State.freeSending_frame (s : State) (p : Frame → Bool) :
    ∃ m, s.freeSending p = { s with adm := { s.adm with streams := m } } := s.foldl_freeSlot_frame _

theorem State.sendCropOwed_frame (s : State) : ∃ fb pp, s.sendCropOwed = { s with fab := fb, ppu := pp } := by
  unfold State.sendCropOwed
  extract_lets due u
  obtain ⟨fb, hu⟩ : OnlyFab s u := OnlyFab.foldl (fun v (o : Nat × BitVec 2 × Nat) => OnlyFab.unitSend v 8 0 _) _ s
  rw [hu]
  exact ⟨_, _, rfl⟩

/-- The frame of an ordinal that has not ended. -/
def Frame.openAt (n : Nat) (f : Frame) : Bool := f.ordinal == some n && f.phase != .ended

/-- In `u` the frame of an ordinal has ended by an abort that counts once; the context stands. -/
def Aborted (s : State) (n reason : Nat) (u : State) : Prop :=
  u.adm.frames = s.adm.frames.map (fun g => if g.openAt n then g.dropWith (abortStatus reason) else g) ∧
  u.regs = (s.count Reg.fabAbortCnt 1).regs ∧ u.ctx = s.ctx

theorem Aborted.ite {s u v : State} {n reason : Nat} {c : Prop} [Decidable c] (hu : Aborted s n reason u) (hv : Aborted s n reason v) :
    Aborted s n reason (if c then u else v) := by
  split_ifs
  · exact hu
  · exact hv

theorem Aborted.sendCropOwed {s u : State} {n reason : Nat} (hu : Aborted s n reason u) : Aborted s n reason u.sendCropOwed := by
  obtain ⟨fb, pp, h⟩ := u.sendCropOwed_frame
  rw [h]
  exact hu

/-- The abort of a frame that has not ended touches the frame, its slot, the count, the fabric and the units alone. -/
theorem State.abortFrame_spec {s : State} {n reason : Nat} (h : ∃ f ∈ s.adm.frames, f.openAt n = true) :
    Aborted s n reason (s.abortFrame n reason) := by
  unfold State.abortFrame
  extract_lets p pp v u
  have hu : Aborted s n reason u := by
    obtain ⟨m, hm⟩ := v.freeSending_frame p
    unfold u
    rw [hm]
    exact ⟨rfl, rfl, rfl⟩
  split
  · next hnone => exact absurd (List.find?_isSome.mpr h) (by simp [show s.adm.frames.find? (Frame.openAt n) = none from hnone])
  · exact .ite (.sendCropOwed (.ite hu hu)) (.ite hu hu)

/-- What an unreadable word of a unit does: the frame of the ordinal ends DROPPED_FAULT, as a contained error and an abort. -/
def FrameFaulted (s u : State) (n : Nat) : Prop :=
  u.adm.frames = s.adm.frames.map (fun g => if g.ordinal = some n ∧ g.phase ≠ .ended then g.dropWith .fault else g) ∧
  u.reg Reg.fltContainedCnt = s.reg Reg.fltContainedCnt + 1#32 ∧ u.reg Reg.fabAbortCnt = s.reg Reg.fabAbortCnt + 1#32 ∧
  u.ctx = s.ctx

theorem State.unitFault_spec {s : State} {f : Frame} (hmem : f ∈ s.adm.frames) (hord : f.ordinal.isSome = true)
    (hopen : f.phase ≠ .ended) (block : Nat) : FrameFaulted s (s.unitFault block f) (f.ordinal.getD 0) := by
  obtain ⟨n, hn⟩ := Option.isSome_iff_exists.mp hord
  rw [State.unitFault, hn, Option.getD_some]
  have hat : f.openAt n = true := by simp [Frame.openAt, hn, hopen]
  obtain ⟨hframes, hregs, hctx⟩ := State.abortFrame_spec (s := s.contained block f.stream) (reason := 2) ⟨f, hmem, hat⟩
  have hreg : ∀ a, ((s.contained block f.stream).abortFrame n 2).reg a =
      ((s.contained block f.stream).count Reg.fabAbortCnt 1).reg a := fun a => congrArg (tget 0#32 · a) hregs
  refine ⟨hframes.trans (List.map_congr_left fun g _ => ?_), ?_, ?_, hctx⟩
  · simp [Frame.openAt, abortStatus]
  · rw [hreg, State.reg_count, if_neg (by decide), State.reg_contained _ _ _ (by decide), if_pos rfl]
  · rw [hreg, State.reg_count, if_pos rfl, State.reg_contained _ _ _ (by decide), if_neg (by decide)]

theorem unreadableUnitWordEndsFrame : Claims.UnreadableUnitWordEndsFrame := by
  intro s f he hflt tag n ends
  have hends : ∀ {i : Instr} {p : Phase → Bool} {b : Nat}, s.frameIn p = some f → p .ended = false →
      exec i s = .next (s.unitFault b f) → ends i := fun hf hp hx => by
    obtain ⟨hmem, hord, hph⟩ := State.frameIn_some hf
    exact ⟨_, hx, State.unitFault_spec hmem hord (fun h => by rw [h, hp] at hph; cases hph) _⟩
  refine ⟨fun hf hphase hnone hen hhas e => ?_, fun hf hen => ?_, fun cs hf hcs hen hhas e => ?_, fun hf hen hready bad e => ?_⟩
  · have hok := State.decodes_eq hphase hnone he hen hflt hhas
    have hx : ∀ w c, w = .uncorrectable ∨ c = .uncorrectable → exec (.boxDecode w c) s = .next (s.unitFault 7 f) := fun w c h => by
      rw [exec_boxDecode_eq hf, hok, onlyIf_true, if_pos h]
    exact ⟨hends hf rfl (hx _ _ (.inl rfl)), hends hf rfl (hx _ _ (.inr rfl))⟩
  · have hx : exec (.suppression .uncorrectable) s = .next (s.unitFault 7 f) := by
      rw [exec_suppression_eq hf he hen hflt, if_pos rfl]
    exact hends hf rfl hx
  · have hok : (s.engineUp && s.blockEn 8 && !s.faulted && s.unitHas 8 ((stgProducers s.img.copy cs).headD 0)
        (2 * b2n s.bank + b2n f.wide) (f.ordinal.getD 0)) = true := by
      rw [hhas]
      simp [he, hen, hflt]
    have hx : ∀ w c, w = .uncorrectable ∨ c = .uncorrectable → exec (.cropAndResize w c) s = .next (s.unitFault 8 f) := fun w c h => by
      rw [exec_cropAndResize, execCropAndResize, hf, hcs]
      dsimp only
      rw [hok, onlyIf_true, if_pos h]
    exact ⟨hends hf rfl (hx _ _ (.inl rfl)), hends hf rfl (hx _ _ (.inr rfl))⟩
  · have hok : (s.engineUp && s.blockEn 7 && !s.faulted && s.cropStage.all (fun cs => s.unitHas 7 cs
        (2 * b2n s.bank + b2n f.wide) (f.ordinal.getD 0))) = true := by
      rw [hready]
      simp [he, hen, hflt]
    have hx : ∀ w c, w = .uncorrectable ∨ c = .uncorrectable →
        exec (.trackAssociation w bad c) s = .next (s.unitFault 7 f) := fun w c h => by
      rw [exec_trackAssociation, execTrackAssociation, hf]
      dsimp only
      rw [hok, onlyIf_true, if_pos h]
    have hp : (if s.cropStage.isSome then Phase.ended == .cropped else Phase.ended == .suppressed) = false := by split_ifs <;> rfl
    exact ⟨hends hf hp (hx _ _ (.inl rfl)), hends hf hp (hx _ _ (.inr rfl))⟩

/-- Settles O37: the candidates that the decoder keeps and suppression passes on, and the end of a frame with an unreadable word. -/
theorem candidates : Obligations.Candidates := ⟨boxDecodeKeepsCandidates, suppressionKeepsBest, unreadableUnitWordEndsFrame⟩

end Sys2Proof.Machine
end

section
/-! SUPPORT. Snapshots and the indirect pair (R392 to R398, R74), field access (R384 to R389), the reset key and the mailbox (R373,
R402, R403). -/

namespace Sys2Proof.Machine
open Sys2Proof

/-! ## Common registers that a tile fault leaves alone (R382, R452) -/

/-- Every common register of a block (SNAP and the indirect pair) reads in `u` as in `s`. -/
structure KeepsCommon (s u : State) : Prop where
  reg : ∀ a, 0xFE00 ≤ a % 0x10000 → u.reg a = s.reg a

namespace KeepsCommon

variable {s u v : State}

theorem refl (s : State) : KeepsCommon s s := ⟨fun _ _ => rfl⟩

theorem of_regs (h : KeepsCommon s u) (hr : v.regs = u.regs) : KeepsCommon s v :=
  ⟨fun a ha => (congrArg (tget 0#32 · a) hr).trans (h.reg a ha)⟩

theorem setReg (h : KeepsCommon s u) {b : Nat} {w : Word} (hb : b % 0x10000 < 0xFE00 := by decide) : KeepsCommon s (u.setReg b w) :=
  ⟨fun a ha => (State.reg_setReg_ne u w (fun hab => by omega)).trans (h.reg a ha)⟩

theorem ite {c : Prop} [Decidable c] (hu : KeepsCommon s u) (hv : KeepsCommon s v) : KeepsCommon s (if c then u else v) := by
  split_ifs
  · exact hu
  · exact hv

theorem count (h : KeepsCommon s u) {b n : Nat} (hb : b % 0x10000 < 0xFE00 := by decide) : KeepsCommon s (u.count b n) := h.setReg hb
theorem setBits (h : KeepsCommon s u) {b : Nat} {m : Word} (hb : b % 0x10000 < 0xFE00 := by decide) :
    KeepsCommon s (u.setBits b m) := h.setReg hb
theorem clrBits (h : KeepsCommon s u) {b : Nat} {m : Word} (hb : b % 0x10000 < 0xFE00 := by decide) :
    KeepsCommon s (u.clrBits b m) := h.setReg hb
theorem putFld (h : KeepsCommon s u) {b hi lo n : Nat} (hb : b % 0x10000 < 0xFE00 := by decide) :
    KeepsCommon s (u.putFld b hi lo n) := h.setReg hb
theorem alert (h : KeepsCommon s u) {i : Nat} : KeepsCommon s (u.alert i) := h.setBits (b := Reg.devAlert).of_regs rfl
theorem logEvent (h : KeepsCommon s u) {k : Nat} {x : BitVec 64} : KeepsCommon s (u.logEvent k x) :=
  ⟨fun a ha => (State.reg_logEvent ..).trans ((if_neg (fun hab => absurd (hab ▸ ha) (by decide))).trans (h.reg a ha))⟩

theorem retire (h : KeepsCommon s u) {r : Retire} : KeepsCommon s (u.retire r) := by
  unfold State.retire
  split_ifs
  · exact h.of_regs rfl
  · extract_lets _ v
    have hv : KeepsCommon s v := h.of_regs rfl
    exact hv.logEvent.setBits

theorem retireTile (h : KeepsCommon s u) {t : TileAddr} {c : Nat} : KeepsCommon s (u.retireTile t c) := by
  unfold State.retireTile
  exact .ite h h.logEvent.retire

theorem deviceFault (h : KeepsCommon s u) {c : Nat} : KeepsCommon s (u.deviceFault c) := by
  unfold State.deviceFault
  extract_lets l t u' dropped _ _ v
  have hl : KeepsCommon s l := h.logEvent
  have ht : KeepsCommon s t := .alert (.setReg hl.putFld)
  have hu : KeepsCommon s u' := ht.clrBits
  have hv : KeepsCommon s v := hu.of_regs rfl
  exact .ite hl hv.count

theorem rejectImage (h : KeepsCommon s u) {code stage : Nat} : KeepsCommon s (u.rejectImage code stage) := by
  unfold State.rejectImage
  extract_lets _ _ v
  have hv : KeepsCommon s v := h.of_regs rfl
  exact hv.setReg.logEvent.alert

theorem endInside (h : KeepsCommon s u) {st : Status} : KeepsCommon s (u.endInside st) := by
  obtain ⟨m, pp, he⟩ := u.endInside_frame st
  rw [he]
  exact h.of_regs rfl

theorem countDropped (h : KeepsCommon s u) {n : Nat} : KeepsCommon s (u.countDropped n) := h.of_regs rfl

theorem placeAgain (h : KeepsCommon s u) {t : TileAddr} : KeepsCommon s (u.placeAgain t) := by
  unfold State.placeAgain
  extract_lets retired u' v w
  have hu : KeepsCommon s u' := h.setBits.putFld
  have hv : KeepsCommon s v := hu.setReg.countDropped.endInside
  have hw : KeepsCommon s w := by
    obtain ⟨nm, hn⟩ := v.keepAllStats_frame
    have hk : KeepsCommon s v.keepAllStats.holdAll := hv.of_regs (by rw [hn]; rfl)
    exact hk.clrBits.setReg
  clear_value v w
  split
  · exact hw.of_regs rfl
  · refine deviceFault ?_
    exact hv.of_regs rfl

theorem beginRemap (h : KeepsCommon s u) {at_ : Nat} : KeepsCommon s (u.beginRemap at_) := by
  unfold State.beginRemap
  extract_lets v
  have hv : KeepsCommon s v := h.count.alert.setReg
  exact .ite h (hv.of_regs rfl)

theorem remapTile (h : KeepsCommon s u) {t : TileAddr} {cause : BitVec 3} {st at_ : Nat} :
    KeepsCommon s (u.remapTile t cause st at_) := by
  unfold State.remapTile
  extract_lets _ u' _ x v _ w need
  have hw : KeepsCommon s w := h.beginRemap.of_regs rfl
  clear_value w
  exact .ite h (.ite (h.of_regs rfl) (.ite hw.placeAgain hw))

theorem tileFault (h : KeepsCommon s u) {t : TileAddr} {cause : BitVec 3} : KeepsCommon s (u.tileFault t cause) := by
  unfold State.tileFault
  extract_lets stage l w
  have hw : KeepsCommon s w := .retireTile (.logEvent h.count)
  clear_value w l
  have again : KeepsCommon s (if w.img.restarts ≠ 0 then w.rejectImage 8 0xFFFF
      else { w.holdAll with img := { w.img with st := .placing, restarts := 1 } }) := .ite hw.rejectImage (hw.of_regs rfl)
  have running : KeepsCommon s (match stage with
      | none => w
      | some st => if w.faulted then w else if w.rbit Reg.plcCtl 0 then w.remapTile t cause st w.clock.now else w.deviceFault 7) := by
    clear_value stage
    cases stage
    · exact hw
    · exact .ite hw (.ite hw.remapTile hw.deviceFault)
  split
  · exact again
  · exact again
  · exact running
  · exact running
  · exact hw

theorem countEcc (h : KeepsCommon s u) {e : Ecc} : KeepsCommon s (u.countEcc e) := by
  cases e
  · exact h
  · exact h.count (b := Reg.fabEccCorrCnt)
  · exact (h.count (b := Reg.fabEccUncorrCnt)).setBits (b := Reg.fabStat)

theorem indChecked (h : KeepsCommon s u) {a : Nat} {e : Ecc} {w : Word} : KeepsCommon s (u.indChecked a e w).2 := by
  unfold State.indChecked
  extract_lets t v
  have hv : KeepsCommon s v := h.countEcc
  clear_value v
  split_ifs
  · exact h
  · exact hv
  · exact hv.of_regs rfl
  · refine tileFault ?_
    exact hv.of_regs rfl

end KeepsCommon

/-! ## Fields (R384 to R389) -/

theorem word_and_ones (w : Word) : w &&& 0xFFFFFFFF#32 = w := BitVec.and_allOnes

section
variable {s : State} {a : Nat} {m : Word}

theorem State.enRule_other (h1 : a ≠ Reg.admCtl) (h2 : a ≠ Reg.stmCtl) (w : Word) : s.enRule a w = w := by
  rw [State.enRule, if_neg (fun h => h1 h.1), if_neg (fun h => h2 h.1)]

/-- A register of sticky bits and fields that are no configuration: the fields take what the word asks for, and the clear word clears
the sticky bits it names. -/
theorem State.fields_of_no_cfg {rw : Word} (hd : regDesc a = ⟨rw, 0, m⟩) (hc : codedFields a = []) (k : Nat) (v : Word) :
    s.fields a k v = (let w := (s.reg a &&& ~~~rw) ||| (aliasValue k (s.reg a) v &&& rw)
      if k = 2 then w &&& ~~~(v &&& m) else w, false) := by
  have hnone : ∀ w : Word, ((w &&& 0 : Word) != 0#32) = false := fun w => by simp
  have hsame : ∀ w o : Word, (w &&& ~~~(0 : Word)) ||| (o &&& (0 : Word)) = w := fun w o => by
    simp [word_and_ones]
  rw [State.fields, hd, hc]
  simp only [keepReserved, List.foldl_nil, hnone, hsame, Bool.and_false, ite_self]

/-- A register of configuration alone keeps its value while EN is 1. -/
theorem State.fields_of_all_cfg (hd : regDesc a = ⟨BitVec.allOnes 32, BitVec.allOnes 32, 0⟩) (hc : codedFields a = []) (v : Word) :
    s.fields a 0 v = (if s.blockEn (a / 0x10000) then s.reg a else v, s.blockEn (a / 0x10000) && v != s.reg a) := by
  have hxor : ∀ w o : Word, (w ^^^ o != 0#32) = (w != o) := fun w o => by
    rw [Bool.eq_iff_iff]
    simp [BitVec.xor_eq_zero_iff]
  rw [State.fields, hd, hc]
  simp [keepReserved, aliasValue, word_and_ones, hxor]

/-- A write that no configuration field refuses is a write of the register. -/
theorem State.fieldWrite_taken {k : Nat} {v w : Word} (h1 : a ≠ Reg.admCtl) (h2 : a ≠ Reg.stmCtl) (hf : s.fields a k v = (w, false)) :
    s.fieldWrite a k v = s.setReg a w := by
  unfold State.fieldWrite
  rw [hf]
  dsimp only
  rw [State.enRule_other h1 h2, if_neg (by decide)]

/-- A read-write register takes what each of its four words asks for. -/
theorem State.fieldWrite_readWrite (hd : regDesc a = ⟨BitVec.allOnes 32, 0, 0⟩) (hc : codedFields a = []) (h1 : a ≠ Reg.admCtl)
    (h2 : a ≠ Reg.stmCtl) (k : Nat) (v : Word) : s.fieldWrite a k v = s.setReg a (aliasValue k (s.reg a) v) :=
  State.fieldWrite_taken h1 h2 ((State.fields_of_no_cfg hd hc k v).trans (by simp [word_and_ones]))

/-- A register of sticky bits changes through its clear word alone. -/
theorem State.fieldWrite_sticky (hd : regDesc a = ⟨0, 0, m⟩) (hc : codedFields a = []) (h1 : a ≠ Reg.admCtl) (h2 : a ≠ Reg.stmCtl)
    (k : Nat) (v : Word) : s.fieldWrite a k v = s.setReg a (if k = 2 then s.reg a &&& ~~~(v &&& m) else s.reg a) :=
  State.fieldWrite_taken h1 h2 ((State.fields_of_no_cfg hd hc k v).trans (by simp [word_and_ones]))

end

/-- Words of DEV_SCRATCH0. -/
theorem State.regWrite_devScratch0 (s : State) (k : Nat) (v : Word) :
    s.regWrite Reg.devScratch0 k v = (s.setReg Reg.devScratch0 (aliasValue k (s.reg Reg.devScratch0) v)).driveAlert :=
  congrArg State.driveAlert (State.fieldWrite_readWrite rfl rfl (by decide) (by decide) k v)

theorem State.regWrite_devAlert (s : State) (k : Nat) (v : Word) : s.regWrite Reg.devAlert k v =
    (s.setReg Reg.devAlert (if k = 2 then s.reg Reg.devAlert &&& ~~~(v &&& 0x3FF#32) else s.reg Reg.devAlert)).driveAlert :=
  congrArg State.driveAlert (State.fieldWrite_sticky rfl rfl (by decide) (by decide) k v)

theorem State.regWrite_admOverrunCnt (s : State) (v : Word) : s.regWrite Reg.admOverrunCnt 0 v =
    (s.setReg Reg.admOverrunCnt (s.reg Reg.admOverrunCnt)).driveAlert :=
  congrArg State.driveAlert (State.fieldWrite_sticky rfl rfl (by decide) (by decide) 0 v)

theorem State.regWrite_admMaxWait (s : State) (v : Word) : s.regWrite Reg.admMaxWait 0 v =
    (let u := s.setReg Reg.admMaxWait (if s.blockEn 1 then s.reg Reg.admMaxWait else v)
     if s.blockEn 1 && v != s.reg Reg.admMaxWait then u.cfgIgn 1 else u).driveAlert := by
  have hf : s.fields Reg.admMaxWait 0 v = (if s.blockEn 1 then s.reg Reg.admMaxWait else v, s.blockEn 1 && v != s.reg Reg.admMaxWait) :=
    State.fields_of_all_cfg rfl rfl v
  refine congrArg State.driveAlert ?_
  unfold State.fieldWrite
  rw [hf]
  have hblock : Reg.admMaxWait / 0x10000 = 1 := rfl
  dsimp only
  rw [State.enRule_other (by decide) (by decide), hblock]

theorem State.driveAlert_reg (s : State) (a : Nat) : s.driveAlert.reg a = s.reg a := rfl

theorem fieldWritesByAlias : Claims.FieldWritesByAlias := by
  intro s v
  have hscratch : ∀ k, (s.regWrite Reg.devScratch0 k v).reg Reg.devScratch0 = aliasValue k (s.reg Reg.devScratch0) v := fun k => by
    rw [State.regWrite_devScratch0, State.driveAlert_reg, State.reg_setReg_self]
  refine ⟨hscratch 0, hscratch 1, hscratch 2, hscratch 3, fun k _ a ha => ?_, fun hen => ?_, fun hen => ⟨?_, fun hne => ⟨?_, ?_⟩,
    fun heq => ?_⟩, ?_, ?_, ?_⟩
  · rw [State.regWrite_devScratch0, State.driveAlert_reg, State.reg_setReg_ne _ _ ha]
  · rw [State.regWrite_admMaxWait]
    simp only [hen, Bool.false_and, Bool.false_eq_true, if_false]
    exact State.reg_setReg_self ..
  · rw [State.regWrite_admMaxWait, State.driveAlert_reg]
    dsimp only
    split_ifs
    · rw [State.cfgIgn_reg _ _ _ (by decide) (by decide), State.reg_setReg_self]
    · exact State.reg_setReg_self ..
  · rw [State.regWrite_admMaxWait, State.rbit, State.driveAlert_reg]
    dsimp only
    rw [if_pos (by simp [hen, hne])]
    exact State.cfgIgn_sets _ 1
  · rw [State.regWrite_admMaxWait, State.driveAlert_reg]
    dsimp only
    rw [if_pos (by simp [hen, hne])]
    exact (State.cfgIgn_counts _ 1).trans (congrArg (· + 1#32) (State.reg_setReg_ne _ _ (by decide)))
  · rw [State.regWrite_admMaxWait, State.driveAlert_reg]
    dsimp only
    rw [if_neg (by simp [heq]), State.reg_setReg_ne _ _ (by decide)]
  · rw [State.regWrite_devAlert, State.driveAlert_reg, State.reg_setReg_self, if_pos rfl]
  · rw [State.regWrite_devAlert, State.driveAlert_reg, State.reg_setReg_self, if_neg (by decide)]
  · rw [State.regWrite_admOverrunCnt, State.driveAlert_reg, State.reg_setReg_self]

/-! ## The reset key and the mailbox (R373, R402, R403) -/

theorem State.up_of_engineUp {s : State} (he : s.engineUp = true) : s.up = true := (Bool.and_eq_true_iff.mp he).1

theorem exec_softReset_eq {s : State} (he : s.engineUp = true) (via : Bool) (key : Word) : exec (.softReset via key) s =
    .next (if key = resetKey then s.requestReset (if via then 2 else 1) else s) := by
  rw [exec_softReset, execSoftReset, State.up_of_engineUp he, he, Bool.or_true, Bool.and_true, Bool.true_and]
  by_cases hk : key = resetKey
  · rw [if_pos hk, hk]
    rfl
  · rw [if_neg hk, beq_false_of_ne hk, onlyIf_false]

theorem resetKeyAndMailbox : Claims.ResetKeyAndMailbox := by
  intro s via key v he
  refine ⟨fun hk => ?_, fun hp => ?_, fun hp => ?_, fun hen hb => ?_, fun h => ?_⟩
  · rw [exec_softReset_eq he]
    exact congrArg _ (if_neg hk)
  · have hr : s.requestReset (if via then 2 else 1) = s := if_pos (Option.isSome_iff_ne_none.mpr hp)
    rw [exec_softReset_eq he, hr, ite_self]
  · have hr : s.requestReset (if via then 2 else 1) = _ := if_neg (by simp [hp])
    refine ⟨_, exec_softReset_eq he via _, ?_⟩
    rw [if_pos (show (0xB0070001#32 : Word) = resetKey from rfl), hr]
    refine ⟨?_, ?_, fun a ha => ?_, rfl, rfl⟩
    · cases via <;> rfl
    · refine (congrArg (fld · 3 0) ((State.reg_putFld s Reg.devStat 3 0 2 Reg.devStat).trans (if_pos rfl))).trans ?_
      exact fld_setFld_nibble _ 2
    · exact (State.reg_putFld s Reg.devStat 3 0 2 a).trans (if_neg ha)
  · have hs : exec (.mbxSubmit v) s = .next (s.submit v) := by rw [exec_mbxSubmit, execMbxSubmit, he, onlyIf_true]
    have ht : s.submit v = _ := if_pos (by simp [hen, hb])
    rw [Completes, hs, ht]
    have hreg : ∀ a, ((s.setReg Reg.mbxSubmit (v &&& 0x7FF#32)).putFld Reg.mbxStat 1 0 1).reg a = if a = Reg.mbxStat then
        setFld (s.reg Reg.mbxStat) 1 0 1 else if a = Reg.mbxSubmit then v &&& 0x7FF#32 else s.reg a := fun a => by
      rw [State.reg_putFld, State.reg_setReg_ne _ _ (by decide), State.reg_setReg]
    refine ⟨_, rfl, rfl, ?_, ?_, ?_, ?_, rfl⟩
    · refine (congrArg (bit · 0) ((hreg Reg.mbxStat).trans (if_pos rfl))).trans ?_
      simp [bit, setFld]
    · refine (congrArg (bit · 1) ((hreg Reg.mbxStat).trans (if_pos rfl))).trans ?_
      simp [bit, setFld]
    · exact (hreg Reg.mbxSubmit).trans ((if_neg (by decide)).trans (if_pos rfl))
    · exact (hreg Reg.mbxIgnCnt).trans ((if_neg (by decide)).trans (if_neg (by decide)))
  · have hs : s.submit v = s.count Reg.mbxIgnCnt 1 := by
      unfold State.submit
      exact if_neg (by rcases h with h | h <;> simp [h])
    rw [exec_mbxSubmit, execMbxSubmit, he, onlyIf_true, hs]

/-! ## Snapshots (R392 to R395) -/

theorem State.snapBlock_hold (s : State) (b : Nat) :
    (s.snapBlock b).hold = (counters b).foldl (fun m a => tset 0#32 m a (s.readReg a)) s.hold := by
  unfold State.snapBlock State.snapCopy
  dsimp only
  split
  · rfl
  · rfl

theorem snapTake_spec {s : State} {block : BitVec 5} (he : s.engineUp = true) (hb : block.toNat < 18) :
    (s.rbit (snapReg block.toNat) 1 = true → exec (.snapTake block) s = .next s) ∧
    (s.rbit (snapReg block.toNat) 1 = false → Completes (.snapTake block) s (fun u => u.rbit (snapReg block.toNat) 1 = true ∧
      (∀ a, a ≠ snapReg block.toNat → u.reg a = s.reg a) ∧ u.adm = s.adm ∧ u.ctx = s.ctx ∧
      ∀ a ∈ counters block.toNat, tget 0#32 u.hold a = s.readReg a)) := by
  have hx : exec (.snapTake block) s = .next (if s.rbit (snapReg block.toNat) 1 then s else s.snapBlock block.toNat) := by
    rw [exec_snapTake, execSnapTake, he, decide_eq_true hb, Bool.and_true, onlyIf_true]
    rfl
  refine ⟨fun h => ?_, fun h => ?_⟩
  · rw [hx, if_pos h]
  · rw [if_neg (by simp [h])] at hx
    obtain ⟨_, _, _, hcopy⟩ := CopyOnly.snapBlock s block.toNat
    refine ⟨_, hx, ?_, fun a ha => ?_, ?_, ?_, fun a ha => ?_⟩
    · rw [State.rbit, State.reg_snapBlock, if_pos rfl]
      simp [bit]
    · rw [State.reg_snapBlock, if_neg ha]
    · rw [hcopy]
    · rw [hcopy]
    · rw [State.snapBlock_hold, tget_foldl_tset, if_pos ha]

/-- The upper half of a register reads back, and the lower half keeps its bits. -/
theorem fld_setFld_high (w : Word) (v : Nat) : fld (setFld w 31 16 v) 31 16 = v % 2 ^ 16 := by
  have hmask : (~~~BitVec.ofNat 32 ((2 ^ (31 + 1 - 16) - 1) * 2 ^ 16)).toNat / 2 ^ 16 = 0 := rfl
  simp only [fld, setFld, BitVec.toNat_or, BitVec.toNat_and]
  rw [← Nat.shiftRight_eq_div_pow, Nat.shiftRight_or_distrib, Nat.shiftRight_and_distrib, Nat.shiftRight_eq_div_pow _ 16,
    Nat.shiftRight_eq_div_pow _ 16, hmask, Nat.and_zero, Nat.zero_or, Nat.shiftRight_eq_div_pow, BitVec.toNat_ofNat]
  omega

theorem snapComplete_spec {s : State} {block : BitVec 5} (he : s.engineUp = true) (hb : block.toNat < 18)
    (h : s.rbit (snapReg block.toNat) 1 = true) : Completes (.snapComplete block) s (fun u =>
      u.rbit (snapReg block.toNat) 1 = false ∧
      fld (u.reg (snapReg block.toNat)) 31 16 = (fld (s.reg (snapReg block.toNat)) 31 16 + 1) % 2 ^ 16 ∧ u.hold = s.hold ∧
      ∀ a, a ≠ snapReg block.toNat → u.reg a = s.reg a) := by
  have hx : exec (.snapComplete block) s = .next (s.snapDone block.toNat) := by
    rw [exec_snapComplete, execSnapComplete, he, h, decide_eq_true hb]
    rfl
  refine ⟨_, hx, ?_, ?_, rfl, fun a ha => State.reg_setReg_ne _ _ ha⟩
  · have hlow : ∀ n, (BitVec.ofNat 32 (n * 2 ^ 16)).getLsbD 1 = false := fun n => by
      rw [BitVec.getLsbD_ofNat, Nat.testBit_mul_two_pow]
      rfl
    rw [State.snapDone, State.rbit, State.reg_setReg_self, bit, setFld, BitVec.getLsbD_or, hlow]
    simp
  · rw [State.snapDone, State.reg_setReg_self, fld_setFld_high]

/-! ## The indirect pair (R396 to R398) -/

theorem indAddr_ne_indCtl (b : Nat) : indAddr b ≠ indCtl b := by unfold indAddr indCtl; omega
theorem indData_ne_indCtl (b : Nat) : indData b ≠ indCtl b := by unfold indData indCtl; omega
theorem indAddr_ne_indData (b : Nat) : indAddr b ≠ indData b := by unfold indAddr indData; omega
theorem indCtl_common (b : Nat) : 0xFE00 ≤ indCtl b % 0x10000 := by unfold indCtl; omega
theorem indAddr_common (b : Nat) : 0xFE00 ≤ indAddr b % 0x10000 := by unfold indAddr; omega

/-- An access begun is in progress, and touches beside BUSY no register. -/
theorem State.indStart_spec (s : State) (b kind : Nat) :
    (s.indStart b kind).indBusy b = true ∧ tget 0 (s.indStart b kind).ind b = kind ∧
    ∀ a, a ≠ indCtl b → (s.indStart b kind).reg a = s.reg a := by
  refine ⟨?_, tget_tset_self .., fun a ha => ?_⟩
  · exact (State.rbit_setBits_self _ _ _ _).trans (by simp)
  · exact (State.reg_setBits _ _ _ _).trans (if_neg ha)

/-- A command of the pair acts on the block it names. -/
theorem exec_indirect {s : State} {block : BitVec 5} {v : Word} (he : s.engineUp = true) (hb : block.toNat < 18) :
    exec (.indAddrWrite block 0#2 v) s = .next (s.indAddrWrite block.toNat 0 v) ∧
    exec (.indDataWrite block v) s = .next (s.indDataWrite block.toNat v) ∧
    exec (.indDataRead block) s = .next (s.indDataRead block.toNat).2 := by
  have hok : (s.engineUp && decide (block.toNat < 18)) = true := by simp [he, hb]
  refine ⟨?_, ?_, ?_⟩
  · rw [exec_indAddrWrite, execIndAddrWrite, hok, onlyIf_true]
    rfl
  · rw [exec_indDataWrite, execIndDataWrite, hok, onlyIf_true]
  · rw [exec_indDataRead, execIndDataRead, hok, onlyIf_true]

theorem indAddrWrite_free (s : State) {b : Nat} (h : s.indBusy b = false) (v : Word) :
    let u := s.indAddrWrite b 0 v
    u.reg (indAddr b) = v &&& 0xFFFFFFFC#32 ∧ u.indBusy b = true ∧ tget 0 u.ind b = 1 ∧ u.adm = s.adm ∧ u.fab = s.fab := by
  have hu : s.indAddrWrite b 0 v = (s.setReg (indAddr b) (v &&& 0xFFFFFFFC#32)).indStart b 1 := if_neg (by simp [h])
  rw [hu]
  obtain ⟨hbusy, hind, hreg⟩ := (s.setReg (indAddr b) (v &&& 0xFFFFFFFC#32)).indStart_spec b 1
  exact ⟨(hreg _ (indAddr_ne_indCtl b)).trans (State.reg_setReg_self ..), hbusy, hind, rfl, rfl⟩

/-- A block whose indirect space takes no write. -/
theorem State.indWrite_other (s : State) {b : Nat} (h : b ∉ [4, 5, 9, 13]) (a : Nat) (v : Word) : s.indWrite b a v = s := by
  simp only [List.mem_cons, List.not_mem_nil, or_false, not_or] at h
  obtain ⟨h4, h5, h9, h13⟩ := h
  unfold State.indWrite
  split
  · exact absurd rfl h4
  · exact absurd rfl h5
  · exact absurd rfl h9
  · exact absurd rfl h13
  · rfl

theorem indDataWrite_free (s : State) {b : Nat} (h : s.indBusy b = false) (v : Word) :
    let u := s.indDataWrite b v
    u.indBusy b = true ∧ tget 0 u.ind b = 2 ∧
    (b ∉ [4, 5, 9, 13] → u.reg (indAddr b) = s.reg (indAddr b) ∧ u.reg (indData b) = v ∧ u.fab = s.fab ∧ u.adm = s.adm) := by
  have hu : s.indDataWrite b v = ((s.setReg (indData b) v).indWrite b (s.reg (indAddr b)).toNat v).indStart b 2 :=
    if_neg (by simp [h])
  rw [hu]
  obtain ⟨hbusy, hind, hreg⟩ := ((s.setReg (indData b) v).indWrite b (s.reg (indAddr b)).toNat v).indStart_spec b 2
  refine ⟨hbusy, hind, fun hb => ?_⟩
  rw [State.indWrite_other _ hb] at hreg ⊢
  exact ⟨(hreg _ (indAddr_ne_indCtl b)).trans (State.reg_setReg_ne _ _ (indAddr_ne_indData b)),
    (hreg _ (indData_ne_indCtl b)).trans (State.reg_setReg_self ..), rfl, rfl⟩

theorem indDataRead_ainc (s : State) {b : Nat} (h : s.indBusy b = false) (hi : s.rbit (indCtl b) 0 = true) :
    let u := (s.indDataRead b).2
    u.reg (indAddr b) = s.reg (indAddr b) + 4#32 ∧ u.indBusy b = true ∧ tget 0 u.ind b = 1 ∧ u.adm = s.adm ∧ u.fab = s.fab := by
  have hu : s.indDataRead b = (s.reg (indData b), (s.setReg (indAddr b) (s.reg (indAddr b) + 4#32)).indStart b 1) :=
    (if_neg (by simp [h])).trans (if_pos hi)
  rw [hu]
  obtain ⟨hbusy, hind, hreg⟩ := (s.setReg (indAddr b) (s.reg (indAddr b) + 4#32)).indStart_spec b 1
  exact ⟨(hreg _ (indAddr_ne_indCtl b)).trans (State.reg_setReg_self ..), hbusy, hind, rfl, rfl⟩

theorem indDataRead_plain (s : State) {b : Nat} (h : s.indBusy b = false) (hi : s.rbit (indCtl b) 0 = false) :
    (s.indDataRead b).2 = s := by
  have hu : s.indDataRead b = (s.reg (indData b), s) := (if_neg (by simp [h])).trans (if_neg (by simp [hi]))
  rw [hu]

/-- An access that meets BUSY sets OVR alone. -/
theorem indirect_busy (s : State) {b : Nat} (h : s.indBusy b = true) (v : Word) :
    s.indAddrWrite b 0 v = s.setBits (indCtl b) 0x4#32 ∧ s.indDataWrite b v = s.setBits (indCtl b) 0x4#32 ∧
    (s.indDataRead b).2 = s.setBits (indCtl b) 0x4#32 := by
  have hr : s.indDataRead b = (s.reg (indData b), s.indOvr b) := if_pos h
  exact ⟨if_pos h, if_pos h, by rw [hr]; rfl⟩

/-! ## The end of an access (R74, R397) -/

/-- The state in which the block's access is no longer in progress. -/
def State.indEnded (s : State) (b : Nat) : State := { s with ind := tset 0 s.ind b 0 }.clrBits (indCtl b) 0x2#32

theorem State.indEnded_busy (s : State) (b : Nat) : (s.indEnded b).indBusy b = false := by
  refine (congrArg (bit · 1) ((State.reg_clrBits _ (indCtl b) (indCtl b) 0x2#32).trans (if_pos rfl))).trans ?_
  simp [bit]

theorem State.indEnded_reg (s : State) (b : Nat) {a : Nat} (ha : a ≠ indCtl b) : (s.indEnded b).reg a = s.reg a :=
  (State.reg_clrBits _ _ _ _).trans (if_neg ha)

/-- The word that an access brings, and the state after its check. -/
def State.indFetched (s : State) (b : Nat) (ecc : Ecc) : Word × State :=
  let a := (s.reg (indAddr b)).toNat
  if b = 4 then (s.indEnded b).indChecked a ecc (s.indRead b a) else (s.indRead b a, s.indEnded b)

theorem State.indComplete_read (s : State) {b : Nat} (h : tget 0 s.ind b = 1) (ecc : Ecc) :
    s.indComplete b ecc = (s.indFetched b ecc).2.setReg (indData b) (s.indFetched b ecc).1 := if_pos h

theorem State.indComplete_other (s : State) {b : Nat} (h : tget 0 s.ind b ≠ 1) (ecc : Ecc) :
    s.indComplete b ecc = if s.rbit (indCtl b) 0 then (s.indEnded b).setReg (indAddr b) (s.reg (indAddr b) + 4#32)
      else s.indEnded b := if_neg h

theorem State.indFetched_common (s : State) (b : Nat) (ecc : Ecc) : KeepsCommon (s.indEnded b) (s.indFetched b ecc).2 := by
  unfold State.indFetched
  extract_lets a
  split_ifs
  · exact (KeepsCommon.refl _).indChecked
  · exact .refl _

/-- A word that is no checked word of a tile, or that the check lets stand. -/
theorem State.indChecked_readable (s : State) {a : Nat} {ecc : Ecc} (h : ecc ≠ .uncorrectable ∨
    ¬(isTile (BitVec.ofNat 16 (a / 65536 % 16384)) = true ∧ a % 65536 < 0xC400)) (w : Word) :
    (s.indChecked a ecc w).1 = w ∧ (s.indChecked a ecc w).2.adm = s.adm ∧ (s.indChecked a ecc w).2.fab = s.fab := by
  unfold State.indChecked
  dsimp only
  split_ifs with h1 h2 h3
  · exact ⟨rfl, rfl, rfl⟩
  · rw [h2]
    exact ⟨rfl, rfl, rfl⟩
  all_goals
    cases ecc
    · simp at h1
    · simp at h2
    · rw [not_or, not_or, not_le, Bool.not_eq_false] at h1
      exact absurd ⟨h1.1, h1.2.1⟩ (h.resolve_left (by simp))

theorem State.indChecked_corrected (s : State) {a : Nat} (ht : isTile (BitVec.ofNat 16 (a / 65536 % 16384)) = true)
    (ha : a % 65536 < 0xC400) (w : Word) : s.indChecked a .corrected w = (w, s.countEcc .corrected) := by
  unfold State.indChecked
  dsimp only
  rw [if_neg (by simp [ht, ha]), if_pos rfl]

theorem State.indChecked_uncorrectable (s : State) {a : Nat} (ht : isTile (BitVec.ofNat 16 (a / 65536 % 16384)) = true)
    (ha : a % 65536 < 0xC000) (w : Word) : s.indChecked a .uncorrectable w =
      (BitVec.ofNat 32 s.free.1.toNat, (s.countEcc .uncorrectable).free.2) := by
  unfold State.indChecked
  dsimp only
  rw [if_neg (by simp [ht]; omega), if_neg (by decide), if_pos ha]
  rfl

section
variable {s : State} {b : Nat} {ecc : Ecc}

/-- A read that ends: the pair is free, ADDR stands, and IND_DATA shows the word. -/
theorem State.indComplete_read_spec (h : tget 0 s.ind b = 1) :
    (s.indComplete b ecc).indBusy b = false ∧ (s.indComplete b ecc).reg (indAddr b) = s.reg (indAddr b) ∧
    (s.indComplete b ecc).reg (indData b) = (s.indFetched b ecc).1 ∧
    (∀ a, a ≠ indData b → (s.indComplete b ecc).reg a = (s.indFetched b ecc).2.reg a) ∧
    (s.indComplete b ecc).adm = (s.indFetched b ecc).2.adm ∧ (s.indComplete b ecc).fab = (s.indFetched b ecc).2.fab := by
  obtain ⟨hkeep⟩ := s.indFetched_common b ecc
  rw [State.indComplete_read s h]
  refine ⟨?_, ?_, State.reg_setReg_self .., fun a ha => State.reg_setReg_ne _ _ ha, rfl, rfl⟩
  · rw [State.indBusy, State.rbit, State.reg_setReg_ne _ _ (indData_ne_indCtl b).symm, hkeep _ (indCtl_common b)]
    exact s.indEnded_busy b
  · rw [State.reg_setReg_ne _ _ (indAddr_ne_indData b), hkeep _ (indAddr_common b), s.indEnded_reg b (indAddr_ne_indCtl b)]

/-- The word that an access brings, where it is no checked word of a tile or its check lets it stand. -/
theorem State.indFetched_readable (h : ecc ≠ .uncorrectable ∨ ¬(b = 4 ∧
    isTile (BitVec.ofNat 16 ((s.reg (indAddr b)).toNat / 65536 % 16384)) = true ∧ (s.reg (indAddr b)).toNat % 65536 < 0xC400)) :
    (s.indFetched b ecc).1 = s.indRead b (s.reg (indAddr b)).toNat ∧ (s.indFetched b ecc).2.adm = s.adm ∧
    (s.indFetched b ecc).2.fab = s.fab := by
  unfold State.indFetched
  dsimp only
  split_ifs with hb
  · exact (s.indEnded b).indChecked_readable (h.imp_right fun hn hin => hn ⟨hb, hin⟩) _
  · exact ⟨rfl, rfl, rfl⟩

/-- An access that ends: the pair is free; a read brings its word and leaves ADDR, a write moves ADDR under AINC. -/
theorem State.indComplete_write_spec (h : tget 0 s.ind b ≠ 1) :
    (s.indComplete b ecc).indBusy b = false ∧
    (s.indComplete b ecc).reg (indAddr b) = s.reg (indAddr b) + (if s.rbit (indCtl b) 0 then 4#32 else 0#32) ∧
    (s.indComplete b ecc).adm = s.adm ∧ (s.indComplete b ecc).fab = s.fab := by
  rw [State.indComplete_other s h]
  split_ifs
  · refine ⟨?_, State.reg_setReg_self .., rfl, rfl⟩
    rw [State.indBusy, State.rbit, State.reg_setReg_ne _ _ (indAddr_ne_indCtl b).symm]
    exact s.indEnded_busy b
  · exact ⟨s.indEnded_busy b, (s.indEnded_reg b (indAddr_ne_indCtl b)).trans (BitVec.add_zero _).symm, rfl, rfl⟩

end

theorem indAccessComplete_spec {s : State} {block : BitVec 5} {ecc : Ecc} (he : s.engineUp = true) (hb : block.toNat < 18)
    (hbusy : s.indBusy block.toNat = true) :
    let b := block.toNat
    let at_ := (s.reg (indAddr b)).toNat
    let inTile := b = 4 ∧ isTile (BitVec.ofNat 16 (at_ / 65536 % 16384)) = true ∧ at_ % 65536 < 0xC400
    Completes (.indAccessComplete ⟨block, ecc⟩) s (fun u => u.indBusy b = false ∧
      (tget 0 s.ind b = 1 → u.reg (indAddr b) = s.reg (indAddr b) ∧
        (ecc ≠ .uncorrectable ∨ ¬inTile → u.reg (indData b) = s.indRead b at_ ∧ u.adm = s.adm ∧ u.fab = s.fab) ∧
        (ecc = .corrected → inTile → u.reg Reg.fabEccCorrCnt = s.reg Reg.fabEccCorrCnt + 1#32) ∧
        (ecc = .uncorrectable → inTile → at_ % 65536 < 0xC000 →
          u.reg (indData b) = BitVec.ofNat 32 s.free.1.toNat ∧ u.reg Reg.fabEccUncorrCnt = s.reg Reg.fabEccUncorrCnt + 1#32 ∧
          u.rbit Reg.fabStat 9 = true ∧ u.adm = s.adm ∧ u.fab = s.fab)) ∧
      (tget 0 s.ind b = 2 → u.reg (indAddr b) = s.reg (indAddr b) + (if s.rbit (indCtl b) 0 then 4#32 else 0#32) ∧
        u.adm = s.adm ∧ u.fab = s.fab)) := by
  intro b at_ inTile
  have hx : exec (.indAccessComplete ⟨block, ecc⟩) s = .next (s.indComplete b ecc) := by
    have hok : (s.engineUp && decide (block.toNat < 18) && s.indBusy block.toNat) = true := by simp [he, hb, hbusy]
    rw [exec_indAccessComplete, execIndAccessComplete]
    dsimp only
    rw [hok, onlyIf_true]
  refine ⟨_, hx, ?_, fun hkind => ?_, fun hkind => ?_⟩
  · by_cases hkind : tget 0 s.ind b = 1
    · exact (State.indComplete_read_spec hkind).1
    · exact (State.indComplete_write_spec hkind).1
  · obtain ⟨-, haddr, hdata, hreg, hadm, hfab⟩ := State.indComplete_read_spec (ecc := ecc) hkind
    refine ⟨haddr, fun h => ?_, fun hc hin => ?_, fun hu hin hsram => ?_⟩
    · obtain ⟨h1, h2, h3⟩ := State.indFetched_readable (s := s) (b := b) h
      exact ⟨hdata.trans h1, hadm.trans h2, hfab.trans h3⟩
    · obtain ⟨h4, ht, ha⟩ := hin
      have hf : s.indFetched b ecc = (s.indRead b at_, (s.indEnded b).countEcc .corrected) := by
        rw [hc]
        exact (if_pos h4).trans ((s.indEnded b).indChecked_corrected ht ha _)
      rw [hreg _ (by rw [h4]; decide), hf, State.countEcc, State.reg_count, if_pos rfl,
        s.indEnded_reg b (by rw [h4]; decide)]
    · obtain ⟨h4, ht, ha⟩ := hin
      have hf : s.indFetched b ecc = (BitVec.ofNat 32 s.free.1.toNat, ((s.indEnded b).countEcc .uncorrectable).free.2) := by
        rw [hu]
        exact (if_pos h4).trans ((s.indEnded b).indChecked_uncorrectable ht hsram _)
      have hcounted : ∀ a, a ≠ indData b → (s.indComplete b ecc).reg a = ((s.indEnded b).countEcc .uncorrectable).reg a :=
        fun a ha => (hreg a ha).trans (by rw [hf]; rfl)
      obtain ⟨huncorr, -, hseen⟩ := ReadFailed.countEcc (s := s.indEnded b) (u := s.indEnded b) (fun _ _ => rfl)
      refine ⟨hdata.trans (by rw [hf]), ?_, ?_, hadm.trans (by rw [hf]; rfl), hfab.trans (by rw [hf]; rfl)⟩
      · rw [hcounted _ (by rw [h4]; decide), huncorr, s.indEnded_reg b (by rw [h4]; decide)]
      · rw [State.rbit, hcounted _ (by rw [h4]; decide)]
        exact hseen
  · exact (State.indComplete_write_spec (by rw [hkind]; decide)).2

theorem snapshotsAndIndirectAccess : Claims.SnapshotsAndIndirectAccess := by
  intro s block v ecc he hb b at_ inTile
  obtain ⟨hjoins, htakes⟩ := snapTake_spec he hb
  obtain ⟨haw, hdw, hdr⟩ := exec_indirect (v := v) he hb
  refine ⟨hjoins, htakes, snapComplete_spec he hb, fun hbusy => ?_, fun hfree => ?_, fun hfree => ?_, indAccessComplete_spec he hb⟩
  · obtain ⟨h1, h2, h3⟩ := indirect_busy s hbusy v
    rw [haw, hdw, hdr, h1, h2, h3]
    exact ⟨rfl, rfl, rfl⟩
  · refine ⟨⟨_, haw, indAddrWrite_free s hfree v⟩, ⟨_, hdw, indDataWrite_free s hfree v⟩, fun hi => ?_,
      fun hi => ⟨_, hdr, indDataRead_ainc s hfree hi⟩⟩
    rw [hdr, indDataRead_plain s hfree hi]
  · have hoff : (s.engineUp && decide (block.toNat < 18) && s.indBusy block.toNat) = false := by
      rw [show s.indBusy block.toNat = false from hfree, Bool.and_false]
    rw [exec_indAccessComplete, execIndAccessComplete]
    dsimp only
    rw [hoff, onlyIf_false]

/-- Settles O46: snapshots and the indirect pair, field access by the words of a register, the reset key and the mailbox. -/
theorem snapshotsFieldsAndKeys : Obligations.SnapshotsFieldsAndKeys :=
  ⟨snapshotsAndIndirectAccess, fieldWritesByAlias, resetKeyAndMailbox⟩

end Sys2Proof.Machine
end

section
/-! SUPPORT. The re-placement (R121, R133 to R139, R307 to R310): a stuck stage or unit, the end of the scan-out, and step 8. -/

namespace Sys2Proof.Machine
open Sys2Proof

/-! ## A stall (R307 to R309) -/

/-- The stall of a stage is counted, shown and logged, with its moment kept for the next (R308). -/
def State.stallRecorded (s : State) (n : Nat) : State :=
  let v := ((((s.count Reg.stmWdogCnt 1).setReg Reg.stmWdogLast (BitVec.ofNat 32 n)).setBits Reg.stmStat 0x8#32).logEvent 5
    (logArgs [(n, 2)])).alert 2
  { v with plc := { v.plc with lastStall := tset 0 v.plc.lastStall n (s.clock.now + 1) } }

/-- A re-placement that begins with the stage and with every other that is stuck at that moment affected (R308). -/
def State.stallRemap (s : State) (n : Nat) : State :=
  let b := (s.stallRecorded n).beginRemap (s.stallRecorded n).clock.now
  { b with plc := { b.plc with affected := (n :: s.stuckStages).eraseDups } }

/-- A stage's second stall within 10 s is a device fault, any other begins a re-placement. -/
theorem State.stall_eq (s : State) (n : Nat) : s.stall n =
    if tget 0 s.plc.lastStall n ≠ 0 ∧ s.clock.now + 1 - tget 0 s.plc.lastStall n ≤ msSteps 10000
    then (s.stallRecorded n).deviceFault 4
    else s.stallRemap n := rfl

theorem State.reg_stallRecorded (s : State) (n : Nat) :
    (s.stallRecorded n).reg Reg.stmWdogCnt = s.reg Reg.stmWdogCnt + 1#32 ∧
    (s.stallRecorded n).reg Reg.stmWdogLast = BitVec.ofNat 32 n ∧
    ∀ a, a ∉ [Reg.devAlert, Reg.telLogCnt, Reg.stmStat, Reg.stmWdogLast, Reg.stmWdogCnt] →
      (s.stallRecorded n).reg a = s.reg a := by
  let c := (s.count Reg.stmWdogCnt 1).setReg Reg.stmWdogLast (BitVec.ofNat 32 n)
  have hc : ∀ a, a ∉ [Reg.devAlert, Reg.telLogCnt, Reg.stmStat] → (s.stallRecorded n).reg a = c.reg a := fun a ha => by
    simp only [List.mem_cons, List.not_mem_nil, or_false, not_or] at ha
    obtain ⟨h1, h2, h3⟩ := ha
    change (((c.setBits Reg.stmStat 0x8#32).logEvent 5 (logArgs [(n, 2)])).alert 2).reg a = _
    rw [State.reg_alert, if_neg h1, State.reg_logEvent, if_neg h2, State.reg_setBits, if_neg h3]
  refine ⟨?_, ?_, fun a ha => ?_⟩
  · rw [hc _ (by decide), State.reg_setReg_ne _ _ (by decide), State.reg_count, if_pos rfl]
  · rw [hc _ (by decide), State.reg_setReg_self]
  · simp only [List.mem_cons, List.not_mem_nil, or_false, not_or] at ha
    obtain ⟨h1, h2, h3, h4, h5⟩ := ha
    rw [hc a (by simp [h1, h2, h3]), State.reg_setReg_ne _ _ h4, State.reg_count, if_neg h5]

/-- The registers that a re-placement's begin writes. -/
theorem State.reg_beginRemap {s : State} {at_ a : Nat} (h1 : a ≠ Reg.plcRemapCnt) (h2 : a ≠ Reg.devAlert) (h3 : a ≠ Reg.plcStat) :
    (s.beginRemap at_).reg a = s.reg a := by
  unfold State.beginRemap
  split_ifs
  · rfl
  · change (State.setReg _ _ _).reg a = _
    rw [State.reg_setReg_ne _ _ h3, State.reg_alert, if_neg h2, State.reg_count, if_neg h1]

theorem State.beginRemap_clock (s : State) (at_ : Nat) : (s.beginRemap at_).clock = s.clock := by
  unfold State.beginRemap
  split_ifs <;> rfl

theorem State.stallRemap_spec {s : State} (h : s.remapping = false) (n : Nat) :
    (s.stallRemap n).reg Reg.stmWdogCnt = s.reg Reg.stmWdogCnt + 1#32 ∧ (s.stallRemap n).reg Reg.stmWdogLast = BitVec.ofNat 32 n ∧
    (s.stallRemap n).remapping = true ∧ n ∈ (s.stallRemap n).plc.affected ∧
    (∀ m ∈ s.stuckStages, m ∈ (s.stallRemap n).plc.affected) ∧ (s.stallRemap n).plc.failed = [] ∧
    (s.stallRemap n).retiredTiles = s.retiredTiles ∧ (s.stallRemap n).clock = s.clock := by
  obtain ⟨hcnt, hshown, hother⟩ := s.reg_stallRecorded n
  have hrun : (s.stallRecorded n).remapping = false := by
    rw [State.remapping, State.rbit, hother _ (by decide)]
    exact h
  obtain ⟨hgoes, -, -, -, hfailed, -, -, hret⟩ := State.beginRemap_spec hrun (s.stallRecorded n).clock.now
  have hreg : ∀ a, a ≠ Reg.plcRemapCnt → a ≠ Reg.devAlert → a ≠ Reg.plcStat →
      (s.stallRemap n).reg a = (s.stallRecorded n).reg a := fun a h1 h2 h3 => State.reg_beginRemap h1 h2 h3
  refine ⟨?_, ?_, hgoes, ?_, fun m hm => ?_, hfailed, hret, State.beginRemap_clock ..⟩
  · exact (hreg _ (by decide) (by decide) (by decide)).trans hcnt
  · exact (hreg _ (by decide) (by decide) (by decide)).trans hshown
  · exact List.mem_eraseDups.mpr (List.mem_cons_self ..)
  · exact List.mem_eraseDups.mpr (List.mem_cons_of_mem _ hm)

/-- Nothing is watched during a re-placement or after a device fault (R307). -/
theorem State.quiet_of_watching {s : State} (h : s.watching = true) : s.remapping = false ∧ s.faulted = false := by
  simp only [State.watching, Bool.and_eq_true, Bool.not_eq_true'] at h
  obtain ⟨⟨⟨-, hrun⟩, -⟩, hf⟩ := h
  exact ⟨hrun, hf⟩

theorem State.until_reg (s : State) (t a : Nat) : (s.until t).reg a = s.reg a := by rw [State.reg, State.until_regs, State.reg]
theorem State.until_faulted (s : State) (t : Nat) : (s.until t).faulted = s.faulted := by
  rw [State.faulted, State.until_reg, State.faulted]

theorem exec_stallFault_stuck {s : State} {stage : BitVec 9} (he : s.engineUp = true) (hw : s.watching = true)
    (hn : stage.toNat < s.plc.pitch.length) (hs : s.stageWatched stage.toNat = true) (hh : s.stageHolds stage.toNat = true) :
    exec (.stallFault stage) s =
      .next ((s.until (s.stuckAt stage.toNat (tget Watch.zero s.plc.watch stage.toNat))).stall stage.toNat) :=
  onlyIf_of_true (by simp [he, hw, hn, hs, hh]) s _

theorem exec_unitNoProgress_stuck {s : State} {unit : BitVec 5} (he : s.engineUp = true) (hw : s.watching = true)
    (hc : s.clk.capture = 0#8) (hh : s.unitHolds unit.toNat = true) :
    exec (.unitNoProgress unit) s =
      .next ((s.until (s.stuckAt (512 + unit.toNat) (tget Watch.zero s.plc.watch (512 + unit.toNat)))).deviceFault 5) :=
  onlyIf_of_true (by simp [he, hw, hc, hh]) s _

theorem stuckStageIsReplaced : Claims.StuckStageIsReplaced := by
  intro s stage unit he hw n v
  obtain ⟨hrun, hf⟩ := State.quiet_of_watching hw
  have hlast : v.plc.lastStall = s.plc.lastStall := by rw [State.until_plc]
  have hret : v.retiredTiles = s.retiredTiles := by rw [State.retiredTiles, State.until_flash, State.until_tel, State.retiredTiles]
  refine ⟨fun hn hs hh => ?_, fun hc hh => ?_⟩
  · have hx : exec (.stallFault stage) s = .next (v.stall n) := exec_stallFault_stuck he hw hn hs hh
    refine ⟨fun hfirst => ⟨_, hx, ?_⟩, fun hsecond hsoon => ⟨_, hx, ?_⟩⟩
    · have hvrun : v.remapping = false := by rw [State.remapping, State.rbit, State.until_reg]; exact hrun
      obtain ⟨hcnt, hshown, hgoes, hself, hstuck, hfailed, hvret, hclock⟩ := State.stallRemap_spec hvrun n
      rw [State.stall_eq, hlast, hfirst, if_neg (by simp)]
      exact ⟨hcnt.trans (by rw [State.until_reg]), hshown, hgoes, hself, hstuck, hfailed, hvret.trans hret, hclock⟩
    · have hvf : (v.stallRecorded n).faulted = false := by
        obtain ⟨-, -, hother⟩ := v.reg_stallRecorded n
        rw [State.faulted, hother _ (by decide)]
        exact (s.until_faulted _).trans hf
      obtain ⟨hcause, hstate, -⟩ := State.deviceFault_recorded hvf 4
      rw [State.stall_eq, hlast, if_pos ⟨hsecond, hsoon⟩]
      exact ⟨hcause, hstate⟩
  · obtain ⟨hcause, hstate, -⟩ := State.deviceFault_recorded ((s.until_faulted _).trans hf) 5
    exact ⟨_, exec_unitNoProgress_stuck he hw hc hh, hcause, hstate⟩

/-! ## What stands until step 8 (R121, R134) -/

/-- What a re-placement leaves as it was until its step 8: the active bank, that it runs, and the context engine beside the requests
that are under way. -/
def LeavesStore (s u : State) : Prop :=
  u.bank = s.bank ∧ u.remapping = s.remapping ∧
  ({ u.ctx with reqs := [], owed := [] } : Ctx) = { s.ctx with reqs := [], owed := [] }

theorem bit_setFld_nibble (w : Word) (v : Nat) : bit (setFld w 3 0 v) 5 = bit w 5 := by
  have hv : (v % 16).testBit 5 = false := Nat.testBit_lt_two_pow (by omega)
  simp only [bit, setFld, BitVec.getLsbD_or, BitVec.getLsbD_and, BitVec.getLsbD_not, BitVec.getLsbD_ofNat]
  simp [hv, show Nat.testBit 15 5 = false from rfl]

theorem LeavesStore.sameStore {s u : State} (h : LeavesStore s u) : SameStore s u := by
  obtain ⟨-, -, hctx⟩ := h
  exact ⟨(congrArg Ctx.dir hctx :), (congrArg Ctx.slots hctx :), (congrArg Ctx.streams hctx :), (congrArg Ctx.tracks hctx :)⟩

namespace LeavesStore

variable {s u v : State}

theorem refl (s : State) : LeavesStore s s := ⟨rfl, rfl, rfl⟩

theorem of_ctx (h : LeavesStore s u) (hregs : v.regs = u.regs) (hctx : v.ctx = u.ctx) : LeavesStore s v := by
  simpa only [LeavesStore, State.bank, State.remapping, State.rbit, State.reg, hregs, hctx] using h

theorem ite {c : Prop} [Decidable c] (hu : LeavesStore s u) (hv : LeavesStore s v) : LeavesStore s (if c then u else v) := by
  split_ifs
  · exact hu
  · exact hv

theorem foldl {α : Type} {f : State → α → State} (hf : ∀ u a, LeavesStore s u → LeavesStore s (f u a)) {l : List α}
    (h : LeavesStore s u) : LeavesStore s (l.foldl f u) := List.foldlRecOn l f h fun _ hb a _ => hf _ a hb

/-! ### Registers -/

/-- A register word that keeps the bank and the mark of a running re-placement. -/
theorem setReg_of (h : LeavesStore s u) {a : Nat} {w : Word} (hbank : a = Reg.fabStat → bit w 6 = u.bank)
    (hrun : a = Reg.plcStat → bit w 5 = u.remapping) : LeavesStore s (u.setReg a w) := by
  obtain ⟨hb, hr, hctx⟩ := h
  refine ⟨?_, ?_, hctx⟩
  · rw [State.bank, State.rbit, State.reg_setReg]
    split_ifs with ha
    · exact (hbank ha.symm).trans hb
    · exact hb
  · rw [State.remapping, State.rbit, State.reg_setReg]
    split_ifs with ha
    · exact (hrun ha.symm).trans hr
    · exact hr

theorem setReg (h : LeavesStore s u) {a : Nat} {w : Word} (h1 : a ≠ Reg.fabStat := by decide) (h2 : a ≠ Reg.plcStat := by decide) :
    LeavesStore s (u.setReg a w) := h.setReg_of (fun h => absurd h h1) (fun h => absurd h h2)

theorem count (h : LeavesStore s u) {a n : Nat} (h1 : a ≠ Reg.fabStat := by decide) (h2 : a ≠ Reg.plcStat := by decide) :
    LeavesStore s (u.count a n) := h.setReg h1 h2

theorem putStep (h : LeavesStore s u) {n : Nat} : LeavesStore s (u.putFld Reg.plcStat 3 0 n) :=
  h.setReg_of (fun h => absurd h (by decide)) fun _ => bit_setFld_nibble ..

theorem setUnbalanced (h : LeavesStore s u) : LeavesStore s (u.setBits Reg.plcStat 0x80#32) :=
  h.setReg_of (fun h => absurd h (by decide)) fun _ => by simp [State.remapping, State.rbit, bit]

theorem setScanHeld (h : LeavesStore s u) : LeavesStore s (u.setBits Reg.fabStat 0x80#32) :=
  h.setReg_of (fun _ => by simp [State.bank, State.rbit, bit]) fun h => absurd h (by decide)

theorem clrScanHeld (h : LeavesStore s u) : LeavesStore s (u.clrBits Reg.fabStat 0x80#32) :=
  h.setReg_of (fun _ => by simp [State.bank, State.rbit, bit]) fun h => absurd h (by decide)

/-! ### Words that land (R110, R135) -/

theorem offer (h : LeavesStore s u) {l : LinkWord} : LeavesStore s (u.offer l) := .ite h h
theorem unitSend (h : LeavesStore s u) {unit net : Nat} {w : QWord} : LeavesStore s (u.unitSend unit net w) :=
  .offer (u := u.unitMoved unit) h
theorem setTile (h : LeavesStore s u) {t : TileAddr} {x : Tile} : LeavesStore s (u.setTile t x) := h
theorem owe (h : LeavesStore s u) {t : TileAddr} {q : Nat} {w : QWord} : LeavesStore s (u.owe t q w) := .ite h h
theorem enqueue (h : LeavesStore s u) {t : TileAddr} {q : Nat} {w : QWord} : LeavesStore s (u.enqueue t q w) :=
  .ite h.setTile.owe h.setTile
theorem sendCropOwed (h : LeavesStore s u) : LeavesStore s u.sendCropOwed := .foldl (fun _ _ h => h.unitSend) h
theorem freeSlot (h : LeavesStore s u) {n : Nat} {b : Bool} : LeavesStore s (u.freeSlot n b) := h
theorem freeSending (h : LeavesStore s u) {p : Frame → Bool} : LeavesStore s (u.freeSending p) := .foldl (fun _ _ h => h.freeSlot) h

theorem abortFrame (h : LeavesStore s u) {ordinal reason : Nat} : LeavesStore s (u.abortFrame ordinal reason) := by
  unfold State.abortFrame
  extract_lets p _ v w
  have hw : LeavesStore s w := .count (.freeSending (u := v) h)
  split
  · exact h
  · exact .ite (.sendCropOwed (.ite hw hw)) (.ite hw hw)

theorem reqWord (h : LeavesStore s u) {w : QWord} : LeavesStore s (u.reqWord w) := by
  unfold State.reqWord
  split
  · exact h
  · exact h

theorem sendOwed (h : LeavesStore s u) : LeavesStore s u.sendOwed := .foldl (fun _ _ h => .foldl (fun _ _ h => h.unitSend) h) h
theorem reqEnd (h : LeavesStore s u) {ordinal reason : Nat} : LeavesStore s (u.reqEnd ordinal reason) := .sendOwed h
theorem keepWord (h : LeavesStore s u) {unit ordinal key : Nat} {w : QWord} : LeavesStore s (u.keepWord unit ordinal key w) :=
  .ite h h

theorem unitTake (h : LeavesStore s u) {t : TileAddr} {dir net : Nat} {w : QWord} : LeavesStore s (u.unitTake t dir net w) := by
  unfold State.unitTake
  split
  · exact h
  · extract_lets _ _ _ _ _ owed put
    have ho : LeavesStore s owed := .ite h h
    have hput : ∀ n, LeavesStore s (put n owed) := fun n => ho.of_ctx rfl rfl
    exact .ite ho (.ite (.ite (hput _) ho) (.ite (.ite (.reqEnd (hput _)) (.abortFrame (hput _)))
      (.ite (.ite (.reqEnd (hput _)) (.ite (.keepWord (hput _)) (hput _))) (.ite (.reqWord ho) (.ite (.keepWord ho) ho)))))

theorem unitsTake (h : LeavesStore s u) {t : TileAddr} {net wire : Nat} {w : QWord} : LeavesStore s (u.unitsTake t net wire w) :=
  .foldl (fun _ _ h => h.unitTake) h
theorem landWord (h : LeavesStore s u) {l : LinkWord} : LeavesStore s (u.landWord l) :=
  .ite h (.foldl (fun _ _ h => h.enqueue) (.ite h.unitTake h.unitsTake))
theorem landOnce (h : LeavesStore s u) : LeavesStore s u.landOnce := .foldl (fun _ _ h => h.landWord) h
theorem landLinks (h : LeavesStore s u) : LeavesStore s u.landLinks := h.landOnce.landOnce

/-! ### The steps up to the scan-in (R135, R136) -/

theorem saveTiles (h : LeavesStore s u) : LeavesStore s u.saveTiles := .setReg (.setScanHeld h)
theorem scanRestore (h : LeavesStore s u) : LeavesStore s u.scanRestore := .setReg (.clrScanHeld (.foldl (fun _ _ h => h.setTile) h))
theorem openRecords (h : LeavesStore s u) : LeavesStore s u.openRecords := .ite h.scanRestore (.landLinks (.count h))

theorem queueAbort (h : LeavesStore s u) {t : TileAddr} {q tag src : Nat} : LeavesStore s (u.queueAbort t q tag src) :=
  .ite h.setTile (.ite h.setTile h.setTile)

theorem abortEdits (h : LeavesStore s u) {lo hi : Nat} : LeavesStore s (u.abortEdits lo hi) :=
  .foldl (fun _ _ h => .foldl (fun _ _ h => h.queueAbort) h.unitsTake) (.foldl (fun _ _ h => h.setTile) h)

theorem takeSpare (h : LeavesStore s u) {t : TileAddr} : LeavesStore s (u.takeSpare t) := by
  unfold State.takeSpare
  split
  · exact h
  · have hk : LeavesStore s ((u.stageOfTile t).elim u fun st => u.keepStats st t) := by
      cases u.stageOfTile t with
      | none => exact h
      | some st => exact h
    exact .setReg (hk.of_ctx rfl rfl)

theorem loadSpare (h : LeavesStore s u) {t : TileAddr} : LeavesStore s (u.loadSpare t) := by
  unfold State.loadSpare
  split
  · exact h
  · exact h.setTile

theorem repair (h : LeavesStore s u) : LeavesStore s u.repair := by
  unfold State.repair
  extract_lets u3 _ _ u5 u6
  have h3 : LeavesStore s u3 := .foldl (fun _ _ h => .ite h.takeSpare h) h
  have h5 : LeavesStore s u5 := .foldl (fun _ _ h => h.loadSpare) h3
  have h6 : LeavesStore s u6 := .ite (.foldl (fun _ _ h => h.loadSpare) h5) h5
  exact .ite h6 h6.setUnbalanced.count

theorem writeOtherBank (h : LeavesStore s u) : LeavesStore s u.writeOtherBank := .foldl (fun _ _ h => h.setTile) h

end LeavesStore

/-- The fabric saved after steps 2 to 6, at step 7 (R135). -/
def State.remapSaved (s : State) : State :=
  let u := s.openRecords
  (((u.abortEdits u.affectedRun.1 u.affectedRun.2).repair).writeOtherBank.saveTiles).putFld Reg.plcStat 3 0 7

theorem LeavesStore.remapSaved (s : State) : LeavesStore s s.remapSaved :=
  (LeavesStore.refl s).openRecords.abortEdits.repair.writeOtherBank.saveTiles.putStep

theorem exec_remapScanOutDone_step {s : State} (he : s.engineUp = true) (hr : s.remapping = true) (hw : s.plc.whole = false)
    (hc : s.clk.capture = 0#8) (hstep : fld (s.reg Reg.plcStat) 3 0 ≤ 4) (ue : Bool) :
    exec (.remapScanOutDone ue) s = .next (if ue then s.deviceFault 6 else s.remapSaved) :=
  onlyIf_of_true (by simp [he, hr, hw, hc, hstep]) s _

/-! ## Step 8 (R121, R135, R138) -/

/-- What the record of an interruption's length leaves alone (R139). -/
def LeavesMap (s u : State) : Prop :=
  (∀ a, a ∉ [Reg.plcRemapTime, Reg.plcRemapMax, Reg.telLogCnt] → u.reg a = s.reg a) ∧ u.plc = s.plc ∧ u.ctx = s.ctx ∧
  u.img = s.img ∧ u.pwr = s.pwr ∧ u.tel.cap.heldTrigger = s.tel.cap.heldTrigger

theorem LeavesMap.refl (s : State) : LeavesMap s s := ⟨fun _ _ => rfl, rfl, rfl, rfl, rfl, rfl⟩

theorem LeavesMap.setReg {s u : State} (h : LeavesMap s u) {a : Nat} {w : Word}
    (ha : a ∈ [Reg.plcRemapTime, Reg.plcRemapMax, Reg.telLogCnt] := by decide) : LeavesMap s (u.setReg a w) := by
  obtain ⟨hreg, hrest⟩ := h
  exact ⟨fun b hb => (State.reg_setReg_ne _ _ (ne_of_mem_of_not_mem ha hb).symm).trans (hreg b hb), hrest⟩

theorem LeavesMap.withTel {s u : State} (h : LeavesMap s u) {x : Tel} (hx : x.cap.heldTrigger = u.tel.cap.heldTrigger) :
    LeavesMap s { u with tel := x } := by
  obtain ⟨hreg, hplc, hctx, himg, hpwr, hheld⟩ := h
  exact ⟨hreg, hplc, hctx, himg, hpwr, hx.trans hheld⟩

theorem LeavesMap.logEvent {s u : State} (h : LeavesMap s u) {k : Nat} {x : BitVec 64} : LeavesMap s (u.logEvent k x) := by
  unfold State.logEvent
  extract_lets e _ cap
  have hcap : cap.heldTrigger = u.tel.cap.heldTrigger := by
    unfold cap
    split_ifs <;> rfl
  exact .setReg (a := Reg.telLogCnt) (h.withTel hcap)

theorem LeavesMap.remapTimes (s : State) : LeavesMap s s.remapTimes := by
  unfold State.remapTimes
  extract_lets us u v
  have hu : LeavesMap s u := (LeavesMap.refl s).setReg
  have hv : LeavesMap s v := by
    unfold v
    split_ifs
    · exact hu.setReg
    · exact hu
  exact List.foldlRecOn (motive := LeavesMap s) _ _ hv fun _ h _ _ => h.logEvent

/-- With no fault and no request waiting, the re-placement is over and nothing else begins. -/
theorem State.remapOver_spec {s : State} (hw : s.plc.waiting = []) (hp : s.pwr.heldReq = []) :
    s.remapOver.remapping = false ∧ (∀ a, a ≠ Reg.plcStat → s.remapOver.reg a = s.reg a) ∧ s.remapOver.ctx = s.ctx ∧
    s.remapOver.img = s.img ∧ s.remapOver.tel = s.tel ∧ s.remapOver.plc.pitchShown = s.plc.pitchShown := by
  let u := s.clrBits Reg.plcStat 0x2F#32
  have hover : u.remapping = false := by
    rw [State.remapping, State.rbit, State.reg_clrBits, if_pos rfl]
    simp [bit]
  have hreg : ∀ a, a ≠ Reg.plcStat → u.reg a = s.reg a := fun a ha => by rw [State.reg_clrBits, if_neg ha]
  unfold State.remapOver
  rw [hw]
  extract_lets _ _ w v held
  have hheld : held = [] := hp
  rw [if_neg (by rw [show v.remapping = false from hover]; decide), hheld]
  exact ⟨hover, hreg, rfl, rfl, rfl, rfl⟩

theorem State.takeHeld_nothing {s : State} (h : s.img.held = []) : s.takeHeld = s := by
  unfold State.takeHeld
  split
  · rfl
  · rw [h, List.foldl_nil, ← h]

theorem State.heldTrigger_nothing {s : State} (h : s.tel.cap.heldTrigger = false) : s.heldTrigger = s := by
  rw [State.heldTrigger, h]
  rfl

theorem State.bank_putBit (s : State) (b : Bool) : (s.putBit Reg.fabStat 6 b).bank = b := by
  cases b with
  | false =>
    change (s.clrBits Reg.fabStat (bmask 6)).bank = false
    rw [State.bank, State.rbit, State.reg_clrBits, if_pos rfl]
    simp [bit, bmask]
  | true =>
    change (s.setBits Reg.fabStat (bmask 6)).bank = true
    rw [State.bank, State.rbit_setBits_self]
    simp [bmask]

theorem OnlyFab.loadCredits (s : State) : OnlyFab s s.loadCredits := by
  rw [State.loadCredits_eq]
  exact OnlyFab.foldl (fun _ _ => ⟨_, rfl⟩) _ s

/-- What stands from the change of the bank on, before the interruption's length is recorded. -/
structure BankChanged (s x : State) : Prop where
  bank : x.bank = !s.bank
  plc : x.plc = { s.plc with pitchShown := s.plc.pitchDigest }
  dir : x.ctx.dir = s.ctx.dir
  tracks : x.ctx.tracks = s.ctx.tracks
  img : x.img = s.img
  pwr : x.pwr = s.pwr
  tel : x.tel = s.tel

theorem BankChanged.of_onlyFab {s x y : State} (h : BankChanged s x) (hf : OnlyFab x y) : BankChanged s y := by
  obtain ⟨fb, rfl⟩ := hf
  exact ⟨h.bank, h.plc, h.dir, h.tracks, h.img, h.pwr, h.tel⟩

theorem BankChanged.setReg {s x : State} (h : BankChanged s x) {a : Nat} {w : Word} (ha : Reg.fabStat ≠ a := by decide) :
    BankChanged s (x.setReg a w) :=
  ⟨(congrArg (bit · 6) (State.reg_setReg_ne x w ha)).trans h.bank, h.plc, h.dir, h.tracks, h.img, h.pwr, h.tel⟩

theorem State.scanRestore_besideFabric (s : State) : s.scanRestore.besideFabric = s.besideFabric := by
  obtain ⟨ts, h⟩ := s.scanRestore_frame
  rw [h]
  rfl

/-- The bank changes before the times are recorded and the re-placement is over, and outside bivouac the fabric is enabled. -/
theorem State.remapFinish_eq (s : State) : ∃ x, s.remapFinish = x.remapTimes.remapOver ∧ BankChanged s x ∧
    (s.plc.inBivouac = false → x.rbit Reg.fabCtl 0 = true) := by
  unfold State.remapFinish
  extract_lets r reqs owed tiles move _ _ _ u v w x
  have hbeside : r.besideFabric = s.besideFabric := s.scanRestore_besideFabric
  have hplc : r.plc = s.plc := (congrArg State.plc hbeside :)
  have hctx : r.ctx = s.ctx := (congrArg State.ctx hbeside :)
  obtain ⟨hrbank, -, -⟩ := (LeavesStore.refl s).scanRestore
  have hubank : u.bank = s.bank := hrbank
  have hu : BankChanged s (u.putBit Reg.fabStat 6 (!u.bank)) :=
    { bank := (u.bank_putBit _).trans (congrArg not hubank)
      plc := (u.putBit_plc ..).trans (by rw [← hplc])
      dir := (congrArg Ctx.dir (u.putBit_ctx ..)).trans (congrArg Ctx.dir hctx :)
      tracks := (congrArg Ctx.tracks (u.putBit_ctx ..)).trans (congrArg Ctx.tracks hctx :)
      img := (u.putBit_img ..).trans (congrArg State.img hbeside :)
      pwr := (u.putBit_pwr ..).trans (congrArg State.pwr hbeside :)
      tel := (u.putBit_tel ..).trans (congrArg State.tel hbeside :) }
  have hv : BankChanged s v := hu.of_onlyFab (OnlyFab.loadCredits _)
  have hviv : v.plc.inBivouac = s.plc.inBivouac := by rw [hv.plc]
  have hw : BankChanged s w ∧ (s.plc.inBivouac = false → w.rbit Reg.fabCtl 0 = true) := by
    unfold w
    rw [hviv]
    split_ifs with hb
    · exact ⟨hv, fun h => absurd h (by simp [hb])⟩
    · refine ⟨BankChanged.of_onlyFab hv.setReg (OnlyFab.sendUnsent _), fun _ => ?_⟩
      obtain ⟨hregs, -, -⟩ := (v.setBits Reg.fabCtl 1#32).sendUnsent_keeps
      rw [State.rbit, State.reg, hregs]
      exact (v.rbit_setBits_self Reg.fabCtl 1#32 0).trans (by simp)
  obtain ⟨hw, hen⟩ := hw
  refine ⟨x, rfl, ?_⟩
  unfold x
  split_ifs
  · exact ⟨hw.setReg, fun h => (congrArg (bit · 0) (State.reg_setReg_ne w _ (by decide))).trans (hen h)⟩
  · exact ⟨hw, hen⟩

theorem remapScanInDone_changesBank {s : State} (he : s.engineUp = true) (hr : s.remapping = true)
    (hstep : fld (s.reg Reg.plcStat) 3 0 = 7) (hwait : s.plc.waiting = []) (hheld : s.img.held = []) (hreq : s.pwr.heldReq = [])
    (htrig : s.tel.cap.heldTrigger = false) : Completes (.remapScanInDone false) s (fun u =>
      u.bank = !s.bank ∧ u.remapping = false ∧ (s.plc.inBivouac = false → u.rbit Reg.fabCtl 0 = true) ∧
      u.plc.pitchShown = s.plc.pitchDigest ∧ u.ctx.dir = s.ctx.dir ∧ u.ctx.tracks = s.ctx.tracks) := by
  obtain ⟨x, hx, hch, hen⟩ := s.remapFinish_eq
  obtain ⟨hreg, hplc, hctx, himg, hpwr, hcap⟩ := LeavesMap.remapTimes x
  have hwait' : x.remapTimes.plc.waiting = [] := by rw [hplc, hch.plc]; exact hwait
  obtain ⟨hover, hreg', hctx', himg', htel', hshown⟩ := State.remapOver_spec hwait' (by rw [hpwr, hch.pwr, hreq])
  have hregs : ∀ a, a ∉ [Reg.plcRemapTime, Reg.plcRemapMax, Reg.telLogCnt] → a ≠ Reg.plcStat →
      x.remapTimes.remapOver.reg a = x.reg a := fun a h1 h2 => (hreg' a h2).trans (hreg a h1)
  have hend : exec (.remapScanInDone false) s = .next x.remapTimes.remapOver := by
    refine (onlyIf_of_true (by simp [he, hr, hstep]) s _).trans ?_
    rw [if_neg Bool.false_ne_true, hx, State.takeHeld_nothing (by rw [himg', himg, hch.img, hheld]),
      State.heldTrigger_nothing (by rw [htel', hcap, hch.tel, htrig])]
  refine ⟨_, hend, ?_, hover, fun hb => ?_, ?_, ?_, ?_⟩
  · rw [State.bank, State.rbit, hregs _ (by decide) (by decide)]
    exact hch.bank
  · rw [State.rbit, hregs _ (by decide) (by decide)]
    exact hen hb
  · rw [hshown, hplc, hch.plc]
  · rw [hctx', hctx, hch.dir]
  · rw [hctx', hctx, hch.tracks]

theorem replacementSteps : Claims.ReplacementSteps := by
  intro s he hr hw hc
  refine ⟨fun hstep => ⟨⟨_, exec_remapScanOutDone_step he hr hw hc hstep false, ?_⟩, fun hf =>
    ⟨_, exec_remapScanOutDone_step he hr hw hc hstep true, ?_⟩⟩, fun hstep => remapScanInDone_changesBank he hr hstep⟩
  · have hkept := LeavesStore.remapSaved s
    obtain ⟨hdir, hslots, hstreams, htracks⟩ := hkept.sameStore
    obtain ⟨hbank, hrun, -⟩ := hkept
    have hseven : fld (s.remapSaved.reg Reg.plcStat) 3 0 = 7 := by
      rw [State.remapSaved, State.reg_putFld, if_pos rfl, fld_setFld_nibble]
    exact ⟨hseven, hrun.trans hr, hbank, hstreams, hdir, hslots, htracks⟩
  · obtain ⟨hcause, hstate, -⟩ := State.deviceFault_recorded hf 6
    exact ⟨hcause, hstate⟩

/-- Settles O24: the stall of a stage by its time since the one before, and the two ends of a re-placement's scans. -/
theorem replacement : Obligations.Replacement := ⟨stuckStageIsReplaced, replacementSteps⟩

end Sys2Proof.Machine
end

section
/-! SUPPORT. Zero compression of a channel row (R194, R196): ZPACK and ZUNPACK complete, and the bitmap and data words of a row
expand to the row again. -/

namespace Sys2Proof.Machine

open Sys2Proof

/-! ## ZPACK and ZUNPACK -/

section
variable {s : State} {t : TileAddr} {h : Hdr} {c : Nat} {word : BitVec 13} {n : BitVec 12} {ecc : Ecc}

theorem zpack_does (H : Issues s t h (sramNeed h word.toNat (4 * n.toNat)) c) (hwf : wfWord word (4 * n.toNat) = true)
    (hecc : ecc ≠ .uncorrectable) :
    let x := (s.afterSource t h (sramNeed h word.toNat (4 * n.toNat)) c).tile t
    TileDoes s t h c (.zpack t h word ⟨n, ecc⟩) eccRegs .on
      { x with z := { x.z with out := compressRow ((upto n.toNat).map (fun i => x.readV (word.toNat + 4 * i))) } }
      (fun u => Sends s u t c 0#3 0#3 0#256) := by
  intro x
  have hl : ¬ lastWord + 1 < word.toNat + 4 * n.toNat := Nat.not_lt.mpr (le_lastWord_of_wfWord hwf)
  have hread := (Leaves.refl (s.afterSource t h (sramNeed h word.toNat (4 * n.toNat)) c) t eccRegs).countEcc hecc fun _ ha => ha
  refine tileDoes_of_leaves (rs := []) H ((exec_zpack t h word ⟨n, ecc⟩ s).trans (if_neg hl)) ?_ (hread.setTile _) fun _ hu _ => hu
  dsimp only
  rw [if_neg hecc, State.countEcc_tile]

theorem zunpack_does (H : Issues s t (h.found ecc) (unpackNeed h word.toNat n.toNat) c) (hwf : wfWord word (4 * n.toNat) = true) :
    TileDoes s t h c (.zunpack t h word n ecc) eccRegs .on
      (((s.afterSource t (h.found ecc) (unpackNeed h word.toNat n.toNat) c).tile t).unpack word.toNat n.toNat
        (sourceWord (s.tile t) h (unpackNeed h word.toNat n.toNat) c))
      (fun u => Sends s u t c 0#3 0#3 0#256) := by
  have hl : ¬ lastWord + 1 < word.toNat + 4 * n.toNat := Nat.not_lt.mpr (le_lastWord_of_wfWord hwf)
  exact store_does H ((exec_zunpack ..).trans (if_neg hl)) rfl

end

theorem zeroCompressionInstructions : Claims.ZeroCompressionInstructions := by
  intro s t h word n ecc c hwf quiet
  exact ⟨fun H hecc => zpack_does H hwf hecc, fun H => zunpack_does H hwf⟩

/-! ## Bytes of numbers -/

theorem leBytes_leNum (bs : List Byte) : leBytes bs.length (leNum bs) = bs := by
  induction bs with
  | nil => rfl
  | cons b bs ih =>
    have hb := b.isLt
    have hnum : leNum (b :: bs) = b.toNat + 256 * leNum bs := rfl
    have hdiv : (b.toNat + 256 * leNum bs) / 256 = leNum bs := by omega
    have hlow : BitVec.ofNat 8 (b.toNat + 256 * leNum bs) = b := by
      apply BitVec.eq_of_toNat_eq
      rw [BitVec.toNat_ofNat]
      omega
    rw [hnum, List.length_cons, leBytes, hdiv, hlow, ih]

theorem leBytes_mod (k : Nat) : ∀ v, leBytes k (v % 256 ^ k) = leBytes k v := by
  induction k with
  | zero => exact fun _ => rfl
  | succ k ih =>
    intro v
    have hdiv : v % 256 ^ (k + 1) / 256 = v / 256 % 256 ^ k := by rw [pow_succ', Nat.mod_mul_right_div_self]
    have hlow : BitVec.ofNat 8 (v % 256 ^ (k + 1)) = BitVec.ofNat 8 v := by
      apply BitVec.eq_of_toNat_eq
      rw [BitVec.toNat_ofNat, BitVec.toNat_ofNat, pow_succ', show (2 : Nat) ^ 8 = 256 from rfl, Nat.mod_mul_right_mod]
    rw [leBytes, hdiv, hlow, ih, leBytes]

/-- The bytes of a number of two digits are the bytes of the lower digit, then those of the upper one. -/
theorem leBytes_add_mul (k m a b : Nat) (ha : a < 256 ^ k) : leBytes (k + m) (a + 256 ^ k * b) = leBytes k a ++ leBytes m b := by
  induction k generalizing a with
  | zero =>
    obtain rfl : a = 0 := by simpa using ha
    simp [leBytes]
  | succ k ih =>
    have hsum : a + 256 ^ (k + 1) * b = a + 256 * (256 ^ k * b) := by ring
    have hdiv : (a + 256 * (256 ^ k * b)) / 256 = a / 256 + 256 ^ k * b := by omega
    have hlow : BitVec.ofNat 8 (a + 256 * (256 ^ k * b)) = BitVec.ofNat 8 a := by
      apply BitVec.eq_of_toNat_eq
      simp only [BitVec.toNat_ofNat]
      omega
    rw [Nat.succ_add, leBytes, hsum, hdiv, hlow, ih _ (Nat.div_lt_of_lt_mul (by rwa [← pow_succ'])), leBytes, List.cons_append]

/-- The bytes of a number written in digits of four bytes. -/
theorem leBytes_digits (f : Nat → Nat) (hf : ∀ i, f i < 2 ^ 32) (l : List Nat) :
    leBytes (4 * l.length) (l.foldr (fun i a => f i + 2 ^ 32 * a) 0) = l.flatMap (fun i => leBytes 4 (f i)) := by
  induction l with
  | nil => rfl
  | cons i l ih =>
    have hcount : 4 * (i :: l).length = 4 + 4 * l.length := by rw [List.length_cons]; omega
    rw [List.foldr_cons, List.flatMap_cons, ← ih, hcount]
    exact leBytes_add_mul 4 _ _ _ (hf i)

@[simp] theorem length_burstBytes (v : Burst) : (burstBytes v).length = 32 := length_leBytes ..

theorem burstOf_burstBytes (v : Burst) : burstOf (burstBytes v) = v := by
  rw [burstOf, burstBytes, leNum_leBytes]
  exact (congrArg (BitVec.ofNat 256) (Nat.mod_eq_of_lt v.isLt)).trans (BitVec.ofNat_toNat 256 v)

theorem burstBytes_ofNat (v : Nat) : burstBytes (BitVec.ofNat 256 v) = leBytes 32 v := by
  rw [burstBytes, BitVec.toNat_ofNat]
  exact leBytes_mod 32 v

theorem burstBytes_burstOf {bs : List Byte} (h : bs.length = 32) : burstBytes (burstOf bs) = bs := by
  rw [burstOf, burstBytes_ofNat, ← h, leBytes_leNum]

/-! ## Bits of bytes -/

/-- The bits of a byte string, from bit 0 of byte 0 on. -/
def bitsOf (bs : List Byte) : List Bool := bs.flatMap (fun b => (upto 8).map (fun i => bit b i))

theorem bitsOf_cons (b : Byte) (bs : List Byte) : bitsOf (b :: bs) = (upto 8).map (fun i => bit b i) ++ bitsOf bs :=
  List.flatMap_cons

theorem rowBits_eq (maps : List Burst) (k : Nat) : rowBits maps k = bitsOf ((wordsBytes maps).take (4 * k)) := rfl

theorem bitsOf_flatMap {α : Type} (l : List α) (f : α → List Byte) : bitsOf (l.flatMap f) = l.flatMap (fun a => bitsOf (f a)) :=
  List.flatMap_assoc

theorem bitsOf_leBytes (k v : Nat) : bitsOf (leBytes k v) = (List.range (8 * k)).map v.testBit := by
  induction k generalizing v with
  | zero => rfl
  | succ k ih =>
    have hbyte : (upto 8).map (fun i => bit (BitVec.ofNat 8 v) i) = (List.range 8).map v.testBit :=
      List.map_congr_left fun i hi => by rw [bit, BitVec.getLsbD_ofNat, decide_eq_true (List.mem_range.mp hi),
        Bool.true_and]
    have hrest : (List.range (8 * k)).map (v / 256).testBit = ((List.range (8 * k)).map (8 + ·)).map v.testBit := by
      rw [List.map_map]
      refine List.map_congr_left fun i _ => ?_
      rw [Function.comp_apply, Nat.add_comm, ← Nat.testBit_div_two_pow]
    rw [leBytes, bitsOf_cons, ih, hbyte, hrest, ← List.map_append, ← List.range_add,
      Nat.mul_succ, Nat.add_comm]

/-- The number that a list of bits spells has these bits. -/
theorem testBit_foldr_bit (bs : List Bool) : (List.range bs.length).map (bs.foldr Nat.bit 0).testBit = bs := by
  induction bs with
  | nil => rfl
  | cons b bs ih =>
    rw [List.length_cons, List.range_succ_eq_map, List.map_cons, List.map_map, List.foldr_cons, Nat.testBit_bit_zero]
    congr 1
    exact (List.map_congr_left fun i _ => Nat.testBit_bit_succ i b _).trans ih

theorem foldr_bit_lt (bs : List Bool) : bs.foldr Nat.bit 0 < 2 ^ bs.length := by
  induction bs with
  | nil => exact Nat.one_pos
  | cons b bs ih =>
    rw [List.foldr_cons, List.length_cons, pow_succ, Nat.bit_val]
    have := b.toNat_le
    omega

/-! ## The bitmap words -/

/-- A bit for every byte, set where the byte is not 0x00 (R194). -/
def nonzeroBits (bs : List Byte) : List Bool := bs.map (· != 0#8)

theorem foldl_nonzero_places (bs : List Byte) : ∀ k n : Nat,
    ((bs.zipIdx k).filter (fun p => p.1 != 0#8)).foldl (fun n p => n + 2 ^ p.2) n = n + 2 ^ k * (nonzeroBits bs).foldr Nat.bit 0 := by
  induction bs with
  | nil => exact fun k n => rfl
  | cons b bs ih =>
    intro k n
    have hbit : (nonzeroBits (b :: bs)).foldr Nat.bit 0 = Nat.bit (b != 0#8) ((nonzeroBits bs).foldr Nat.bit 0) := rfl
    rw [hbit, List.zipIdx_cons]
    cases hb : b != 0#8 with
    | true =>
      rw [List.filter_cons_of_pos (by exact hb), List.foldl_cons, ih, Nat.bit_true_apply]
      ring
    | false =>
      rw [List.filter_cons_of_neg (by simp [hb]), ih, Nat.bit_false_apply]
      ring

/-- The bitmap of a chunk spells which of its bytes are not zero. -/
theorem chunkMap_eq {bs : List Byte} (h : bs.length = 32) : chunkMap bs = (nonzeroBits bs).foldr Nat.bit 0 := by
  have hzip : bs.zip (upto 32) = bs.zipIdx 0 := by rw [List.zipIdx_eq_zip_range', h, upto, List.range_eq_range']
  rw [chunkMap, hzip, foldl_nonzero_places, pow_zero, one_mul, Nat.zero_add]

theorem length_nonzeroBits (bs : List Byte) : (nonzeroBits bs).length = bs.length := List.length_map _

theorem chunkMap_lt {bs : List Byte} (h : bs.length = 32) : chunkMap bs < 2 ^ 32 := by
  rw [chunkMap_eq h, ← h, ← length_nonzeroBits]
  exact foldr_bit_lt _

theorem bitsOf_chunkMap {bs : List Byte} (h : bs.length = 32) : bitsOf (leBytes 4 (chunkMap bs)) = nonzeroBits bs := by
  have hbits := testBit_foldr_bit (nonzeroBits bs)
  rw [length_nonzeroBits, h] at hbits
  rw [bitsOf_leBytes, chunkMap_eq h]
  exact hbits

/-- The bitmap of chunk `i` of a row as its bitmap word holds it; no chunk has the bitmap 0. -/
def mapAt (chunks : List Burst) (i : Nat) : Nat := if i < chunks.length then chunkMap (burstBytes (chunks.getD i 0)) else 0

theorem mapAt_lt (chunks : List Burst) (i : Nat) : mapAt chunks i < 2 ^ 32 := by
  unfold mapAt
  split_ifs
  · exact chunkMap_lt (length_burstBytes _)
  · exact Nat.two_pow_pos 32

/-- The bitmap words of a row (R194). -/
def mapWords (chunks : List Burst) : List Burst :=
  (upto ((chunks.length + 7) / 8)).map (fun j =>
    BitVec.ofNat 256 ((upto 8).foldr (fun i a => mapAt chunks (8 * j + i) + 2 ^ 32 * a) 0))

/-- The bytes of a row that its data words carry (R194). -/
def nonzeroBytes (chunks : List Burst) : List Byte := (wordsBytes chunks).filter (· != 0#8)

theorem compressRow_eq (chunks : List Burst) : compressRow chunks = mapWords chunks ++ vecWords (nonzeroBytes chunks) := rfl

theorem length_mapWords (chunks : List Burst) : (mapWords chunks).length = (chunks.length + 7) / 8 := by
  rw [mapWords, List.length_map, upto, List.length_range]

/-- Blocks of `m` numbers one after the other are the numbers in order. -/
theorem flatMap_range_mul {α : Type} (m : Nat) (f : Nat → List α) (n : Nat) :
    (List.range n).flatMap (fun j => (List.range m).flatMap (fun i => f (m * j + i))) = (List.range (m * n)).flatMap f := by
  induction n with
  | zero => rfl
  | succ n ih =>
    rw [List.range_succ, List.flatMap_append, ih, Nat.mul_succ, List.range_add, List.flatMap_append, List.flatMap_singleton,
      List.flatMap_map]

theorem wordsBytes_mapWords (chunks : List Burst) :
    wordsBytes (mapWords chunks) = (List.range (8 * ((chunks.length + 7) / 8))).flatMap (fun i => leBytes 4 (mapAt chunks i)) := by
  rw [wordsBytes, mapWords, List.map_map, ← List.flatMap_def, ← flatMap_range_mul]
  refine congrArg (List.range _).flatMap (funext fun j => ?_)
  rw [Function.comp_apply, burstBytes_ofNat]
  have hbytes := leBytes_digits (fun i => mapAt chunks (8 * j + i)) (fun i => mapAt_lt chunks _) (upto 8)
  rwa [show 4 * (upto 8).length = 32 from rfl] at hbytes

/-- The part of the bitmap words that a row of these chunks uses, four bytes a chunk (R194). -/
theorem take_mapWords (chunks : List Burst) : (wordsBytes (mapWords chunks)).take (4 * chunks.length) =
    chunks.flatMap (fun v => leBytes 4 (chunkMap (burstBytes v))) := by
  obtain ⟨d, hd⟩ : ∃ d, 8 * ((chunks.length + 7) / 8) = chunks.length + d := ⟨_, (Nat.add_sub_of_le (by omega)).symm⟩
  have hmaps : (List.range chunks.length).map (fun i => leBytes 4 (mapAt chunks i)) =
      chunks.map (fun v => leBytes 4 (chunkMap (burstBytes v))) := by
    refine List.ext_getElem (by simp) fun i h1 h2 => ?_
    rw [List.length_map] at h2
    simp [mapAt, h2]
  have hlen : (chunks.flatMap (fun v => leBytes 4 (chunkMap (burstBytes v)))).length = 4 * chunks.length := by
    simp [List.length_flatMap, Nat.mul_comm]
  rw [wordsBytes_mapWords, hd, List.range_add, List.flatMap_append, List.flatMap_def, hmaps, ← List.flatMap_def, ← hlen,
    List.take_left]

/-- The bitmap words of a row say of each of its bytes whether it is zero. -/
theorem rowBits_mapWords (chunks : List Burst) : rowBits (mapWords chunks) chunks.length = nonzeroBits (wordsBytes chunks) := by
  rw [rowBits_eq, take_mapWords, bitsOf_flatMap, nonzeroBits, wordsBytes, ← List.flatMap_def, List.map_flatMap]
  congr 1
  funext v
  exact bitsOf_chunkMap (length_burstBytes v)

theorem length_filter_bit (b : Byte) : ((upto 8).filter (fun i => bit b i)).length = ((upto 8).map (fun i => bit b i)).count true := by
  rw [List.count, List.countP_map, List.countP_eq_length_filter]
  congr 2
  funext i
  simp

theorem foldl_length_filter_bit (bs : List Byte) (k : Nat) :
    bs.foldl (fun a b => a + ((upto 8).filter (fun i => bit b i)).length) k = k + (bitsOf bs).count true := by
  induction bs generalizing k with
  | nil => rfl
  | cons b bs ih => rw [List.foldl_cons, ih, length_filter_bit, bitsOf_cons, List.count_append, Nat.add_assoc]

/-- The bytes announced are the bits set in the bitmap of the row. -/
theorem mapBits_eq_count (maps : List Burst) (n : Nat) : mapBits maps n = (rowBits maps n).count true := by
  rw [rowBits_eq, ← Nat.zero_add ((bitsOf _).count true)]
  exact foldl_length_filter_bit _ 0

theorem mapBits_mapWords (chunks : List Burst) : mapBits (mapWords chunks) chunks.length = (nonzeroBytes chunks).length := by
  rw [mapBits_eq_count, rowBits_mapWords, nonzeroBytes, ← List.countP_eq_length_filter, nonzeroBits, List.count, List.countP_map]
  congr 1
  funext b
  simp

/-! ## The data words -/

theorem length_padTo (n : Nat) (bs : List Byte) : (padTo n bs).length = n := by
  rw [padTo, List.length_append, List.length_take, List.length_replicate]
  omega

theorem padTo_take (n : Nat) (bs : List Byte) : padTo n (bs.take n) = padTo n bs := by
  rw [padTo, padTo, List.take_take, Nat.min_self, List.length_take]
  congr 2
  omega

theorem padTo_add (m n : Nat) (bs : List Byte) : padTo (m + n) bs = padTo m bs ++ padTo n (bs.drop m) := by
  rcases Nat.le_total bs.length m with h | h
  · have hz : m + n - bs.length = (m - bs.length) + n := by omega
    rw [padTo, padTo, padTo, List.drop_of_length_le h, List.take_of_length_le h, List.take_of_length_le (by omega), hz,
      List.replicate_add]
    simp
  · have hz : m - bs.length = 0 := by omega
    have hr : m + n - bs.length = n - (bs.length - m) := by omega
    rw [padTo, padTo, padTo, List.take_add, hz, hr, List.length_drop]
    simp

/-- The bytes of the words that carry a byte string: the string, then zeros up to a whole word. -/
theorem wordsBytes_vecWords (bs : List Byte) : wordsBytes (vecWords bs) = padTo ((bs.length + 31) / 32 * 32) bs := by
  have hcut : ∀ k, (List.range k).flatMap (fun i => padTo 32 ((bs.drop (32 * i)).take 32)) = padTo (k * 32) bs := by
    intro k
    induction k with
    | zero => simp [padTo]
    | succ k ih =>
      rw [List.range_succ, List.flatMap_append, ih, List.flatMap_singleton, padTo_take, Nat.succ_mul k, padTo_add, Nat.mul_comm k]
  rw [wordsBytes, vecWords, List.map_map, ← hcut, List.flatMap_def]
  congr 2
  funext i
  exact burstBytes_burstOf (length_padTo ..)

/-! ## The round trip -/

/-- Bytes that are not zero, put where the bits of their row are set, give the row; what follows them is not looked at. -/
theorem spread_nonzeroBits (bs rest : List Byte) : spread (nonzeroBits bs) (bs.filter (· != 0#8) ++ rest) = bs := by
  induction bs with
  | nil => rfl
  | cons b bs ih =>
    have hbits : nonzeroBits (b :: bs) = (b != 0#8) :: nonzeroBits bs := rfl
    rw [hbits]
    cases hb : b != 0#8 with
    | true => rw [List.filter_cons_of_pos (by exact hb), List.cons_append, spread, ih]
    | false =>
      rw [List.filter_cons_of_neg (by simp [hb]), spread, ih, show b = 0#8 by simpa using hb]
      exact nofun

/-- The chunks of a row from its bytes. -/
theorem chunks_of_wordsBytes (chunks : List Burst) :
    (upto chunks.length).map (fun i => burstOf (((wordsBytes chunks).drop (32 * i)).take 32)) = chunks := by
  induction chunks with
  | nil => rfl
  | cons v chunks ih =>
    have hbytes : wordsBytes (v :: chunks) = burstBytes v ++ wordsBytes chunks := rfl
    rw [hbytes, List.length_cons, upto, List.range_succ_eq_map, List.map_cons, List.map_map]
    refine congrArg₂ List.cons ?_ ?_
    · rw [Nat.mul_zero, List.drop_zero, ← length_burstBytes v, List.take_left, burstOf_burstBytes]
    · refine Eq.trans (List.map_congr_left fun i _ => ?_) ih
      rw [Function.comp_apply, Nat.mul_succ, Nat.add_comm, ← List.drop_drop, List.drop_left' (length_burstBytes v)]

theorem expandRow_eq (maps : List Burst) (bytes : List Byte) (n : Nat) :
    expandRow maps bytes n = (upto n).map (fun i => burstOf (((spread (rowBits maps n) bytes).drop (32 * i)).take 32)) := rfl

theorem expandRow_mapWords (chunks : List Burst) (rest : List Byte) :
    expandRow (mapWords chunks) (nonzeroBytes chunks ++ rest) chunks.length = chunks := by
  rw [expandRow_eq, rowBits_mapWords, nonzeroBytes, spread_nonzeroBits, chunks_of_wordsBytes]

theorem zeroCompressionRoundTrip : Claims.ZeroCompressionRoundTrip := by
  intro chunks words maps bytes
  have hmaps : maps = mapWords chunks := by
    unfold maps words
    rw [compressRow_eq, ← length_mapWords, List.take_left]
  have hbytes : bytes = padTo (((nonzeroBytes chunks).length + 31) / 32 * 32) (nonzeroBytes chunks) := by
    have hdata : words.drop ((chunks.length + 7) / 8) = vecWords (nonzeroBytes chunks) := by
      unfold words
      rw [compressRow_eq, ← length_mapWords, List.drop_left]
    rw [← wordsBytes_vecWords, ← hdata]
    rfl
  refine ⟨?_, ?_⟩
  · rw [hmaps, hbytes, padTo, List.take_of_length_le (by omega), expandRow_mapWords]
  · rw [hmaps, hbytes, length_padTo, mapBits_mapWords]

/-- Settles O13: ZPACK and ZUNPACK issue as any instruction that changes its tile alone, and unpacking inverts packing since the bitmap
words say of each byte of the row whether it is zero and the data words carry the others in order. -/
theorem compressionInstructions : Obligations.CompressionInstructions := ⟨zeroCompressionInstructions, zeroCompressionRoundTrip⟩

end Sys2Proof.Machine
end

section
/-! SUPPORT. The conversion unit (R199, R200, R206, R207, R210, R212, R215): the lanes of a vector put together, carried codes, and CVT
SCAN, XSL, WSL, CARRY, DECODE, SEAL and ENCODE complete (log entries 21 and 24). -/

namespace Sys2Proof.Machine

open Sys2Proof

/-! ## Lanes of a vector -/

/-- A number nested digit by digit shows each of its digits. -/
theorem foldr_digits {w : Nat} {g : Nat → Nat} (hg : ∀ i, g i < 2 ^ w) : ∀ (l : List Nat) (k : Nat) (hk : k < l.length),
    l.foldr (fun i n => g i + 2 ^ w * n) 0 / 2 ^ (w * k) % 2 ^ w = g l[k]
  | a :: l, 0, _ => by
    rw [Nat.mul_zero, Nat.pow_zero, Nat.div_one, List.foldr_cons, Nat.add_mul_mod_self_left, Nat.mod_eq_of_lt (hg a)]
    rfl
  | a :: l, k + 1, hk => by
    have htail : (g a + 2 ^ w * l.foldr (fun i n => g i + 2 ^ w * n) 0) / 2 ^ w = l.foldr (fun i n => g i + 2 ^ w * n) 0 := by
      rw [Nat.add_mul_div_left _ _ (Nat.two_pow_pos w), Nat.div_eq_of_lt (hg a), Nat.zero_add]
    rw [List.foldr_cons, Nat.mul_succ, Nat.add_comm (w * k), Nat.pow_add, ← Nat.div_div_eq_div_mul, htail]
    exact foldr_digits hg l k (Nat.lt_of_succ_lt_succ hk)

theorem lane32_ofLanes (f : Nat → Word) {i : Nat} (hi : i < 8) : lane32 (ofLanes f) i = f i := by
  have hdigit := foldr_digits (fun i => (f i).isLt) (upto 8) i hi
  apply BitVec.eq_of_toNat_eq
  rw [lane32, ofLanes, BitVec.toNat_ofNat, BitVec.toNat_ofNat, field_of_mod _ (by omega), hdigit]
  simp [upto]

/-! ## Carried codes -/

/-- Entries changed one after another, each once. -/
theorem tget_foldl_update {α : Type} [DecidableEq α] (d : α) (f : Nat → α → α) {l : List Nat} (hl : l.Nodup) (m : Tbl α) (j : Nat) :
    tget d (l.foldl (fun m k => tset d m k (f k (tget d m k))) m) j = if j ∈ l then f j (tget d m j) else tget d m j := by
  induction l generalizing m with
  | nil => rfl
  | cons k l ih =>
    obtain ⟨hk, hl⟩ := List.nodup_cons.mp hl
    rw [List.foldl_cons, ih hl, tget_tset]
    by_cases hj : j = k
    · simp [hj, hk]
    · simp [hj]

/-- A group state with the carried code that CARRY loads (R212). -/
def GState.carry (g : GState) (b : Nat) : GState := { g with carried := BitVec.ofNat 8 b }

/-- The group states after CARRY: state `k` alone where ROW is set, all eight otherwise (R212). -/
def carriedGroups (g : Tbl GState) (row : Bool) (k lo n : Nat) : Tbl GState :=
  if row then tset GState.zero g k ((tget GState.zero g k).carry lo)
  else (upto 8).foldl (fun m i => tset GState.zero m i ((tget GState.zero m i).carry (n / 2 ^ (8 * i)))) g

theorem tget_carriedGroups_row (g : Tbl GState) (k lo n j : Nat) :
    tget GState.zero (carriedGroups g true k lo n) j =
      if j = k then (tget GState.zero g j).carry lo else tget GState.zero g j := by
  rw [carriedGroups, if_pos rfl, tget_tset]
  split_ifs with hj
  · rw [hj]
  · rfl

theorem tget_carriedGroups_all (g : Tbl GState) (k lo n : Nat) {j : Nat} (hj : j < 8) :
    tget GState.zero (carriedGroups g false k lo n) j = (tget GState.zero g j).carry (n / 2 ^ (8 * j)) := by
  rw [carriedGroups, if_neg Bool.false_ne_true, upto,
    tget_foldl_update GState.zero (fun i x => x.carry (n / 2 ^ (8 * i))) List.nodup_range, if_pos (List.mem_range.mpr hj)]

/-- The bytes of a pair of scalar registers: those of the lower one, then those of the upper one. -/
theorem byte_of_pair (lo hi : Word) (k : Nat) :
    BitVec.ofNat 8 ((lo.toNat + 2 ^ 32 * hi.toNat) / 2 ^ (8 * k)) = if k < 4 then byteOf lo k else byteOf hi (k - 4) := by
  split_ifs with hk
  · have hlow : (lo.toNat + 2 ^ 32 * hi.toNat) % 2 ^ 32 = lo.toNat := by
      rw [Nat.add_mul_mod_self_left, Nat.mod_eq_of_lt lo.isLt]
    apply BitVec.eq_of_toNat_eq
    rw [byteOf, BitVec.toNat_ofNat, BitVec.toNat_ofNat, ← field_of_mod (lo.toNat + 2 ^ 32 * hi.toNat) (m := 32) (by omega), hlow]
  · obtain ⟨j, rfl⟩ := Nat.exists_eq_add_of_le (Nat.not_lt.mp hk)
    have hhigh : (lo.toNat + 2 ^ 32 * hi.toNat) / 2 ^ 32 = hi.toNat := by
      rw [Nat.add_mul_div_left _ _ (Nat.two_pow_pos 32), Nat.div_eq_of_lt lo.isLt, Nat.zero_add]
    rw [byteOf, Nat.mul_add, Nat.pow_add, ← Nat.div_div_eq_div_mul, hhigh, Nat.add_sub_cancel_left]

/-! ## The instructions -/

theorem Tile.withOvf_eq (y : Tile) (en : Bool) (n : Nat) : y.withOvf en n = { y with accOvf := (y.withOvf en n).accOvf } := by
  unfold Tile.withOvf
  split_ifs <;> rfl

section
variable {s : State} {t : TileAddr} {h : Hdr} {o : CvtOps} {c : Nat} (H : Issues s t h (needOf h) c)
include H

theorem carry_does :
    let w := sourceWord (s.tile t) h (needOf h) c
    let x := (s.afterSource t h (needOf h) c).tile t
    let lo := scalarSource w (x.sreg o.sreg.toNat)
    ∃ og, TileDoes s t h c (.carry t h o) eccRegs .on { x with og := og } (fun u => Sends s u t c 0#3 0#3 0#256 ∧
      ∀ k, k < 8 →
        let code := if o.row then (if k = o.k.toNat then byteOf lo 0 else (tget GState.zero x.og k).carried)
          else if k < 4 then byteOf lo k else byteOf (x.sreg (o.sreg.toNat + 1)) (k - 4)
        tget GState.zero og k = { tget GState.zero x.og k with carried := code }) := by
  intro w x lo
  have hlo : (qinData w (BitVec.ofNat 256 (x.sreg o.sreg.toNat).toNat)).toNat % 2 ^ 32 = lo.toNat := by
    rw [← BitVec.toNat_ofNat, scalarSource_eq]
  set og := carriedGroups x.og o.row o.k.toNat lo.toNat (lo.toNat + 2 ^ 32 * (x.sreg (o.sreg.toNat + 1)).toNat) with hog
  refine ⟨og, tileDoes_of_leaves (rs := []) H (exec_carry ..) (by dsimp only; rw [hlo]; rfl)
    ((Leaves.refl _ t eccRegs).setTile { x with og := og }) fun u hu _ => ⟨hu, fun k hk => ?_⟩⟩
  cases hrow : o.row with
  | true =>
    rw [hog, hrow, tget_carriedGroups_row]
    by_cases hk' : k = o.k.toNat
    · rw [if_pos hk', if_pos rfl, if_pos hk', GState.carry, byteOf, Nat.mul_zero, Nat.pow_zero, Nat.div_one]
    · rw [if_neg hk', if_pos rfl, if_neg hk']
  | false => rw [hog, hrow, tget_carriedGroups_all _ _ _ _ hk, GState.carry, byte_of_pair, if_neg Bool.false_ne_true]

theorem decode_does (hfmt : wfFmt o.fmt = true) :
    let w := sourceWord (s.tile t) h (needOf h) c
    let b := s.afterSource t h (needOf h) c
    let x := b.tile t
    let v := vectorSource w (x.vreg o.vs.toNat)
    ∃ r n, TileDoes s t h c (.decode t h o) (Reg.numStat :: Reg.numNonfinCnt :: eccRegs) .on
      { x.setV o.vd.toNat r with accOvf := n } (fun u => Sends s u t c h.out (resultKind h w) r ∧
        ∀ i, i < 8 → lane32 r i =
          let sc := loadScale o.sf (BitVec.ofNat 8 (x.sreg o.sreg.toNat).toNat) (x.sreg (o.sreg.toNat + 1))
          if sc.konst then sc.c else toF32 (Q.mul ⟨(elemVal o.fmt.toNat (elemAt o.fmt.toNat v (o.pos.toNat + i))).1, 65536⟩
            (scaleVal sc (b.hdrAt t c).fine)) false) := by
  intro w b x v
  have hg : ¬ 5 ≤ o.fmt.toNat := Nat.not_le.mpr (of_decide_eq_true hfmt)
  have hl (r ovf bad) : Leaves b
      ((((b.setTile t (x.setV o.vd.toNat r)).countOvf t ovf).countNonfin bad).sendOut t h c (resultKind h w) r) t
      (Reg.numStat :: Reg.numNonfinCnt :: eccRegs)
      { x.setV o.vd.toNat r with accOvf := ((x.setV o.vd.toNat r).withOvf (b.blockEn 5) ovf).accOvf }
      (outWords t c h.out (resultKind h w) r) := by
    rw [← Tile.withOvf_eq]
    exact ((((Leaves.refl b t _).setTile _).countOvf (List.mem_cons_self ..) ovf).countNonfin (List.mem_cons_self ..)
      (List.mem_cons_of_mem _ (List.mem_cons_self ..)) bad).sendOut h c _ r
  exact ⟨_, _, tileDoes_of_leaves (rs := [Reg.numStat, Reg.numNonfinCnt]) H ((exec_decode ..).trans (if_neg hg)) rfl (hl _ _ _)
    fun u hu _ => ⟨hu, fun i hi => lane32_ofLanes _ hi⟩⟩

theorem seal_does :
    let b := s.afterSource t h (needOf h) c
    let x := b.tile t
    let start := if o.row then (x, x.vreg o.vd.toNat, x.vreg (o.vd.toNat + 1)) else (x, 0#256, 0#256)
    let r := (if o.row then [o.k.toNat] else upto 8).foldl
      (sealOne (b.hdrAt t c) o.side (s.rbit Reg.numCtl 1) (s.reg Reg.numGuardLim)) start
    TileDoes s t h c (.seal t h o) eccRegs .on (((r.1.withStats x (s.blockEn 5)).setV o.vd.toNat r.2.1).setV (o.vd.toNat + 1) r.2.2)
      (fun u => Sends s u t c h.out (resultKind h (sourceWord (s.tile t) h (needOf h) c)) r.2.1) := by
  intro b x start r
  have hguard : b.rbit Reg.numCtl 1 = s.rbit Reg.numCtl 1 := congrArg (bit · 1) (State.reg_afterSource H (by decide))
  have hlim : b.reg Reg.numGuardLim = s.reg Reg.numGuardLim := State.reg_afterSource H (by decide)
  refine tileDoes_of_effect H (exec_seal ..) ?_
  dsimp only
  rw [hguard, hlim, State.blockEn_afterSource H]

theorem encode_does :
    let w := sourceWord (s.tile t) h (needOf h) c
    let b := s.afterSource t h (needOf h) c
    let x := b.tile t
    let v := vectorSource w (x.vreg o.vs.toNat)
    let y := (upto 8).foldl (fun y i =>
      if o.row then encodeOne (b.hdrAt t c) o.side v y i o.k.toNat o.vd.toNat (o.pos.toNat + i)
      else encodeOne (b.hdrAt t c) o.side v y i i (8 + i) o.pos.toNat) x
    TileDoes s t h c (.encode t h o) eccRegs .on (y.withStats x (s.blockEn 5)) (fun u =>
      if o.row then Sends s u t c h.out (resultKind h w) (y.vreg o.vd.toNat) else Sends s u t c 0#3 0#3 0#256) := by
  intro w b x v y
  have hl := (Leaves.refl b t eccRegs).setTile (y.withStats x (s.blockEn 5))
  have hout : Leaves b
      (if o.row then (b.setTile t (y.withStats x (s.blockEn 5))).sendOut t h c (resultKind h w) (y.vreg o.vd.toNat)
        else b.setTile t (y.withStats x (s.blockEn 5))) t eccRegs (y.withStats x (s.blockEn 5))
      (if o.row then outWords t c h.out (resultKind h w) (y.vreg o.vd.toNat) else []) := by
    split_ifs
    · exact hl.sendOut h c _ _
    · exact hl
  refine tileDoes_of_leaves (rs := []) H (exec_encode ..) ?_ hout fun u hu _ => ?_
  · dsimp only
    rw [State.blockEn_afterSource H]
    rfl
  · split_ifs at hu ⊢
    · exact hu
    · exact hu

end

/-- Settles O16: each instruction is an issue that replaces its tile, counts its own registers and sends its result; a lane of what
DECODE writes is the lane it computes, and CARRY loads each state's code from its byte of the scalar pair. -/
theorem conversionInstructions : Obligations.ConversionInstructions := by
  intro s t h o c H w b x hd v quiet does
  exact ⟨store_does H (exec_scan ..) rfl, store_does H (exec_xsl ..) rfl, store_does H (exec_wsl ..) rfl, carry_does H,
    fun hfmt => decode_does H hfmt, seal_does H, encode_does H⟩

end Sys2Proof.Machine
end

section
/-! SUPPORT. What an operation of the context engine moves beside the store, and the reply it gives (R235 to R238, R252, R253). -/

namespace Sys2Proof.Machine

open Sys2Proof

/-! ## Beside the store -/

/-- The registers that the caches, the replies, the journal, the log and the numerics of an operation move. -/
def bookRegs : List Nat :=
  [Reg.ctxStat, Reg.ctxOpsCnt, Reg.ctxRefusedCnt, Reg.ctxNcHitCnt, Reg.ctxNcMissCnt, Reg.ctxDcMissCnt, Reg.ctxEccCorrCnt,
   Reg.ctxCauBusy, Reg.numStat, Reg.numNonfinCnt, Reg.fltStat, Reg.fltJrnHead, Reg.fltJrnBreakCnt, Reg.telLogCnt]

/-- `s` with the registers, caches, journal, log, tile counters and marks of frames of `u`. -/
def State.withBooks (s u : State) : State :=
  { s with
    regs := u.regs, freeCtr := u.freeCtr, tel := u.tel, flt := u.flt
    adm := { s.adm with frames := u.adm.frames }
    fab := { s.fab with tiles := u.fab.tiles }
    hbm := { s.hbm with journal := u.hbm.journal }
    ctx := { s.ctx with near := u.ctx.near, dcache := u.ctx.dcache } }

/-- The state has changed only beside the store, the requests and the wires: in caches, journal, log, counters and marks of frames. -/
structure BooksOnly (s u : State) : Prop where
  eq : u = s.withBooks u
  reg : ∀ a, a ∉ bookRegs → u.reg a = s.reg a

namespace BooksOnly

variable {s t u : State}

theorem refl (s : State) : BooksOnly s s := ⟨rfl, fun _ _ => rfl⟩

theorem trans (h : BooksOnly s t) (k : BooksOnly t u) : BooksOnly s u := by
  refine ⟨k.eq.trans ?_, fun a ha => (k.reg a ha).trans (h.reg a ha)⟩
  rw [h.eq]
  rfl

/-- A change of the store that reads nothing of the books stands beside them. -/
theorem map (h : BooksOnly s u) {f : State → State} (hf : f (s.withBooks u) = (f s).withBooks (f u))
    (hreg : ∀ a ∉ bookRegs, (f u).reg a = (f s).reg a) : BooksOnly (f s) (f u) := by
  refine ⟨?_, hreg⟩
  calc f u = f (s.withBooks u) := congrArg f h.eq
    _ = (f s).withBooks (f u) := hf

theorem ite {c : Prop} [Decidable c] {v : State} (hu : BooksOnly s u) (hv : BooksOnly s v) : BooksOnly s (if c then u else v) := by
  split_ifs
  · exact hu
  · exact hv

theorem foldl {α : Type} {f : State → α → State} (hf : ∀ u a, BooksOnly s u → BooksOnly s (f u a)) {l : List α}
    (h : BooksOnly s u) : BooksOnly s (l.foldl f u) := List.foldlRecOn l f h fun _ hb a _ => hf _ a hb

/-! ### What such a change leaves -/

section
variable (h : BooksOnly s u)
include h

theorem sameStore : SameStore s u := by rw [h.eq]; exact ⟨rfl, rfl, rfl, rfl⟩
theorem sctx (n : Nat) : u.sctx n = s.sctx n := by rw [h.eq]; rfl
theorem dirAt (st j : Nat) : u.dirAt st j = s.dirAt st j := by rw [h.eq]; rfl
theorem slotValid (st j : Nat) : u.slotValid st j = s.slotValid st j := by rw [h.eq]; rfl
theorem map_eq : u.hbm.map = s.hbm.map := by rw [h.eq]; rfl
theorem chan (c : Nat) : u.chan c = s.chan c := by rw [h.eq]; rfl
theorem besideContext : u.plc = s.plc ∧ u.img = s.img := by rw [h.eq]; exact ⟨rfl, rfl⟩

end

/-! ### Registers, the log and the journal -/

theorem setReg (h : BooksOnly s u) {a : Nat} {w : Word} (ha : a ∈ bookRegs := by decide) : BooksOnly s (u.setReg a w) :=
  h.trans ⟨rfl, fun _ hb => State.reg_setReg_ne u w fun he => hb (he ▸ ha)⟩

theorem count (h : BooksOnly s u) {a n : Nat} (ha : a ∈ bookRegs := by decide) : BooksOnly s (u.count a n) := h.setReg ha
theorem setBits (h : BooksOnly s u) {a : Nat} {m : Word} (ha : a ∈ bookRegs := by decide) : BooksOnly s (u.setBits a m) := h.setReg ha

theorem logEvent (h : BooksOnly s u) {k : Nat} {x : BitVec 64} : BooksOnly s (u.logEvent k x) :=
  h.trans ⟨rfl, fun _ hb => by rw [State.reg_logEvent, if_neg (by rintro rfl; exact hb (by decide))]⟩

theorem free (h : BooksOnly s u) : BooksOnly s u.free.2 := h.trans ⟨rfl, fun _ _ => rfl⟩

theorem withFlt (h : BooksOnly s u) {x : Flt} : BooksOnly s { u with flt := x } := h.trans ⟨rfl, fun _ _ => rfl⟩

theorem withEntry (h : BooksOnly s u) {m : Memory} {x : Flt} :
    BooksOnly s { u with hbm := { u.hbm with journal := m }, flt := x } := h.trans ⟨rfl, fun _ _ => rfl⟩

theorem jPut (h : BooksOnly s u) {a : Nat} {b : JBody} : BooksOnly s (u.jPut a b) := by
  unfold State.jPut
  exact h.withEntry.setReg

theorem jBreak (h : BooksOnly s u) : BooksOnly s u.jBreak := h.setBits.count.withFlt.logEvent

theorem journal (h : BooksOnly s u) {b : JBody} : BooksOnly s (u.journal b) :=
  .ite h (.ite (.ite h.jPut h.jBreak) (.ite h.jPut.jPut h.jBreak))

/-! ### The caches (R252, R253) -/

theorem withNear (h : BooksOnly s u) {x : Tbl (List Nat)} : BooksOnly s { u with ctx := { u.ctx with near := x } } :=
  h.trans ⟨rfl, fun _ _ => rfl⟩

theorem withDcache (h : BooksOnly s u) {x : Tbl (List Nat)} : BooksOnly s { u with ctx := { u.ctx with dcache := x } } :=
  h.trans ⟨rfl, fun _ _ => rfl⟩

theorem dirTouch (h : BooksOnly s u) {d : Nat} : BooksOnly s (u.dirTouch d) := .ite h.withDcache h.withDcache.count
theorem nearRead (h : BooksOnly s u) {g : Nat} {alloc : Bool} : BooksOnly s (u.nearRead g alloc) :=
  .ite h (.ite h.withNear.count (BooksOnly.ite h.withNear h).count)
theorem nearPut (h : BooksOnly s u) {g : Nat} : BooksOnly s (u.nearPut g) := .ite h h.withNear
theorem readDir (h : BooksOnly s u) {st j : Nat} {fs : List CtxFinding} : BooksOnly s (u.readDir st j fs) :=
  .ite h.withDcache.dirTouch (.ite h.count.dirTouch h.dirTouch)
theorem readSlot (h : BooksOnly s u) {st j : Nat} {fs : List CtxFinding} {alloc : Bool} : BooksOnly s (u.readSlot st j fs alloc) :=
  .ite h.withNear.nearRead (.ite h.count.nearRead h.nearRead)

/-! ### Numerics (R199, R208) -/

theorem countNonfin (h : BooksOnly s u) {n : Nat} : BooksOnly s (u.countNonfin n) := .ite h h.count.setBits
theorem setTile (h : BooksOnly s u) {t : TileAddr} {x : Tile} : BooksOnly s (u.setTile t x) := h.trans ⟨rfl, fun _ _ => rfl⟩
theorem countOvf (h : BooksOnly s u) {t : TileAddr} {n : Nat} : BooksOnly s (u.countOvf t n) := .ite h h.setTile.setBits

end BooksOnly

/-! ## Words put out (R235, R238) -/

/-- What stands on the wires, and what waits for them. -/
def State.wires (s : State) : List LinkWord × List LinkWord := (s.fab.links, s.fab.unsent)

theorem State.offer_wires {s v : State} (h : v.wires = s.wires) (l : LinkWord) : (v.offer l).wires = (s.offer l).wires := by
  obtain ⟨hlinks, hunsent⟩ := Prod.mk.inj h
  have hheld : (v.holdRaised l.wire || v.fab.unsent.any (fun m => m.wire == l.wire)) =
      (s.holdRaised l.wire || s.fab.unsent.any (fun m => m.wire == l.wire)) := by
    rw [State.holdRaised, State.holdRaised, State.atWire, State.atWire, hlinks, hunsent]
  rw [State.wires, State.wires, State.offer_fab, State.offer_fab, hheld]
  split_ifs
  · exact Prod.ext hlinks (congrArg (· ++ [l]) hunsent)
  · exact Prod.ext (congrArg (· ++ [l]) hlinks) hunsent

theorem foldl_offer_wires (ls : List LinkWord) : ∀ {s v : State}, v.wires = s.wires →
    (ls.foldl State.offer v).wires = (ls.foldl State.offer s).wires := by
  induction ls with
  | nil => exact fun h => h
  | cons l ls ih => exact fun h => ih (State.offer_wires h l)

/-- Units have offered these words, and beside that only the requests and the end markers owed have moved. -/
structure PutOut (s u : State) (ls : List LinkWord) : Prop where
  eq : u = { s with fab := u.fab, ctx := { s.ctx with reqs := u.ctx.reqs, owed := u.ctx.owed } }
  wires : u.wires = (ls.foldl State.offer s).wires

namespace PutOut

variable {s t u : State} {ks ls : List LinkWord}

theorem refl (s : State) : PutOut s s [] := ⟨rfl, rfl⟩

theorem unitLink (h : PutOut s u ls) (unit net : Nat) (w : QWord) : u.unitLink unit net w = s.unitLink unit net w := by
  rw [h.eq]; rfl

theorem trans (h : PutOut s t ks) (k : PutOut t u ls) : PutOut s u (ks ++ ls) := by
  refine ⟨k.eq.trans ?_, ?_⟩
  · rw [h.eq]
  · rw [k.wires, List.foldl_append, foldl_offer_wires ls h.wires]

/-- Requests and end markers owed change beside the wires. -/
theorem withReqs (h : PutOut s u ls) {x : List CtxReq} {y : List CtxOwed} :
    PutOut s { u with ctx := { u.ctx with reqs := x, owed := y } } ls := by
  refine ⟨?_, h.wires⟩
  conv_lhs => rw [h.eq]

theorem unitSend (h : PutOut s u ls) (unit net : Nat) (w : QWord) :
    PutOut s (u.unitSend unit net w) (ls ++ [s.unitLink unit net w]) := by
  rw [← h.unitLink]
  refine h.trans ⟨?_, State.offer_wires (s := u) (v := u.unitMoved unit) rfl _⟩
  obtain ⟨fb, hfb⟩ := OnlyFab.unitSend u unit net w
  rw [hfb]

theorem foldl {α : Type} {f : State → α → State} {g : α → List LinkWord}
    (hf : ∀ {u : State} {ls : List LinkWord} (a : α), PutOut s u ls → PutOut s (f u a) (ls ++ g a)) (l : List α) :
    ∀ {u : State} {ls : List LinkWord}, PutOut s u ls → PutOut s (l.foldl f u) (ls ++ l.flatMap g) := by
  induction l with
  | nil => intro u ls h; simpa using h
  | cons a l ih =>
    intro u ls h
    simpa using ih (hf a h)

/-- Words that a unit sends one after another. -/
theorem foldl_unitSend {α : Type} (unit : Nat) (net : α → Nat) (w : α → QWord) (l : List α) (h : PutOut s u ls) :
    PutOut s (l.foldl (fun v a => v.unitSend unit (net a) (w a)) u) (ls ++ l.map (fun a => s.unitLink unit (net a) (w a))) := by
  rw [List.map_eq_flatMap]
  exact foldl (fun a hv => hv.unitSend unit (net a) (w a)) l h

end PutOut

/-- Words that a unit sends leave the requests. -/
theorem State.foldl_unitSend_reqs {α : Type} (s : State) (unit : Nat) (net : α → Nat) (w : α → QWord) (l : List α) :
    (l.foldl (fun v a => v.unitSend unit (net a) (w a)) s).ctx.reqs = s.ctx.reqs := by
  refine foldl_keeps (p := fun v => v.ctx.reqs) (g := fun v a => v.unitSend unit (net a) (w a)) (fun v a => ?_) l s
  obtain ⟨fb, hfb⟩ := OnlyFab.unitSend v unit (net a) (w a)
  rw [hfb]

theorem keyNet_unitLink (s : State) (unit : Nat) {net : Nat} (hnet : net < 3) (w : QWord) : keyNet (s.unitLink unit net w).wire = net := by
  have hwire := (Config.unitWire s.plc.pitchDigest (BitVec.ofNat 5 unit) (BitVec.ofNat 2 net)).2.isLt
  simp only [State.unitLink, keyNet, wireKey]
  omega

theorem isEnd_endWord {net : Nat} (hnet : net < 3) (tag : BitVec 2) (reason : Nat) : isEnd net (endWord net tag reason) = true := by
  unfold endWord unitWord abortWord isEnd
  obtain rfl | rfl | rfl : net = 0 ∨ net = 1 ∨ net = 2 := by omega
  all_goals split_ifs <;> rfl

theorem isEnd_unitWord (n net : Nat) (tag : BitVec 2) (d : Burst) : isEnd n (unitWord net tag 0 d) = false := by
  unfold isEnd
  split_ifs <;> rfl

/-- The words of a list that are not end markers of frames. -/
def beforeEnds (ls : List LinkWord) : List LinkWord := ls.filter (fun l => !isEnd (keyNet l.wire) l.w)

theorem beforeEnds_append (ks ls : List LinkWord) : beforeEnds (ks ++ ls) = beforeEnds ks ++ beforeEnds ls := List.filter_append ..

/-- The end markers of a frame on their wires (R238). -/
def State.endLinks (s : State) (o : CtxOwed) : List LinkWord :=
  [1, 0, 2].map (fun net => s.unitLink 6 net (endWord net o.tag (o.ended.getD 0)))

/-- The end markers of a frame are sent. -/
def State.sendEnds (s : State) (o : CtxOwed) : State :=
  [1, 0, 2].foldl (fun v net => v.unitSend 6 net (endWord net o.tag (o.ended.getD 0))) s

theorem PutOut.sendEnds {s u : State} {ls : List LinkWord} (o : CtxOwed) (h : PutOut s u ls) :
    PutOut s (u.sendEnds o) (ls ++ s.endLinks o) :=
  h.foldl_unitSend 6 (fun net => net) (fun net => endWord net o.tag (o.ended.getD 0)) [1, 0, 2]

theorem State.sendEnds_reqs (s : State) (o : CtxOwed) : (s.sendEnds o).ctx.reqs = s.ctx.reqs := by
  rw [State.sendEnds, State.foldl_unitSend_reqs]

theorem beforeEnds_endLinks (s : State) (o : CtxOwed) : beforeEnds (s.endLinks o) = [] := by
  refine List.filter_eq_nil_iff.mpr fun l hl => ?_
  obtain ⟨net, hnet, rfl⟩ := List.mem_map.mp hl
  have hnet : net < 3 := by
    simp only [List.mem_cons, List.not_mem_nil, or_false] at hnet
    omega
  rw [keyNet_unitLink _ _ hnet]
  simp [State.unitLink, isEnd_endWord hnet]

/-- The frames whose end markers are due (R238). -/
def State.endsDue (s : State) : List CtxOwed :=
  s.ctx.owed.filter (fun o => o.ended.isSome && s.ctx.reqs.all (fun r => decide (o.ordinal < r.ordinal)))

theorem State.sendOwed_eq (s : State) : ∃ y, s.sendOwed =
    { s.endsDue.foldl State.sendEnds s with ctx := { (s.endsDue.foldl State.sendEnds s).ctx with owed := y } } := ⟨_, rfl⟩

/-- The end markers that are due go out, and no other word (R238). -/
theorem State.sendOwed_putOut {s u : State} {ls : List LinkWord} (h : PutOut s u ls) :
    ∃ ends, beforeEnds ends = [] ∧ PutOut s u.sendOwed (ls ++ ends) ∧ u.sendOwed.ctx.reqs = u.ctx.reqs := by
  obtain ⟨y, hy⟩ := u.sendOwed_eq
  have hsent := PutOut.foldl (fun o hu => hu.sendEnds o) u.endsDue h
  refine ⟨u.endsDue.flatMap s.endLinks, ?_, hy ▸ hsent.withReqs, ?_⟩
  · rw [beforeEnds, List.filter_flatMap]
    exact List.flatMap_eq_nil_iff.mpr fun o _ => beforeEnds_endLinks s o
  · rw [hy]
    exact foldl_keeps (p := fun v => v.ctx.reqs) State.sendEnds_reqs u.endsDue u

end Sys2Proof.Machine
end

section
/-! SUPPORT. Replies of the context engine: what is answered, and what an answer leaves as it was (R235 to R238). -/

namespace Sys2Proof.Machine

open Sys2Proof

/-- The words of a request's reply on their wires (R235, R236). -/
def State.replyLinks (s : State) (q : CtxReq) : List LinkWord :=
  (q.reply.getD []).map (fun w => s.unitLink 6 w.1 (unitWord w.1 q.tag 0 w.2))

theorem beforeEnds_replyLinks (s : State) (q : CtxReq) : beforeEnds (s.replyLinks q) = s.replyLinks q := by
  refine List.filter_eq_self.mpr fun l hl => ?_
  obtain ⟨w, -, rfl⟩ := List.mem_map.mp hl
  simp [State.unitLink, isEnd_unitWord]

theorem PutOut.replyLinks {s u : State} {ls : List LinkWord} (h : PutOut s u ls) (q : CtxReq) : u.replyLinks q = s.replyLinks q := by
  simp only [State.replyLinks, h.unitLink]

theorem State.sendReplies_nil {v : State} (n : Nat) (hreqs : v.ctx.reqs = []) : State.sendReplies (n + 1) v = v := by
  simp only [State.sendReplies, hreqs]

theorem State.sendReplies_missing {v : State} (n : Nat) {r : CtxReq} {rs : List CtxReq} (hreqs : v.ctx.reqs = r :: rs)
    (hr : r.reply = none) : State.sendReplies (n + 1) v = v := by
  simp only [State.sendReplies, hreqs, hr]

/-- The reply of the first request is sent, and the end markers that it makes due. -/
def State.sendFirst (v : State) (r : CtxReq) (rs : List CtxReq) (ws : List (Nat × Burst)) : State :=
  (ws.foldl (fun (u : State) w => u.unitSend 6 w.1 (unitWord w.1 r.tag 0 w.2)) { v with ctx := { v.ctx with reqs := rs } }).sendOwed

theorem State.sendReplies_first {v : State} (n : Nat) {r : CtxReq} {rs : List CtxReq} {ws : List (Nat × Burst)}
    (hreqs : v.ctx.reqs = r :: rs) (hr : r.reply = some ws) :
    State.sendReplies (n + 1) v = State.sendReplies n (v.sendFirst r rs ws) := by
  simp only [State.sendReplies, hreqs, hr, State.sendFirst]

theorem State.sendFirst_spec (v : State) {r : CtxReq} (rs : List CtxReq) {ws : List (Nat × Burst)} (hr : r.reply = some ws) :
    ∃ ends, beforeEnds ends = [] ∧ PutOut v (v.sendFirst r rs ws) (v.replyLinks r ++ ends) ∧ (v.sendFirst r rs ws).ctx.reqs = rs := by
  have hsent := ((PutOut.refl v).withReqs (x := rs) (y := v.ctx.owed)).foldl_unitSend 6 (fun w : Nat × Burst => w.1)
    (fun w => unitWord w.1 r.tag 0 w.2) ws
  have hreplied : ws.map (fun w => v.unitLink 6 w.1 (unitWord w.1 r.tag 0 w.2)) = v.replyLinks r := by
    rw [State.replyLinks, hr, Option.getD_some]
  rw [hreplied, List.nil_append] at hsent
  obtain ⟨ends, hends, howed, hrest⟩ := State.sendOwed_putOut hsent
  exact ⟨ends, hends, howed, hrest.trans (State.foldl_unitSend_reqs _ 6 (fun w : Nat × Burst => w.1) _ ws)⟩

/-- The replies up to the first that is missing go out in order, each followed by the end markers that it makes due (R238). -/
theorem State.sendReplies_spec : ∀ (n : Nat) (v : State), v.ctx.reqs.length ≤ n →
    ∃ all, PutOut v (State.sendReplies n v) all ∧
      beforeEnds all = ((v.ctx.reqs.takeWhile (·.reply.isSome)).map v.replyLinks).flatten ∧
      (State.sendReplies n v).ctx.reqs = v.ctx.reqs.dropWhile (·.reply.isSome)
  | 0, v, hn => by
    rw [List.eq_nil_of_length_eq_zero (Nat.le_zero.mp hn)]
    exact ⟨[], .refl v, rfl, List.eq_nil_of_length_eq_zero (Nat.le_zero.mp hn)⟩
  | n + 1, v, hn => by
    cases hreqs : v.ctx.reqs with
    | nil =>
      rw [State.sendReplies_nil n hreqs]
      exact ⟨[], .refl v, rfl, hreqs⟩
    | cons r rs =>
      cases hr : r.reply with
      | none =>
        rw [State.sendReplies_missing n hreqs hr]
        exact ⟨[], .refl v, by simp [hr, beforeEnds], by simp [hreqs, hr]⟩
      | some ws =>
        obtain ⟨ends, hends, hfirst, hrest⟩ := v.sendFirst_spec rs hr
        have hlength : (v.sendFirst r rs ws).ctx.reqs.length ≤ n := by
          rw [hreqs, List.length_cons] at hn
          rw [hrest]
          omega
        obtain ⟨all, hput, hall, hleft⟩ := State.sendReplies_spec n _ hlength
        rw [State.sendReplies_first n hreqs hr]
        refine ⟨_, hfirst.trans hput, ?_, ?_⟩
        · rw [beforeEnds_append, beforeEnds_append, beforeEnds_replyLinks, hends, hall, hrest, List.append_nil,
            List.takeWhile_cons_of_pos (by simp [hr]), List.map_cons, List.flatten_cons, funext hfirst.replyLinks]
        · rw [hleft, hrest, List.dropWhile_cons_of_pos (by simp [hr])]

/-! ## An answer -/

/-- What a reply is made from: the requests, the wires, and the part of the placement that gives the units their circuits. -/
def State.replyPath (s : State) : List CtxReq × (List LinkWord × List LinkWord) × Nat × Plc := (s.ctx.reqs, s.wires, s.fab.base, s.plc)

theorem BooksOnly.replyPath {s u : State} (h : BooksOnly s u) : u.replyPath = s.replyPath := by rw [h.eq]; rfl

/-- An answered request leaves the store, is counted, and may be counted as refused; no other register moves (R237). -/
structure Counted (v u : State) : Prop where
  store : SameStore v u
  ops : u.reg Reg.ctxOpsCnt = v.reg Reg.ctxOpsCnt + 1#32
  reg : ∀ a, a ≠ Reg.ctxOpsCnt → a ≠ Reg.ctxRefusedCnt → u.reg a = v.reg a

section
variable {s v : State} (r : CtxReq)

theorem State.doneReq_spec (ws : List (Nat × Burst)) :
    Counted v (v.doneReq r ws) ∧
    (v.replyPath = s.replyPath → Answered s (v.doneReq r ws) r.stream (if r.ordinal < s.fab.base then [] else ws)) := by
  have hspec := State.sendReplies_spec _ (({ v with ctx := { v.ctx with
    reqs := answer r.stream (if r.ordinal < v.fab.base then [] else ws) v.ctx.reqs } } : State).count Reg.ctxOpsCnt 1) le_rfl
  obtain ⟨all, hput, hall, hrest⟩ := hspec
  change PutOut _ (v.doneReq r ws) _ at hput
  change (v.doneReq r ws).ctx.reqs = _ at hrest
  refine ⟨⟨?_, ?_, fun a ha _ => ?_⟩, fun hpath => ?_⟩
  · rw [hput.eq]
    exact ⟨rfl, rfl, rfl, rfl⟩
  · rw [hput.eq]
    exact State.reg_setReg_self ..
  · rw [hput.eq]
    exact State.reg_setReg_ne _ _ ha
  · obtain ⟨hreqs, hwires, hbase, hplc⟩ : v.ctx.reqs = s.ctx.reqs ∧ v.wires = s.wires ∧ v.fab.base = s.fab.base ∧ v.plc = s.plc := by
      simpa only [State.replyPath, Prod.mk.injEq] using hpath
    have hlink : (({ v with ctx := { v.ctx with
        reqs := answer r.stream (if r.ordinal < v.fab.base then [] else ws) v.ctx.reqs } } : State).count Reg.ctxOpsCnt 1).replyLinks =
        s.replyLinks := by
      funext q
      simp only [State.replyLinks, State.unitLink, State.count_plc, hplc]
    obtain ⟨hlinks, hunsent⟩ := Prod.mk.inj (hput.wires.trans (foldl_offer_wires all (s := s) hwires))
    rw [hlink] at hall
    simp only [State.count_ctx, hreqs, hbase] at hall hrest
    exact ⟨hrest, all, hall, hlinks, hunsent⟩

theorem State.replyReq_spec (status arg : Nat) (scalars : List Word) (vecs : List Burst) :
    Counted v (v.replyReq r status arg scalars vecs) ∧
    (v.replyPath = s.replyPath → Replies s (v.replyReq r status arg scalars vecs) r status arg scalars vecs) := by
  unfold State.replyReq Replies
  by_cases hstatus : status = 0
  · rw [if_pos hstatus]
    exact State.doneReq_spec r _
  · rw [if_neg hstatus]
    obtain ⟨⟨hstore, hops, hreg⟩, hdone⟩ := State.doneReq_spec (s := s) (v := v.count Reg.ctxRefusedCnt 1) r
      (replyWords r status arg scalars vecs)
    refine ⟨⟨hstore, hops.trans ?_, fun a h1 h2 => (hreg a h1 h2).trans (State.reg_setReg_ne v _ h2)⟩, hdone⟩
    rw [State.reg_count, if_neg (by decide)]

theorem State.ackReq_spec (status arg : Nat) :
    Counted v (v.ackReq r status arg) ∧ (v.replyPath = s.replyPath → AckReplies s (v.ackReq r status arg) r status arg) := by
  unfold State.ackReq AckReplies
  split_ifs
  · exact State.replyReq_spec r status arg [] []
  · obtain ⟨hcounted, hdone⟩ := State.doneReq_spec (s := s) (v := v) r []
    exact ⟨hcounted, by simpa only [ite_self] using hdone⟩

end

/-! ## The state after an operation -/

/-- Beside the replies, the state is `t` with its books moved. -/
structure StoreBecomes (t u : State) : Prop where
  store : SameStore t u
  reg : ∀ a, a ∉ bookRegs → u.reg a = t.reg a

theorem Counted.storeBecomes {t v u : State} (h : Counted v u) (hb : BooksOnly t v) : StoreBecomes t u := by
  obtain ⟨hd, hs, hc, ht⟩ := h.store
  obtain ⟨hd', hs', hc', ht'⟩ := hb.sameStore
  refine ⟨⟨hd.trans hd', hs.trans hs', hc.trans hc', ht.trans ht'⟩, fun a ha => (h.reg a ?_ ?_).trans (hb.reg a ha)⟩
  · rintro rfl
    exact ha (by decide)
  · rintro rfl
    exact ha (by decide)

/-- A request whose operation leaves the store as `t` has it, and whose reply ACK may ask for. -/
theorem ackReq_answers {s t v : State} (r : CtxReq) (status arg : Nat) (hb : BooksOnly t v) (hpath : t.replyPath = s.replyPath) :
    AckReplies s (v.ackReq r status arg) r status arg ∧ StoreBecomes t (v.ackReq r status arg) := by
  obtain ⟨hcounted, hreplies⟩ := State.ackReq_spec (s := s) (v := v) r status arg
  exact ⟨hreplies (hb.replyPath.trans hpath), hcounted.storeBecomes hb⟩

theorem replyReq_answers {s t v : State} (r : CtxReq) (status arg : Nat) (scalars : List Word) (vecs : List Burst) (hb : BooksOnly t v)
    (hpath : t.replyPath = s.replyPath) :
    Replies s (v.replyReq r status arg scalars vecs) r status arg scalars vecs ∧
    StoreBecomes t (v.replyReq r status arg scalars vecs) := by
  obtain ⟨hcounted, hreplies⟩ := State.replyReq_spec (s := s) (v := v) r status arg scalars vecs
  exact ⟨hreplies (hb.replyPath.trans hpath), hcounted.storeBecomes hb⟩

section
variable {t u : State}

theorem SameStore.sctx (h : SameStore t u) (n : Nat) : u.sctx n = t.sctx n := by
  obtain ⟨-, -, hstreams, -⟩ := h
  rw [State.sctx, State.sctx, hstreams]

theorem SameStore.dirAt (h : SameStore t u) (st j : Nat) : u.dirAt st j = t.dirAt st j := by
  rw [State.dirAt, State.dirAt, State.dirIndex, State.dirIndex, h.sctx, h.1]

end

end Sys2Proof.Machine
end

section
/-! SUPPORT. Requests that read the store, and requests that are not due (R234 to R238, R242, R243, R249, R253). -/

namespace Sys2Proof.Machine

open Sys2Proof

/-! ## Requests in their turn (R238) -/

theorem State.nextReq_eq_some {s : State} {st op : Nat} {r : CtxReq} (h : s.nextReq st op = some r) :
    r ∈ s.ctx.reqs ∧ r.complete = true ∧ r.reply = none ∧ r.stream = st ∧ r.op = op := by
  unfold State.nextReq at h
  split_ifs at h
  cases hfind : s.ctx.reqs.find? (fun r => r.waits && r.stream == st) with
  | none => simp [hfind] at h
  | some q =>
    have hq := List.find?_some hfind
    simp only [CtxReq.waits, Bool.and_eq_true, beq_iff_eq, Option.isNone_iff_eq_none] at hq
    obtain ⟨⟨hcomplete, hreply⟩, hstream⟩ := hq
    simp only [hfind, Option.ite_none_right_eq_some, Option.some.injEq] at h
    obtain ⟨hop, rfl⟩ := h
    exact ⟨List.mem_of_find?_eq_some hfind, hcomplete, hreply, hstream, hop⟩

theorem State.nextReq_stream {s : State} {st op : Nat} {r : CtxReq} (h : s.nextReq st op = some r) : r.stream = st := by
  obtain ⟨-, -, -, hstream, -⟩ := State.nextReq_eq_some h
  exact hstream

theorem operationsWaitForTheirTurn : Claims.OperationsWaitForTheirTurn := by
  intro s st bad
  refine ⟨fun h => ?_, fun h => ?_, fun h => ?_, fun h => ?_, fun h => ?_, fun h => ?_, fun op r h => State.nextReq_eq_some h⟩
  · rw [exec_append, execAppend, h]
  · rw [exec_gather, execGather, h]
  · rw [exec_attend, execAttend, h]
  · rw [exec_stake, execStake, h]
  · rw [exec_unstake, execUnstake, h]
  · rw [exec_evict, execEvict, h]

/-! ## A slot that fails its check (R253) -/

/-- No list names the slot, and no track of its stream (R239, R253). -/
def State.strike (s : State) (st j : Nat) : State :=
  let c := (s.sctx st).forget j
  (s.setSctx st { c with recent := c.recent.filter (fun p => p.1 != j) }).unlink st j

/-- The store with a directory entry written. -/
def State.putDir (s : State) (st j : Nat) (e : BitVec 128) : State :=
  { s with ctx := { s.ctx with dir := tset 0 s.ctx.dir (s.dirIndex st j) e } }

/-- The store without a slot that has failed, and the slot counted. -/
def State.lose (s : State) (st j : Nat) : State := ((s.putDir st j 0).strike st j).count Reg.ctxSlotBadCnt 1

theorem BooksOnly.setDir {s u : State} (h : BooksOnly s u) {st j : Nat} {e : BitVec 128} :
    BooksOnly (s.putDir st j e) (u.setDir st j e) :=
  (h.map (f := fun v => v.putDir st j e) rfl h.reg).dirTouch

theorem BooksOnly.countToo {s u : State} (h : BooksOnly s u) {a n : Nat} : BooksOnly (s.count a n) (u.count a n) := by
  refine h.map (f := fun v => v.count a n) rfl fun b hb => ?_
  rw [State.reg_count, State.reg_count, h.reg b hb]
  split_ifs with hba
  · rw [← hba, h.reg b hb]
  · rfl

theorem BooksOnly.slotBad {s u : State} (h : BooksOnly s u) {st j : Nat} : BooksOnly (s.lose st j) (u.slotBad st j) :=
  ((h.setDir (st := st) (j := j) (e := 0)).map (f := fun v => v.strike st j) rfl h.setDir.reg).countToo.setBits.logEvent.journal

theorem State.dirAt_putDir (s : State) (st j : Nat) (e : BitVec 128) : (s.putDir st j e).dirAt st j = e := tget_tset_self ..

section
variable {s u : State} {st : Nat}

/-- Where an entry and its slot lie is for the stripes of the stream to say (R141, R224). -/
theorem State.dirIndex_of_stripes (h : (u.sctx st).stripes = (s.sctx st).stripes) (j : Nat) : u.dirIndex st j = s.dirIndex st j := by
  rw [State.dirIndex, State.dirIndex, StreamCtx.stripe, StreamCtx.stripe, h]

theorem State.granule_of_stripes (h : (u.sctx st).stripes = (s.sctx st).stripes) (j : Nat) : u.granule st j = s.granule st j := by
  rw [State.granule, State.granule, StreamCtx.stripe, StreamCtx.stripe, h]

theorem State.dirAt_of_stripes (hdir : u.ctx.dir = s.ctx.dir) (h : (u.sctx st).stripes = (s.sctx st).stripes) (j : Nat) :
    u.dirAt st j = s.dirAt st j := by
  rw [State.dirAt, State.dirAt, hdir, State.dirIndex_of_stripes h]

end

theorem State.sctx_strike (s : State) (st j n : Nat) : (s.strike st j).sctx n =
    if n = st then { (s.sctx st).forget j with recent := (s.sctx st).recent.filter (fun p => p.1 != j) } else s.sctx n :=
  State.sctx_setSctx ..

theorem State.dirAt_strike (s : State) (st j n k : Nat) : (s.strike st j).dirAt n k = s.dirAt n k := by
  refine State.dirAt_of_stripes (s := s) (u := s.strike st j) rfl ?_ k
  rw [State.sctx_strike]
  split_ifs with hn
  · rw [hn]
    rfl
  · rfl

theorem State.dirAt_lose (s : State) (st j : Nat) : (s.lose st j).dirAt st j = 0#128 :=
  ((s.putDir st j 0).dirAt_strike st j st j).trans (s.dirAt_putDir st j 0)

theorem State.reg_lose (s : State) (st j a : Nat) : (s.lose st j).reg a =
    if a = Reg.ctxSlotBadCnt then s.reg Reg.ctxSlotBadCnt + 1#32 else s.reg a := State.reg_count ..

/-! ## GATHER (R236, R242, R253) -/

/-- What a GATHER reads of a slot that may be named (R242). -/
def State.partOf (s : State) (r : CtxReq) (j : Option Nat) : List Burst :=
  vecWords (slotPart r.part (if j.any (fun k => s.slotValid r.stream k) then s.slotBytes (s.granule r.stream (j.getD 0))
    else List.replicate 1920 0#8))

section
variable {s u : State} {r : CtxReq} {fs : List CtxFinding}

theorem State.gatherOne_sound (h : BooksOnly s u) (hs : ∀ j, found fs j .mismatch = false) (j : Option Nat) :
    BooksOnly s (u.gatherOne r fs j).1 ∧
    (u.gatherOne r fs j).2 = (s.partOf r j, j.any (fun k => s.slotValid r.stream k), false) := by
  cases j with
  | none => exact ⟨h, rfl⟩
  | some k =>
    have hbytes : u.slotBytes (u.granule r.stream k) = s.slotBytes (s.granule r.stream k) := by rw [h.eq]; rfl
    simp only [State.gatherOne, h.slotValid, hs, State.partOf, Option.any_some, Option.getD_some, Bool.false_eq_true, if_false, hbytes]
    cases s.slotValid r.stream k with
    | false => exact ⟨h.readDir, rfl⟩
    | true => exact ⟨h.readDir.readSlot, rfl⟩

/-- The fold of a GATHER over the slots it names. -/
def gatherStep (r : CtxReq) (fs : List CtxFinding) (a : State × List Burst × Nat × Bool) (j : Option Nat) : State × List Burst × Nat × Bool :=
  let o := a.1.gatherOne r fs j
  (o.1, a.2.1 ++ o.2.1, a.2.2.1 + b2n o.2.2.1, a.2.2.2 || o.2.2.2)

theorem foldl_gatherStep_sound (hs : ∀ j, found fs j .mismatch = false) (js : List (Option Nat)) :
    ∀ {u : State} (ws : List Burst) (n : Nat), BooksOnly s u →
      ∃ v, BooksOnly s v ∧ js.foldl (gatherStep r fs) (u, ws, n, false) =
        (v, ws ++ (js.map (s.partOf r)).flatten, n + (js.filter (fun j => j.any (fun k => s.slotValid r.stream k))).length, false) := by
  induction js with
  | nil => exact fun ws n h => ⟨_, h, by simp⟩
  | cons j js ih =>
    intro u ws n h
    obtain ⟨hbooks, hread⟩ := State.gatherOne_sound (r := r) h hs j
    obtain ⟨v, hv, hfold⟩ := ih (ws ++ s.partOf r j) (n + b2n (j.any (fun k => s.slotValid r.stream k))) hbooks
    refine ⟨v, hv, ?_⟩
    rw [List.foldl_cons, gatherStep, hread, Bool.or_false, hfold]
    cases hj : j.any (fun k => s.slotValid r.stream k) <;> simp [hj, b2n, Nat.add_assoc, Nat.add_comm 1]

theorem exec_gather_next {stream : BitVec 10} (hr : s.nextReq stream.toNat 1 = some r) {v : State} {ws : List Burst} {n : Nat} {bad : Bool}
    (hfold : ((upto r.cnt).map (s.named r)).foldl (gatherStep r fs) (s, [], 0, false) = (v, ws, n, bad)) :
    exec (.gather stream fs) s = .next (v.replyReq r (if bad then 5 else if n < r.cnt then 2 else 0) n [] ws) := by
  rw [exec_gather, execGather, hr]
  exact congrArg (fun t : State × List Burst × Nat × Bool =>
    Host.Outcome.next (t.1.replyReq r (if t.2.2.2 then 5 else if t.2.2.1 < r.cnt then 2 else 0) t.2.2.1 [] t.2.1)) hfold

theorem gather_reads {stream : BitVec 10} (hs : ∀ j, found fs j .mismatch = false) (hr : s.nextReq stream.toNat 1 = some r) :
    let js := (upto r.cnt).map (s.named r)
    let n := (js.filter (fun j => j.any (fun k => s.slotValid r.stream k))).length
    Completes (.gather stream fs) s (fun u => SameStore s u ∧
      Replies s u r (if n < r.cnt then 2 else 0) n [] ((js.map (s.partOf r)).flatten)) := by
  intro js n
  obtain ⟨v, hv, hfold⟩ := foldl_gatherStep_sound (r := r) hs js [] 0 (BooksOnly.refl s)
  rw [List.nil_append, Nat.zero_add] at hfold
  refine ⟨_, exec_gather_next hr hfold, ?_⟩
  rw [if_neg Bool.false_ne_true]
  obtain ⟨hreplies, hstore⟩ := replyReq_answers (s := s) r (if n < r.cnt then 2 else 0) n [] (js.map (s.partOf r)).flatten hv rfl
  exact ⟨hstore.store, hreplies⟩

theorem gather_loses {stream : BitVec 10} {j : Nat} (hr : s.nextReq stream.toNat 1 = some r) (hcnt : r.cnt = 1)
    (hj : s.named r 0 = some j) (hv : s.slotValid r.stream j = true) (hf : found fs j .mismatch = true) :
    Completes (.gather stream fs) s (fun u => u.dirAt r.stream j = 0#128 ∧
      u.reg Reg.ctxSlotBadCnt = s.reg Reg.ctxSlotBadCnt + 1#32 ∧ Replies s u r 5 0 [] (s.partOf r none)) := by
  have hone : s.gatherOne r fs (some j) =
      (((s.readDir r.stream j fs).readSlot r.stream j fs true).slotBad r.stream j, s.partOf r none, false, true) := by
    simp only [State.gatherOne, hv, hf, Bool.not_true, Bool.false_eq_true, if_false, if_true]
    rfl
  have hfold : ((upto r.cnt).map (s.named r)).foldl (gatherStep r fs) (s, [], 0, false) =
      (((s.readDir r.stream j fs).readSlot r.stream j fs true).slotBad r.stream j, s.partOf r none, 0, true) := by
    rw [hcnt, show upto 1 = [0] from rfl, List.map_singleton, hj, List.foldl_cons, List.foldl_nil, gatherStep, hone]
    rfl
  refine ⟨_, exec_gather_next hr hfold, ?_⟩
  rw [if_pos rfl]
  obtain ⟨hreplies, hstore⟩ := replyReq_answers (s := s) r 5 0 [] (s.partOf r none)
    ((BooksOnly.refl s).readDir.readSlot.slotBad (st := r.stream) (j := j)) rfl
  refine ⟨?_, ?_, hreplies⟩
  · rw [hstore.store.dirAt]
    exact s.dirAt_lose r.stream j
  · rw [hstore.reg _ (by decide), State.reg_lose, if_pos rfl]

end

/-! ## ATTEND (R243 to R246, R249) -/

theorem length_flatten_of_length {α : Type} {k : Nat} {l : List (List α)} (h : ∀ a ∈ l, a.length = k) : l.flatten.length = k * l.length := by
  rw [List.length_flatten, List.map_congr_left (g := fun _ => k) h, List.map_const', List.sum_replicate, smul_eq_mul, Nat.mul_comm]

theorem length_vecWords (bs : List Byte) : (vecWords bs).length = (bs.length + 31) / 32 := by
  simp [vecWords, upto]

theorem length_convertGroup (fmt : Nat) (vs : List Word) : (convertGroup fmt vs).1.length = vs.length := by
  simp [convertGroup, convertRun, upto]

/-- A query is answered by 48 words of elements and 2 of codes (R246). -/
theorem length_attendWords (fmt : Nat) {r : List Word} (hr : r.length = 1536) : (attendWords fmt r).length = 50 := by
  have hgroups : ((((upto 48).map (fun g => convertGroup fmt ((r.drop (32 * g)).take 32))).map (·.1)).flatten).length = 1536 := by
    rw [length_flatten_of_length (k := 32) fun a ha => ?_]
    · simp [upto]
    · simp only [List.map_map, List.mem_map, upto, List.mem_range] at ha
      obtain ⟨g, hg, rfl⟩ := ha
      simp only [Function.comp_apply, length_convertGroup, List.length_take, List.length_drop, hr]
      omega
  simp only [attendWords, List.length_append, length_vecWords, hgroups, length_padTo]

/-- The result of a query is as long as a value, also with no slot selected (R245). -/
theorem length_queryResult (fmt : Nat) (q qc : List Byte) (slots : List (List Byte × Nat)) (scale : Word) :
    (if slots.isEmpty then (List.replicate 1536 0#32, 0) else attendOne fmt q qc slots scale).1.length = 1536 := by
  split_ifs
  · exact List.length_replicate
  · simp [attendOne, upto]

section
variable {s : State} {r : CtxReq} {fs : List CtxFinding}

/-- The slots that an ATTEND of the request takes: none without a quota (R243). -/
def State.attended (s : State) (st : Nat) : List Nat :=
  if (s.sctx st).quota = 0 then [] else s.selected st (pay s.img.copy (s.taParams + 0x10) 2) (pay s.img.copy (s.taParams + 0x12) 2)
    (pay s.img.copy (s.taParams + 0x0D) 1)

theorem State.selected_length (st w sk floor : Nat) : (s.selected st w sk floor).length ≤ w + sk := by
  simp only [State.selected, List.length_append, List.length_take]
  omega

theorem State.selected_valid {st w sk floor j : Nat} (hj : j ∈ s.selected st w sk floor) :
    s.slotValid st j = true ∧ floor ≤ dirKsum (s.dirAt st j) := by
  simp only [State.selected, List.mem_append] at hj
  rcases hj with hj | hj <;>
  · have hok := (List.mem_filter.mp (List.mem_of_mem_take hj)).2
    simp only [Bool.and_eq_true, decide_eq_true_eq] at hok
    tauto

theorem attend_reads {stream : BitVec 10} (hs : ∀ j, found fs j .mismatch = false) (hr : s.nextReq stream.toNat 2 = some r) :
    Completes (.attend stream fs) s (fun u => SameStore s u ∧ ∃ vecs, vecs.length = 50 * r.cnt ∧
      Replies s u r (if (s.sctx r.stream).quota = 0 then 1 else 0) (s.attended r.stream).length
        (carryWords (s.sctx r.stream).carry) vecs) := by
  have hexec : ∃ v vecs, exec (.attend stream fs) s = .next (v.replyReq r (if (s.sctx r.stream).quota = 0 then 1 else 0)
      (s.attended r.stream).length (carryWords (s.sctx r.stream).carry) vecs) ∧ BooksOnly s v ∧ vecs.length = 50 * r.cnt := by
    rw [exec_attend, execAttend, hr]
    simp only [hs, Bool.not_false, List.filter_true, List.filter_false, List.foldl_nil, List.isEmpty_nil, if_true]
    refine ⟨_, _, rfl, ?_, ?_⟩
    · exact (BooksOnly.count (.foldl (fun u j h => h.readDir.readSlot) (.refl s))).countNonfin.countOvf
    · rw [length_flatten_of_length (k := 50) fun a ha => ?_]
      · rw [List.length_map, List.length_map, upto, List.length_range]
      · rw [List.map_map] at ha
        obtain ⟨i, -, rfl⟩ := List.mem_map.mp ha
        exact length_attendWords _ (length_queryResult ..)
  obtain ⟨v, vecs, hexec, hbooks, hlength⟩ := hexec
  obtain ⟨hreplies, hstore⟩ := replyReq_answers (s := s) r (if (s.sctx r.stream).quota = 0 then 1 else 0) (s.attended r.stream).length
    (carryWords (s.sctx r.stream).carry) vecs hbooks rfl
  exact ⟨_, hexec, hstore.store, vecs, hlength, hreplies⟩

end

/-! ## The obligation -/

theorem gatherAndAttendReadTheStore : Claims.GatherAndAttendReadTheStore := by
  intro s stream r
  dsimp only
  refine ⟨fun fs hs hr => ?_, fun fs j hr hcnt hj hv hf => ?_, fun fs hs hr => ⟨?_, fun j hj => ?_, ?_⟩⟩
  · rw [← State.nextReq_stream hr]
    exact gather_reads hs hr
  · rw [← State.nextReq_stream hr] at hv ⊢
    exact gather_loses hr hcnt hj hv hf
  · split_ifs
    · exact Nat.zero_le _
    · exact s.selected_length ..
  · split_ifs at hj
    · exact absurd hj List.not_mem_nil
    · exact State.selected_valid hj
  · rw [← State.nextReq_stream hr]
    exact attend_reads hs hr

/-- Settles O34: an operation's books lie beside the store, and every reply of the requests in front goes out in order. -/
theorem readingTheStore : Obligations.ReadingTheStore := ⟨gatherAndAttendReadTheStore, operationsWaitForTheirTurn⟩

end Sys2Proof.Machine
end

section
/-! SUPPORT. APPEND (R226, R239, R250, R252, R253): the slot it takes, and what the store holds after it. -/

namespace Sys2Proof.Machine

open Sys2Proof

/-! ## Entries and slots (R224) -/

theorem dirValid_dirEntry (ksum : Nat) (seq : Word) (loc slot stream : Nat) (staked : Bool) :
    dirValid (dirEntry ksum seq loc slot stream staked) = true := by
  rw [dirValid, bit, dirEntry, BitVec.getLsbD_ofNat]
  generalize dirCrc _ = crc
  have hodd : (ksum * 2 ^ 84 + seq.toNat * 2 ^ 52 + loc * 2 ^ 27 + slot * 2 ^ 12 + stream * 4 + b2n staked * 2 + 1 + crc * 2 ^ 92) % 2 = 1 := by
    omega
  rw [Nat.testBit_zero, hodd]
  rfl

theorem State.slotValid_of_dirAt_zero {s : State} {st j : Nat} (h : s.dirAt st j = 0#128) : s.slotValid st j = false := by
  rw [State.slotValid, h]
  exact Bool.and_false _

theorem State.slotValid_congr {s u : State} {st j : Nat} (hq : (u.sctx st).quota = (s.sctx st).quota) (hd : u.dirAt st j = s.dirAt st j) :
    u.slotValid st j = s.slotValid st j := by rw [State.slotValid, State.slotValid, hq, hd]

/-- Whether a slot is valid is for the context engine's own state to say. -/
theorem State.slotValid_of_ctx {s u : State} (h : u.ctx = s.ctx) (st j : Nat) : u.slotValid st j = s.slotValid st j := by
  have hsctx : u.sctx st = s.sctx st := by rw [State.sctx, State.sctx, h]
  exact State.slotValid_congr (by rw [hsctx]) (State.dirAt_of_stripes (by rw [h]) (by rw [hsctx]) j)

/-- No track of the stream names a slot whose links have been cleared (R239). -/
theorem State.unlink_tracks (s : State) (st : Nat) {j : Nat} (hj : j < 32768) :
    ∀ p ∈ (s.unlink st j).ctx.tracks, p.1 / 512 = st → p.2.slot ≠ BitVec.ofNat 32 (2 ^ 31 + j) := by
  intro p hp hst
  have hne : (0#32 : Word) ≠ BitVec.ofNat 32 (2 ^ 31 + j) := by
    intro h
    have := congrArg BitVec.toNat h
    rw [BitVec.toNat_ofNat, BitVec.toNat_ofNat] at this
    omega
  obtain ⟨q, -, rfl⟩ := List.mem_map.mp (List.mem_filter.mp hp).1
  dsimp only at hst ⊢
  split_ifs with hlink
  · exact hne
  · exact fun h => hlink ⟨hst, h⟩

/-! ## The slot that APPEND takes (R239) -/

theorem StreamCtx.choose_eq (c : StreamCtx) :
    c.choose.2 = { c with stake := c.choose.2.stake, released := c.choose.2.released, cursor := c.choose.2.cursor } := by
  unfold StreamCtx.choose
  split <;> rfl

theorem StreamCtx.choose_released {c : StreamCtx} {q : Nat × Word} {qs : List (Nat × Word)} (h : c.released = q :: qs) :
    c.choose = (q.1, { c with released := qs }) := by
  simp only [StreamCtx.choose, h]

theorem StreamCtx.choose_cursor {c : StreamCtx} (h : c.released = []) (hq : c.quota ≠ 0) (hs : c.staked c.cursor = false) :
    c.choose.1 = c.cursor ∧ c.choose.2.cursor = (c.cursor + 1) % c.quota := by
  obtain ⟨n, hn⟩ := Nat.exists_eq_succ_of_ne_zero hq
  have hscan : scanCursor c c.quota c.cursor [] = (c.cursor, []) := by
    rw [hn, scanCursor, if_neg (by simp [hs])]
  simp only [StreamCtx.choose, h, hscan, and_self]

section
variable (s : State) (st j : Nat)

/-- The stream has taken the slot that its next APPEND writes. -/
def State.chosen (s : State) (st : Nat) : State := s.setSctx st (s.sctx st).choose.2

theorem State.sctx_chosen (n : Nat) : (s.chosen st).sctx n = if n = st then (s.sctx st).choose.2 else s.sctx n := State.sctx_setSctx ..

theorem State.sctx_chosen_self : (s.chosen st).sctx st = { s.sctx st with
    stake := (s.sctx st).choose.2.stake, released := (s.sctx st).choose.2.released, cursor := (s.sctx st).choose.2.cursor } := by
  rw [State.sctx_chosen, if_pos rfl]
  exact StreamCtx.choose_eq _

theorem State.stripes_chosen : ((s.chosen st).sctx st).stripes = (s.sctx st).stripes := by rw [State.sctx_chosen_self]

theorem State.granule_chosen : (s.chosen st).granule st j = s.granule st j := State.granule_of_stripes (s.stripes_chosen st) j

theorem State.slotValid_chosen : (s.chosen st).slotValid st j = s.slotValid st j :=
  State.slotValid_congr (by rw [State.sctx_chosen_self])
    (State.dirAt_of_stripes (s := s) (u := s.chosen st) rfl (s.stripes_chosen st) j)

theorem State.slotValid_lose : (s.lose st j).slotValid st j = false := State.slotValid_of_dirAt_zero (s.dirAt_lose st j)

theorem State.granule_lose : (s.lose st j).granule st j = s.granule st j :=
  State.granule_of_stripes (s := s) (u := (s.putDir st j 0).strike st j) (by rw [State.sctx_strike, if_pos rfl]; rfl) j

end

/-! ## What an APPEND writes (R226, R239, R250) -/

/-- A slot, its entry and the recent list are written. -/
def State.placeSlot (s : State) (st j : Nat) (seq : Word) (bs : List Byte) : State :=
  let g := s.granule st j
  let u := { s with ctx := { s.ctx with slots := tset [] s.ctx.slots g bs } }.putDir st j (dirEntry (slotKsum bs) seq g j st false)
  u.setSctx st { u.sctx st with recent := ((j, seq) :: (u.sctx st).recent).take 4096 }

/-- A valid slot that is overwritten loses its links and is counted (R239). -/
def State.overwrite (s : State) (st j : Nat) (evicted : Bool) : State :=
  if evicted then (s.unlink st j).count Reg.ctxEvictCnt 1 else s

/-- The carry codes and the counts of a stream after an APPEND (R250). -/
def State.noteAppend (s : State) (st : Nat) (bs : List Byte) (evicted : Bool) : State :=
  let c := s.sctx st
  (s.setSctx st { c with
    carry := carryAfter c.carry bs, appends := c.appends + 1#32
    evicts := if evicted then c.evicts + 1#32 else c.evicts }).count Reg.ctxAppendCnt 1

/-- What an APPEND leaves of the store, the slot once taken. -/
def State.appendInto (s : State) (st j : Nat) (seq : Word) (bs : List Byte) (evicted : Bool) : State :=
  ((s.overwrite st j evicted).placeSlot st j seq bs).noteAppend st bs evicted

namespace BooksOnly

variable {s u : State} {st j : Nat} {seq : Word} {bs : List Byte} {evicted : Bool}

theorem writeSlot (h : BooksOnly s u) : BooksOnly (s.placeSlot st j seq bs) (u.writeSlot st j seq false bs) := by
  have hput := (BooksOnly.refl { u with ctx := { u.ctx with slots := tset [] u.ctx.slots (u.granule st j) bs } }).nearPut
    (g := u.granule st j) |>.setDir (st := st) (j := j) (e := dirEntry (slotKsum bs) seq (u.granule st j) j st false)
  have hwrite : BooksOnly (u.placeSlot st j seq bs) (u.writeSlot st j seq false bs) :=
    hput.map (f := fun v => v.setSctx st { v.sctx st with recent := ((j, seq) :: (v.sctx st).recent).take 4096 }) rfl hput.reg
  exact (h.map (f := fun v => v.placeSlot st j seq bs) rfl h.reg).trans hwrite

theorem overwrite (h : BooksOnly s u) : BooksOnly (s.overwrite st j evicted) (u.overwrite st j evicted) := by
  cases evicted with
  | false => exact h
  | true => exact (h.map (f := fun v => v.unlink st j) rfl h.reg).countToo

theorem noteAppend (h : BooksOnly s u) : BooksOnly (s.noteAppend st bs evicted) (u.noteAppend st bs evicted) :=
  (h.map (f := fun v => v.setSctx st { v.sctx st with
    carry := carryAfter (v.sctx st).carry bs, appends := (v.sctx st).appends + 1#32
    evicts := if evicted then (v.sctx st).evicts + 1#32 else (v.sctx st).evicts }) rfl h.reg).countToo

theorem withFrames (h : BooksOnly s u) {x : List Frame} : BooksOnly s { u with adm := { u.adm with frames := x } } :=
  h.trans ⟨rfl, fun _ _ => rfl⟩

end BooksOnly

section
variable (s : State) (st j : Nat) (seq : Word) (bs : List Byte) (evicted : Bool)

theorem State.sctx_overwrite (n : Nat) : (s.overwrite st j evicted).sctx n = s.sctx n := by cases evicted <;> rfl
theorem State.granule_overwrite : (s.overwrite st j evicted).granule st j = s.granule st j := by cases evicted <;> rfl
theorem State.replyPath_overwrite : (s.overwrite st j evicted).replyPath = s.replyPath := by cases evicted <;> rfl

theorem State.reg_overwrite (a : Nat) : (s.overwrite st j evicted).reg a =
    if a = Reg.ctxEvictCnt then s.reg a + BitVec.ofNat 32 (b2n evicted) else s.reg a := by
  cases evicted with
  | false =>
    rw [show b2n false = 0 from rfl, BitVec.add_zero, ite_self]
    rfl
  | true =>
    refine (State.reg_count ..).trans ?_
    split_ifs with ha
    · rw [ha]
      rfl
    · rfl

theorem State.sctx_placeSlot (n : Nat) : (s.placeSlot st j seq bs).sctx n =
    if n = st then { s.sctx st with recent := ((j, seq) :: (s.sctx st).recent).take 4096 } else s.sctx n := State.sctx_setSctx ..

theorem State.dirAt_placeSlot :
    (s.placeSlot st j seq bs).dirAt st j = dirEntry (slotKsum bs) seq (s.granule st j) j st false := by
  refine (State.dirAt_of_stripes (s := s.putDir st j (dirEntry (slotKsum bs) seq (s.granule st j) j st false))
    (u := s.placeSlot st j seq bs) rfl ?_ j).trans (State.dirAt_putDir ..)
  rw [State.sctx_placeSlot, if_pos rfl]
  rfl

theorem State.slots_placeSlot : tget [] (s.placeSlot st j seq bs).ctx.slots (s.granule st j) = bs := tget_tset_self ..

theorem State.sctx_noteAppend (n : Nat) : (s.noteAppend st bs evicted).sctx n = if n = st then { s.sctx st with
    carry := carryAfter (s.sctx st).carry bs, appends := (s.sctx st).appends + 1#32
    evicts := if evicted then (s.sctx st).evicts + 1#32 else (s.sctx st).evicts } else s.sctx n := State.sctx_setSctx ..

theorem State.sctx_appendInto : (s.appendInto st j seq bs evicted).sctx st = { s.sctx st with
    recent := ((j, seq) :: (s.sctx st).recent).take 4096, carry := carryAfter (s.sctx st).carry bs
    appends := (s.sctx st).appends + 1#32
    evicts := if evicted then (s.sctx st).evicts + 1#32 else (s.sctx st).evicts } := by
  rw [State.appendInto, State.sctx_noteAppend, if_pos rfl, State.sctx_placeSlot, if_pos rfl, State.sctx_overwrite]

theorem State.sctx_appendInto_ne {n : Nat} (hn : n ≠ st) : (s.appendInto st j seq bs evicted).sctx n = s.sctx n := by
  rw [State.appendInto, State.sctx_noteAppend, if_neg hn, State.sctx_placeSlot, if_neg hn, State.sctx_overwrite]

theorem State.dirAt_appendInto :
    (s.appendInto st j seq bs evicted).dirAt st j = dirEntry (slotKsum bs) seq (s.granule st j) j st false := by
  rw [← s.granule_overwrite st j evicted, ← State.dirAt_placeSlot]
  refine State.dirAt_of_stripes (s := (s.overwrite st j evicted).placeSlot st j seq bs) (u := s.appendInto st j seq bs evicted) rfl ?_ j
  rw [State.appendInto, State.sctx_noteAppend, if_pos rfl]

theorem State.slots_appendInto : tget [] (s.appendInto st j seq bs evicted).ctx.slots (s.granule st j) = bs := by
  rw [← s.granule_overwrite st j evicted]
  exact State.slots_placeSlot (seq := seq) ..

theorem State.reg_placeSlot (a : Nat) : (s.placeSlot st j seq bs).reg a = s.reg a := rfl

theorem State.reg_noteAppend (a : Nat) : (s.noteAppend st bs evicted).reg a =
    if a = Reg.ctxAppendCnt then s.reg Reg.ctxAppendCnt + 1#32 else s.reg a := State.reg_count ..

theorem State.reg_appendInto (a : Nat) : (s.appendInto st j seq bs evicted).reg a =
    if a = Reg.ctxAppendCnt then s.reg a + 1#32
    else if a = Reg.ctxEvictCnt then s.reg a + BitVec.ofNat 32 (b2n evicted) else s.reg a := by
  rw [State.appendInto, State.reg_noteAppend, State.reg_placeSlot, State.reg_placeSlot, State.reg_overwrite, State.reg_overwrite,
    if_neg (by decide : ¬Reg.ctxAppendCnt = Reg.ctxEvictCnt)]
  split_ifs with ha
  · rw [ha]
  · rfl
  · rfl

theorem State.replyPath_placeSlot : (s.placeSlot st j seq bs).replyPath = s.replyPath := rfl
theorem State.replyPath_noteAppend : (s.noteAppend st bs evicted).replyPath = s.replyPath := rfl

theorem State.replyPath_appendInto : (s.appendInto st j seq bs evicted).replyPath = s.replyPath := by
  rw [State.appendInto, State.replyPath_noteAppend, State.replyPath_placeSlot, State.replyPath_overwrite]

theorem State.replyPath_lose : (s.lose st j).replyPath = s.replyPath := rfl

theorem State.tracks_appendInto (hj : j < 32768) :
    ∀ p ∈ (s.appendInto st j seq bs true).ctx.tracks, p.1 / 512 = st → p.2.slot ≠ BitVec.ofNat 32 (2 ^ 31 + j) :=
  s.unlink_tracks st hj

end

/-! ## APPEND -/

/-- An APPEND writes its slot, with the entry of the journal and, where no slot was lost, the mark of the frame (R239, R253). -/
def State.appendWrite (u : State) (r : CtxReq) (j : Nat) (bs : List Byte) (hurt evicted : Bool) : State :=
  let v := ((u.overwrite r.stream j evicted).writeSlot r.stream j r.seq false bs).noteAppend r.stream bs evicted
  let w := v.journal ⟨1, 0, r.stream, j, r.seq, padTo 2048 bs⟩
  if hurt then w else { w with adm := { w.adm with
    frames := w.adm.frames.map (fun f => if f.ordinal = some r.ordinal then { f with appended := some (BitVec.ofNat 15 j) } else f) } }

theorem BooksOnly.appendWrite {s u : State} (h : BooksOnly s u) {r : CtxReq} {j : Nat} {bs : List Byte} {hurt evicted : Bool} :
    BooksOnly (s.appendInto r.stream j r.seq bs evicted) (u.appendWrite r j bs hurt evicted) :=
  have hwrite := h.overwrite.writeSlot.noteAppend.journal
  .ite hwrite hwrite.withFrames

section
variable {s : State} {r : CtxReq} {fs : List CtxFinding} {j : Nat}

/-- The entry of the slot to be overwritten is read. -/
def State.appendRead (s : State) (r : CtxReq) (fs : List CtxFinding) : State :=
  (s.chosen r.stream).readDir r.stream (s.sctx r.stream).choose.1 fs

theorem State.appendSlot_eq {hurt : Bool} (hj : (s.sctx r.stream).choose.1 = j)
    (hhurt : (found fs j .mismatch && (s.appendRead r fs).slotValid r.stream j) = hurt) :
    let u := if hurt then (s.appendRead r fs).slotBad r.stream j else s.appendRead r fs
    let evicted := u.slotValid r.stream j
    s.appendSlot r fs = (u.appendWrite r j (slotImage r j s.taFmt s.epoch) hurt evicted).ackReq r (if hurt then 5 else 0)
      (2 ^ 15 * b2n evicted + j) := by
  subst hj hhurt
  rfl

theorem State.slotValid_appendRead (hj : (s.sctx r.stream).choose.1 = j) : (s.appendRead r fs).slotValid r.stream j = s.slotValid r.stream j := by
  subst hj
  exact ((BooksOnly.refl _).readDir.slotValid ..).trans (s.slotValid_chosen ..)

/-- With a slot that passes its check, or is not valid, the slot is written over. -/
theorem State.appendSlot_sound (hj : (s.sctx r.stream).choose.1 = j) (hf : found fs j .mismatch = false) :
    AckReplies s (s.appendSlot r fs) r 0 (2 ^ 15 * b2n (s.slotValid r.stream j) + j) ∧
    StoreBecomes ((s.chosen r.stream).appendInto r.stream j r.seq (slotImage r j s.taFmt s.epoch) (s.slotValid r.stream j))
      (s.appendSlot r fs) := by
  rw [State.appendSlot_eq hj (hurt := false) (by rw [hf]; rfl), if_neg Bool.false_ne_true, if_neg Bool.false_ne_true,
    State.slotValid_appendRead hj]
  exact ackReq_answers r 0 _ (BooksOnly.readDir (.refl _)).appendWrite (State.replyPath_appendInto ..)

/-- A valid slot that fails its check is lost before it is written (R253). -/
theorem State.appendSlot_hurt (hj : (s.sctx r.stream).choose.1 = j) (hf : found fs j .mismatch = true)
    (hv : s.slotValid r.stream j = true) :
    AckReplies s (s.appendSlot r fs) r 5 j ∧
    StoreBecomes (((s.chosen r.stream).lose r.stream j).appendInto r.stream j r.seq (slotImage r j s.taFmt s.epoch) false)
      (s.appendSlot r fs) := by
  have hlost := (BooksOnly.refl (s.chosen r.stream)).readDir (st := r.stream) (j := (s.sctx r.stream).choose.1) (fs := fs)
    |>.slotBad (st := r.stream) (j := j)
  have hgone : ((s.appendRead r fs).slotBad r.stream j).slotValid r.stream j = false :=
    (hlost.slotValid ..).trans ((s.chosen r.stream).slotValid_lose r.stream j)
  rw [State.appendSlot_eq hj (hurt := true) (by rw [hf, State.slotValid_appendRead hj, hv]; rfl), if_pos rfl, if_pos rfl, hgone,
    show 2 ^ 15 * b2n false + j = j from Nat.zero_add j]
  exact ackReq_answers r 5 j hlost.appendWrite ((State.replyPath_appendInto ..).trans (State.replyPath_lose ..))

theorem exec_append_quota (stream : BitVec 10) (hr : s.nextReq stream.toNat 0 = some r) (hq : (s.sctx r.stream).quota ≠ 0) :
    exec (.append stream fs) s = .next (s.appendSlot r fs) := by
  rw [exec_append, execAppend, hr]
  exact congrArg Host.Outcome.next (if_neg hq)

theorem append_refused (stream : BitVec 10) (hr : s.nextReq stream.toNat 0 = some r) (hq : (s.sctx r.stream).quota = 0) :
    Completes (.append stream fs) s (fun u => SameStore s u ∧ AckReplies s u r 1 0 ∧
      u.reg Reg.ctxOpsCnt = s.reg Reg.ctxOpsCnt + 1#32) := by
  have hexec : exec (.append stream fs) s = .next (s.ackReq r 1 0) := by
    rw [exec_append, execAppend, hr]
    exact congrArg Host.Outcome.next (if_pos hq)
  obtain ⟨⟨hstore, hops, -⟩, hreplies⟩ := State.ackReq_spec (s := s) (v := s) r 1 0
  exact ⟨_, hexec, hstore, hreplies rfl, hops⟩

theorem append_overDamaged (stream : BitVec 10) (hr : s.nextReq stream.toNat 0 = some r) (hq : (s.sctx r.stream).quota ≠ 0)
    (hj : (s.sctx r.stream).choose.1 = j) (hv : s.slotValid r.stream j = true) (hf : found fs j .mismatch = true) :
    let bs := slotImage r j s.taFmt s.epoch
    Completes (.append stream fs) s (fun u =>
      u.dirAt r.stream j = dirEntry (slotKsum bs) r.seq (s.granule r.stream j) j r.stream false ∧
      tget [] u.ctx.slots (s.granule r.stream j) = bs ∧
      u.reg Reg.ctxSlotBadCnt = s.reg Reg.ctxSlotBadCnt + 1#32 ∧ u.reg Reg.ctxEvictCnt = s.reg Reg.ctxEvictCnt ∧
      AckReplies s u r 5 j) := by
  intro bs
  obtain ⟨hreplies, hstore, hreg⟩ := State.appendSlot_hurt hj hf hv
  have hgranule : ((s.chosen r.stream).lose r.stream j).granule r.stream j = s.granule r.stream j :=
    (State.granule_lose ..).trans (s.granule_chosen ..)
  refine ⟨_, exec_append_quota stream hr hq, ?_, ?_, ?_, ?_, hreplies⟩
  · rw [hstore.dirAt, State.dirAt_appendInto, hgranule]
  · rw [hstore.2.1, ← hgranule, State.slots_appendInto]
  · rw [hreg _ (by decide), State.reg_appendInto, if_neg (by decide), if_neg (by decide), State.reg_lose, if_pos rfl]
    rfl
  · rw [hreg _ (by decide), State.reg_appendInto, if_neg (by decide), if_pos rfl, show b2n false = 0 from rfl, BitVec.add_zero,
      State.reg_lose, if_neg (by decide)]
    rfl

theorem append_writes (stream : BitVec 10) (hr : s.nextReq stream.toNat 0 = some r) (hq : (s.sctx r.stream).quota ≠ 0)
    (hj : (s.sctx r.stream).choose.1 = j) (hlt : j < 32768) (hf : found fs j .mismatch = false) :
    let st := r.stream
    let c := s.sctx st
    let bs := slotImage r j s.taFmt s.epoch
    Completes (.append stream fs) s (fun u =>
      (∀ q qs, c.released = q :: qs → j = q.1 ∧ (u.sctx st).released = qs ∧ (u.sctx st).cursor = c.cursor) ∧
      (c.released = [] → c.staked c.cursor = false → j = c.cursor ∧ (u.sctx st).cursor = (c.cursor + 1) % c.quota) ∧
      u.dirAt st j = dirEntry (slotKsum bs) r.seq (s.granule st j) j st false ∧ dirValid (u.dirAt st j) = true ∧
      tget [] u.ctx.slots (s.granule st j) = bs ∧
      (u.sctx st).recent = ((j, r.seq) :: c.recent).take 4096 ∧ (u.sctx st).carry = carryAfter c.carry bs ∧
      (∀ n, n ≠ st → u.sctx n = s.sctx n) ∧
      u.reg Reg.ctxAppendCnt = s.reg Reg.ctxAppendCnt + 1#32 ∧
      u.reg Reg.ctxEvictCnt = s.reg Reg.ctxEvictCnt + BitVec.ofNat 32 (b2n (s.slotValid st j)) ∧
      (s.slotValid st j = true → ∀ p ∈ u.ctx.tracks, p.1 / 512 = st → p.2.slot ≠ BitVec.ofNat 32 (2 ^ 31 + j)) ∧
      AckReplies s u r 0 (2 ^ 15 * b2n (s.slotValid st j) + j)) := by
  intro st c bs
  obtain ⟨hreplies, hstore, hreg⟩ := State.appendSlot_sound hj hf
  have hgranule : (s.chosen st).granule st j = s.granule st j := s.granule_chosen st j
  have hsctx : (s.appendSlot r fs).sctx st = _ := (hstore.sctx st).trans (State.sctx_appendInto ..)
  have hchosen : (s.chosen st).sctx st = _ := s.sctx_chosen_self st
  have hdir : (s.appendSlot r fs).dirAt st j = dirEntry (slotKsum bs) r.seq (s.granule st j) j st false := by
    rw [hstore.dirAt, State.dirAt_appendInto, hgranule]
  refine ⟨_, exec_append_quota stream hr hq, fun q qs hrel => ?_, fun hrel hs => ?_, hdir, ?_, ?_, ?_, ?_, fun n hn => ?_, ?_, ?_, fun hv => ?_,
    hreplies⟩
  · rw [hsctx, hchosen, ← hj, StreamCtx.choose_released hrel]
    exact ⟨rfl, rfl, rfl⟩
  · obtain ⟨hfirst, hcursor⟩ := StreamCtx.choose_cursor hrel hq hs
    rw [hsctx, hchosen, ← hj]
    exact ⟨hfirst, hcursor⟩
  · rw [hdir]
    exact dirValid_dirEntry ..
  · rw [hstore.2.1, ← hgranule, State.slots_appendInto]
  · rw [hsctx, hchosen]
  · rw [hsctx, hchosen]
  · rw [hstore.sctx, State.sctx_appendInto_ne _ _ _ _ _ _ hn, State.sctx_chosen, if_neg hn]
  · rw [hreg _ (by decide), State.reg_appendInto, if_pos rfl]
    rfl
  · rw [hreg _ (by decide), State.reg_appendInto, if_neg (by decide), if_pos rfl]
    rfl
  · rw [hstore.2.2.2, hv]
    exact State.tracks_appendInto _ _ _ _ _ hlt

end

/-- Settles O35: the slot that `choose` takes is written into the store as `appendInto` writes it, after its loss where it fails its
check. -/
theorem appendWritesChosenSlot : Obligations.AppendWritesChosenSlot := by
  intro s stream r hr
  dsimp only
  rw [← State.nextReq_stream hr]
  exact ⟨fun hq bad => append_refused stream hr hq, fun fs hq _ hv hf => append_overDamaged stream hr hq rfl hv hf,
    fun fs hq hlt hf => append_writes stream hr hq rfl hlt hf⟩

end Sys2Proof.Machine
end

section
/-! SUPPORT. STAKE, UNSTAKE and EVICT of one slot or of all, and the clears of the store (R230, R241, R250, R255, R257, R259, R388). -/

namespace Sys2Proof.Machine

open Sys2Proof

/-! ## A slot that a request names (R235, R237, R253) -/

section
variable {s t : State} {r : CtxReq} {fs : List CtxFinding} {f : State → Nat → State × Nat} {j : Nat}

theorem State.onSlot_named (hn : s.named r 0 = some j) (hf : found fs j .mismatch = false) :
    s.onSlot r fs f = (f (s.readDir r.stream j fs) j).1.ackReq r (f (s.readDir r.stream j fs) j).2 j := by
  simp only [State.onSlot, hn, hf, Bool.false_and, Bool.false_eq_true, if_false]

theorem State.onSlot_unnamed (hn : s.named r 0 = none) :
    SameStore s (s.onSlot r fs f) ∧ (r.mode = 1 → AckReplies s (s.onSlot r fs f) r 2 (fld (r.words.getD 0 0#32) 14 0)) ∧
    ∃ a, AckReplies s (s.onSlot r fs f) r 2 a := by
  simp only [State.onSlot, hn]
  by_cases hmode : r.mode = 1
  · obtain ⟨hreplies, hstore⟩ := ackReq_answers (s := s) r 2 (fld (r.words.getD 0 0#32) 14 0) (BooksOnly.refl s) rfl
    rw [if_pos hmode]
    exact ⟨hstore.store, fun _ => hreplies, _, hreplies⟩
  · obtain ⟨hreplies, hstore⟩ := ackReq_answers (s := s) r 2 (fld s.free.1 14 0) (BooksOnly.refl s).free rfl
    rw [if_neg hmode]
    exact ⟨hstore.store, fun h => absurd h hmode, _, hreplies⟩

/-- An operation on the slot named, which answers a status and leaves the lists of its stream and its entry as `t` has them. -/
theorem onSlot_completes {i : Instr} {status : Nat} {p : State → Prop} (hexec : exec i s = .next (s.onSlot r fs f))
    (hn : s.named r 0 = some j) (hf : found fs j .mismatch = false)
    (hstatus : (f (s.readDir r.stream j fs) j).2 = status) (hbooks : BooksOnly t (f (s.readDir r.stream j fs) j).1)
    (hpath : t.replyPath = s.replyPath) (hslots : t.ctx.slots = s.ctx.slots) (hother : ∀ n, n ≠ r.stream → t.sctx n = s.sctx n)
    (hp : ∀ u, SameStore t u → p u) :
    Completes i s (fun u => AckReplies s u r status j ∧ u.ctx.slots = s.ctx.slots ∧ (∀ n, n ≠ r.stream → u.sctx n = s.sctx n) ∧ p u) := by
  rw [State.onSlot_named hn hf, hstatus] at hexec
  obtain ⟨hreplies, hstore, -⟩ := ackReq_answers r status j hbooks hpath
  exact ⟨_, hexec, hreplies, hstore.2.1.trans hslots, fun m hm => (hstore.sctx m).trans (hother m hm), hp _ hstore⟩

/-- The directory, the tracks and the lists of the stream are as they were. -/
def Kept (s u : State) (st : Nat) : Prop := u.ctx.dir = s.ctx.dir ∧ u.ctx.tracks = s.ctx.tracks ∧ u.sctx st = s.sctx st

/-- An operation on the slot named that answers a status and leaves everything else as it was. -/
theorem onSlot_keeps {i : Instr} {status : Nat} (hexec : exec i s = .next (s.onSlot r fs f))
    (hn : s.named r 0 = some j) (hf : found fs j .mismatch = false)
    (hdone : f (s.readDir r.stream j fs) j = (s.readDir r.stream j fs, status)) :
    Completes i s (fun u => AckReplies s u r status j ∧ u.ctx.slots = s.ctx.slots ∧ (∀ n, n ≠ r.stream → u.sctx n = s.sctx n) ∧
      Kept s u r.stream) :=
  onSlot_completes (t := s) hexec hn hf (by rw [hdone]) (by rw [hdone]; exact (BooksOnly.refl s).readDir) rfl rfl (fun _ _ => rfl)
    fun _ hu => ⟨hu.1, hu.2.2.2, hu.sctx _⟩

end

/-! ## One slot (R241) -/

/-- The entry of a slot with STAKED set or cleared. -/
def State.restaked (s : State) (st j : Nat) (b : Bool) : BitVec 128 :=
  dirEntry (dirKsum (s.dirAt st j)) (dirSeq (s.dirAt st j)) (fld (s.dirAt st j) 51 27) j st b

/-- The entry of a slot is written, and the lists of its stream are replaced. -/
def State.relist (s : State) (st j : Nat) (e : BitVec 128) (c : StreamCtx) : State := (s.putDir st j e).setSctx st c

def State.stakeIn (s : State) (st j : Nat) : State :=
  let c := s.sctx st
  s.relist st j (s.restaked st j true) { c with
    stake := c.stake ++ [⟨j, dirSeq (s.dirAt st j), c.released.any (fun p => p.1 == j)⟩]
    released := c.released.filter (fun p => p.1 != j) }

def State.unstakeFrom (s : State) (st j : Nat) (e : StakeEntry) : State :=
  let c := s.sctx st
  s.relist st j (s.restaked st j false) { c with
    stake := c.stake.filter (fun x => x.slot != j)
    released := if e.skipped then insertReleased (j, e.seq) c.released else c.released }

def State.evictOut (s : State) (st j : Nat) : State :=
  let c := s.sctx st
  (s.relist st j 0 { c with released := c.released.filter (fun p => p.1 != j) }).unlink st j

section
variable {s : State} {st j : Nat}

theorem State.sctx_relist (e : BitVec 128) (c : StreamCtx) (n : Nat) : (s.relist st j e c).sctx n = if n = st then c else s.sctx n :=
  State.sctx_setSctx ..

theorem State.dirAt_relist (e : BitVec 128) {c : StreamCtx} (hc : c.stripes = (s.sctx st).stripes) : (s.relist st j e c).dirAt st j = e :=
  (State.dirAt_of_stripes (s := s.putDir st j e) (u := s.relist st j e c) rfl (by rw [State.sctx_relist, if_pos rfl, hc]; rfl) j).trans
    (s.dirAt_putDir st j e)

theorem State.dirValid_relist {e : BitVec 128} (he : dirValid e = true) {c : StreamCtx} (hc : c.stripes = (s.sctx st).stripes) {k : Nat}
    (hk : dirValid (s.dirAt st k) = true) : dirValid ((s.relist st j e c).dirAt st k) = true := by
  have hdir : (s.relist st j e c).dirAt st k = if s.dirIndex st k = s.dirIndex st j then e else s.dirAt st k :=
    (State.dirAt_of_stripes (s := s.putDir st j e) (u := s.relist st j e c) rfl (by rw [State.sctx_relist, if_pos rfl, hc]; rfl) k).trans
      (tget_tset ..)
  rw [hdir]
  split_ifs
  · exact he
  · exact hk

theorem State.dirValid_unstakeFrom (e : StakeEntry) {k : Nat} (hk : dirValid (s.dirAt st k) = true) :
    dirValid ((s.unstakeFrom st j e).dirAt st k) = true := by
  have he : dirValid (s.restaked st j false) = true := by
    rw [State.restaked, dirValid_dirEntry]
  rw [State.unstakeFrom]
  refine State.dirValid_relist he ?_ hk
  rfl

theorem State.sctx_unstakeFrom (e : StakeEntry) : (s.unstakeFrom st j e).sctx st = { s.sctx st with
    stake := (s.sctx st).stake.filter (fun x => x.slot != j)
    released := if e.skipped then insertReleased (j, e.seq) (s.sctx st).released else (s.sctx st).released } := by
  rw [State.unstakeFrom, State.sctx_relist, if_pos rfl]

theorem State.relist_rest (e : BitVec 128) (c : StreamCtx) :
    (s.relist st j e c).ctx.tracks = s.ctx.tracks ∧ (s.relist st j e c).replyPath = s.replyPath := ⟨rfl, rfl⟩

theorem BooksOnly.relist {u : State} (h : BooksOnly s u) {e : BitVec 128} {c : StreamCtx} :
    BooksOnly (s.relist st j e c) ((u.setDir st j e).setSctx st c) :=
  h.setDir.map (f := fun v => v.setSctx st c) rfl h.setDir.reg

/-- The same entry and the same lists written beside different books. -/
theorem BooksOnly.relistToo {u : State} (h : BooksOnly s u) (e : BitVec 128) (c : StreamCtx) :
    BooksOnly (s.relist st j e c) (u.relist st j e c) := h.map (f := fun v => v.relist st j e c) rfl h.reg

theorem BooksOnly.stakeIn {u : State} (h : BooksOnly s u) : BooksOnly (s.stakeIn st j) (u.stakeIn st j) := by
  simp only [State.stakeIn, State.restaked, h.dirAt, h.sctx]
  exact h.relistToo _ _

theorem BooksOnly.unstakeFrom {u : State} (h : BooksOnly s u) {e : StakeEntry} :
    BooksOnly (s.unstakeFrom st j e) (u.unstakeFrom st j e) := by
  simp only [State.unstakeFrom, State.restaked, h.dirAt, h.sctx]
  exact h.relistToo _ _

theorem BooksOnly.unlinkToo {u : State} (h : BooksOnly s u) : BooksOnly (s.unlink st j) (u.unlink st j) :=
  h.map (f := fun v => v.unlink st j) rfl h.reg

theorem BooksOnly.evictOut {u : State} (h : BooksOnly s u) : BooksOnly (s.evictOut st j) (u.evictOut st j) := by
  simp only [State.evictOut, h.sctx]
  exact (h.relistToo _ _).unlinkToo

theorem State.stakeSlot_invalid (hv : s.slotValid st j = false) : s.stakeSlot st j = (s, 2) := by
  simp [State.stakeSlot, hv]

theorem State.stakeSlot_staked (hv : s.slotValid st j = true) (hc : (s.sctx st).staked j = true) : s.stakeSlot st j = (s, 0) := by
  simp [State.stakeSlot, hv, hc]

theorem State.stakeSlot_full (hv : s.slotValid st j = true) (hc : (s.sctx st).staked j = false)
    (hl : (s.sctx st).limit ≤ (s.sctx st).stake.length) : s.stakeSlot st j = (s, 3) := by
  simp [State.stakeSlot, hv, hc, hl]

theorem State.stakeSlot_new (hv : s.slotValid st j = true) (hc : (s.sctx st).staked j = false)
    (hl : (s.sctx st).stake.length < (s.sctx st).limit) :
    (s.stakeSlot st j).2 = 0 ∧ BooksOnly (s.stakeIn st j) (s.stakeSlot st j).1 := by
  simp only [State.stakeSlot, hv, hc, Bool.not_true, Bool.false_eq_true, if_false, if_neg (Nat.not_le.mpr hl)]
  exact ⟨trivial, (BooksOnly.refl s).relist.journal⟩

theorem State.unstakeSlot_invalid (hv : s.slotValid st j = false) : s.unstakeSlot st j = (s, 2) := by
  simp [State.unstakeSlot, hv]

theorem State.unstakeSlot_unstaked (hv : s.slotValid st j = true) (hc : (s.sctx st).stakeOf j = none) : s.unstakeSlot st j = (s, 0) := by
  simp [State.unstakeSlot, hv, hc]

theorem State.unstakeSlot_staked (hv : s.slotValid st j = true) {e : StakeEntry} (hc : (s.sctx st).stakeOf j = some e) :
    (s.unstakeSlot st j).2 = 0 ∧ BooksOnly (s.unstakeFrom st j e) (s.unstakeSlot st j).1 := by
  simp only [State.unstakeSlot, hv, hc, Bool.not_true, Bool.false_eq_true, if_false]
  exact ⟨trivial, (BooksOnly.refl s).relist.journal⟩

theorem State.evictSlot_invalid (hv : s.slotValid st j = false) : s.evictSlot st j = (s, 2) := by
  simp [State.evictSlot, hv]

theorem State.evictSlot_staked (hv : s.slotValid st j = true) (hc : (s.sctx st).staked j = true) : s.evictSlot st j = (s, 4) := by
  simp [State.evictSlot, hv, hc]

theorem State.evictSlot_unstaked (hv : s.slotValid st j = true) (hc : (s.sctx st).staked j = false) :
    (s.evictSlot st j).2 = 0 ∧ BooksOnly (s.evictOut st j) (s.evictSlot st j).1 := by
  simp only [State.evictSlot, hv, hc, Bool.not_true, Bool.false_eq_true, if_false]
  exact ⟨trivial, (BooksOnly.refl s).relist.unlinkToo.journal⟩

end

/-! ## STAKE, UNSTAKE and EVICT of the slot named (R241) -/

section
variable {s : State} {stream : BitVec 10} {r : CtxReq} {j : Nat} {fs : List CtxFinding}

theorem exec_stake_slot (hr : s.nextReq stream.toNat 3 = some r) :
    exec (.stake ⟨stream, fs⟩) s = .next (s.onSlot r fs (fun u j => u.stakeSlot r.stream j)) := by
  rw [exec_stake, execStake, hr]

theorem exec_unstake_slot (hr : s.nextReq stream.toNat 4 = some r) (hm : r.mode ≠ 3) :
    exec (.unstake ⟨stream, fs⟩) s = .next (s.onSlot r fs (fun u j => u.unstakeSlot r.stream j)) := by
  rw [exec_unstake, execUnstake, hr]
  exact congrArg Host.Outcome.next (if_neg hm)

theorem exec_evict_slot (hr : s.nextReq stream.toNat 5 = some r) (hm : r.mode ≠ 3) :
    exec (.evict ⟨stream, fs⟩) s = .next (s.onSlot r fs (fun u j => u.evictSlot r.stream j)) := by
  rw [exec_evict, execEvict, hr]
  exact congrArg Host.Outcome.next (if_neg hm)

theorem unnamed_refused (hn : s.named r 0 = none) {op : Nat} (hop : op ∈ [3, 4, 5]) (hm : r.mode ≠ 3) (hr : s.nextReq stream.toNat op = some r) :
    Completes ([Instr.stake ⟨stream, fs⟩, .unstake ⟨stream, fs⟩, .evict ⟨stream, fs⟩].getD (op - 3) (.stake ⟨stream, fs⟩)) s (fun u =>
      SameStore s u ∧ (r.mode = 1 → AckReplies s u r 2 (fld (r.words.getD 0 0#32) 14 0)) ∧ ∃ a, AckReplies s u r 2 a) := by
  simp only [List.mem_cons, List.not_mem_nil, or_false] at hop
  obtain rfl | rfl | rfl := hop
  · exact ⟨_, exec_stake_slot hr, State.onSlot_unnamed hn⟩
  · exact ⟨_, exec_unstake_slot hr hm, State.onSlot_unnamed hn⟩
  · exact ⟨_, exec_evict_slot hr hm, State.onSlot_unnamed hn⟩

variable (hn : s.named r 0 = some j) (hf : found fs j .mismatch = false)

/-- The check of the entry leaves the lists of the stream and the validity of the slot. -/
theorem State.readDir_agrees (s : State) (st j : Nat) (fs : List CtxFinding) :
    BooksOnly s (s.readDir st j fs) ∧ (s.readDir st j fs).sctx st = s.sctx st ∧ (s.readDir st j fs).slotValid st j = s.slotValid st j :=
  have h := (BooksOnly.refl s).readDir
  ⟨h, h.sctx _, h.slotValid _ _⟩

include hn hf

theorem stake_keeps {status : Nat} (hr : s.nextReq stream.toNat 3 = some r)
    (hdone : ∀ u : State, u.sctx r.stream = s.sctx r.stream → u.slotValid r.stream j = s.slotValid r.stream j →
      u.stakeSlot r.stream j = (u, status)) :
    Completes (.stake ⟨stream, fs⟩) s (fun u => AckReplies s u r status j ∧ u.ctx.slots = s.ctx.slots ∧
      (∀ n, n ≠ r.stream → u.sctx n = s.sctx n) ∧ Kept s u r.stream) :=
  have ⟨_, hsctx, hvalid⟩ := s.readDir_agrees r.stream j fs
  onSlot_keeps (exec_stake_slot hr) hn hf (hdone _ hsctx hvalid)

theorem stake_stakes (hr : s.nextReq stream.toNat 3 = some r) (hv : s.slotValid r.stream j = true)
    (hc : (s.sctx r.stream).staked j = false) (hl : (s.sctx r.stream).stake.length < (s.sctx r.stream).limit) :
    Completes (.stake ⟨stream, fs⟩) s (fun u => AckReplies s u r 0 j ∧ u.ctx.slots = s.ctx.slots ∧
      (∀ n, n ≠ r.stream → u.sctx n = s.sctx n) ∧ SameStore (s.stakeIn r.stream j) u) := by
  obtain ⟨hread, hsctx, hvalid⟩ := s.readDir_agrees r.stream j fs
  obtain ⟨hstatus, hbooks⟩ := State.stakeSlot_new (s := s.readDir r.stream j fs) (hvalid.trans hv) (by rw [hsctx]; exact hc)
    (by rw [hsctx]; exact hl)
  exact onSlot_completes (exec_stake_slot hr) hn hf hstatus (hread.stakeIn.trans hbooks) rfl rfl
    (fun n hne => (State.sctx_relist ..).trans (if_neg hne)) fun _ hu => hu

theorem unstake_keeps {status : Nat} (hr : s.nextReq stream.toNat 4 = some r) (hm : r.mode ≠ 3)
    (hdone : ∀ u : State, u.sctx r.stream = s.sctx r.stream → u.slotValid r.stream j = s.slotValid r.stream j →
      u.unstakeSlot r.stream j = (u, status)) :
    Completes (.unstake ⟨stream, fs⟩) s (fun u => AckReplies s u r status j ∧ u.ctx.slots = s.ctx.slots ∧
      (∀ n, n ≠ r.stream → u.sctx n = s.sctx n) ∧ Kept s u r.stream) :=
  have ⟨_, hsctx, hvalid⟩ := s.readDir_agrees r.stream j fs
  onSlot_keeps (exec_unstake_slot hr hm) hn hf (hdone _ hsctx hvalid)

theorem unstake_unstakes (hr : s.nextReq stream.toNat 4 = some r) (hm : r.mode ≠ 3) (hv : s.slotValid r.stream j = true) {e : StakeEntry}
    (hc : (s.sctx r.stream).stakeOf j = some e) :
    Completes (.unstake ⟨stream, fs⟩) s (fun u => AckReplies s u r 0 j ∧ u.ctx.slots = s.ctx.slots ∧
      (∀ n, n ≠ r.stream → u.sctx n = s.sctx n) ∧ SameStore (s.unstakeFrom r.stream j e) u) := by
  obtain ⟨hread, hsctx, hvalid⟩ := s.readDir_agrees r.stream j fs
  obtain ⟨hstatus, hbooks⟩ := State.unstakeSlot_staked (s := s.readDir r.stream j fs) (hvalid.trans hv) (by rw [hsctx]; exact hc)
  exact onSlot_completes (exec_unstake_slot hr hm) hn hf hstatus
    (hread.unstakeFrom.trans hbooks) rfl rfl
    (fun n hne => (State.sctx_relist ..).trans (if_neg hne)) fun _ hu => hu

theorem evict_keeps {status : Nat} (hr : s.nextReq stream.toNat 5 = some r) (hm : r.mode ≠ 3)
    (hdone : ∀ u : State, u.sctx r.stream = s.sctx r.stream → u.slotValid r.stream j = s.slotValid r.stream j →
      u.evictSlot r.stream j = (u, status)) :
    Completes (.evict ⟨stream, fs⟩) s (fun u => AckReplies s u r status j ∧ u.ctx.slots = s.ctx.slots ∧
      (∀ n, n ≠ r.stream → u.sctx n = s.sctx n) ∧ Kept s u r.stream) :=
  have ⟨_, hsctx, hvalid⟩ := s.readDir_agrees r.stream j fs
  onSlot_keeps (exec_evict_slot hr hm) hn hf (hdone _ hsctx hvalid)

theorem evict_evicts (hr : s.nextReq stream.toNat 5 = some r) (hm : r.mode ≠ 3) (hv : s.slotValid r.stream j = true)
    (hc : (s.sctx r.stream).staked j = false) :
    Completes (.evict ⟨stream, fs⟩) s (fun u => AckReplies s u r 0 j ∧ u.ctx.slots = s.ctx.slots ∧
      (∀ n, n ≠ r.stream → u.sctx n = s.sctx n) ∧ SameStore (s.evictOut r.stream j) u) := by
  obtain ⟨hread, hsctx, hvalid⟩ := s.readDir_agrees r.stream j fs
  obtain ⟨hstatus, hbooks⟩ := State.evictSlot_unstaked (s := s.readDir r.stream j fs) (hvalid.trans hv) (by rw [hsctx]; exact hc)
  exact onSlot_completes (exec_evict_slot hr hm) hn hf hstatus
    (hread.evictOut.trans hbooks) rfl rfl
    (fun n hne => (State.sctx_relist ..).trans (if_neg hne)) fun _ hu => hu

end

/-! ## UNSTAKE ALL (R241) -/

theorem mem_insertStake (e x : StakeEntry) (l : List StakeEntry) : x ∈ insertStake e l ↔ x = e ∨ x ∈ l := by
  induction l with
  | nil => simp [insertStake]
  | cons y l ih =>
    unfold insertStake
    split_ifs
    · exact List.mem_cons
    · simp only [List.mem_cons, ih]
      tauto

theorem mem_stakeSorted {x : StakeEntry} {l : List StakeEntry} (hx : x ∈ l) : x ∈ stakeSorted l := by
  have hfold : ∀ (l acc : List StakeEntry), x ∈ acc ∨ x ∈ l → x ∈ l.foldl (fun a e => insertStake e a) acc := by
    intro l
    induction l with
    | nil => intro acc h; simpa using h
    | cons e l ih =>
      intro acc h
      refine ih _ ?_
      rw [mem_insertStake]
      simp only [List.mem_cons] at h
      tauto
  exact hfold l [] (.inr hx)

section
variable {st : Nat}

/-- UNSTAKE of one slot, where the staked slots are valid: its entry leaves the stake list, and the staked slots stay valid. -/
theorem State.unstakeSlot_spec (u : State) (j : Nat) (hvalid : ∀ e ∈ (u.sctx st).stake, u.slotValid st e.slot = true) :
    let v := (u.unstakeSlot st j).1
    (v.sctx st).stake = (u.sctx st).stake.filter (fun x => x.slot != j) ∧ (∀ k, u.slotValid st k = true → v.slotValid st k = true) ∧
    v.ctx.tracks = u.ctx.tracks ∧ v.replyPath = u.replyPath := by
  have hnone : (∀ e ∈ (u.sctx st).stake, e.slot ≠ j) → (u.sctx st).stake = (u.sctx st).stake.filter (fun x => x.slot != j) := fun h =>
    (List.filter_eq_self.mpr fun e he => bne_iff_ne.mpr (h e he)).symm
  cases hv : u.slotValid st j with
  | false =>
    rw [State.unstakeSlot_invalid hv]
    refine ⟨hnone fun e he hj => ?_, fun _ h => h, rfl, rfl⟩
    rw [← hj, hvalid e he] at hv
    exact Bool.noConfusion hv
  | true =>
    cases hc : (u.sctx st).stakeOf j with
    | none =>
      rw [State.unstakeSlot_unstaked hv hc]
      exact ⟨hnone fun e he => by simpa using List.find?_eq_none.mp hc e he, fun _ h => h, rfl, rfl⟩
    | some e =>
      obtain ⟨-, hbooks⟩ := State.unstakeSlot_staked hv hc
      have hrest : (u.unstakeFrom st j e).ctx.tracks = u.ctx.tracks ∧ (u.unstakeFrom st j e).replyPath = u.replyPath := State.relist_rest ..
      obtain ⟨htracks, hpath⟩ := hrest
      refine ⟨?_, fun k hk => ?_, hbooks.sameStore.2.2.2.trans htracks, hbooks.replyPath.trans hpath⟩
      · rw [hbooks.sctx, State.sctx_unstakeFrom]
      · simp only [State.slotValid, Bool.and_eq_true, decide_eq_true_eq] at hk ⊢
        obtain ⟨hquota, hentry⟩ := hk
        rw [hbooks.dirAt, hbooks.sctx, State.sctx_unstakeFrom]
        exact ⟨hquota, State.dirValid_unstakeFrom e hentry⟩

theorem State.foldl_unstakeSlot_spec (l : List StakeEntry) : ∀ u : State, (∀ e ∈ (u.sctx st).stake, u.slotValid st e.slot = true) →
    let v := l.foldl (fun u e => (u.unstakeSlot st e.slot).1) u
    (v.sctx st).stake = (u.sctx st).stake.filter (fun x => l.all (fun e => x.slot != e.slot)) ∧
    v.ctx.tracks = u.ctx.tracks ∧ v.replyPath = u.replyPath := by
  induction l with
  | nil => intro u _; exact ⟨(List.filter_eq_self.mpr fun _ _ => rfl).symm, rfl, rfl⟩
  | cons e l ih =>
    intro u hvalid
    obtain ⟨hstake, hkeep, htracks, hpath⟩ := u.unstakeSlot_spec e.slot hvalid
    obtain ⟨hstake', htracks', hpath'⟩ := ih (u.unstakeSlot st e.slot).1 fun x hx => by
      rw [hstake] at hx
      exact hkeep _ (hvalid x (List.mem_filter.mp hx).1)
    refine ⟨?_, htracks'.trans htracks, hpath'.trans hpath⟩
    rw [List.foldl_cons, hstake', hstake, List.filter_filter]
    exact List.filter_congr fun x _ => by rw [List.all_cons, Bool.and_comm]

theorem State.unstakeAll_spec {s : State} (hvalid : ∀ e ∈ (s.sctx st).stake, s.slotValid st e.slot = true) :
    ((s.unstakeAll st).sctx st).stake = [] ∧ (s.unstakeAll st).ctx.tracks = s.ctx.tracks ∧ (s.unstakeAll st).replyPath = s.replyPath := by
  obtain ⟨hstake, htracks, hpath⟩ := State.foldl_unstakeSlot_spec (stakeSorted (s.sctx st).stake) s hvalid
  refine ⟨hstake.trans (List.filter_eq_nil_iff.mpr fun x hx hall => ?_), htracks, hpath⟩
  have hself := List.all_eq_true.mp hall x (mem_stakeSorted hx)
  exact absurd rfl (bne_iff_ne.mp hself)

end

theorem unstake_all {s : State} {stream : BitVec 10} {r : CtxReq} {fs : List CtxFinding} (hr : s.nextReq stream.toNat 4 = some r) (hm : r.mode = 3)
    (hvalid : ∀ e ∈ (s.sctx r.stream).stake, s.slotValid r.stream e.slot = true) :
    Completes (.unstake ⟨stream, fs⟩) s (fun u => (u.sctx r.stream).stake = [] ∧ u.ctx.tracks = s.ctx.tracks ∧ AckReplies s u r 0 0) := by
  have hexec : exec (.unstake ⟨stream, fs⟩) s = .next ((s.unstakeAll r.stream).ackReq r 0 0) := by
    rw [exec_unstake, execUnstake, hr]
    exact congrArg Host.Outcome.next (if_pos hm)
  obtain ⟨hstake, htracks, hpath⟩ := State.unstakeAll_spec hvalid
  obtain ⟨hreplies, hstore, -⟩ := ackReq_answers r 0 0 (BooksOnly.refl _) hpath
  exact ⟨_, hexec, by rw [hstore.sctx, hstake], hstore.2.2.2.trans htracks, hreplies⟩

/-! ## EVICT ALL and the clears (R241, R255, R257) -/

/-- A stream's slots invalid, its lists and carry codes empty. -/
def State.emptied (s : State) (st : Nat) : State :=
  { s with ctx := { s.ctx with dir := s.ctx.dir.filter (fun p => !((s.sctx st).stripeList st).contains (p.1 / 64)) } }.setSctx st
    { s.sctx st with cursor := 0, stake := [], released := [], recent := [], carry := [] }

section
variable (s : State) (st : Nat)

theorem State.evictAll_books : BooksOnly (s.emptied st) (s.evictAll st) := (BooksOnly.refl (s.emptied st)).journal

theorem State.evictAll_besideContext : (s.evictAll st).besideContext = s.besideContext := (s.emptied st).journal_besideContext _

theorem State.sctx_emptied (n : Nat) : (s.emptied st).sctx n =
    if n = st then { s.sctx st with cursor := 0, stake := [], released := [], recent := [], carry := [] } else s.sctx n := State.sctx_setSctx ..

theorem State.dirAt_emptied {k : Nat} (hk : k / 64 < (s.sctx st).quota / 64) : (s.emptied st).dirAt st k = 0#128 := by
  refine tget_of_not_listed _ fun p hp he => ?_
  have hout := (List.mem_filter.mp hp).2
  rw [State.dirIndex_of_stripes (s := s) (u := s.emptied st) (by rw [State.sctx_emptied, if_pos rfl])] at he
  have hstripe : p.1 / 64 = (s.sctx st).stripe st (k / 64) := by
    rw [he, State.dirIndex]
    omega
  have hin : (s.sctx st).stripe st (k / 64) ∈ (s.sctx st).stripeList st := List.mem_map_of_mem (List.mem_range.mpr hk)
  rw [hstripe] at hout
  simp [hin] at hout

end

theorem evict_all {s : State} {stream : BitVec 10} {r : CtxReq} {fs : List CtxFinding} (hr : s.nextReq stream.toNat 5 = some r) (hm : r.mode = 3) :
    let st := r.stream
    Completes (.evict ⟨stream, fs⟩) s (fun u => (∀ k, k / 64 < (s.sctx st).quota / 64 → u.dirAt st k = 0#128) ∧ (u.sctx st).stake = [] ∧
      (u.sctx st).released = [] ∧ (u.sctx st).recent = [] ∧ (u.sctx st).carry = [] ∧ (u.sctx st).cursor = 0 ∧
      u.ctx.tracks = s.ctx.tracks ∧ AckReplies s u r 0 0) := by
  intro st
  have hexec : exec (.evict ⟨stream, fs⟩) s = .next ((s.evictAll st).ackReq r 0 0) := by
    rw [exec_evict, execEvict, hr]
    exact congrArg Host.Outcome.next (if_pos hm)
  obtain ⟨hreplies, hstore, -⟩ := ackReq_answers r 0 0 (s.evictAll_books st) (s := s) rfl
  refine ⟨_, hexec, fun k hk => (hstore.dirAt st k).trans (s.dirAt_emptied st hk), ?_, ?_, ?_, ?_, ?_, hstore.2.2.2, hreplies⟩ <;>
    rw [hstore.sctx, State.sctx_emptied, if_pos rfl]

theorem stakeUnstakeEvict : Claims.StakeUnstakeEvict := by
  intro s stream r j fs hf
  dsimp only
  refine ⟨fun op hop hm hr hn => unnamed_refused hn hop hm hr, fun hr hn => ?_, fun hr hm hn => ?_, fun hr hm hn => ?_, fun hr hm hvalid => ?_,
    fun hr hm => ?_⟩
  · rw [← State.nextReq_stream hr]
    refine ⟨fun hv => stake_keeps hn hf hr fun u _ huv => State.stakeSlot_invalid (huv.trans hv),
      fun hv hc => stake_keeps hn hf hr fun u hus huv => State.stakeSlot_staked (huv.trans hv) (by rw [hus]; exact hc),
      fun hv hc hl => stake_keeps hn hf hr fun u hus huv =>
        State.stakeSlot_full (huv.trans hv) (by rw [hus]; exact hc) (by rw [hus]; exact hl), fun hv hc hl => ?_⟩
    obtain ⟨u, hexec, hreplies, hslots, hother, hstore⟩ := stake_stakes hn hf hr hv hc hl
    have hsctx := (hstore.sctx r.stream).trans ((State.sctx_relist ..).trans (if_pos rfl))
    exact ⟨u, hexec, hreplies, hslots, hother, by rw [hsctx], by rw [hsctx], hstore.2.2.2,
      (hstore.dirAt ..).trans (State.dirAt_relist _ rfl)⟩
  · rw [← State.nextReq_stream hr]
    refine ⟨fun hv => unstake_keeps hn hf hr hm fun u _ huv => State.unstakeSlot_invalid (huv.trans hv),
      fun hv hc => unstake_keeps hn hf hr hm fun u hus huv => State.unstakeSlot_unstaked (huv.trans hv) (by rw [hus]; exact hc),
      fun e hv hc => ?_⟩
    obtain ⟨u, hexec, hreplies, hslots, hother, hstore⟩ := unstake_unstakes hn hf hr hm hv hc
    have hsctx := (hstore.sctx r.stream).trans ((State.sctx_relist ..).trans (if_pos rfl))
    exact ⟨u, hexec, hreplies, hslots, hother, by rw [hsctx], by rw [hsctx], hstore.2.2.2,
      (hstore.dirAt ..).trans (State.dirAt_relist _ rfl)⟩
  · rw [← State.nextReq_stream hr]
    refine ⟨fun hv => evict_keeps hn hf hr hm fun u _ huv => State.evictSlot_invalid (huv.trans hv),
      fun hv hc => evict_keeps hn hf hr hm fun u hus huv => State.evictSlot_staked (huv.trans hv) (by rw [hus]; exact hc),
      fun hv hc hlt => ?_⟩
    obtain ⟨u, hexec, hreplies, hslots, hother, hstore⟩ := evict_evicts hn hf hr hm hv hc
    have hsctx := (hstore.sctx r.stream).trans ((State.sctx_relist ..).trans (if_pos rfl))
    refine ⟨u, hexec, hreplies, hslots, hother, (hstore.dirAt ..).trans (State.dirAt_relist _ rfl), by rw [hsctx], by rw [hsctx], ?_⟩
    rw [hstore.2.2.2]
    exact State.unlink_tracks _ _ hlt
  · rw [← State.nextReq_stream hr] at hvalid ⊢
    exact unstake_all hr hm hvalid
  · rw [← State.nextReq_stream hr]
    exact evict_all hr hm

/-! ## The obligation -/

theorem streamClear_clears {s : State} (stream : BitVec 10) (he : s.engineUp = true) :
    let st := stream.toNat
    Completes (.streamClear stream) s (fun u =>
      (∀ k, k / 64 < (s.sctx st).quota / 64 → u.dirAt st k = 0#128) ∧ (∀ t, t < 512 → tget Track.zero u.ctx.tracks (512 * st + t) = Track.zero) ∧
      u.sctx st = { s.sctx st with cursor := 0, stake := [], released := [], recent := [], carry := [] } ∧
      (∀ n, n ≠ st → u.sctx n = s.sctx n) ∧ u.adm = s.adm ∧ u.fab = s.fab) := by
  intro st
  have hexec : exec (.streamClear stream) s = .next (s.clearStream st) := by
    rw [exec_streamClear, execStreamClear, he, onlyIf_true]
  have hbooks := s.evictAll_books st
  have hbeside := s.evictAll_besideContext st
  simp only [State.besideContext, Prod.mk.injEq] at hbeside
  obtain ⟨-, hadm, hfab, -⟩ := hbeside
  have hsctx : ∀ n, (s.clearStream st).sctx n = (s.emptied st).sctx n := hbooks.sctx
  refine ⟨_, hexec, fun k hk => (hbooks.dirAt st k).trans (s.dirAt_emptied st hk), fun t ht => tget_of_not_listed _ fun p hp he => ?_, ?_,
    fun n hn => ?_, hadm, hfab⟩
  · have hother := (List.mem_filter.mp hp).2
    rw [he, bne_iff_ne] at hother
    exact hother (by omega)
  · rw [hsctx, State.sctx_emptied, if_pos rfl]
  · rw [hsctx, State.sctx_emptied, if_neg hn]

theorem clearAll_clears {s : State} (he : s.engineUp = true) (hen : s.blockEn 6 = false) :
    Completes .clearAll s (fun u => u.ctx.dir = [] ∧ u.ctx.tracks = [] ∧ u.ctx.near = [] ∧
      (∀ n, (u.sctx n).stake = [] ∧ (u.sctx n).released = [] ∧ (u.sctx n).recent = [] ∧ (u.sctx n).carry = []) ∧
      u.rbit Reg.ctxStat 1 = true ∧ u.adm = s.adm ∧ u.fab = s.fab) := by
  have hexec : exec .clearAll s = .next s.clearStore := by
    rw [exec_clearAll, execClearAll, he, onlyIf_true, State.clearAll, hen, if_neg Bool.false_ne_true]
  refine ⟨_, hexec, rfl, rfl, rfl, fun n => ?_, ?_, rfl, rfl⟩
  · exact tget_tmap_prop (d := StreamCtx.zero)
      (f := fun _ c => { c with cursor := 0, stake := [], released := [], recent := [], carry := [] })
      (P := fun c => c.stake = [] ∧ c.released = [] ∧ c.recent = [] ∧ c.carry = [])
      ⟨rfl, rfl, rfl, rfl⟩ (fun _ _ => ⟨rfl, rfl, rfl, rfl⟩) s.ctx.streams n
  · rw [State.clearStore, State.rbit_setBits_self]
    simp

theorem storeClears : Claims.StoreClears := by
  intro s stream he
  refine ⟨streamClear_clears stream he, fun hen => ?_, clearAll_clears he, fun hc => ?_⟩
  · rw [exec_clearAll, execClearAll, he, onlyIf_true, State.clearAll, hen, if_pos rfl]
  · have hexec : exec .storeClearComplete s =
        .next { s.clrBits Reg.ctxStat 0x2#32 with flt := { (s.clrBits Reg.ctxStat 0x2#32).flt with clearing := false } } := by
      rw [exec_storeClearComplete, execStoreClearComplete, he, hc]
      rfl
    refine ⟨_, hexec, ?_, rfl, rfl, rfl⟩
    change (s.clrBits Reg.ctxStat 0x2#32).rbit Reg.ctxStat 1 = false
    rw [State.rbit, State.reg_clrBits, if_pos rfl]
    simp [bit]

/-- Settles O36: each row of R241 is an equation of the slot's operation, ALL goes through the list, and a clear writes the empty lists. -/
theorem stakesAndClears : Obligations.StakesAndClears := ⟨stakeUnstakeEvict, storeClears⟩

end Sys2Proof.Machine
end

section
/-! SUPPORT. Upkeep of the HBM: the scrub, the retirement of a row with a spare granule, refresh and recalibration (R253, R310 to R315). -/

namespace Sys2Proof.Machine

open Sys2Proof

/-! ## A row retired to a spare granule (R311, R312) -/

section
variable {s : State} {row : Nat}

theorem State.reg_retire (s : State) (x : Retire) {a : Nat} (hlog : a ≠ Reg.telLogCnt) (hstat : a ≠ Reg.telStat) :
    (s.retire x).reg a = s.reg a := by
  unfold State.retire
  split_ifs
  · rfl
  · rw [State.reg_setBits, if_neg hstat, State.reg_logEvent, if_neg hlog]
    rfl

theorem State.mapRow_spare (hrow : row < rowDir) (hspare : (s.chan (row % 64)).granules < 16384) :
    (s.mapRow row).2 = true ∧ (s.mapRow row).1.ctx = s.ctx ∧ (s.mapRow row).1.regs = s.regs ∧ tget 0 (s.mapRow row).1.hbm.map row ≠ 0 := by
  simp only [State.mapRow, if_pos hrow, if_pos hspare]
  refine ⟨trivial, rfl, rfl, ?_⟩
  rw [tget_tset_self]
  exact Nat.succ_ne_zero _

theorem State.retireRow_spare (cause : Nat) (hmap : tget 0 s.hbm.map row = 0) (hrow : row < rowDir) (hspare : (s.chan (row % 64)).granules < 16384) :
    (s.retireRow row cause).ctx = s.ctx ∧ tget 0 (s.retireRow row cause).hbm.map row ≠ 0 ∧
    (s.retireRow row cause).reg Reg.hbmRetiredCnt = s.reg Reg.hbmRetiredCnt + 1#32 ∧
    ∀ a, a ≠ Reg.hbmRetiredCnt → a ≠ Reg.telLogCnt → a ≠ Reg.telStat → (s.retireRow row cause).reg a = s.reg a := by
  obtain ⟨hfound, hctx, hregs, hmapped⟩ := State.mapRow_spare hrow hspare
  have hreg : ∀ a, (s.mapRow row).1.reg a = s.reg a := fun a => by rw [State.reg, hregs, State.reg]
  simp only [State.retireRow, hmap, hfound, ne_eq, not_true_eq_false, if_false, Bool.not_true, Bool.false_eq_true, false_and, if_true]
  refine ⟨?_, ?_, ?_, fun a h1 h2 h3 => ?_⟩
  · rw [State.retire_ctx]
    exact hctx
  · rw [State.retire_hbm]
    exact hmapped
  · rw [State.reg_retire _ _ (by decide) (by decide), State.reg_logEvent, if_neg (by decide), State.reg_count, if_pos rfl, hreg]
  · rw [State.reg_retire _ _ h2 h3, State.reg_logEvent, if_neg h2, State.reg_count, if_neg h1, hreg]

end

/-! ## The scrub (R310, R313) -/

/-- The scrub goes on to the next row, or starts again and counts a pass. -/
def State.scrubOn (s : State) (row : Nat) : State :=
  if row + 1 < rowEnd then s.setReg Reg.hbmScrubPos (BitVec.ofNat 32 (row + 1)) else (s.setReg Reg.hbmScrubPos 0).count Reg.hbmScrubPass 1

/-- The table of row errors is cleared at the start of a pass. -/
def State.scrubFrom (s : State) (row : Nat) : State :=
  if row = 0 then { s with hbm := { s.hbm with chans := tmap Chan.zero (fun _ x => { x with errs := [] }) s.hbm.chans } } else s

section
variable {s : State} {row : Nat}

theorem State.scrubOn_pos : (s.scrubOn row).reg Reg.hbmScrubPos = BitVec.ofNat 32 (if row + 1 < rowEnd then row + 1 else 0) := by
  unfold State.scrubOn
  split_ifs
  · exact State.reg_setReg_self ..
  · rw [State.reg_count, if_neg (by decide), State.reg_setReg_self]
    rfl

theorem State.scrubOn_pass : (s.scrubOn row).reg Reg.hbmScrubPass =
    s.reg Reg.hbmScrubPass + BitVec.ofNat 32 (if row + 1 < rowEnd then 0 else 1) := by
  unfold State.scrubOn
  split_ifs
  · rw [State.reg_setReg_ne _ _ (by decide), BitVec.add_zero]
  · rw [State.reg_count, if_pos rfl, State.reg_setReg_ne _ _ (by decide)]

theorem State.scrubOn_reg {a : Nat} (hpos : a ≠ Reg.hbmScrubPos) (hpass : a ≠ Reg.hbmScrubPass) : (s.scrubOn row).reg a = s.reg a := by
  unfold State.scrubOn
  split_ifs
  · exact State.reg_setReg_ne _ _ hpos
  · rw [State.reg_count, if_neg hpass, State.reg_setReg_ne _ _ hpos]

theorem State.scrubOn_ctx : (s.scrubOn row).ctx = s.ctx := by unfold State.scrubOn; split_ifs <;> rfl
theorem State.scrubOn_hbm : (s.scrubOn row).hbm = s.hbm := by unfold State.scrubOn; split_ifs <;> rfl

end

section
variable {s : State} {row : Nat} {word : BitVec 6} {ecc : Ecc} (hrow : (s.reg Reg.hbmScrubPos).toNat = row)
  (hs : s.chanUp (row % 64) = true ∧ s.rbit Reg.hbmCtl 1 = true ∧ s.rbit Reg.stmCtl 0 = true)
include hrow hs

theorem exec_hbmScrubRow_due : exec (.hbmScrubRow word ecc) s = .next
    ((if tget 0 s.hbm.map row ≠ 0 then s.scrubFrom row else (s.scrubFrom row).hbmEcc row word.toNat 34 ecc).scrubOn row) := by
  obtain ⟨hup, hscrub, hstm⟩ := hs
  rw [exec_hbmScrubRow, execHbmScrubRow, hrow, hup, hscrub, hstm]
  rfl

/-- A row that is not mapped to a spare is checked, beside the start of a pass. -/
theorem exec_hbmScrubRow_checks (h0 : 0 < row) (hmap : tget 0 s.hbm.map row = 0) :
    exec (.hbmScrubRow word ecc) s = .next ((s.hbmEcc row word.toNat 34 ecc).scrubOn row) := by
  rw [exec_hbmScrubRow_due hrow hs, if_neg (not_not.mpr hmap), State.scrubFrom, if_neg (by omega)]

theorem scrub_goesOn : Completes (.hbmScrubRow word ecc) s (fun u =>
    u.reg Reg.hbmScrubPos = BitVec.ofNat 32 (if row + 1 < rowEnd then row + 1 else 0) ∧
    (ecc = .ok → u.reg Reg.hbmScrubPass = s.reg Reg.hbmScrubPass + BitVec.ofNat 32 (if row + 1 < rowEnd then 0 else 1))) := by
  refine ⟨_, exec_hbmScrubRow_due hrow hs, State.scrubOn_pos, ?_⟩
  rintro rfl
  have hsame : (s.scrubFrom row).reg Reg.hbmScrubPass = s.reg Reg.hbmScrubPass := by
    unfold State.scrubFrom
    split_ifs <;> rfl
  rw [State.scrubOn_pass, State.hbmEcc, ite_self, hsame]

theorem scrub_corrects (h0 : 0 < row) (hmap : tget 0 s.hbm.map row = 0) (hnew : ∀ e ∈ (s.chan (row % 64)).errs, e.1 ≠ row)
    (hlimit : 1 < fld (s.reg Reg.hbmRetireCe) 7 0) : Completes (.hbmScrubRow word .corrected) s (fun u =>
      u.reg Reg.hbmCeCnt = s.reg Reg.hbmCeCnt + 1#32 ∧ (u.chan (row % 64)).ce = (s.chan (row % 64)).ce + 1#32) := by
  have hfirst : (s.chan (row % 64)).errs.find? (fun e => e.1 == row) = none :=
    List.find?_eq_none.mpr fun e he => by simpa using hnew e he
  refine ⟨_, exec_hbmScrubRow_checks hrow hs h0 hmap, ?_, ?_⟩
  · rw [State.scrubOn_reg (by decide) (by decide)]
    simp only [State.hbmEcc, State.corrected, hfirst, if_neg (Nat.not_le.mpr hlimit), State.reg_count, if_true]
    rfl
  · rw [State.chan, State.scrubOn_hbm]
    simp only [State.hbmEcc, State.corrected, hfirst, if_neg (Nat.not_le.mpr hlimit), State.count_hbm]
    rw [← State.chan, State.chan_setChan, if_pos rfl]

end

/-! ## An uncorrectable error in a slot (R253, R310) -/

/-- An uncorrectable word of a row is counted, flagged and raised (R310). -/
def State.noteUncorrected (s : State) (row : Nat) : State :=
  (((s.setChan (row % 64) { s.chan (row % 64) with ue := (s.chan (row % 64)).ue + 1#32 }).count Reg.hbmUeCnt 1).setBits Reg.hbmStat 8#32).alert 3

theorem State.reg_noteUncorrected (s : State) (row : Nat) (a : Nat) : (s.noteUncorrected row).reg a =
    if a = Reg.devAlert then s.reg a ||| bmask 3 else if a = Reg.hbmStat then s.reg a ||| 8#32
    else if a = Reg.hbmUeCnt then s.reg a + 1#32 else s.reg a := by
  rw [State.noteUncorrected, State.reg_alert]
  by_cases h1 : a = Reg.devAlert
  · rw [if_pos h1, if_pos h1, h1, State.reg_setBits, if_neg (by decide), State.reg_count, if_neg (by decide)]
    rfl
  · rw [if_neg h1, if_neg h1, State.reg_setBits]
    by_cases h2 : a = Reg.hbmStat
    · rw [if_pos h2, if_pos h2, h2, State.reg_count, if_neg (by decide)]
      rfl
    · rw [if_neg h2, if_neg h2, State.reg_count]
      by_cases h3 : a = Reg.hbmUeCnt
      · rw [if_pos h3, if_pos h3, h3]
        rfl
      · rw [if_neg h3, if_neg h3]
        rfl

section
variable {s : State} {row st j : Nat}

theorem State.uncorrected_slot {word : Nat} (hlow : row < rowDir) (hslot : s.slotAtGranule row = some (st, j)) (hv : s.slotValid st j = true) :
    s.uncorrected row word 34 = ((s.noteUncorrected row).slotBad st j).retireRow row 1 := by
  have hslot' : (s.noteUncorrected row).slotAtGranule row = some (st, j) := hslot
  have hv' : (s.noteUncorrected row).slotValid st j = true := hv
  have hlost : (s.noteUncorrected row).regionLost row word 34 = (s.noteUncorrected row).slotBad st j := by
    simp only [State.regionLost, if_pos hlow, hslot', State.failSlot, hv', if_true]
  exact congrArg (fun u : State => u.retireRow row 1) hlost

theorem scrub_losesSlot {word : BitVec 6} (hrow : (s.reg Reg.hbmScrubPos).toNat = row)
    (hs : s.chanUp (row % 64) = true ∧ s.rbit Reg.hbmCtl 1 = true ∧ s.rbit Reg.stmCtl 0 = true)
    (h0 : 0 < row) (hlow : row < rowDir) (hmap : tget 0 s.hbm.map row = 0) (hspare : (s.chan (row % 64)).granules < 16384)
    (hslot : s.slotAtGranule row = some (st, j)) (hv : s.slotValid st j = true) :
    Completes (.hbmScrubRow word .uncorrectable) s (fun u =>
      u.slotValid st j = false ∧ u.reg Reg.hbmUeCnt = s.reg Reg.hbmUeCnt + 1#32 ∧ u.rbit Reg.hbmStat 3 = true ∧
      u.rbit Reg.devAlert 3 = true ∧ u.reg Reg.ctxSlotBadCnt = s.reg Reg.ctxSlotBadCnt + 1#32 ∧
      u.reg Reg.hbmRetiredCnt = s.reg Reg.hbmRetiredCnt + 1#32 ∧ tget 0 u.hbm.map row ≠ 0) := by
  have hbooks := (BooksOnly.refl (s.noteUncorrected row)).slotBad (st := st) (j := j)
  have hspare' : (((s.noteUncorrected row).slotBad st j).chan (row % 64)).granules < 16384 := by
    rw [hbooks.chan]
    have hchan : ((s.noteUncorrected row).lose st j).chan (row % 64) = { s.chan (row % 64) with ue := (s.chan (row % 64)).ue + 1#32 } :=
      (State.chan_setChan ..).trans (if_pos rfl)
    rw [hchan]
    exact hspare
  obtain ⟨hctx, hmapped, hretired, hreg⟩ := State.retireRow_spare 1 (s := (s.noteUncorrected row).slotBad st j)
    (by rw [hbooks.map_eq]; exact hmap) hlow hspare'
  have hseen : ∀ a, a ≠ Reg.hbmRetiredCnt → a ≠ Reg.telLogCnt → a ≠ Reg.telStat → a ∉ bookRegs → a ≠ Reg.hbmScrubPos → a ≠ Reg.hbmScrubPass →
      ((((s.noteUncorrected row).slotBad st j).retireRow row 1).scrubOn row).reg a = ((s.noteUncorrected row).lose st j).reg a :=
    fun a h1 h2 h3 h4 h5 h6 => by rw [State.scrubOn_reg h5 h6, hreg a h1 h2 h3, hbooks.reg a h4]
  refine ⟨_, exec_hbmScrubRow_checks hrow hs h0 hmap, ?_⟩
  rw [State.hbmEcc, State.uncorrected_slot hlow hslot hv]
  refine ⟨?_, ?_, ?_, ?_, ?_, ?_, ?_⟩
  · rw [State.slotValid_of_ctx (State.scrubOn_ctx.trans hctx), hbooks.slotValid, State.slotValid_lose]
  · rw [hseen _ (by decide) (by decide) (by decide) (by decide) (by decide) (by decide), State.reg_lose, if_neg (by decide),
      State.reg_noteUncorrected, if_neg (by decide), if_neg (by decide), if_pos rfl]
  · rw [State.rbit, hseen _ (by decide) (by decide) (by decide) (by decide) (by decide) (by decide), State.reg_lose, if_neg (by decide),
      State.reg_noteUncorrected, if_neg (by decide), if_pos rfl]
    simp [bit]
  · rw [State.rbit, hseen _ (by decide) (by decide) (by decide) (by decide) (by decide) (by decide), State.reg_lose, if_neg (by decide),
      State.reg_noteUncorrected, if_pos rfl]
    simp [bit, bmask]
  · rw [hseen _ (by decide) (by decide) (by decide) (by decide) (by decide) (by decide), State.reg_lose, if_pos rfl,
      State.reg_noteUncorrected, if_neg (by decide), if_neg (by decide), if_neg (by decide)]
  · rw [State.scrubOn_reg (by decide) (by decide), hretired, hbooks.reg _ (by decide), State.reg_lose, if_neg (by decide),
      State.reg_noteUncorrected, if_neg (by decide), if_neg (by decide), if_neg (by decide)]
  · rw [State.scrubOn_hbm]
    exact hmapped

end

/-! ## Refresh and recalibration (R313 to R315) -/

section
variable {s : State} {c : Nat}

theorem refresh_showsHot {hot : BitVec 4} (he : s.engineUp = true) (hen : s.rbit Reg.hbmCtl 0 = true) :
    Completes (.hbmRefresh hot) s (fun u => u.rbit Reg.hbmStat 2 = (hot != 0#4) ∧ u.hbm = s.hbm ∧ ∀ a, a ≠ Reg.hbmStat → u.reg a = s.reg a) := by
  have hexec : exec (.hbmRefresh hot) s = .next (s.putBit Reg.hbmStat 2 (hot != 0#4)) := by
    rw [exec_hbmRefresh, execHbmRefresh, he, hen]
    rfl
  refine ⟨_, hexec, ?_, State.putBit_hbm .., fun a ha => ?_⟩
  · cases hot != 0#4 with
    | false =>
      rw [State.rbit, State.putBit, if_neg Bool.false_ne_true, State.reg_clrBits, if_pos rfl]
      simp [bit, bmask]
    | true =>
      rw [State.rbit, State.putBit, if_pos rfl, State.reg_setBits, if_pos rfl]
      simp [bit, bmask]
  · cases hot != 0#4 with
    | false => exact State.reg_setReg_ne _ _ ha
    | true => exact State.reg_setReg_ne _ _ ha

theorem State.chan_until (s : State) (t c : Nat) : (s.until t).chan c = s.chan c := by rw [State.chan, State.until_hbm, State.chan]

/-- A recalibrated channel is blocked for 2,700 cycles; no other channel, and neither time nor a register, moves (R314). -/
structure Recalibrated (v u : State) (c : Nat) : Prop where
  blocked : (u.chan c).freeAt = v.engineCycle + 2700
  since : (u.chan c).recalAt = v.clock.now
  others : ∀ k, k ≠ c → u.chan k = v.chan k
  clock : u.clock = v.clock

theorem State.recalibrate_spec (v : State) (c : Nat) : Recalibrated v (v.recalibrate c) c := by
  have hchan : ∀ k, (v.recalibrate c).chan k =
      if k = c then { v.chan c with recalAt := v.clock.now, freeAt := v.engineCycle + 2700 } else v.chan k := fun k => State.chan_setChan ..
  refine ⟨?_, ?_, fun k hk => ?_, rfl⟩
  · rw [hchan, if_pos rfl]
  · rw [hchan, if_pos rfl]
  · rw [hchan, if_neg hk]

theorem le_cycleStep {n t : Nat} (h : cycleStep n ≤ t) : n ≤ 18 * t := by
  unfold cycleStep at h
  omega

theorem State.engineCycle_of_clock {u v : State} (h : u.clock = v.clock) : u.engineCycle = v.engineCycle := by
  rw [State.engineCycle, State.engineCycle, h]

/-- A recalibration that is due starts once the channel has been idle for 360 cycles. -/
theorem phyRecalibration_waits {ch : BitVec 6} (hup : s.chanUp ch.toNat = true) :
    let c := ch.toNat
    Completes (.phyRecalibration ch) s (fun u => (u.chan c).freeAt = u.engineCycle + 2700 ∧ (u.chan c).recalAt = u.clock.now ∧
      (s.chan c).recalAt + msSteps 1000 ≤ u.clock.now ∧ (s.chan c).freeAt + 360 ≤ u.engineCycle ∧ u.regs = s.regs ∧
      ∀ k, k ≠ c → u.chan k = s.chan k) := by
  intro c
  obtain ⟨v, hv⟩ : ∃ v, v = (s.until ((s.chan c).recalAt + msSteps 1000)).until (cycleStep ((s.chan c).freeAt + 360)) := ⟨_, rfl⟩
  have hexec : exec (.phyRecalibration ch) s = .next (v.recalibrate c) := by
    rw [exec_phyRecalibration, execPhyRecalibration, hup, onlyIf_true, hv]
  have hdue : (s.chan c).recalAt + msSteps 1000 ≤ v.clock.now := by
    rw [hv, State.until_now, State.until_now]
    exact (le_max_right ..).trans (le_max_left ..)
  have hidle : cycleStep ((s.chan c).freeAt + 360) ≤ v.clock.now := by
    rw [hv, State.until_now]
    exact le_max_right ..
  have hregs : v.regs = s.regs := by rw [hv, State.until_regs, State.until_regs]
  have hchan : ∀ k, v.chan k = s.chan k := fun k => by rw [hv, State.chan_until, State.chan_until]
  obtain ⟨hblocked, hsince, hothers, hclock⟩ := v.recalibrate_spec c
  refine ⟨_, hexec, ?_, ?_, ?_, ?_, hregs, fun k hk => (hothers k hk).trans (hchan k)⟩
  · rw [hblocked, State.engineCycle_of_clock hclock]
  · rw [hsince, hclock]
  · rw [hclock]
    exact hdue
  · rw [State.engineCycle_of_clock hclock]
    exact le_cycleStep hidle

theorem forcedRecalibration_counts {ch : BitVec 6} (hup : s.chanUp ch.toNat = true) :
    let c := ch.toNat
    Completes (.forcedRecalibration ch) s (fun u => (u.chan c).freeAt = u.engineCycle + 2700 ∧ (u.chan c).recalAt = u.clock.now ∧
      (s.chan c).recalAt + msSteps 1100 ≤ u.clock.now ∧ u.reg Reg.hbmRecalForcedCnt = s.reg Reg.hbmRecalForcedCnt + 1#32 ∧
      ∀ k, k ≠ c → u.chan k = s.chan k) := by
  intro c
  obtain ⟨v, hv⟩ : ∃ v, v = s.until ((s.chan c).recalAt + msSteps 1100) := ⟨_, rfl⟩
  have hexec : exec (.forcedRecalibration ch) s = .next ((v.recalibrate c).count Reg.hbmRecalForcedCnt 1) := by
    rw [exec_forcedRecalibration, execForcedRecalibration, hup, onlyIf_true, hv]
  have hdue : (s.chan c).recalAt + msSteps 1100 ≤ v.clock.now := by
    rw [hv, State.until_now]
    exact le_max_right ..
  have hreg : v.reg Reg.hbmRecalForcedCnt = s.reg Reg.hbmRecalForcedCnt := by rw [hv, State.until_reg]
  have hchan : ∀ k, v.chan k = s.chan k := fun k => by rw [hv, State.chan_until]
  obtain ⟨hblocked, hsince, hothers, hclock⟩ := v.recalibrate_spec c
  refine ⟨_, hexec, ?_, ?_, ?_, ?_, fun k hk => (hothers k hk).trans (hchan k)⟩
  · rw [State.engineCycle_of_clock (u := (v.recalibrate c).count Reg.hbmRecalForcedCnt 1) (v := v) hclock]
    exact hblocked
  · rw [State.count_clock, hclock]
    exact hsince
  · rw [State.count_clock, hclock]
    exact hdue
  · rw [State.reg_count, if_pos rfl, ← hreg]
    rfl

end

/-- Settles O42: the scrub's step by what the check of its row finds, and the two recalibrations by the time they wait for. -/
theorem hbmUpkeep : Obligations.HbmUpkeep := by
  intro s ch word ecc hot
  exact ⟨scrub_goesOn rfl, scrub_corrects rfl, fun st j hs => scrub_losesSlot rfl hs, refresh_showsHot, phyRecalibration_waits,
    forcedRecalibration_counts⟩

end Sys2Proof.Machine
end

section
/-! SUPPORT. Crop-and-resize (R262, R275 to R277): the words that it sends for a frame, and what else it moves. -/

namespace Sys2Proof.Machine

open Sys2Proof

/-! ## The words of a box (R277) -/

theorem length_flatten_map_const {α β : Type} {l : List α} {f : α → List β} {n : Nat} (h : ∀ a ∈ l, (f a).length = n) :
    (l.map f).flatten.length = l.length * n := by
  rw [← List.flatMap_def, List.length_flatMap, List.map_congr_left h, List.map_const', List.sum_replicate, smul_eq_mul]

theorem mem_flatten_upto {α : Type} {n : Nat} {f : Nat → List α} {a : α} (h : a ∈ ((upto n).map f).flatten) : ∃ i < n, a ∈ f i := by
  obtain ⟨l, hl, ha⟩ := List.mem_flatten.mp h
  obtain ⟨i, hi, rfl⟩ := List.mem_map.mp hl
  exact ⟨i, List.mem_range.mp hi, ha⟩

theorem b2n_le_one (b : Bool) : b2n b ≤ 1 := by cases b <;> decide

section
variable (c : Memory) (o : Nat) (src hd : NumHdr) (map : List Byte) (b : Option (Bool × Box))

/-- A box has one header word and two words for each channel of each grid row, whether the list holds it or not. -/
theorem length_boxWords : (boxWords c o src hd map b).1.length = 1 + 2 * (pay c (o + 7) 1 * pay c o 2) := by
  have hrows : ∀ (f : Nat → Nat → List (Burst × Nat)), (∀ i k, (f i k).length = 2) →
      (((upto (pay c (o + 7) 1)).map (fun i => ((upto (pay c o 2)).map (f i)).flatten)).flatten).length =
        2 * (pay c (o + 7) 1 * pay c o 2) := fun f hf => by
    rw [length_flatten_map_const (n := pay c o 2 * 2) fun i _ => ?_, upto, List.length_range]
    · ring
    · rw [length_flatten_map_const fun k _ => hf i k, upto, List.length_range]
  cases b with
  | none => exact (congrArg (· + 1) (hrows (fun _ k => [(0#256, 0), (0#256, b2n (k + 1 = pay c o 2))])
      fun _ _ => rfl)).trans (Nat.add_comm ..)
  | some b => exact (congrArg (· + 1) (hrows _ fun _ _ => rfl)).trans (Nat.add_comm ..)

/-- No word of a box is a FRAME_END of its own. -/
theorem boxWords_kind : ∀ p ∈ (boxWords c o src hd map b).1, p.2 ≤ 1 := by
  cases b with
  | none =>
    intro p hp
    obtain rfl | hp := List.mem_cons.mp hp
    · exact Nat.zero_le 1
    · obtain ⟨i, -, hp⟩ := mem_flatten_upto hp
      obtain ⟨k, -, hp⟩ := mem_flatten_upto hp
      obtain rfl | hp := List.mem_cons.mp hp
      · exact Nat.zero_le 1
      · rw [List.mem_singleton.mp hp]
        exact b2n_le_one _
  | some b =>
    intro p hp
    obtain rfl | hp := List.mem_cons.mp hp
    · exact Nat.zero_le 1
    · obtain ⟨i, -, hp⟩ := mem_flatten_upto hp
      obtain ⟨k, -, hp⟩ := mem_flatten_upto hp
      obtain ⟨q, -, rfl⟩ := List.mem_map.mp hp
      exact b2n_le_one _

end

/-! ## The words of a frame (R262, R277) -/

/-- The words of all boxes as they are sent: the last of them carries FRAME_END. -/
def cropSent (ws : List (Burst × Nat)) : List (Burst × Nat) :=
  (ws.zip (upto ws.length)).map (fun p => (p.1.1, if p.2 + 1 = ws.length then 2 else p.1.2))

theorem length_cropSent (ws : List (Burst × Nat)) : (cropSent ws).length = ws.length := by simp [cropSent, upto]

theorem getElem?_cropSent {ws : List (Burst × Nat)} {i : Nat} (hi : i < ws.length) :
    (cropSent ws)[i]? = some (ws[i].1, if i + 1 = ws.length then 2 else ws[i].2) := by
  simp [cropSent, upto, hi]

/-- A sent word as the crop unit puts it on its vector circuit. -/
def cropWord (tag : BitVec 2) (p : Burst × Nat) : QWord := unitWord 0 tag p.2 p.1

/-- Only the last word carries FRAME_END. -/
theorem kind_cropSent_eq_frameEnd_iff (tag : BitVec 2) {ws : List (Burst × Nat)} (hws : ∀ p ∈ ws, p.2 ≤ 1) {i : Nat}
    (hi : i < ws.length) : ((((cropSent ws).map (cropWord tag)).map (·.kind)).getD i 0#3 = 2#3 ↔ i + 1 = ws.length) := by
  have hkind : (((cropSent ws).map (cropWord tag)).map (·.kind)).getD i 0#3 =
      BitVec.ofNat 3 (if i + 1 = ws.length then 2 else ws[i].2) := by
    rw [List.getD_eq_getElem?_getD, List.map_map, List.getElem?_map, getElem?_cropSent hi]
    rfl
  have hle : ws[i].2 ≤ 1 := hws _ (List.getElem_mem hi)
  rw [hkind]
  split_ifs with h
  · exact iff_of_true rfl h
  · refine iff_of_false (fun he => ?_) h
    have hnum : ws[i].2 % 2 ^ 3 = 2 := (BitVec.toNat_ofNat ..).symm.trans (congrArg BitVec.toNat he)
    omega

/-! ## CROP_AND_RESIZE -/

/-- The boxes that a frame's list and its map give, CROP_COUNT of them (R275, R277). -/
def State.cropBoxes (s : State) (f : Frame) (cs : Nat) : List (List (Burst × Nat) × Nat × Nat × Nat) :=
  let c := s.img.copy
  let o := stgParams c cs f.wide
  let ps := (stgProducers c cs).headD 0
  let list := s.boxList f o
  (upto (pay c (o + 10) 2)).map (fun i => boxWords c o (tget NumHdr.zero s.num.hdrs ps) (tget NumHdr.zero s.num.hdrs cs)
    (wordsBytes (s.unitWords 8 ps (f.ordinal.getD 0))) ((list[i]?).map (fun p => (p.1.1, p.2))))

/-- The words of these boxes have gone out. -/
def State.cropSends (s : State) (tag : BitVec 2) (ws : List (Burst × Nat)) : State :=
  (cropSent ws).foldl (fun u p => u.unitSend 8 0 (cropWord tag p)) s

/-- The counts that a cropped frame leaves: boxes, filled samples, overflows and codes without a value. -/
def State.cropCounts (u : State) (t : TileAddr) (boxes fills ovf bad : Nat) : State :=
  (((u.count Reg.cruBoxCnt boxes).count Reg.cruFillCnt fills).countOvf t ovf).countNonfin bad

/-- The state in which a frame with this list has left crop-and-resize with these boxes sent, before the aborts of frames that come
next. -/
def State.cropped (s : State) (f : Frame) (cs : Nat) (list : List ((Bool × Nat) × Box))
    (boxes : List (List (Burst × Nat) × Nat × Nat × Nat)) : State :=
  let u := s.cropSends (BitVec.ofNat 2 (2 * b2n s.bank + b2n f.wide)) (boxes.map (·.1)).flatten
  let w := u.cropCounts (s.firstTile cs) list.length (boxes.foldl (fun m b => m + b.2.1) 0) (boxes.foldl (fun m b => m + b.2.2.1) 0)
    (boxes.foldl (fun m b => m + b.2.2.2) 0)
  (w.mapFrame f (fun g => { g with phase := .cropped, boxes := list.map (·.1) })).dropRows 8 ((stgProducers s.img.copy cs).headD 0)
    (f.ordinal.getD 0)

/-- Crop-and-resize runs for a frame: it is enabled, and the whole map of its source stage is there. -/
def State.crops (s : State) (f : Frame) (cs : Nat) : Bool :=
  s.engineUp && s.blockEn 8 && !s.faulted &&
    s.unitHas 8 ((stgProducers s.img.copy cs).headD 0) (2 * b2n s.bank + b2n f.wide) (f.ordinal.getD 0)

theorem exec_cropAndResize_eq {s : State} {f : Frame} {cs : Nat} (hf : s.frameIn (· == .suppressed) = some f)
    (hcs : s.cropStage = some cs) (words ecc : Ecc) :
    exec (.cropAndResize words ecc) s = onlyIf (s.crops f cs) s
      (if words = .uncorrectable ∨ ecc = .uncorrectable then s.unitFault 8 f
       else (s.cropped f cs (s.boxList f (stgParams s.img.copy cs f.wide)) (s.cropBoxes f cs)).sendCropOwed) := by
  rw [exec_cropAndResize, execCropAndResize, hf, hcs]
  rfl

/-- Words that the unit sends move the fabric alone, and are offered to the unit's circuit in order. -/
theorem State.cropSends_spec (s : State) (tag : BitVec 2) (ws : List (Burst × Nat)) :
    OnlyFab s (s.cropSends tag ws) ∧ (s.cropSends tag ws).wires =
      ((((cropSent ws).map (cropWord tag)).map (s.unitLink 8 0)).foldl State.offer s).wires := by
  refine ⟨OnlyFab.foldl (fun v p => OnlyFab.unitSend v 8 0 (cropWord tag p)) _ s, ?_⟩
  rw [List.map_map]
  exact ((PutOut.refl s).foldl_unitSend 8 (fun _ => 0) (cropWord tag) (cropSent ws)).wires

/-- The aborts that crop-and-resize passes on next, as its vector circuit carries them (R109, R262). -/
def State.cropDue (s : State) : List QWord :=
  (s.ppu.cropOwed.filter (fun o =>
    !s.adm.frames.any (fun g => g.beforeCrop && g.ordinal.any (fun n => decide (n < o.1))))).map
    (fun o => abortWord 0 o.2.1.toNat o.2.2 noSrc)

theorem isAbort_of_mem_cropDue {s : State} {a : QWord} (ha : a ∈ s.cropDue) : isAbort 0 a = true := by
  obtain ⟨o, -, rfl⟩ := List.mem_map.mp ha
  rfl

theorem State.sendCropOwed_eq (s : State) : ∃ owed, s.sendCropOwed =
    (let u := s.cropDue.foldl (fun v a => v.unitSend 8 0 a) s
     { u with ppu := { u.ppu with cropOwed := owed } }) := by
  rw [State.cropDue, List.foldl_map]
  exact ⟨_, rfl⟩

/-- The aborts of frames that come next are offered to the unit's circuit; beside them only the list of those owed moves (R262). -/
theorem State.sendCropOwed_spec (s : State) :
    s.sendCropOwed.wires = ((s.cropDue.map (s.unitLink 8 0)).foldl State.offer s).wires ∧
    ∃ fb owed, s.sendCropOwed = { s with fab := fb, ppu := { s.ppu with cropOwed := owed } } := by
  obtain ⟨owed, h⟩ := s.sendCropOwed_eq
  have hput := (PutOut.refl s).foldl_unitSend 8 (fun _ => 0) id s.cropDue
  obtain ⟨fb, hfb⟩ : OnlyFab s (s.cropDue.foldl (fun v a => v.unitSend 8 0 a) s) := OnlyFab.foldl (fun v a => .unitSend v 8 0 a) _ s
  refine ⟨(congrArg State.wires h).trans hput.wires, fb, owed, ?_⟩
  rw [h, hfb]

theorem State.cropCounts_spec (u : State) (t : TileAddr) (boxes fills ovf bad : Nat) :
    SameFrames u (u.cropCounts t boxes fills ovf bad) ∧ (u.cropCounts t boxes fills ovf bad).wires = u.wires ∧
    (u.cropCounts t boxes fills ovf bad).plc = u.plc ∧
    (u.cropCounts t boxes fills ovf bad).reg Reg.cruBoxCnt = u.reg Reg.cruBoxCnt + BitVec.ofNat 32 boxes := by
  obtain ⟨v, hv⟩ : ∃ v, v = (u.count Reg.cruBoxCnt boxes).count Reg.cruFillCnt fills := ⟨_, rfl⟩
  have hcounts : u.cropCounts t boxes fills ovf bad = (v.countOvf t ovf).countNonfin bad := by rw [hv]; rfl
  have hbooks : BooksOnly v ((v.countOvf t ovf).countNonfin bad) := (BooksOnly.refl v).countOvf.countNonfin
  obtain ⟨hadm1, hctx1⟩ := v.countOvf_sameFrames t ovf
  obtain ⟨hadm2, hctx2⟩ := (v.countOvf t ovf).countNonfin_sameFrames bad
  have hcount : v.reg Reg.cruBoxCnt = u.reg Reg.cruBoxCnt + BitVec.ofNat 32 boxes := by
    rw [hv, State.reg_count, if_neg (by decide), State.reg_count, if_pos rfl]
  rw [hcounts]
  refine ⟨⟨(hadm2.trans hadm1).trans (hv ▸ rfl), (hctx2.trans hctx1).trans (hv ▸ rfl)⟩, ?_, hbooks.besideContext.1.trans (hv ▸ rfl),
    (hbooks.reg _ (by decide)).trans hcount⟩
  rw [hbooks.eq, hv]
  rfl

theorem State.dropRows_rows (s : State) (unit stage n : Nat) :
    ∀ r ∈ (s.dropRows unit stage n).ppu.rows, ¬(r.unit = unit ∧ r.stage = stage ∧ r.ordinal = n) := by
  rintro r hr ⟨hu, hs, hn⟩
  have hout := (List.mem_filter.mp hr).2
  simp [hu, hs, hn] at hout

theorem length_cropBoxes_words (s : State) (f : Frame) (cs : Nat) :
    let o := stgParams s.img.copy cs f.wide
    (((s.cropBoxes f cs).map (·.1)).flatten).length =
      pay s.img.copy (o + 10) 2 * (1 + 2 * (pay s.img.copy (o + 7) 1 * pay s.img.copy o 2)) := by
  intro o
  unfold State.cropBoxes
  rw [List.map_map]
  refine (length_flatten_map_const fun i _ => length_boxWords ..).trans ?_
  rw [upto, List.length_range]

theorem cropBoxes_words_kind (s : State) (f : Frame) (cs : Nat) : ∀ p ∈ ((s.cropBoxes f cs).map (·.1)).flatten, p.2 ≤ 1 := by
  unfold State.cropBoxes
  rw [List.map_map]
  intro p hp
  obtain ⟨i, -, hp⟩ := mem_flatten_upto hp
  exact boxWords_kind _ _ _ _ _ _ p hp

section
variable (s : State) (f : Frame) (cs : Nat) (list : List ((Bool × Nat) × Box)) (boxes : List (List (Burst × Nat) × Nat × Nat × Nat))

/-- What a frame leaves as it passes crop-and-resize (R262, R275, R277). -/
theorem State.cropped_spec :
    (s.cropped f cs list boxes).adm.frames = s.adm.frames.map (fun g => if g.stream = f.stream ∧ g.seq = f.seq then
      { g with phase := .cropped, boxes := list.map (·.1) } else g) ∧
    (s.cropped f cs list boxes).ctx = s.ctx ∧ (s.cropped f cs list boxes).plc = s.plc ∧
    (s.cropped f cs list boxes).reg Reg.cruBoxCnt = s.reg Reg.cruBoxCnt + BitVec.ofNat 32 list.length ∧
    (s.cropped f cs list boxes).wires = ((((cropSent (boxes.map (·.1)).flatten).map
      (cropWord (BitVec.ofNat 2 (2 * b2n s.bank + b2n f.wide)))).map (s.unitLink 8 0)).foldl State.offer s).wires := by
  unfold State.cropped
  extract_lets u w
  obtain ⟨⟨fb, hu⟩, hsent⟩ : OnlyFab s u ∧ u.wires = _ := s.cropSends_spec _ (boxes.map (·.1)).flatten
  obtain ⟨⟨hadm, hctx⟩, hwires, hplc, hcnt⟩ : SameFrames u w ∧ w.wires = u.wires ∧ w.plc = u.plc ∧
      w.reg Reg.cruBoxCnt = u.reg Reg.cruBoxCnt + BitVec.ofNat 32 list.length := u.cropCounts_spec ..
  clear_value u w
  subst hu
  exact ⟨congrArg (fun a : Adm => a.frames.map _) hadm, hctx, hplc, hcnt, hwires.trans hsent⟩

theorem State.cropped_rows : ∀ r ∈ (s.cropped f cs list boxes).ppu.rows,
    ¬(r.unit = 8 ∧ r.stage = (stgProducers s.img.copy cs).headD 0 ∧ r.ordinal = f.ordinal.getD 0) :=
  fun r => State.dropRows_rows _ 8 _ _ r

end

/-- Settles O38: the words of CROP_COUNT boxes go out, then the aborts that come next, and the frame is passed on. -/
theorem cropSendsFixedWords : Obligations.CropSendsFixedWords := by
  intro s words ecc f cs hf hcs o ps whole count list
  have hx := exec_cropAndResize_eq hf hcs words ecc
  refine ⟨fun he hen hflt hwhole hwords hecc => ?_, fun hwhole => ?_⟩
  · have hruns : s.crops f cs = true := by
      rw [State.crops, show s.unitHas 8 ps (2 * b2n s.bank + b2n f.wide) (f.ordinal.getD 0) = true from hwhole]
      simp [he, hen, hflt]
    rw [hruns, onlyIf_true, if_neg (by simp [hwords, hecc])] at hx
    have hlen := length_cropBoxes_words s f cs
    have hkind := cropBoxes_words_kind s f cs
    obtain ⟨boxes, hboxes⟩ : ∃ boxes, boxes = s.cropBoxes f cs := ⟨_, rfl⟩
    rw [← hboxes] at hx hlen hkind
    obtain ⟨hframes, hctx, hplc, hcnt, hwires⟩ := s.cropped_spec f cs list boxes
    have hrows := s.cropped_rows f cs list boxes
    obtain ⟨hsent, fb, owed, hleft⟩ := (s.cropped f cs list boxes).sendCropOwed_spec
    have hlink : (s.cropped f cs list boxes).unitLink 8 0 = s.unitLink 8 0 := by
      funext w
      rw [State.unitLink, hplc, State.unitLink]
    rw [hlink, foldl_offer_wires _ hwires, ← List.foldl_append, ← List.map_append] at hsent
    obtain ⟨hlinks, hunsent⟩ := Prod.mk.inj hsent
    have hlist : list.length ≤ count := List.length_take_le ..
    refine ⟨_, hx, _, _, hlinks, hunsent, ?_, fun i hi => ?_, fun a => isAbort_of_mem_cropDue, hlist, ?_⟩
    · rw [List.length_map, length_cropSent, hlen]
    · rw [List.length_map, length_cropSent] at hi ⊢
      exact kind_cropSent_eq_frameEnd_iff _ hkind hi
    · rw [hleft]
      exact ⟨hcnt, hrows, hframes, hctx⟩
  · have hoff : s.crops f cs = false := by
      rw [State.crops, show s.unitHas 8 ps (2 * b2n s.bank + b2n f.wide) (f.ordinal.getD 0) = false from hwhole, Bool.and_false]
    rw [hx, hoff, onlyIf_false]

end Sys2Proof.Machine
end

section
/-! SUPPORT. Track association (R278 to R283, R455): what it stores for a frame, and which pairs and tracks it comes to. -/

namespace Sys2Proof.Machine

open Sys2Proof

/-! ## Refinement without a crop stage (R278) -/

theorem getD_map_upto {α : Type} (g : Nat → α) (d : α) {n t : Nat} (ht : t < n) : ((upto n).map g).getD t d = g t := by
  simp [upto, ht]

theorem Frame.refined_of_no_boxes {f : Frame} (hf : f.boxes = []) (words : List (BitVec 80)) (w h : Nat) :
    f.refined words w h = f.dets.map some := by
  unfold Frame.refined
  rw [hf]
  change (f.dets.zip (upto f.dets.length)).map (some ∘ Prod.fst) = _
  rw [← List.map_map, List.map_fst_zip (by simp [upto])]

/-! ## Pairs and matches (R281) -/

/-- The eligible pairs of the detections with the track of entry `t`. -/
def pairsAt (dets : List Det) (w h reach t : Nat) (x : Track) : List Pair :=
  if !x.live then []
  else
    let b := x.predict w h
    (dets.zip (upto dets.length)).filterMap (fun p =>
      let i := p.1.box.inter b
      if p.1.cls = x.cls ∧ 0 < i ∧ p.1.box.reaches b reach then some (Pair.mk p.2 t i (p.1.box.union b)) else none)

/-- The matches of a frame's detections with the tracks of its stream, as detection and entry. -/
def Frame.trackMatches (f : Frame) (dets : List Det) (ts : List Track) (w h : Nat) : List (Nat × Nat) :=
  matchPairs (sortBy pairBefore ((upto 512).map (fun t => pairsAt dets w h (f.thresholds.getD 2 0) t (ts.getD t Track.zero))).flatten) []

/-- The entry of a track after the matches (R282, R283). -/
def Frame.trackAfter (f : Frame) (dets : List Det) (m : List (Nat × Nat)) (w h keep : Nat) (rs : Nat → Option Nat) (t : Nat)
    (x : Track) : Track :=
  if !x.live then x
  else match m.find? (fun p => p.2 == t) with
    | some p =>
      let y := x.hit (dets.getD p.1 ⟨0, 0, 0, 0, 0, 0, 0, 0, 0, 0, 0⟩) f.seq
      { y with slot := f.link.getD y.slot }
    | none => x.miss w h (f.thresholds.getD 3 0) keep (rs t)

/-- The table of a stream after the matches, before tracks open. -/
def Frame.tableAfter (f : Frame) (dets : List Det) (ts : List Track) (w h keep : Nat) (rs : Nat → Option Nat) : List Track :=
  (upto 512).map (fun t => f.trackAfter dets (f.trackMatches dets ts w h) w h keep rs t (ts.getD t Track.zero))

section
variable {f : Frame} {dets : List Det} {ts : List Track} {w h keep : Nat} {rs : Nat → Option Nat} {ids : Word} {x : Track} {t : Nat}

theorem associate_eq : associate f dets ts ids w h keep rs =
    (dets.zip (upto dets.length)).foldl
      (fun a p => a.step (f.trackMatches dets ts w h) (f.thresholds.getD 4 0) f.seq (f.link.getD 0) p.1 p.2)
      ⟨f.tableAfter dets ts w h keep rs, [], ids, 0, 0⟩ := by
  unfold associate Frame.tableAfter Frame.trackMatches Frame.trackAfter pairsAt
  generalize upto 512 = l
  rfl

theorem Track.live_eq_false (hx : x.st = 0#8) : x.live = false := by simp [Track.live, hx]
theorem Track.live_eq_true (hx : x.st ≠ 0#8) : x.live = true := by simp [Track.live, hx]

theorem length_tableAfter : (f.tableAfter dets ts w h keep rs).length = 512 := by simp [Frame.tableAfter, upto]

theorem getD_tableAfter (ht : t < 512) : (f.tableAfter dets ts w h keep rs).getD t Track.zero =
    f.trackAfter dets (f.trackMatches dets ts w h) w h keep rs t (ts.getD t Track.zero) := getD_map_upto _ _ ht

theorem Assoc.length_step (a : Assoc) (m : List (Nat × Nat)) (openT : Nat) (seq slot : Word) (d : Det) (i : Nat) :
    (a.step m openT seq slot d i).ts.length = a.ts.length := by
  unfold Assoc.step
  split
  · rfl
  · split_ifs
    · rfl
    · split
      · rfl
      · exact List.length_set

theorem length_associate : (associate f dets ts ids w h keep rs).ts.length = 512 := by
  rw [associate_eq]
  refine List.foldlRecOn (motive := fun a : Assoc => a.ts.length = 512) _ _ ?_ fun a ha p _ => (a.length_step ..).trans ha
  dsimp only
  exact length_tableAfter

/-- A free entry makes no pair. -/
theorem pairsAt_free {reach : Nat} (hx : x.st = 0#8) : pairsAt dets w h reach t x = [] := by
  rw [pairsAt, Track.live_eq_false hx, Bool.not_false, if_pos rfl]

/-- Without an eligible pair nothing is matched. -/
theorem trackMatches_eq_nil (hts : ∀ t < 512, pairsAt dets w h (f.thresholds.getD 2 0) t (ts.getD t Track.zero) = []) :
    f.trackMatches dets ts w h = [] := by
  have hflat : ((upto 512).map (fun t => pairsAt dets w h (f.thresholds.getD 2 0) t (ts.getD t Track.zero))).flatten = [] := by
    rw [← List.flatMap_def, List.flatMap_eq_nil_iff]
    exact fun t ht => hts t (List.mem_range.mp ht)
  rw [Frame.trackMatches, hflat]
  rfl

theorem trackMatches_of_no_dets : f.trackMatches [] ts w h = [] := trackMatches_eq_nil fun t _ => by
  rw [pairsAt]
  split_ifs <;> rfl

theorem trackMatches_of_free (hts : ∀ k < 512, (ts.getD k Track.zero).st = 0#8) : f.trackMatches dets ts w h = [] :=
  trackMatches_eq_nil fun t ht => pairsAt_free (hts t ht)

theorem flatMap_eq_of_only {α β : Type} {l : List α} {g : α → List β} {a : α} (hl : l.Nodup) (ha : a ∈ l)
    (hg : ∀ b ∈ l, b ≠ a → g b = []) : l.flatMap g = g a := by
  obtain ⟨l₁, l₂, rfl⟩ := List.append_of_mem ha
  obtain ⟨hnot₁, hnot₂⟩ : a ∉ l₁ ∧ a ∉ l₂ := by simpa [not_or] using (List.nodup_middle.mp hl).notMem
  have hnil : ∀ l' : List α, (∀ b ∈ l', b ∈ l₁ ++ a :: l₂) → a ∉ l' → l'.flatMap g = [] := fun l' hsub hnot =>
    List.flatMap_eq_nil_iff.mpr fun b hb => hg b (hsub b hb) (fun he => hnot (he ▸ hb))
  rw [List.flatMap_append, List.flatMap_cons, hnil l₁ (by simp +contextual) hnot₁, hnil l₂ (by simp +contextual) hnot₂, List.nil_append,
    List.append_nil]

/-- One detection and one track that make an eligible pair are matched. -/
theorem trackMatches_of_pair {d : Det} (ht : t < 512) (hlive : (ts.getD t Track.zero).st ≠ 0#8)
    (hfree : ∀ k < 512, k ≠ t → (ts.getD k Track.zero).st = 0#8) (hcls : d.cls = (ts.getD t Track.zero).cls)
    (hinter : 0 < d.box.inter ((ts.getD t Track.zero).predict w h))
    (hreach : d.box.reaches ((ts.getD t Track.zero).predict w h) (f.thresholds.getD 2 0) = true) :
    f.trackMatches [d] ts w h = [(0, t)] := by
  have hpair : pairsAt [d] w h (f.thresholds.getD 2 0) t (ts.getD t Track.zero) = [⟨0, t,
      d.box.inter ((ts.getD t Track.zero).predict w h), d.box.union ((ts.getD t Track.zero).predict w h)⟩] := by
    rw [pairsAt, Track.live_eq_true hlive, Bool.not_true, if_neg (by decide)]
    exact List.filterMap_cons_some (if_pos ⟨hcls, hinter, hreach⟩)
  have hflat : (upto 512).flatMap (fun t => pairsAt [d] w h (f.thresholds.getD 2 0) t (ts.getD t Track.zero)) = _ :=
    (flatMap_eq_of_only List.nodup_range (List.mem_range.mpr ht)
      fun k hk hne => pairsAt_free (hfree k (List.mem_range.mp hk) hne)).trans hpair
  rw [Frame.trackMatches, ← List.flatMap_def, hflat]
  rfl

/-! ## The entries after the matches (R282) -/

theorem trackAfter_free {m : List (Nat × Nat)} (hx : x.st = 0#8) : f.trackAfter dets m w h keep rs t x = x := by
  rw [Frame.trackAfter, Track.live_eq_false hx, Bool.not_false, if_pos rfl]

/-- A track without a match and without a crop score is freed while tentative or past MAX_MISSES, else lost by one more frame. -/
theorem trackAfter_unmatched (hx : x.st ≠ 0#8) : f.trackAfter dets [] w h 0 rs t x =
    if x.st = 1#8 ∨ f.thresholds.getD 3 0 < x.misses.toNat + 1 then Track.zero else { x with st := 3, misses := x.misses + 1 } := by
  rw [Frame.trackAfter, Track.live_eq_true hx, Bool.not_true, if_neg (by decide)]
  change x.miss w h (f.thresholds.getD 3 0) 0 (rs t) = _
  rw [Track.miss, if_neg (by simp)]
  by_cases hst : x.st = 1#8
  · exact (if_pos hst).trans (if_pos (.inl hst)).symm
  · refine (if_neg hst).trans ?_
    exact if_congr (or_iff_right hst).symm rfl rfl

theorem trackAfter_matched {d : Det} (hx : x.st ≠ 0#8) : f.trackAfter [d] [(0, t)] w h keep rs t x =
    { x.hit d f.seq with slot := f.link.getD (x.hit d f.seq).slot } := by
  rw [Frame.trackAfter, Track.live_eq_true hx, Bool.not_true, if_neg (by decide), List.find?_cons_of_pos (by simp)]
  rfl

/-! ## One detection (R281 to R283) -/

theorem associate_no_dets : associate f [] ts ids w h keep rs = ⟨f.tableAfter [] ts w h keep rs, [], ids, 0, 0⟩ := by
  rw [associate_eq, List.zip_nil_left, List.foldl_nil]

theorem associate_matched {d : Det} (hm : f.trackMatches [d] ts w h = [(0, t)]) : associate f [d] ts ids w h keep rs =
    ⟨f.tableAfter [d] ts w h keep rs, [d.withTrack ((f.tableAfter [d] ts w h keep rs).getD t Track.zero) false], ids, 0, 0⟩ := by
  rw [associate_eq, hm]
  generalize f.tableAfter [d] ts w h keep rs = after
  rfl

/-- The lowest entry is the one a new track takes where it is free. -/
theorem openEntry_first (hlen : 0 < ts.length) (hfree : (ts.getD 0 Track.zero).st = 0#8) : openEntry ts = some 0 := by
  obtain ⟨n, hn⟩ := Nat.exists_eq_succ_of_ne_zero hlen.ne'
  have hfind : (upto ts.length).find? (fun i => !(ts.getD i Track.zero).live) = some 0 := by
    rw [hn, upto, List.range_succ_eq_map, List.find?_cons_of_pos (by rw [Track.live_eq_false hfree]; rfl)]
  unfold openEntry
  dsimp only
  rw [hfind]

/-- The track that a detection opens (R282, R283). -/
def Frame.opened (f : Frame) (d : Det) (id : Word) : Track :=
  { Track.zero with id := id, st := 1, cls := d.cls, score := d.score, lastSeq := f.seq, slot := f.link.getD 0,
                    x0 := d.x0, y0 := d.y0, x1 := d.x1, y1 := d.y1 }

theorem associate_opens {d : Det} (hfree : ∀ k < 512, (ts.getD k Track.zero).st = 0#8) (hscore : f.thresholds.getD 4 0 ≤ d.score.toNat) :
    associate f [d] ts ids w h keep rs = ⟨(f.tableAfter [d] ts w h keep rs).set 0 (f.opened d ids), [d.withTrack (f.opened d ids) true],
      trackIdAfter ids, 1, 0⟩ := by
  have hentry : openEntry (f.tableAfter [d] ts w h keep rs) = some 0 := by
    refine openEntry_first (by rw [length_tableAfter]; decide) ?_
    rw [getD_tableAfter (by decide), trackAfter_free (hfree 0 (by decide))]
    exact hfree 0 (by decide)
  rw [associate_eq, trackMatches_of_free hfree]
  generalize f.tableAfter [d] ts w h keep rs = after at hentry ⊢
  change Assoc.step ⟨after, [], ids, 0, 0⟩ [] _ _ _ d 0 = _
  unfold Assoc.step
  dsimp only [List.find?_nil]
  rw [if_neg (Nat.not_lt.mpr hscore), hentry]
  rfl

end

/-! ## What association stores -/

theorem times_keeps {α β : Type} {g : α → α} {p : α → β} (hg : ∀ a, p (g a) = p a) (n : Nat) (a : α) : p (times g n a) = p a := by
  induction n generalizing a with
  | zero => rfl
  | succ n ih => exact (ih (g a)).trans (hg a)

theorem State.reg_times_contained (block st n : Nat) {a : Nat} (ha : a ≠ Reg.telLogCnt) (s : State) :
    (times (fun u => u.contained block st) n s).reg a = if a = Reg.fltContainedCnt then s.reg a + BitVec.ofNat 32 n else s.reg a := by
  induction n generalizing s with
  | zero =>
    change s.reg a = _
    split_ifs
    · exact (BitVec.add_zero _).symm
    · rfl
  | succ n ih =>
    change (times _ n (s.contained block st)).reg a = _
    rw [ih, State.reg_contained _ _ _ ha]
    split_ifs
    · rw [Nat.add_comm n, BitVec.ofNat_add, BitVec.add_assoc]
    · rfl

/-- The entries of a stream's table as association reads them: those that hold an uncorrectable word are free (R455). -/
def State.trackList (s : State) (st : Nat) (bad : List (BitVec 9)) : List Track :=
  (upto 512).map (fun t => if bad.contains (BitVec.ofNat 9 t) then Track.zero else s.track st t)

/-- A frame's detections after refinement, with none for each that is removed (R278). -/
def State.refinedDets (s : State) (f : Frame) : List (Option Det) :=
  f.refined (s.refineWords f) (imgW s.img.copy f.wide) (imgH s.img.copy f.wide)

/-- The crop score from which a track is kept; 0 keeps none (R282). -/
def State.cropKeep (s : State) (f : Frame) : Nat :=
  match s.cropStage with
  | some cs => pay s.img.copy (stgParams s.img.copy cs f.wide + 0xC) 2
  | none => 0

/-- The crop score of a track's box, where the crop unit sent one. -/
def State.cropScore (s : State) (f : Frame) (t : Nat) : Option Nat :=
  ((upto f.boxes.length).find? (fun j => f.boxes.getD j (false, 0) == (true, t))).map (fun j => rscore ((s.refineWords f).getD j 0))

/-- What association comes to for a frame: with ASSOC_EN 0 it leaves the table as it is. -/
def State.association (s : State) (f : Frame) (bad : List (BitVec 9)) : Assoc :=
  if s.rbit Reg.ppuCtl 1 then
    associate f ((s.refinedDets f).filterMap id) (s.trackList f.stream bad) (s.sctx f.stream).nextTrack (imgW s.img.copy f.wide)
      (imgH s.img.copy f.wide) (s.cropKeep f) (s.cropScore f)
  else ⟨(upto 512).map (s.track f.stream), (s.refinedDets f).filterMap id, (s.sctx f.stream).nextTrack, 0, 0⟩

/-- The entries in use that association finds unreadable, each counted once (R455). -/
def State.hurtTracks (s : State) (f : Frame) (bad : List (BitVec 9)) : Nat :=
  if s.rbit Reg.ppuCtl 1 then (bad.eraseDups.filter (fun t => (s.track f.stream t.toNat).live)).length else 0

/-- A stream's table and track number as association leaves them (R254). -/
def State.storeTable (s : State) (st : Nat) (b : Assoc) : State :=
  let u := s.setSctx st { s.sctx st with nextTrack := b.nextId }
  let table := (b.ts.zip (upto 512)).foldl (fun m p => tset Track.zero m (512 * st + p.2) p.1) u.ctx.tracks
  { u with ctx := { u.ctx with tracks := table } }

/-- The counts that association leaves: removed detections, tracks opened, and detections that found no entry. -/
def State.countTracks (s : State) (dropped : Nat) (b : Assoc) : State :=
  let v := (s.count Reg.ppuRefineDropCnt dropped).count Reg.ppuTrackOpenCnt b.opened
  if b.full = 0 then v else (v.count Reg.ppuTrackFullCnt b.full).setBits Reg.ppuStat 2#32

/-- The result of association stored: the stream's table and track number, the counts, and the frame's end. -/
def State.associated (s : State) (f : Frame) (hurt dropped : Nat) (b : Assoc) : State :=
  (((times (fun u => u.contained 7 f.stream) hurt s).storeTable f.stream b).countTracks dropped b).mapFrame f (fun g => { g with
    phase := .ended, dets := b.dets, trackFull := b.full != 0, tracks := BitVec.ofNat 16 (b.ts.filter Track.live).length })

/-- The words of the crop stage that association needs are there, where the image has one. -/
def State.refineReady (s : State) (f : Frame) : Bool :=
  s.cropStage.all (fun cs => s.unitHas 7 cs (2 * b2n s.bank + b2n f.wide) (f.ordinal.getD 0))

theorem exec_trackAssociation_eq {s : State} {f : Frame}
    (hf : s.frameIn (fun p => if s.cropStage.isSome then p == .cropped else p == .suppressed) = some f) (words : Ecc)
    (bad : List (BitVec 9)) (ecc : Ecc) : exec (.trackAssociation words bad ecc) s =
      (let y := s.associated f (s.hurtTracks f bad) ((s.refinedDets f).filter (·.isNone)).length (s.association f bad)
       onlyIf (s.engineUp && s.blockEn 7 && !s.faulted && s.refineReady f) s (if words = .uncorrectable ∨ ecc = .uncorrectable
         then s.unitFault 7 f else (s.cropStage.map (fun cs => y.dropRows 7 cs (f.ordinal.getD 0))).getD y)) := by
  rw [exec_trackAssociation, execTrackAssociation, hf]
  rfl

/-- `u` is `s` with the result `b` of association stored for a frame: the frame has ended with its detections, its stream has the table
and the track number of `b`, and removed detections and unreadable entries are counted. -/
structure TracksStored (s : State) (f : Frame) (hurt dropped : Nat) (b : Assoc) (u : State) : Prop where
  frames : u.adm.frames = s.adm.frames.map (fun g => if g.stream = f.stream ∧ g.seq = f.seq then { g with
    phase := .ended, dets := b.dets, trackFull := b.full != 0, tracks := BitVec.ofNat 16 (b.ts.filter Track.live).length } else g)
  track : ∀ t < 512, u.track f.stream t = b.ts.getD t Track.zero
  others : ∀ k, k / 512 ≠ f.stream → tget Track.zero u.ctx.tracks k = tget Track.zero s.ctx.tracks k
  sctx : ∀ n, u.sctx n = if n = f.stream then { s.sctx f.stream with nextTrack := b.nextId } else s.sctx n
  dropped : u.reg Reg.ppuRefineDropCnt = s.reg Reg.ppuRefineDropCnt + BitVec.ofNat 32 dropped
  contained : u.reg Reg.fltContainedCnt = s.reg Reg.fltContainedCnt + BitVec.ofNat 32 hurt

/-- A table of 512 entries written over a stream's entries (R254). -/
theorem tget_storeTable {ts : List Track} (hlen : ts.length = 512) (st : Nat) (m : Tbl Track) (k : Nat) :
    tget Track.zero ((ts.zip (upto 512)).foldl (fun m p => tset Track.zero m (512 * st + p.2) p.1) m) k =
      if 512 * st ≤ k ∧ k < 512 * st + 512 then ts.getD (k - 512 * st) Track.zero else tget Track.zero m k := by
  have hzip : ts.zip (upto 512) = (upto 512).map (fun t => (ts.getD t Track.zero, t)) := by
    refine List.ext_getElem (by simp [hlen, upto]) fun i h1 h2 => ?_
    have hi : i < ts.length := by
      rw [List.length_zip] at h1
      omega
    simp [upto, hi]
  rw [hzip, List.foldl_map]
  exact tget_foldl_tset_run Track.zero (fun t => ts.getD t Track.zero) (512 * st) 512 m k

section
variable {s : State} {f : Frame} {hurt dropped : Nat} {b : Assoc}

theorem State.tracks_storeTable (hlen : b.ts.length = 512) (st k : Nat) : tget Track.zero (s.storeTable st b).ctx.tracks k =
    if 512 * st ≤ k ∧ k < 512 * st + 512 then b.ts.getD (k - 512 * st) Track.zero else tget Track.zero s.ctx.tracks k :=
  tget_storeTable hlen st s.ctx.tracks k

theorem State.sctx_storeTable (st n : Nat) : (s.storeTable st b).sctx n =
    if n = st then { s.sctx st with nextTrack := b.nextId } else s.sctx n := State.sctx_setSctx ..

theorem State.countTracks_sameFrames : SameFrames s (s.countTracks dropped b) := by
  unfold State.countTracks
  split_ifs
  · exact ⟨rfl, rfl⟩
  · exact ⟨rfl, rfl⟩

theorem State.reg_countTracks {a : Nat} (h1 : a ≠ Reg.ppuTrackFullCnt) (h2 : a ≠ Reg.ppuStat) (h3 : a ≠ Reg.ppuTrackOpenCnt) :
    (s.countTracks dropped b).reg a = (s.count Reg.ppuRefineDropCnt dropped).reg a := by
  unfold State.countTracks
  split_ifs
  · rw [State.reg_count, if_neg h3]
  · rw [State.reg_setBits, if_neg h2, State.reg_count, if_neg h1, State.reg_count, if_neg h3]

theorem State.associated_stored (hlen : b.ts.length = 512) : TracksStored s f hurt dropped b (s.associated f hurt dropped b) := by
  unfold State.associated
  have hadm0 : (times (fun u => u.contained 7 f.stream) hurt s).adm = s.adm :=
    times_keeps (g := fun u => u.contained 7 f.stream) (p := State.adm) (fun _ => rfl) hurt s
  have hctx0 : (times (fun u => u.contained 7 f.stream) hurt s).ctx = s.ctx :=
    times_keeps (g := fun u => u.contained 7 f.stream) (p := State.ctx) (fun _ => rfl) hurt s
  have hreg0 := fun a (ha : a ≠ Reg.telLogCnt) => State.reg_times_contained 7 f.stream hurt ha s
  generalize times (fun u => u.contained 7 f.stream) hurt s = u at hadm0 hctx0 hreg0
  obtain ⟨hadm, hctx⟩ := State.countTracks_sameFrames (s := u.storeTable f.stream b) (dropped := dropped) (b := b)
  have hreg : ∀ a, a ≠ Reg.ppuTrackFullCnt → a ≠ Reg.ppuStat → a ≠ Reg.ppuTrackOpenCnt →
      ((u.storeTable f.stream b).countTracks dropped b).reg a = (u.count Reg.ppuRefineDropCnt dropped).reg a :=
    fun a h1 h2 h3 => State.reg_countTracks h1 h2 h3
  generalize (u.storeTable f.stream b).countTracks dropped b = x at hadm hctx hreg
  have hkey : ∀ k, tget Track.zero x.ctx.tracks k = if 512 * f.stream ≤ k ∧ k < 512 * f.stream + 512
      then b.ts.getD (k - 512 * f.stream) Track.zero else tget Track.zero s.ctx.tracks k := fun k => by
    rw [hctx, State.tracks_storeTable hlen, hctx0]
  refine ⟨congrArg (fun a : Adm => a.frames.map _) (hadm.trans hadm0), fun t ht => ?_, fun k hk => ?_, fun n => ?_, ?_, ?_⟩
  · refine (hkey (512 * f.stream + t)).trans ?_
    rw [if_pos (by omega), Nat.add_sub_cancel_left]
  · exact (hkey k).trans (if_neg (by omega))
  · change tget StreamCtx.zero x.ctx.streams n = _
    rw [hctx]
    refine (State.sctx_storeTable (s := u) f.stream n).trans ?_
    simp only [State.sctx, hctx0]
  · refine (hreg _ (by decide) (by decide) (by decide)).trans ?_
    rw [State.reg_count, if_pos rfl, hreg0 _ (by decide), if_neg (by decide)]
  · refine (hreg _ (by decide) (by decide) (by decide)).trans ?_
    rw [State.reg_count, if_neg (by decide), hreg0 _ (by decide), if_pos rfl]

/-- Letting go of the crop stage's words changes nothing of it. -/
theorem TracksStored.dropRows {u : State} (h : TracksStored s f hurt dropped b u) (unit stage n : Nat) :
    TracksStored s f hurt dropped b (u.dropRows unit stage n) := ⟨h.frames, h.track, h.others, h.sctx, h.dropped, h.contained⟩

theorem length_association (bad : List (BitVec 9)) : (s.association f bad).ts.length = 512 := by
  unfold State.association
  split_ifs
  · exact length_associate
  · rw [List.length_map, upto, List.length_range]

variable {words ecc : Ecc}

/-- Once it runs, and no word is unreadable, association stores its result. -/
theorem trackAssociation_stores
    (hf : s.frameIn (fun p => if s.cropStage.isSome then p == .cropped else p == .suppressed) = some f) (he : s.engineUp = true)
    (hen : s.blockEn 7 = true) (hflt : s.faulted = false) (hwords : words ≠ .uncorrectable) (hecc : ecc ≠ .uncorrectable)
    (hready : s.refineReady f = true) (bad : List (BitVec 9)) : Completes (.trackAssociation words bad ecc) s
      (TracksStored s f (s.hurtTracks f bad) ((s.refinedDets f).filter (·.isNone)).length (s.association f bad)) := by
  have hruns : (s.engineUp && s.blockEn 7 && !s.faulted && s.refineReady f) = true := by simp [he, hen, hflt, hready]
  have hx := exec_trackAssociation_eq hf words bad ecc
  dsimp only at hx
  rw [hruns, onlyIf_true, if_neg (by simp [hwords, hecc])] at hx
  have hstored := State.associated_stored (s := s) (f := f) (hurt := s.hurtTracks f bad)
    (dropped := ((s.refinedDets f).filter (·.isNone)).length) (length_association (s := s) (f := f) bad)
  cases hcs : s.cropStage with
  | none =>
    rw [hcs] at hx
    exact ⟨_, hx, hstored⟩
  | some cs =>
    rw [hcs] at hx
    exact ⟨_, hx, hstored.dropRows ..⟩

end

/-! ## What is stored in an image without a crop stage, and with ASSOC_EN 0 (R278, R280 to R283, R289) -/

/-- The frame has ended with these detections and room in its track table, and no other frame has changed. -/
def EndedWith (s : State) (f : Frame) (u : State) (dets : List Det) : Prop :=
  ∃ n, u.adm.frames = s.adm.frames.map (fun g =>
    if g.stream = f.stream ∧ g.seq = f.seq then { g with phase := .ended, dets := dets, trackFull := false, tracks := n } else g)

theorem TracksStored.endedWith {s u : State} {f : Frame} {hurt dropped : Nat} {b : Assoc} (h : TracksStored s f hurt dropped b u)
    (hfull : b.full = 0) : EndedWith s f u b.dets := by
  have hframes := h.frames
  rw [hfull] at hframes
  exact ⟨_, hframes⟩

section
variable {s : State} {f : Frame} {bad : List (BitVec 9)} {b : BitVec 9} {words ecc : Ecc} {d : Det} {t : Nat}

theorem State.association_off (hoff : s.rbit Reg.ppuCtl 1 = false) : s.association f bad =
    ⟨(upto 512).map (s.track f.stream), (s.refinedDets f).filterMap id, (s.sctx f.stream).nextTrack, 0, 0⟩ :=
  if_neg (by simp [hoff])

/-- With ASSOC_EN 0 the table of every stream, and every stream's context, stand as they were (R289). -/
theorem TracksStored.off {u : State} {hurt dropped : Nat} (hoff : s.rbit Reg.ppuCtl 1 = false)
    (h : TracksStored s f hurt dropped (s.association f bad) u) :
    (∀ k, tget Track.zero u.ctx.tracks k = tget Track.zero s.ctx.tracks k) ∧ ∀ n, u.sctx n = s.sctx n := by
  rw [State.association_off hoff] at h
  refine ⟨fun k => ?_, fun n => ?_⟩
  · by_cases hk : k / 512 = f.stream
    · have hrow : 512 * f.stream + k % 512 = k := by omega
      have hlt : k % 512 < 512 := Nat.mod_lt k (by decide)
      have htrack := h.track (k % 512) hlt
      dsimp only at htrack
      rwa [getD_map_upto _ _ hlt, State.track, State.track, hrow] at htrack
    · exact h.others k hk
  · rw [h.sctx]
    split_ifs with hn
    · rw [hn]
    · rfl

theorem getD_trackList (ht : t < 512) : (s.trackList f.stream bad).getD t Track.zero =
    if bad.contains (BitVec.ofNat 9 t) then Track.zero else s.track f.stream t := getD_map_upto _ _ ht

theorem getD_trackList_nil (ht : t < 512) : (s.trackList f.stream []).getD t Track.zero = s.track f.stream t :=
  (getD_trackList ht).trans (if_neg (by simp))

theorem hurtTracks_one (hon : s.rbit Reg.ppuCtl 1 = true) (hb : (s.track f.stream b.toNat).st ≠ 0#8) : s.hurtTracks f [b] = 1 := by
  have hlive : [b].filter (fun t => (s.track f.stream t.toNat).live) = [b] := List.filter_cons_of_pos (Track.live_eq_true hb)
  rw [State.hurtTracks, if_pos hon]
  exact congrArg List.length hlive

/-- What association comes to for a frame without boxes of a crop stage, with ASSOC_EN 1. -/
def State.plainAssociation (s : State) (f : Frame) (bad : List (BitVec 9)) : Assoc :=
  associate f f.dets (s.trackList f.stream bad) (s.sctx f.stream).nextTrack (imgW s.img.copy f.wide) (imgH s.img.copy f.wide) 0
    (s.cropScore f)

theorem State.association_plain (hcs : s.cropStage = none) (hboxes : f.boxes = []) (hon : s.rbit Reg.ppuCtl 1 = true) :
    s.association f bad = s.plainAssociation f bad := by
  have hdets : (s.refinedDets f).filterMap id = f.dets := by
    rw [State.refinedDets, Frame.refined_of_no_boxes hboxes, List.filterMap_map, Function.id_comp, List.filterMap_some]
  have hkeep : s.cropKeep f = 0 := by
    unfold State.cropKeep
    rw [hcs]
  rw [State.association, if_pos hon, hdets, hkeep, State.plainAssociation]

/-- In an image without a crop stage association runs at once, and stores what the frame's detections come to as they are (R278). -/
theorem trackAssociation_plain
    (hf : s.frameIn (fun p => if s.cropStage.isSome then p == .cropped else p == .suppressed) = some f) (he : s.engineUp = true)
    (hen : s.blockEn 7 = true) (hflt : s.faulted = false) (hwords : words ≠ .uncorrectable) (hecc : ecc ≠ .uncorrectable)
    (hplain : s.cropStage = none ∧ f.boxes = []) (hon : s.rbit Reg.ppuCtl 1 = true) (bad : List (BitVec 9)) :
    ∃ u dropped, exec (.trackAssociation words bad ecc) s = .next u ∧
      TracksStored s f (s.hurtTracks f bad) dropped (s.plainAssociation f bad) u := by
  have hready : s.refineReady f = true := by rw [State.refineReady, hplain.1, Option.all_none]
  obtain ⟨u, hx, h⟩ := trackAssociation_stores hf he hen hflt hwords hecc hready bad
  rw [State.association_plain hplain.1 hplain.2 hon] at h
  exact ⟨u, _, hx, h⟩

variable {u : State} {hurt dropped : Nat}

/-- The entry of a table that association has gone over, before tracks open. -/
theorem plainTable_getD (ht : t < 512) (dets : List Det) (x : Track) (hx : (s.trackList f.stream bad).getD t Track.zero = x) :
    (f.tableAfter dets (s.trackList f.stream bad) (imgW s.img.copy f.wide) (imgH s.img.copy f.wide) 0 (s.cropScore f)).getD t Track.zero =
      f.trackAfter dets (f.trackMatches dets (s.trackList f.stream bad) (imgW s.img.copy f.wide) (imgH s.img.copy f.wide))
        (imgW s.img.copy f.wide) (imgH s.img.copy f.wide) 0 (s.cropScore f) t x := by
  rw [getD_tableAfter ht, hx]

/-- An unreadable entry is free (R455). -/
theorem TracksStored.unreadable (hdets : f.dets = []) (h : TracksStored s f hurt dropped (s.plainAssociation f [b]) u) :
    u.track f.stream b.toNat = Track.zero := by
  have hread : (s.trackList f.stream [b]).getD b.toNat Track.zero = Track.zero := (getD_trackList b.isLt).trans (if_pos (by simp))
  rw [State.plainAssociation, hdets, associate_no_dets] at h
  rw [h.track _ b.isLt, plainTable_getD b.isLt [] _ hread]
  exact trackAfter_free rfl

/-- A frame without a detection (R282). -/
theorem TracksStored.noDetection (hdets : f.dets = []) (h : TracksStored s f hurt dropped (s.plainAssociation f []) u) :
    EndedWith s f u [] ∧
    (∀ t, t < 512 → u.track f.stream t =
      (if (s.track f.stream t).st = 0#8 then s.track f.stream t
       else if (s.track f.stream t).st = 1#8 ∨ f.thresholds.getD 3 0 < (s.track f.stream t).misses.toNat + 1 then Track.zero
       else { s.track f.stream t with st := 3, misses := (s.track f.stream t).misses + 1 })) ∧
    (∀ k, k / 512 ≠ f.stream → tget Track.zero u.ctx.tracks k = tget Track.zero s.ctx.tracks k) ∧
    (u.sctx f.stream).nextTrack = (s.sctx f.stream).nextTrack := by
  rw [State.plainAssociation, hdets, associate_no_dets] at h
  refine ⟨h.endedWith rfl, fun t ht => ?_, h.others, ?_⟩
  · rw [h.track t ht, plainTable_getD ht [] _ (getD_trackList_nil ht), trackMatches_of_no_dets]
    split_ifs with hfree hgone
    · exact trackAfter_free hfree
    · exact (trackAfter_unmatched hfree).trans (if_pos hgone)
    · exact (trackAfter_unmatched hfree).trans (if_neg hgone)
  · rw [h.sctx, if_pos rfl]

/-- A detection that makes an eligible pair with the only track (R281 to R283). -/
theorem TracksStored.matched (hdets : f.dets = [d]) (h : TracksStored s f hurt dropped (s.plainAssociation f []) u) (ht : t < 512)
    (hlive : (s.track f.stream t).st ≠ 0#8) (hfree : ∀ k, k < 512 → k ≠ t → (s.track f.stream k).st = 0#8)
    (hcls : d.cls = (s.track f.stream t).cls)
    (hinter : 0 < d.box.inter ((s.track f.stream t).predict (imgW s.img.copy f.wide) (imgH s.img.copy f.wide)))
    (hreach : d.box.reaches ((s.track f.stream t).predict (imgW s.img.copy f.wide) (imgH s.img.copy f.wide))
      (f.thresholds.getD 2 0) = true) :
    u.track f.stream t = { (s.track f.stream t).hit d f.seq with slot := f.link.getD ((s.track f.stream t).hit d f.seq).slot } ∧
    EndedWith s f u [d.withTrack (u.track f.stream t) false] ∧ (u.sctx f.stream).nextTrack = (s.sctx f.stream).nextTrack := by
  have hread := getD_trackList_nil (s := s) (f := f) ht
  rw [← hread] at hlive hcls hinter hreach
  have hm := trackMatches_of_pair ht hlive (fun k hk hne => (congrArg Track.st (getD_trackList_nil hk)).trans (hfree k hk hne)) hcls
    hinter hreach
  rw [hread] at hlive
  rw [State.plainAssociation, hdets, associate_matched hm] at h
  have htrack := h.track t ht
  have hended := h.endedWith rfl
  dsimp only at htrack hended
  refine ⟨?_, ?_, ?_⟩
  · rw [htrack, plainTable_getD ht [d] _ hread, hm]
    exact trackAfter_matched hlive
  · rwa [htrack]
  · rw [h.sctx, if_pos rfl]

/-- A detection that opens the lowest entry of an empty table (R254, R282, R283). -/
theorem TracksStored.opened (hdets : f.dets = [d]) (h : TracksStored s f hurt dropped (s.plainAssociation f []) u)
    (hfree : ∀ k, k < 512 → (s.track f.stream k).st = 0#8) (hscore : f.thresholds.getD 4 0 ≤ d.score.toNat) :
    u.track f.stream 0 = f.opened d (s.sctx f.stream).nextTrack ∧ EndedWith s f u [d.withTrack (u.track f.stream 0) true] ∧
    (u.sctx f.stream).nextTrack = trackIdAfter (s.sctx f.stream).nextTrack := by
  have hempty : ∀ k < 512, ((s.trackList f.stream []).getD k Track.zero).st = 0#8 :=
    fun k hk => (congrArg Track.st (getD_trackList_nil hk)).trans (hfree k hk)
  rw [State.plainAssociation, hdets, associate_opens hempty hscore] at h
  have htrack : u.track f.stream 0 = f.opened d (s.sctx f.stream).nextTrack := by
    rw [h.track 0 (by decide), List.getD_eq_getElem?_getD, List.getElem?_set_self (by rw [length_tableAfter]; decide)]
    rfl
  refine ⟨htrack, ?_, ?_⟩
  · rw [htrack]
    exact h.endedWith rfl
  · rw [h.sctx, if_pos rfl]

end

/-- Settles O39: association waits for the crop stage's words, and stores what each kind of frame comes to. -/
theorem tracksFollowDetections : Obligations.TracksFollowDetections := by
  intro s words ecc f hf _ he hen hflt hwords hecc st w h ended ref ready plain
  refine ⟨fun hready bad => ?_, fun hoff hready bad => ?_, fun b hplain hon hdets hb => ?_, fun hplain hon hdets => ?_,
    fun d t hplain hon hdets ht hlive hfree hcls hinter hreach => ?_, fun d hplain hon hdets hfree hscore => ?_⟩
  · refine (exec_trackAssociation_eq hf words bad ecc).trans (onlyIf_of_false ?_ _ _)
    rw [show s.refineReady f = false from hready, Bool.and_false]
  · obtain ⟨u, hx, hu⟩ := trackAssociation_stores hf he hen hflt hwords hecc hready bad
    have hfull : (s.association f bad).full = 0 := by rw [State.association_off hoff]
    have hended := hu.endedWith hfull
    rw [State.association_off hoff] at hended
    exact ⟨u, hx, hended, hu.dropped, hu.off hoff⟩
  · obtain ⟨u, _, hx, hu⟩ := trackAssociation_plain hf he hen hflt hwords hecc hplain hon [b]
    refine ⟨u, hx, hu.unreadable hdets, hu.contained.trans ?_⟩
    rw [hurtTracks_one hon hb]
  · obtain ⟨u, _, hx, hu⟩ := trackAssociation_plain hf he hen hflt hwords hecc hplain hon []
    exact ⟨u, hx, hu.noDetection hdets⟩
  · obtain ⟨u, _, hx, hu⟩ := trackAssociation_plain hf he hen hflt hwords hecc hplain hon []
    exact ⟨u, hx, hu.matched hdets ht hlive hfree hcls hinter hreach⟩
  · obtain ⟨u, _, hx, hu⟩ := trackAssociation_plain hf he hen hflt hwords hecc hplain hon []
    exact ⟨u, hx, hu.opened hdets hfree hscore⟩

end Sys2Proof.Machine
end
